-- ==== Sys2Proof/Word.lean ====
section
/-! DEFINITION. The words, numbers and index types of the AQ-C8 cluster model. -/

namespace Sys2Proof

/-- One byte of storage (R39: little-endian, least significant byte at the lowest address). -/
abbrev Byte := BitVec 8
/-- A 32-bit value: a lane, an accumulator, a husked value. -/
abbrev Word32 := BitVec 32
/-- A 64-bit word: a register of a page (R487), an aligned memory word (R304). -/
abbrev Dword := BitVec 64
/-- A 48-bit device-local address or SEQ address register (R29). -/
abbrev Addr := BitVec 48
/-- An index of the control store (R201: 4,096 words). -/
abbrev CsIndex := BitVec 12

/-- A core of the cluster, 0 to 7 (R12). -/
abbrev CoreId := Fin 8
/-- A mesh port, 0 north, 1 east, 2 south, 3 west (R12). -/
abbrev PortId := Fin 4
/-- A stream unit S0 to S3 of a core (R265). -/
abbrev UnitId := Fin 4
/-- An accumulator bank of a matrix engine (R85). -/
abbrev BankId := Fin 2
/-- A landing port of a core (R329). -/
abbrev LandId := Fin 8
/-- A channel of a core (R329). -/
abbrev ChanId := Fin 64
/-- A transaction slot (R351). -/
abbrev SlotId := Fin 64
/-- A reduction group slot (R382). -/
abbrev GroupId := Fin 64
/-- A clock island in the numbering of SNAP_CYC (R513): 0 to 7 the cores, 8 memory, 9 CCU, 10 to 13 the ports. -/
abbrev IslandId := Fin 14

/-- Sparse data by number: key and value pairs, keys strictly rising, no entry equal to what an unlisted key reads as. -/
abbrev Tab (α : Type) := List (Nat × α)

end Sys2Proof
end

