-- ==== Sys2Proof/Syntax.lean ====
section
/-! DEFINITION. The commands of the cluster: one constructor per row of spec/opcode_table.json, with the operands
that name the core, port, unit or item concerned and the data that comes from outside the cluster (a reply, a packet,
a frame, a written value). -/

namespace Sys2Proof

/-- What a target beyond the cluster answers to a request (R302, R426, R440): read data or a plain acknowledgement
(`data`, empty for a write), or an ERR code. A request whose target lies inside the cluster is answered from the
cluster's own state and ignores this operand. -/
inductive Reply where
  | data (bytes : List Byte)
  | error (code : Byte)
  deriving DecidableEq, Repr, Inhabited

/-- A mesh packet (R424 to R426). `sub` is header bytes 22 and 23, `spec` bytes 24 to 29, `hchk` bytes 30 and 31,
`crc` the last four bytes of the last flit. -/
structure Packet where
  type    : BitVec 4
  tc      : BitVec 2
  sr      : Bool
  yx      : Bool
  mem     : Bool
  hops    : BitVec 6
  rsv     : BitVec 5
  seq     : BitVec 16
  tag     : BitVec 11
  rsv2    : BitVec 5
  dst     : BitVec 32
  src     : BitVec 32
  addr    : Addr
  sub     : BitVec 16
  spec    : BitVec 48
  hchk    : BitVec 16
  payload : List Byte
  crc     : BitVec 32
  deriving DecidableEq, Repr, Inhabited

/-- A message or PAD record on its way to a landing port (R335, R336, R340). `pos` is the ring offset in 64 B units
(sub-ring offset plus position), `bind` the sender's binding number (R333), `ch` the sender's channel and `rch` the
number under which the receiver counts it. -/
structure Msg where
  ch      : BitVec 6
  rch     : BitVec 6
  port    : BitVec 3
  epoch   : Byte
  number  : Byte
  pos     : Nat
  units   : Nat
  pad     : Bool
  bind    : Nat
  payload : List Byte
  deriving DecidableEq, Repr, Inhabited

/-- Where a channel message comes from: the head of the core-to-core link from a core of the cluster, or the mesh
(`src` is the SRC word of its packets). -/
inductive MsgArrive where
  | link (sender : CoreId)
  | mesh (src : BitVec 32) (m : Msg)
  deriving DecidableEq, Repr, Inhabited

/-- Where an acknowledgement comes from: a core of the cluster, or the mesh, with the channel, the message number and
the STALE mark (R341, R342, R426). -/
inductive AckArrive where
  | link (sender : CoreId)
  | mesh (ch : BitVec 6) (number : Byte) (stale : Bool)
  deriving DecidableEq, Repr, Inhabited

/-- Where returned credits come from (R333, R338). -/
inductive CreditArrive where
  | link (sender : CoreId)
  | mesh (ch : BitVec 6) (bind : Nat) (units : Nat)
  deriving DecidableEq, Repr, Inhabited

/-- Who makes an inbound access to a CSP (R322, R326 SRC). -/
inductive Inbound where
  | ownCore
  | otherCore (c : CoreId)
  | port (ownCluster : Bool)
  | privileged
  deriving DecidableEq, Repr, Inhabited

/-- What a stored-bit upset hits (R452, R456): bit `bit` of a code word of a macro group, of its spare word, or of a
parity-protected 32-bit value. -/
inductive UpsetTarget where
  | word (group : BitVec 7) (index : BitVec 17) (bit : Fin 80)
  | spare (group : BitVec 7) (entry : Fin 8) (bit : Fin 80)
  | acc (c : CoreId) (bank : BankId) (i : BitVec 12) (bit : Fin 32)
  | ftq (c : CoreId) (slot : Fin 4) (i : BitVec 12) (bit : Fin 32)
  | scale (c : CoreId) (entry : Fin 2) (i : BitVec 7) (bit : Fin 32)
  | rss (c : CoreId) (row : BitVec 8) (v : Fin 4) (bit : Fin 32)
  deriving DecidableEq, Repr, Inhabited

/-- Which privileged unit's explicit copy (R318). -/
inductive CopyUnit where
  | mirror | txuLog | ecmLog
  deriving DecidableEq, Repr, Inhabited

/-- Which cache's command (R325, R327). -/
inductive CacheCmd where
  | cch (c : CoreId) | csc
  deriving DecidableEq, Repr, Inhabited

/-- The eight husked words of a LEAD or TAIL record (R394). -/
abbrev RedRecord := Vector Dword 8

/-- The commands: one constructor per row of the table of operations and events. -/
inductive Instr where
  -- dispatch of tasks
  | taskPollExpiry (c : CoreId)
  | claim (c : CoreId)
  | taskGrant (c : CoreId)
  | descriptorReceived (c : CoreId)
  | imageLoadDone (c : CoreId)
  | endReport (c : CoreId)
  -- issue of control words
  | headWordIssue (c : CoreId)
  | immediateTableWord (c : CoreId)
  | agAddi (c : CoreId)
  | agAdd (c : CoreId)
  | agSub (c : CoreId)
  | agShl (c : CoreId)
  | agShr (c : CoreId)
  | agAnd (c : CoreId)
  | seti (c : CoreId)
  | mov (c : CoreId)
  | cmp (c : CoreId)
  | agMin (c : CoreId)
  | agMax (c : CoreId)
  | lda (c : CoreId)
  | ldaWrite (c : CoreId)
  | sta (c : CoreId)
  | staMade (c : CoreId)
  | loop (c : CoreId)
  | endl (c : CoreId)
  | br (c : CoreId)
  | brp (c : CoreId)
  | call (c : CoreId)
  | ret (c : CoreId)
  | brk (c : CoreId)
  | layer (c : CoreId)
  | layerBarrierComplete (c : CoreId)
  | tend (c : CoreId)
  | halt (c : CoreId)
  | taskEnd (c : CoreId)
  | brkHit (c : CoreId)
  | watchdogExpiry (c : CoreId)
  | waitTmoExpiry (c : CoreId)
  | abort (c : CoreId)
  | abortEnd (c : CoreId)
  | abortDrainTmo (c : CoreId)
  -- flags and signals
  | signalRelease (c : CoreId)
  | cfSignal (c : CoreId)
  | cfTakeRequest (c : CoreId)
  | takeReply (c : CoreId)
  | cfShadowUpdate (c : CoreId)
  -- matrix engine
  | mma (c : CoreId)
  | mmac (c : CoreId)
  | hrld (c : CoreId)
  | hrmm (c : CoreId)
  | shape (c : CoreId)
  | shapeDone (c : CoreId)
  | drain (c : CoreId)
  | ascl (c : CoreId)
  | mode (c : CoreId)
  | passStart (c : CoreId)
  | bankDrainComplete (c : CoreId)
  | abftMissReport (c : CoreId)
  | parityAbortReport (c : CoreId)
  | mxeHoldTmo (c : CoreId)
  | mxeCfgTmo (c : CoreId)
  -- tile loads and stores
  | tld (c : CoreId)
  | tldRowReturn (c : CoreId) (op : Fin 2) (row : Byte) (r : Reply)
  | tldRowTmo (c : CoreId) (op : Fin 2) (row : Byte)
  | tst (c : CoreId)
  | tstRowAccept (c : CoreId) (row : Byte) (r : Reply)
  | tcfg (c : CoreId)
  | tinv (c : CoreId)
  | lsHoldTmo (c : CoreId)
  | tluCfgTmo (c : CoreId)
  -- vector engine
  | vrun (c : CoreId)
  | vred (c : CoreId)
  | vstat (c : CoreId)
  | vclrClear (c : CoreId)
  | vclrLoadc (c : CoreId)
  | vclrSetk (c : CoreId)
  | vclrLoadp (c : CoreId)
  | ftqTileSelect (c : CoreId)
  | vxComplete (c : CoreId)
  | vxeHoldTmo (c : CoreId)
  | vxeCfgTmo (c : CoreId)
  -- stream units
  | stSub (c : CoreId) (u : UnitId)
  | ldpg (c : CoreId) (u : UnitId)
  | descriptorStart (c : CoreId) (u : UnitId)
  | tbufGrant (c : CoreId)
  | mergeTimeout (c : CoreId) (u : UnitId)
  | nlStarve (c : CoreId) (u : UnitId)
  | streamReply (c : CoreId) (u : UnitId) (req : Nat) (r : Reply)
  | descriptorComplete (c : CoreId) (u : UnitId)
  | streamElementTmo (c : CoreId) (u : UnitId) (req : Nat)
  -- cache operations
  | cfl (c : CoreId)
  | civ (c : CoreId)
  | fence (c : CoreId)
  | cacheOpDone (c : CoreId) (r : Reply)
  | cchOpTmo (c : CoreId)
  | wprCfgTmo (c : CoreId)
  | cspInbound (c : CoreId) (who : Inbound) (write : Bool) (off : BitVec 19) (bytes : List Byte)
  -- channels
  | send (c : CoreId)
  | bind (c : CoreId)
  | unbind (c : CoreId)
  | port (c : CoreId)
  | epochSpacingDone (c : CoreId) (p : LandId)
  | crel (c : CoreId)
  | disarm (c : CoreId)
  | msgArrival (c : CoreId) (a : MsgArrive)
  | landingDone (c : CoreId) (p : LandId)
  | msgCut (c : CoreId) (sender : CoreId)
  | cack (c : CoreId) (a : AckArrive)
  | creditReturn (c : CoreId) (a : CreditArrive)
  | chCreditTmo (c : CoreId)
  | chAckTmo (c : CoreId) (ch : ChanId)
  | chnHoldTmo (c : CoreId)
  -- transactions
  | txb (c : CoreId)
  | txbSlotTmo (c : CoreId)
  | txStore (c : CoreId) (row : Byte)
  | txOverwrite (line : BitVec 41)
  | txAged (slot : SlotId)
  | txc (c : CoreId)
  | txa (c : CoreId)
  | committingLineAck (line : BitVec 41) (r : Reply)
  | durableLinesAcked (slot : SlotId)
  | commitWordAck (slot : SlotId) (r : Reply)
  | durTmoExpiry (slot : SlotId)
  | txCmdAbort (handle : BitVec 12)
  | txuLogCopy
  -- eviction
  | evict
  | evictAck
  | evictFlushDone (ext : List (Nat × Reply))
  | ckptWritesAcked (r : Reply)
  | ckptCommitAck (r : Reply)
  | evxTmoExpiry
  | restore (image : Reply)
  | restoreDone (r : Reply)
  -- gradient reduction
  | redPost (p : PortId) (record : Vector Dword 8)
  | instanceOpen (g : GroupId)
  | reqArrival (p : PortId) (lead : RedRecord)
  | leadArrival (p : PortId) (lead : RedRecord)
  | contributionComplete (g : GroupId) (lanes : List Byte) (tail : RedRecord)
  | pairDeadline (g : GroupId)
  | xferTmoExpiry (g : GroupId)
  | resultArrival (p : PortId) (lead : RedRecord) (lanes : List Byte) (tail : RedRecord)
  | resultTmo (g : GroupId)
  | deliveryDone (g : GroupId)
  | groupEnable (p : PortId) (g : GroupId) (value : Dword)
  | groupDisable (p : PortId) (g : GroupId) (value : Dword)
  -- packets and links
  | packetRoute (p : PortId) (pkt : Packet)
  | rd (pkt : Packet)
  | wr (pkt : Packet)
  | rsp (pkt : Packet)
  | ack (pkt : Packet)
  | err (pkt : Packet)
  | mgmt (pkt : Packet)
  | registerWrite (page : Byte) (off : BitVec 12) (value : Dword)
  | shellReadTmo (page : Byte)
  | registerWriteTmo (page : Byte)
  | sidebandRequest (frame : List Byte)
  | lcfReceive (p : PortId) (flit : List Byte)
  | lcfSend (p : PortId)
  | linkReplayTmo (p : PortId)
  | routeReplace (p : PortId)
  | holdTmoDrop (p : PortId) (tc : BitVec 2)
  | helloSend (p : PortId)
  | hello (p : PortId) (words : Vector Dword 4)
  | helloTmo (p : PortId)
  | linkRetrain (p : PortId)
  | coordWrite (value : Dword)
  -- face bond
  | bondBeat (group : Byte) (tag : BitVec 11) (first : List (BitVec 80)) (second : List (BitVec 80))
  | bondLaneRetire (group : Byte) (lane : BitVec 10)
  | bondGroupReturn (group : Byte)
  | bondGroupRetire (group : Byte)
  | tagReclaim (tag : BitVec 11)
  -- error control
  | ceReport
  | ueReport
  | remapFill (group : BitVec 7) (index : BitVec 17) (byUe : Bool)
  | remapFillDone
  | remapRelease (value : Dword)
  | remapHostFill (value : Dword)
  | ecmTmoExpiry
  | scrubRead (who : Fin 9)
  | scrubLate (who : Fin 9)
  | flipArm
  | flipDisarm
  | flipApply
  | ecmLogCopy
  | heartbeatToken (island : Fin 13)
  | heartbeatReceive (island : Fin 13)
  | heartbeatMiss (island : Fin 13)
  | coreFence (c : CoreId) (reason : BitVec 4)
  | selftestDone (c : CoreId) (pass : Bool)
  | coreFenceWrite (value : Dword)
  -- register pages
  | seqPause (c : CoreId) (v : Bool)
  | enginePause (c : CoreId) (block : Fin 8) (v : Bool)
  | pauseReached (c : CoreId) (block : Fin 8)
  | srst (page : Byte)
  | csCmdWrite (c : CoreId) (index : CsIndex)
  | csCmdRead (c : CoreId) (index : CsIndex)
  | tcfgPageWrite (c : CoreId) (t : Fin 16) (value : Dword)
  | shapePageWrite (c : CoreId) (value : Dword)
  | chtPageWrite (c : CoreId) (off : BitVec 12) (value : Dword)
  | pgmPageWrite (c : CoreId) (p : Fin 16) (k : Fin 16) (value : Dword)
  | flagSet (c : CoreId) (value : Dword)
  | flagClr (c : CoreId) (value : Dword)
  | cntWrite (c : CoreId) (n : Fin 16) (value : Dword)
  | cthWrite (c : CoreId) (n : Fin 16) (value : Dword)
  | cfSet (value : Dword)
  | cfClr (value : Dword)
  | cfBarWrite (n : Fin 32) (value : Dword)
  | mirrorCopy
  | copyDone (u : CopyUnit)
  | cchInvall (c : CoreId)
  | cchFlushall (c : CoreId)
  | cscInvall
  | cacheCmdDone (w : CacheCmd)
  | bondCmdRetireLane (value : Dword)
  | bondCmdRetireGroup (value : Dword)
  -- debug
  | dbgStep (value : Dword)
  | snap
  | pmfreeze (v : Bool)
  | pmcntClr (page : Byte) (n : Fin 8)
  -- power, reset, start-up
  | pwrReqRetain (c : CoreId)
  | pwrReqOff (c : CoreId)
  | pwrReqOn (c : CoreId)
  | freqChange (c : CoreId) (code : BitVec 4)
  | clReqSleep
  | clReqOn
  | clReqOff
  | rstCold
  | rstWarm
  | cmMbistDone (fails : List (Nat × Nat))
  | bondCheckDone (fails : List Nat) (clocks : BitVec 4)
  | sproutHelloTmo
  | ready
  -- wrapper
  | wsBypass
  | wsExtest
  | wsIntest
  | wsScan
  | wsMbist
  | wsBond
  | wsFuse
  -- completions and spontaneous events
  | passEnd (c : CoreId)
  | hrldDone (c : CoreId)
  | asclDone (c : CoreId)
  | ldpgDone (c : CoreId) (u : UnitId)
  | fusesLatched (ok : Bool)
  | islandLogicStop (island : IslandId)
  | storageUpset (t : UpsetTarget)
  | linkCtlDisable (p : PortId) (v : Bool)
  | dbgSnapTmo
  deriving DecidableEq, Repr, Inhabited

end Sys2Proof
end

