-- ==== Sys2Proof/Decode.lean ====
section
/-! DEFINITION. The block has no instruction decoder: the table of operations and events gives no row any bits, so no
word spells a command. -/

namespace Sys2Proof

/-- The command a word spells by the table's bits: the table gives bits to no row, so no word spells one. -/
def decodeTableWord (_nbits _w : Nat) : Option Instr := none

end Sys2Proof
end

