-- ==== Sys2Proof/Config.lean ====
section
/-! DEFINITION. What the silicon, the fuses or the spec's silence fix: constants without a body. No proof can see
their values, so a claim about them holds for every value. -/

namespace Sys2Proof.Config

/-- Fuse content of CORE_PRESENT (R531, R510 "per fuse"): the cores that passed manufacturing test. -/
opaque fusedCores : BitVec 8
/-- Bond lanes retired by fuse at manufacture (R421, R531), as group × 1024 + lane. -/
opaque fusedLanes : List Nat
/-- A byte whose value the spec leaves open; the argument is the state's counter of free draws. -/
opaque freeByte : Nat → BitVec 8
/-- A 32-bit value the spec leaves open, by draw number. -/
opaque freeWord : Nat → BitVec 32
/-- A 64-bit value the spec leaves open, by draw number. -/
opaque freeDword : Nat → BitVec 64
/-- A choice among several that the spec leaves open, by draw number; the user reduces it modulo the count. -/
opaque freeChoice : Nat → Nat

/-- What scaling an INT32 accumulator by a factor leaves: R56 scales FP32 values only. -/
opaque asclInt : BitVec 32 → BitVec 32 → BitVec 32
/-- The lane of a statistic whose exact value fits no 32-bit integer (R168 states none), from that value. -/
opaque statWide : Int → BitVec 32
/-- The operand a stage reads from an absent IN0 stream, from the chain's header, the stage's word and the element's
number. -/
opaque absentIn : BitVec 64 → BitVec 64 → Nat → BitVec 32

/-- Where the CSC's internal arrangement puts a line (R461: "as the CSC's internal arrangement gives"): the number of its
first 64-bit word among the words of groups 48 to 51, from the line's address / 128. -/
opaque cscPlace : Nat → Nat

end Sys2Proof.Config
end

