-- ==== Sys2Proof/Machine/State.lean ====
section
/-! DEFINITION. The state of one AQ-C8 cluster as plain data, and the state right after a cold reset.

Registers that software reads and writes as 64-bit words, counters and error captures live in ONE register file
`State.regs`, keyed by page × 4096 + offset (R485, R487); `Machine/Ops.lean` gives every register's reset value,
`Machine/Regs.lean` its writable bits, and `Machine/Pages.lean` the registers that are views of other state. What engines do
is held in named fields. -/

namespace Sys2Proof.Machine

/-- Reasons to stop with a fault. The spec gives every access, command and event of the cluster an outcome in the
cluster's own state (an abort, an error reply, a discarded command), so no meaning of this model raises a fault; the
type has no constructor. -/
inductive Fault where
  deriving DecidableEq, Repr

/-- Reasons to refuse a command. -/
inductive Refusal where
  /-- Raised by `exec` alone, for a command that has no meaning yet. Safe: no claim can be proved about it. -/
  | notModelled (mnemonic : String)
  deriving DecidableEq, Repr

/-! ### Control core -/

/-- SEQ.STS.STATE, the state of the core as a whole (R490). -/
inductive CoreState where
  | off | idle | run | paused | drain | fenced | fault
  deriving DecidableEq, Repr, Inhabited

/-- The task a core holds (R231, R34). `num` is its descriptor number, `wdog` the watchdog exponent in force. -/
structure Task where
  num     : Word32
  id      : BitVec 16
  train   : Bool
  checked : Bool
  wdog    : BitVec 5
  start   : CsIndex
  seed    : Dword
  deriving DecidableEq, Repr, Inhabited

/-- Where a core stands between claiming and starting a task (R30 to R34, R227). `polling` waits for TASK_POLL after a
`none` answer; `reading` has its descriptor read outstanding; `loading` has its image read outstanding. -/
inductive Dispatch where
  | none
  | sent
  | polling
  | reading (num : Word32)
  | loading (num : Word32) (desc : Vector Dword 8)
  deriving DecidableEq, Repr, Inhabited

/-- One active loop level (R216, R217, R242 LOOP[n]). -/
structure LoopLevel where
  remain : BitVec 24
  start  : CsIndex
  end_   : CsIndex
  callD  : Nat
  deriving DecidableEq, Repr, Inhabited

/-- One return-stack entry (R221). -/
structure RetEntry where
  ret    : CsIndex
  ldepth : Nat
  deriving DecidableEq, Repr, Inhabited

/-- The SIG field of a word (R251): target ID, operation, trigger. -/
structure Sig where
  target : BitVec 7
  op     : BitVec 2
  trig   : BitVec 3
  deriving DecidableEq, Repr, Inhabited

/-- A slot instruction in an engine queue (R204, R206): its slot bits, the A registers as they stood at issue, the
control-store index of its word, the word's number in issue order, and the signal attached to it. -/
structure QEntry where
  bits : BitVec 40
  regs : Vector Addr 16
  cw   : CsIndex
  num  : Nat
  sig  : Option Sig
  deriving DecidableEq, Repr, Inhabited

/-- The AG operation of the word that has just issued, with the values it reads (R205, R208). `val` is the source value
of a MOV or of a SETI that reads an immediate-table word. -/
structure AgLatch where
  bits : BitVec 24
  regs : Vector Addr 16
  val  : Addr
  num  : Nat
  cw   : CsIndex
  deriving DecidableEq, Repr, Inhabited

/-- The FLOW operation of the word that has just issued, with what it read (R205, R214): the word's index, a LOOP's
count and whether a conditional branch is taken. -/
structure FlowLatch where
  bits  : BitVec 24
  index : CsIndex
  count : BitVec 24
  taken : Bool
  deriving DecidableEq, Repr, Inhabited

/-- An outstanding LDA (R213). -/
structure LdaPend where
  d    : BitVec 4
  addr : Addr
  num  : Nat
  cw   : CsIndex
  deriving DecidableEq, Repr, Inhabited

/-- A recorded STA that has not been made yet (R213). -/
structure StaPend where
  addr : Addr
  val  : Addr
  num  : Nat
  cw   : CsIndex
  deriving DecidableEq, Repr, Inhabited

/-- An abort cause that has reached the SEQ (R233, R236): its code of R237 and whether CTL.SRST caused it. -/
structure Cause where
  code : Byte
  host : Bool
  deriving DecidableEq, Repr, Inhabited

/-- Writes of a core that are complete at CORE scope only (R254): dirty CCH lines with their dirty generation, far writes of
the stream units by request number, messages by channel, binding number and message number, rows of a TST by its word and row,
and the transaction slot, with its generation, that holds transactional stores. -/
structure Cover where
  lines : List (Nat × Nat)
  reqs  : List Nat
  msgs  : List (Nat × Nat × Byte)
  rows  : List (Nat × Nat)
  tx    : Option (SlotId × BitVec 6)
  deriving DecidableEq, Repr, Inhabited

/-- A signal to a cluster flag, held for release until the writes it covers are complete at CLUSTER scope (R255). -/
structure HeldSig where
  cf    : BitVec 5
  op    : BitVec 2
  cover : Cover
  deriving DecidableEq, Repr, Inhabited

/-- How a task ended (R242 LAST.END). -/
inductive EndKind where
  | tend | halt | aborted | rejected
  deriving DecidableEq, Repr, Inhabited

/-- An end report (R224, R235). -/
structure EndReport where
  num   : Word32
  id    : BitVec 16
  kind  : EndKind
  cause : Byte
  deriving DecidableEq, Repr, Inhabited

/-- What a core has written into its crossing towards the CCU, in order (R14). A claim carries the CCU-island cycle it was
written in, by which the CCU knows claims of one cycle (R30). -/
inductive CcuMsg where
  | claim (cyc : Dword)
  | signal (cf : BitVec 5) (op : BitVec 2)
  | take (n1 : Option (BitVec 5)) (n2 : Option (BitVec 5)) (any : Bool)
  | report (r : EndReport)
  | abftMiss
  | parityAbort
  deriving DecidableEq, Repr, Inhabited

/-- What the CCU has written into its crossing towards a core, in order (R14). -/
inductive CoreMsg where
  | grant (num : Word32)
  | noTask
  | takeReply (granted : Bool)
  | flag (n : BitVec 5) (v : Bool)
  | flags (v : Word32)
  | cause (code : Byte)
  deriving DecidableEq, Repr, Inhabited

/-- How a draining task will end (R224, R225). `haltPause` is HALT with HALT_EN = 1. -/
inductive DrainKind where
  | tend | halt | haltPause
  deriving DecidableEq, Repr, Inhabited

/-- The control core's own state (R201 to R263), beside its registers in the register file. `words` counts issued words,
`takeVoid` the replies to take requests of an aborted task that have not come yet (R250); `wdogHit` says that the watchdog has
expired for this task (R232). -/
structure Seq where
  st       : CoreState
  ret      : Bool
  task     : Option Task
  dispatch : Dispatch
  pc       : CsIndex
  z        : Bool
  n        : Bool
  c        : Bool
  a        : Vector Addr 16
  loops    : List LoopLevel
  rstk     : List RetEntry
  ag       : Option AgLatch
  flow     : Option FlowLatch
  words    : Nat
  ldas     : List LdaPend
  stas     : List StaPend
  wdogCnt  : Dword
  wdogHit  : Bool
  waitCnt  : Nat
  layer    : Bool
  draining : Option DrainKind
  causes   : List Cause
  abortTask : Bool
  brkPassed : Bool
  stepping : Bool
  flags    : Dword
  cnt      : Vector (BitVec 16) 16
  lf       : BitVec 16
  shadow   : Word32
  takePend : Bool
  takeGrant : Bool
  takeVoid : Nat
  held     : List HeldSig
  mxq      : List QEntry
  vxq      : List QEntry
  lsq      : List QEntry
  chq      : List QEntry
  stq      : Vector (List QEntry) 4
  cs       : Tab (BitVec 256)
  deriving DecidableEq, Repr, Inhabited

/-! ### Matrix engine -/

/-- The state of an accumulator bank (R85). -/
inductive BankState where
  | empty | busy | held | draining
  deriving DecidableEq, Repr, Inhabited

/-- What the instruction that owns a bank fixed for it (R80 to R84, R93 to R95). -/
structure BankOrigin where
  fm     : Nat
  fn     : Nat
  pair   : Bool
  base   : BankId
  ktail0 : Bool
  hr     : Bool
  t      : Nat
  tid    : BitVec 6
  row0   : BitVec 9
  col0   : BitVec 9
  lr     : Bool
  int    : Bool
  deriving DecidableEq, Repr, Inhabited

/-- An accumulator bank: its state, the pass recorded for it, its values by row × C + column, and what the drain's
checks of R101 need: the K indices accumulated, each row's and column's largest product term as (magnitude, exponent),
the rows and columns to skip, and whether an ASCL has scaled it. `bad` lists values whose parity disagrees (R456). -/
structure Bank where
  st     : BankState
  pass   : BitVec 4
  org    : BankOrigin
  acc    : Tab Word32
  k      : Nat
  rowMax : Tab (Nat × Int)
  colMax : Tab (Nat × Int)
  rowBad : List Nat
  colBad : List Nat
  scaled : Bool
  checked : Bool
  bad    : List Nat
  deriving DecidableEq, Repr, Inhabited

/-- A slot of the finished-tile queue with its metadata (R81, R109). -/
structure FtqSlot where
  valid : Bool
  rsv   : Bool
  tid   : BitVec 6
  row0  : BitVec 9
  col0  : BitVec 9
  pass  : BitVec 4
  lr    : Bool
  int   : Bool
  chain : Bool
  seq   : BitVec 16
  shape : BitVec 2
  data  : Tab Word32
  bad   : List Nat
  deriving DecidableEq, Repr, Inhabited

/-- A scale-buffer entry (R97, R147). -/
structure ScaleEntry where
  valid : Bool
  val   : Tab Word32
  bad   : List Nat
  deriving DecidableEq, Repr, Inhabited

/-- The held operand of held-row mode (R93, R94): its rows as bytes, and its element format. -/
structure HeldRows where
  valid : Bool
  rows  : List (List Byte)
  fmt   : BitVec 4
  deriving DecidableEq, Repr, Inhabited

/-- The MMA, MMAC or HRMM whose passes the array is running: the passes that accumulate now and the next to start. -/
structure MxRun where
  e     : QEntry
  now   : List Nat
  next  : Nat
  total : Nat
  deriving DecidableEq, Repr, Inhabited

/-- An MX operation with a completion of its own in progress; a change of shape without an entry was asked for by a page
write (R103). -/
inductive MxOp where
  | shape (e : Option QEntry) (code : BitVec 2)
  | hrld (e : QEntry)
  | ascl (e : QEntry)
  deriving DecidableEq, Repr, Inhabited

/-- A bank drain (R79, R84): bank, FTQ slot reserved for it, LR flag, tile ID, the instruction it completes and whether
it is that instruction's last. The first of the list is in progress, the others wait for the drain path. -/
structure Draining where
  bank : BankId
  slot : Fin 4
  lr   : Bool
  tid  : BitVec 6
  e    : QEntry
  last : Bool
  deriving DecidableEq, Repr, Inhabited

/-- The matrix engine (R67 to R111). -/
structure Mxe where
  shape    : BitVec 2
  shapeSrc : Bool
  banks    : Vector Bank 2
  ftq      : Vector FtqSlot 4
  nextPush : BitVec 16
  chain    : Bool
  held     : HeldRows
  sb       : Vector ScaleEntry 2
  run      : Option MxRun
  op       : Option MxOp
  drains   : List Draining
  deriving DecidableEq, Repr, Inhabited

/-! ### Tile registers and the tile load unit -/

/-- TCFG[t] (R138). -/
structure TileCfg where
  rows  : BitVec 7
  rb16  : BitVec 5
  fmt   : BitVec 4
  base  : BitVec 12
  valid : Bool
  src   : Bool
  deriving DecidableEq, Repr, Inhabited

/-- A TLD or TST in progress (R127 to R131, R539): its queue entry, the configuration it started with, the rows (source
rows, under TRANS) not yet returned or accepted, the buffered bytes (transpose buffer, or the rows a TST has read), and
the source rows that faulted; the rows whose request R320 holds, those the permission ranges refused (R319), the rows stored
transactionally (R353), those sent beyond the CCH, and the ranges of lines a CIV has invalidated while its fills were in flight (R306). -/
structure TluOp where
  e      : QEntry
  store  : Bool
  tile   : BitVec 4
  cfg    : TileCfg
  pend   : List Nat
  gather : Tab Byte
  bad    : List Nat
  held   : List Nat
  denied : List Nat
  tx     : List Nat
  away   : List Nat
  noFill : List (Nat × Nat)
  deriving DecidableEq, Repr, Inhabited

/-- The tile register file and the TLU (R112 to R140). `data` is keyed by line × 16 + byte. -/
structure Trf where
  tiles  : Vector TileCfg 16
  poison : Vector Dword 16
  data   : Tab Byte
  ops    : List TluOp
  deriving DecidableEq, Repr, Inhabited

/-! ### Vector engine -/

/-- A VX instruction in progress (R161): its chain entry as it stood at issue; its beats, how many are read and how many
have left the last stage; the input and mask bytes read of those between; per tile popped its first stream element and its
shape, and the slot being read; the ring positions of its streams; of the beats that have left, what the reduction tree
still needs of them, the bytes of a CHANNEL output that make no message yet and the messages still to send; and the tiles
it reads (R124). -/
structure VxAct where
  e      : QEntry
  entry  : List Dword
  n      : Nat
  rd     : Nat
  left   : Nat
  in0    : List Byte
  in1    : List Byte
  mask   : List Byte
  tiles  : List (Nat × BitVec 2)
  slot   : Option (Fin 4)
  pos0   : Option (Nat × Nat)
  pos1   : Option (Nat × Nat)
  outPos : Option (Nat × Nat)
  outs   : List (List Nat × List Bool)
  part   : List Byte
  sends  : List (List Byte)
  uses   : List Nat
  deriving DecidableEq, Repr, Inhabited

/-- Whether an instruction in progress still has beats to read, to compute or to send. -/
def VxAct.reading (a : VxAct) : Bool := decide (a.left < a.n) || !a.sends.isEmpty

/-- The vector engine (R141 to R182): permutation tables by table × 256 + entry, row statistics by row × 4 + value. -/
structure Vxe where
  pt      : Tab Byte
  rss     : Tab Word32
  rssBad  : List Nat
  vsum    : Vector Dword 8
  p       : Byte
  anyNan  : Bool
  anyInf  : Bool
  allZero : Bool
  ovf     : Bool
  acts    : List VxAct
  deriving DecidableEq, Repr, Inhabited

/-! ### Stream units -/

/-- A stream descriptor as a unit took it (R267, R280). -/
structure Desc where
  ctrl : Dword
  far  : Dword
  near : Dword
  nbytes : Nat
  idx  : Dword
  rsvOk : Bool
  e    : QEntry
  deriving DecidableEq, Repr, Inhabited

/-- A piece of an emit (R276): far address, near-side byte position, length. -/
structure Piece where
  far  : Nat
  near : Nat
  len  : Nat
  deriving DecidableEq, Repr, Inhabited

/-- A far request (R276, R277): its number, the pieces it covers, and the bytes a write carries. -/
structure FarReq where
  id     : Nat
  pieces : List Piece
  bytes  : List (Nat × Byte)
  write  : Bool
  deriving DecidableEq, Repr, Inhabited

/-- A running AG program (R272): the program as it stood at the start (R274), the instruction being executed and whether it
has made its emit, base, active levels, innermost
first (iteration, count, stride, body), bytes paired so far, indices consumed and whether END is reached. -/
structure AgRun where
  prog   : List Dword
  pc     : Nat
  ran    : Bool
  base   : Addr
  levels : List (Nat × Nat × Addr × Nat)
  near   : Nat
  gather : Nat
  done   : Bool
  deriving DecidableEq, Repr, Inhabited

/-- An active descriptor (R281): resolved near offset in the CSP, its address generator, emit bytes not yet cut into
pieces, its open request, its outstanding requests, the bytes a transposing read has gathered, whether it waits for the
transpose buffer, whether its last request is issued, and whether its task is aborted and it only lets its writes
complete (R291). -/
structure ActDesc where
  d      : Desc
  near   : Nat
  ag     : AgRun
  emit   : Option Piece
  open_  : Option FarReq
  outs   : List FarReq
  tdata  : Tab Byte
  waitT  : Bool
  issued : Bool
  dead   : Bool
  deriving DecidableEq, Repr, Inhabited

/-- A write without ACK that the RQT has accepted and its target has not acknowledged (R254, R283): its request number, the
SUB of its descriptor, AGPC and the address for an error that comes later (R290), and whether the device acknowledgement has
come (R302). `dead` says that its task has ended, so that an error aborts nothing. -/
structure Posted where
  id   : Nat
  e    : QEntry
  pc   : Nat
  sys  : Nat
  dev  : Bool
  dead : Bool
  deriving DecidableEq, Repr, Inhabited

/-- One stream unit (R265 to R297). -/
structure StrUnit where
  dq    : List Desc
  acts  : List ActDesc
  ldpg  : Option QEntry
  done  : Word32
  posted : List Posted
  deriving DecidableEq, Repr, Inhabited

/-- The four stream units of a core, its transpose buffer and its layer-buffer state (R279, R287). -/
structure Str where
  units : Vector StrUnit 4
  tbuf  : Option UnitId
  cur   : Bool
  swaps : Word32
  reqs  : Nat
  deriving DecidableEq, Repr, Inhabited

/-! ### Core cache, channels -/

/-- A CCH line (R299): address / 128, its way, bytes, dirty mask, and the generation of its dirtiness. -/
structure CchLine where
  line  : Nat
  way   : Fin 8
  data  : Tab Byte
  dirty : BitVec 128
  gen   : Nat
  deriving DecidableEq, Repr, Inhabited

/-- A cache op in progress (R305 to R311): its entry, write-backs not yet complete at its scope, and for a FENCE the
numbers of the requests it waits for. -/
structure CacheOp where
  e    : QEntry
  wbs  : List Nat
  deriving DecidableEq, Repr, Inhabited

/-- The core cache: lines in recency order, most recent first; a host command in progress (R325). -/
structure Cch where
  lines : List CchLine
  gen   : Nat
  op    : Option CacheOp
  hostOp : Bool
  deriving DecidableEq, Repr, Inhabited

/-- A record in a landing port's log (R335): its ring offset and length in 64 B units, PAD mark, the sender (a core of the
cluster, or the SRC word and TAG of a mesh sender), the sender's channel and binding number, the channel it is counted under, its
message number, whether it is still landing, whether all its bytes have come, the bytes a LAND stream has read and whether
it has been released while landing. -/
structure LogRec where
  pos    : Nat
  units  : Nat
  pad    : Bool
  sender : Option CoreId
  src    : BitVec 32
  tag    : BitVec 11
  ch     : BitVec 6
  bind   : Nat
  rch    : BitVec 6
  number : Byte
  landing : Bool
  whole  : Bool
  used   : Nat
  rel    : Bool
  deriving DecidableEq, Repr, Inhabited

/-- A landing port (R329 to R331). `epoch` is kept until a core reset; `spaced` says that the spacing of R342 since its last
epoch change has passed. -/
structure LandPort where
  armed  : Bool
  record : Word32
  epoch  : Byte
  spaced : Bool
  log    : List LogRec
  deriving DecidableEq, Repr, Inhabited

/-- A record sent and not yet acknowledged (R336, R341): number, units, PAD mark and the SEND it belongs to, none for a VXE
CHANNEL output; the control-store index of the word that sent it (R348). -/
structure Unacked where
  number : Byte
  units  : Nat
  pad    : Bool
  e      : Option QEntry
  cw     : CsIndex
  deriving DecidableEq, Repr, Inhabited

/-- A channel's binding (R332, R333, R349): `number` counts the bindings of the channel, `next` numbers its records. -/
structure Binding where
  record  : Dword
  credits : Nat
  wp      : Nat
  bound   : Bool
  stale   : Bool
  number  : Nat
  next    : Byte
  unacked : List Unacked
  deriving DecidableEq, Repr, Inhabited

/-- What travels on the core-to-core link from one core to another (or round the loopback queue, R541). -/
inductive LinkMsg where
  | msg (m : Msg)
  | cut (ch : BitVec 6) (port : BitVec 3)
  | ack (ch : BitVec 6) (number : Byte) (stale : Bool) (bind : Nat)
  | credit (ch : BitVec 6) (bind : Nat) (units : Nat)
  deriving DecidableEq, Repr, Inhabited

/-- The channel endpoint of a core (R329 to R350). `expect` holds, per mesh sender and channel, the message number that
must come next (R427). -/
structure Chn where
  ports  : Vector LandPort 8
  binds  : Tab Binding
  expect : List (BitVec 32 × BitVec 6 × Byte)
  deriving DecidableEq, Repr, Inhabited

/-- One core: its control core, engines and storage, its clock, and its pins of the power management interface (R515), with a
request that came while an answer was pending (R516). -/
structure Core where
  seq   : Seq
  mxe   : Mxe
  trf   : Trf
  vxe   : Vxe
  str   : Str
  cch   : Cch
  chn   : Chn
  freq  : BitVec 4
  phase : Nat
  cyc   : Dword
  iso   : Bool
  pwrReq  : BitVec 2
  pwrAck  : Bool
  pwrDeny : Bool
  pwrNext : Option (BitVec 2)
  deriving DecidableEq, Repr, Inhabited

/-! ### Cluster blocks -/

/-- A line of the shared cache (R300): address / 128 and bytes. -/
structure CscLine where
  line : Nat
  data : Tab Byte
  deriving DecidableEq, Repr, Inhabited

/-- A pending or committing transactional line (R353, R354, R358). -/
structure TxLine where
  line : Nat
  slot : SlotId
  mask : BitVec 128
  data : Tab Byte
  committing : Bool
  deriving DecidableEq, Repr, Inhabited

/-- The state of a transaction slot (R351). -/
inductive SlotState where
  | free | open_ | doomed | committing
  deriving DecidableEq, Repr, Inhabited

/-- How far a durable commit has come (R362). -/
inductive Durable where
  | none
  | lines (scope : BitVec 3)
  | word (scope : BitVec 3)
  deriving DecidableEq, Repr, Inhabited

/-- A transaction slot (R351, R352, R376). `tail` is the TXC of its durable sequence; `orphan` says that its core has ended
the task, so that its status write and LS done are lost (R361). -/
structure TxSlot where
  st     : SlotState
  gen    : BitVec 6
  core   : CoreId
  task   : BitVec 16
  age    : Word32
  reason : BitVec 4
  holder : BitVec 3
  lines  : Nat
  dur    : Durable
  tail   : Option QEntry
  orphan : Bool
  deriving DecidableEq, Repr, Inhabited

/-- The transaction unit (R351 to R377): slots, pending and committing lines, its log space. -/
structure Txu where
  slots : Vector TxSlot 64
  lines : List TxLine
  mode  : Vector Bool 8
  log   : Tab Byte
  copying : Bool
  deriving DecidableEq, Repr, Inhabited

/-- PHASE of the evict engine (R380). -/
inductive EvPhase where
  | idle | stopping | flushing | writing | committing | restoring
  deriving DecidableEq, Repr, Inhabited

/-- The evict engine (R367 to R381). `wait` are the cores whose end report or FAULT step 3 waits for, `cursor`,
`skip` and `txd` the values W8, W9 and W11 record, `start` the CCU cycle of the command, `flush` the lines that step 4 has
written back beyond the cluster, once it has swept the CCHs, `out` the region and system address of each block written beyond
the cluster, `staging` its staging space. -/
structure Evx where
  phase   : EvPhase
  acked   : Bool
  result  : BitVec 4
  aborted : Byte
  faulted : Byte
  wait    : List CoreId
  op      : BitVec 2
  seqAt   : Word32
  cursor  : Word32
  skip    : Word32
  txd     : Word32
  start   : Dword
  flush   : Option (List (CoreId × Nat))
  out     : List (Nat × Nat)
  staging : Tab Byte
  deriving DecidableEq, Repr, Inhabited

/-- Who holds an RQT tag (R283, R478). A committing line carries its slot and the slot's generation. A write-back carries the word, and the LS opcode and 16 × SCOPE, of the op that caused it,
0 for a host command (R324). -/
inductive TagUser where
  | tlu (c : CoreId) (num : Nat) (row : Nat)
  | str (c : CoreId) (u : UnitId) (req : Nat)
  | cch (c : CoreId) (line : Nat) (cw : Nat) (op : Nat)
  | image (c : CoreId)
  | txLine (slot : SlotId) (gen : BitVec 6) (line : Nat)
  | txWord (slot : SlotId)
  | evx
  | copy (u : CopyUnit)
  | port (p : PortId)
  | plain (r : Nat)
  deriving DecidableEq, Repr, Inhabited

/-- An RQT tag in use (R283, R441): requester 0 to 12 of R483, its user, the system address, how many packets that went
out for it are unanswered, whether its device acknowledgement has come (R302), and whether the bond failed its beat twice (R419). -/
structure Tag where
  r      : Nat
  user   : TagUser
  addr   : Dword
  sent   : Nat
  dev    : Bool
  bondUe : Bool
  deriving DecidableEq, Repr, Inhabited

/-- A fill of a CSC line (R285): the request that fetches it, those that have joined it (at most eight) and those that wait
until it returns; once it has returned, what it brought for them; and what the cluster has written to the line meanwhile
(R301). -/
structure CscFill where
  line    : Nat
  owner   : TagUser
  joiners : List TagUser
  waiters : List TagUser
  data    : Option Reply
  wrote   : List (Nat × Byte)
  deriving DecidableEq, Repr, Inhabited

/-- The request tracker (R283, R478, R483). `late` are tags reclaimed whose reply has not come, with what they were for. -/
structure Rqt where
  tags : Tab (Option Tag)
  late : List (BitVec 11 × Tag)
  deriving DecidableEq, Repr, Inhabited

/-- One entry of the CE tracker (R466). -/
structure CeEntry where
  group : Nat
  index : Nat
  count : Nat
  first : Dword
  deriving DecidableEq, Repr, Inhabited

/-- An error report on its way to the ECM (R454, R455): group, index, source code of R477, ADDRESS and TEST marks, and the class of
the syndrome, as the bits that R452 corrects by it (none of an uncorrectable word). -/
structure EccReport where
  group  : Nat
  index  : Nat
  source : Nat
  addr   : Bool
  test   : Bool
  fixed  : BitVec 80
  deriving DecidableEq, Repr, Inhabited

/-- A remap fill or release in progress (R464, R467). -/
structure RemapOp where
  group  : Nat
  entry  : Nat
  index  : Nat
  fill   : Bool
  src    : Bool
  poison : Bool
  deriving DecidableEq, Repr, Inhabited

/-- Error control and memory repair (R451 to R482). `upsets` holds, per array word (group × 2^17 + index), the XOR
difference between the stored code word and the code word of what was last written; `spareUpsets` the same per spare
word (group × 8 + entry). `tested` are words flipped by the flip registers, `ueDue` words whose fill a scrubber has asked for
(R460). -/
structure Ecm where
  upsets      : Tab (BitVec 80)
  spareUpsets : Tab (BitVec 80)
  remap       : Tab Word32
  ceQ         : List EccReport
  ueQ         : List EccReport
  tracker     : List CeEntry
  ueDue       : List (Nat × Nat)
  op          : Option RemapOp
  tested      : List Nat
  errlog      : Tab Byte
  copying     : Bool
  scrub       : Vector Nat 9
  deriving DecidableEq, Repr, Inhabited

/-- LINK_STS.STATE (R448). -/
inductive LinkState where
  | down | hello | up | failed | disabled | miswire
  deriving DecidableEq, Repr, Inhabited

/-- A mesh port (R424 to R450): link state, replay buffer, output queue per class, output credits per class, the class
of TC1 to TC3 whose turn it is and the flits it has used of it (R430), the HELLO and the link control flit it sent last
(they are never replayed), the last SEQ accepted, packets accepted since the last LCF, credits to return per class, and
the NAK that is due. -/
structure Port where
  link    : LinkState
  replay  : List Packet
  oldest  : Option (BitVec 16)
  retries : Nat
  nextSeq : BitVec 16
  txq     : Vector (List Packet) 4
  credits : Vector Nat 4
  turn    : Fin 3
  used    : Nat
  hello   : Option Packet
  lcf     : List Byte
  rxSeq   : BitVec 16
  rxSince : Nat
  rxCred  : Vector Nat 4
  nak     : Bool
  fell    : Bool
  news    : Bool
  deriving DecidableEq, Repr, Inhabited

/-- The header of a running partial (R394, R395). -/
structure RedHeader where
  count   : Nat
  sum     : Dword
  ovf     : Bool
  ckerr   : Bool
  partial_ : Bool
  emis    : Bool
  deriving DecidableEq, Repr, Inhabited

/-- Where a partial sum lies (R383, R395). -/
inductive PAt where
  | src | area (k : Bool)
  deriving DecidableEq, Repr, Inhabited

/-- Progress of an open instance (R415 GSTS.STATE and the run of R395). An accepted contribution keeps its LEAD, the port it
enters by (R383), and whether its sum is cut through to the successor (R401). -/
inductive InstState where
  | waitLead | adding (lead : RedRecord) (port : Fin 4) (cut : Bool) | waitReq | waitResult | deliver
  deriving DecidableEq, Repr, Inhabited

/-- An open instance (R392, R403). `res` is the result held: header words, lanes area. -/
structure Inst where
  post   : Vector Dword 8
  entry  : Nat
  st     : InstState
  pAt    : PAt
  hdr    : RedHeader
  e      : Word32
  reason : BitVec 4
  miss   : Nat
  resAt  : PAt
  resLead : RedRecord
  resTail : RedRecord
  late   : Bool
  deriving DecidableEq, Repr, Inhabited

/-- A reduction group as its home RDU holds it (R383, R386, R392, R399). -/
structure Group where
  en      : Bool
  sched   : List Word32
  key     : Option (BitVec 48)
  postKey : Option (BitVec 48)
  inst    : Option Inst
  req     : Option RedRecord
  kept    : Option (RedRecord × RedRecord)
  deriving DecidableEq, Repr, Inhabited

/-- Who asked the router for an access (R497): a command that writes a register, an MGMT packet, or the sideband
interface; `entered` is a write that has been answered ERR ISOLATED but had entered its block's crossing (R499). -/
inductive RegFrom where
  | command
  | mgmt (k : Packet)
  | sideband
  | entered
  deriving DecidableEq, Repr, Inhabited

/-- A register access taken by the router whose block has not answered (R498, R499). -/
structure RegAccess where
  off   : BitVec 12
  write : Bool
  value : Dword
  who   : RegFrom
  deriving DecidableEq, Repr, Inhabited

/-- The last answer the router gave (R498): value read, SHELL, outcome code, or the ERR code. -/
structure RegAnswer where
  page  : Byte
  off   : BitVec 12
  value : Dword
  shell : Bool
  outcome : BitVec 3
  err   : Byte
  deriving DecidableEq, Repr, Inhabited

/-- Self-test of a core (R473, R474). -/
inductive SelfTest where
  | none | running | passed | failed
  deriving DecidableEq, Repr, Inhabited

/-- What the CCU records per core (R102, R457, R472 to R474): the last fence reason, the CCU cycles of its fences,
ABFT misses and PARITY aborts, the fences since the last reset, its self-test, and the bit of a CORE_FENCE write that waits for
it. -/
structure CoreWatch where
  reason : BitVec 4
  fences : List Nat
  abft   : List Nat
  parity : List Nat
  total  : Nat
  test   : SelfTest
  fenceReq : Option Bool
  manual : Bool
  deriving DecidableEq, Repr, Inhabited

/-- CL_REQ states of the cluster (R521). -/
inductive ClusterPower where
  | on | sleep | off
  deriving DecidableEq, Repr, Inhabited

/-- The cluster control unit and its power and start-up logic (R229, R257, R367, R471, R485 to R531). `toCcu` and
`toCore` are the core–CCU crossings (R14), `mirror` the task list mirror (R230), `trace` the DBG trace (R513) as two
words per entry, `tokens` the heartbeat tokens in flight, `seqOk` whether the last sequence
word read with agreeing halves, kept in `seqWord`, was in range (R229), `trains` whether the descriptor a core holds was of class
TRAIN when it was assigned (R366, R367), `warm` whether start-up follows a cluster warm reset. -/
structure Ccu where
  st      : CoreState
  toCcu   : Vector (List CcuMsg) 8
  toCore  : Vector (List CoreMsg) 8
  seqWord : Word32
  seqOk   : Bool
  holds   : Vector (Option Word32) 8
  trains  : Vector Bool 8
  cf      : Word32
  watch   : Vector CoreWatch 8
  mirror  : Tab Byte
  mirrorNext : Word32
  mirroring : Bool
  trace   : Tab Dword
  traceWp : Byte
  tokens  : Vector Bool 13
  hbCount : Vector Nat 13
  step    : Nat
  readyS  : Bool
  cyc     : Dword
  power   : ClusterPower
  warm    : Bool
  clReq   : BitVec 2
  clAck   : Bool
  clDeny  : Bool
  pend    : Tab (List RegAccess)
  answer  : RegAnswer
  sideband : List Byte
  deriving DecidableEq, Repr, Inhabited

/-- A lane group of the face bond (R418, R421, R422). -/
structure BondGroup where
  spares : Nat
  retired : Bool
  out    : Bool
  last   : BitVec 10
  lanes  : List Nat
  deriving DecidableEq, Repr, Inhabited

/-- The 1500 wrapper instruction (R532). -/
inductive Wir where
  | bypass | extest | intest | scan | mbist | bond | fuse
  deriving DecidableEq, Repr, Inhabited

/-- Fuses (R531): cores present and bond lanes retired at manufacture (group × 1024 + lane). -/
structure Fuses where
  present : Byte
  lanes   : List Nat
  deriving DecidableEq, Repr, Inhabited

/-- The whole cluster. `mem` holds the CM and the CSPs by cluster offset (R24); an unlisted byte reads 0, as start-up
leaves it (R527). `cscBuf` holds the fills of the CSC, `cscOp` the sets an invalidation has swept. `links` are the
core-to-core links and loopback queues in order, `inbox` the packets delivered in the cluster, in order, each with the port
whose crossing it stands in (none for the cluster's own), `stopped` the islands whose logic has stopped (R471), `clocksOff` is set by a wrapper instruction other than
WS_BYPASS (R532), `draws` counts the free values drawn, and `pending` is the model's queue of commands. -/
structure State where
  regs    : Tab Dword
  mem     : List Host.Cell
  cores   : Vector Core 8
  links   : List (CoreId × CoreId × LinkMsg)
  csc     : List CscLine
  cscBuf  : List CscFill
  cscOp   : Option Nat
  txu     : Txu
  evx     : Evx
  rqt     : Rqt
  ecm     : Ecm
  ports   : Vector Port 4
  inbox   : List (Option PortId × Packet)
  groups  : Tab Group
  posts   : Vector (List (Vector Dword 8)) 4
  heldPosts : List (Fin 4 × Vector Dword 8)
  ccu     : Ccu
  bond    : Tab BondGroup
  laneCe  : Tab (List Nat)
  clockLane : Option (Fin 4)
  memCyc  : Dword
  portCyc : Vector Dword 4
  snap    : Vector (Option Dword) 14
  stopped : Vector Bool 14
  fuses   : Fuses
  wir     : Wir
  clocksOff : Bool
  draws   : Nat
  pending : List Instr
  deriving DecidableEq, Repr, Inhabited

/-! ### Reset

Right after a cold reset (R526): Sprout stands at step 1 (R527), every core is idle with nothing in any queue, and every
register reads the reset value of its page table (`regs` lists no exception to it). -/

/-- The control core after a core reset (R526, R245). -/
def Seq.reset : Seq where
  st := .idle
  ret := false
  task := none
  dispatch := .none
  pc := 0
  z := false
  n := false
  c := false
  a := Vector.replicate 16 0
  loops := []
  rstk := []
  ag := none
  flow := none
  words := 0
  ldas := []
  stas := []
  wdogCnt := 0
  wdogHit := false
  waitCnt := 0
  layer := false
  draining := none
  causes := []
  abortTask := false
  brkPassed := false
  stepping := false
  flags := 0
  cnt := Vector.replicate 16 0
  lf := 0
  shadow := 0
  takePend := false
  takeGrant := false
  takeVoid := 0
  held := []
  mxq := []
  vxq := []
  lsq := []
  chq := []
  stq := Vector.replicate 4 []
  cs := []

/-- What an EMPTY bank carries (R85); it means nothing until a pass overwrites it. -/
def BankOrigin.none : BankOrigin where
  fm := 0
  fn := 0
  pair := false
  base := 0
  ktail0 := false
  hr := false
  t := 0
  tid := 0
  row0 := 0
  col0 := 0
  lr := false
  int := false

/-- An EMPTY bank (R85); its PASS reads 0 (DESIGN CHOICE, log entry 112). -/
def Bank.empty : Bank where
  st := .empty
  pass := 0
  org := BankOrigin.none
  acc := []
  k := 0
  rowMax := []
  colMax := []
  rowBad := []
  colBad := []
  scaled := false
  checked := false
  bad := []

/-- An FTQ slot that is neither valid nor reserved (R81); its FTQ_META reads 0 (DESIGN CHOICE, log entry 112). -/
def FtqSlot.empty : FtqSlot where
  valid := false
  rsv := false
  tid := 0
  row0 := 0
  col0 := 0
  pass := 0
  lr := false
  int := false
  chain := false
  seq := 0
  shape := 0
  data := []
  bad := []

/-- The matrix engine after reset (R85, R109). -/
def Mxe.reset : Mxe where
  shape := 0
  shapeSrc := false
  banks := Vector.replicate 2 Bank.empty
  ftq := Vector.replicate 4 FtqSlot.empty
  nextPush := 0
  chain := false
  held := ⟨false, [], 0⟩
  sb := Vector.replicate 2 ⟨false, [], []⟩
  run := none
  op := none
  drains := []

/-- A TCFG that nothing has written (R138). -/
def TileCfg.zero : TileCfg where
  rows := 0
  rb16 := 0
  fmt := 0
  base := 0
  valid := false
  src := false

/-- The TRF and TLU after reset (R138). -/
def Trf.reset : Trf where
  tiles := Vector.replicate 16 TileCfg.zero
  poison := Vector.replicate 16 0
  data := []
  ops := []

/-- The vector engine after reset (R181). -/
def Vxe.reset : Vxe where
  pt := []
  rss := []
  rssBad := []
  vsum := Vector.replicate 8 0
  p := 0
  anyNan := false
  anyInf := false
  allZero := true
  ovf := false
  acts := []

/-- A stream unit after reset (R296). -/
def StrUnit.reset : StrUnit where
  dq := []
  acts := []
  ldpg := none
  done := 0
  posted := []

/-- The stream units after reset (R296). -/
def Str.reset : Str where
  units := Vector.replicate 4 StrUnit.reset
  tbuf := none
  cur := false
  swaps := 0
  reqs := 0

/-- The core cache with no valid line (R299). -/
def Cch.reset : Cch where
  lines := []
  gen := 0
  op := none
  hostOp := false

/-- A landing port that is disarmed and whose epoch is 0 (R329, R342). -/
def LandPort.reset : LandPort where
  armed := false
  record := 0
  epoch := 0
  spaced := false
  log := []

/-- The channel endpoint after reset: every port disarmed, every channel unbound (R329). -/
def Chn.reset : Chn where
  ports := Vector.replicate 8 LandPort.reset
  binds := []
  expect := []

/-- A core after reset, at FREQ code 12 (R515; the pin's value is the integrator's). -/
def Core.reset : Core where
  seq := Seq.reset
  mxe := Mxe.reset
  trf := Trf.reset
  vxe := Vxe.reset
  str := Str.reset
  cch := Cch.reset
  chn := Chn.reset
  freq := 12
  phase := 0
  cyc := 0
  iso := false
  pwrReq := 0
  pwrAck := false
  pwrDeny := false
  pwrNext := none

/-- A FREE transaction slot of generation 0 (R351). -/
def TxSlot.free : TxSlot where
  st := .free
  gen := 0
  core := 0
  task := 0
  age := 0
  reason := 0
  holder := 0
  lines := 0
  dur := .none
  tail := none
  orphan := false

/-- The TXU after reset (R351). -/
def Txu.reset : Txu where
  slots := Vector.replicate 64 TxSlot.free
  lines := []
  mode := Vector.replicate 8 false
  log := []
  copying := false

/-- The EVX after reset (R380). -/
def Evx.reset : Evx where
  phase := .idle
  acked := false
  result := 0
  aborted := 0
  faulted := 0
  wait := []
  op := 0
  seqAt := 0
  cursor := 0
  skip := 0
  txd := 0
  start := 0
  flush := none
  out := []
  staging := []

/-- Error control after reset: nothing upset, no remap entry in use (R467, R481). -/
def Ecm.reset : Ecm where
  upsets := []
  spareUpsets := []
  remap := []
  ceQ := []
  ueQ := []
  tracker := []
  ueDue := []
  op := none
  tested := []
  errlog := []
  copying := false
  scrub := Vector.replicate 9 0

/-- A port whose link is DOWN, with the output credits of R448. -/
def Port.reset : Port where
  link := .down
  replay := []
  oldest := none
  retries := 0
  nextSeq := 0
  txq := Vector.replicate 4 []
  credits := #v[16, 128, 128, 128]
  turn := 0
  used := 0
  hello := none
  lcf := []
  rxSeq := 0xFFFF
  rxSince := 0
  rxCred := Vector.replicate 4 0
  nak := false
  fell := false
  news := false

/-- What the CCU records of a core after reset (R472, R474). -/
def CoreWatch.reset : CoreWatch where
  reason := 0
  fences := []
  abft := []
  parity := []
  total := 0
  test := .none
  fenceReq := none
  manual := false

/-- The CCU after reset: Sprout at step 1 (R527), no task list read yet. -/
def Ccu.reset : Ccu where
  st := .idle
  toCcu := Vector.replicate 8 []
  toCore := Vector.replicate 8 []
  seqWord := 0
  seqOk := false
  holds := Vector.replicate 8 none
  trains := Vector.replicate 8 false
  cf := 0
  watch := Vector.replicate 8 CoreWatch.reset
  mirror := []
  mirrorNext := 0
  mirroring := false
  trace := []
  traceWp := 0
  tokens := Vector.replicate 13 false
  hbCount := Vector.replicate 13 0
  step := 1
  readyS := false
  cyc := 0
  power := .on
  warm := false
  clReq := 0
  clAck := false
  clDeny := false
  pend := []
  answer := ⟨0, 0, 0, false, 0, 0⟩
  sideband := []

/-- The cluster right after a cold reset (R526, R527), no command waiting. The fuse contents are the part's own. -/
def State.reset : State where
  regs := []
  mem := []
  cores := Vector.replicate 8 Core.reset
  links := []
  csc := []
  cscBuf := []
  cscOp := none
  txu := Txu.reset
  evx := Evx.reset
  rqt := ⟨[], []⟩
  ecm := Ecm.reset
  ports := Vector.replicate 4 Port.reset
  inbox := []
  groups := []
  posts := Vector.replicate 4 []
  heldPosts := []
  ccu := Ccu.reset
  bond := []
  laneCe := []
  clockLane := none
  memCyc := 0
  portCyc := Vector.replicate 4 0
  snap := Vector.replicate 14 none
  stopped := Vector.replicate 14 false
  fuses := ⟨Config.fusedCores, Config.fusedLanes⟩
  wir := .bypass
  clocksOff := false
  draws := 0
  pending := []

end Sys2Proof.Machine
end

