-- ==== Sys2Proof/Machine/Ops.lean ====
section
/-! DEFINITION. The named operations every meaning is built from: sparse tables, memory bytes, little-endian numbers,
bit fields, registers of the register file, updates of one core's blocks, free values. -/

namespace Sys2Proof.Machine

/-! ### Sparse tables -/

/-- What a table holds at key `k`; `d` where it lists nothing. -/
def tget {α : Type} (d : α) : Tab α → Nat → α
  | [], _ => d
  | (j, v) :: t, k => if j = k then v else tget d t k

/-- Insert an entry whose key the table does not hold, keeping keys rising. -/
def tins {α : Type} (k : Nat) (v : α) : Tab α → Tab α
  | [] => [(k, v)]
  | (j, w) :: t => if k < j then (k, v) :: (j, w) :: t else (j, w) :: tins k v t

/-- The table without key `k`. -/
def tdel {α : Type} (t : Tab α) (k : Nat) : Tab α := t.filter (fun e => e.1 != k)

/-- The table with `v` at key `k`; the entry is left out when `v` is what an unlisted key reads as. -/
def tput {α : Type} [DecidableEq α] (d : α) (t : Tab α) (k : Nat) (v : α) : Tab α :=
  if v = d then tdel t k else tins k v (tdel t k)

/-- Change the entry at key `k`. -/
def tmod {α : Type} [DecidableEq α] (d : α) (t : Tab α) (k : Nat) (f : α → α) : Tab α := tput d t k (f (tget d t k))

/-- The canonical form: keys strictly rising, no entry equal to what an unlisted key reads as. -/
def tabWf {α : Type} [DecidableEq α] (d : α) : Tab α → Bool
  | [] => true
  | [(_, v)] => v != d
  | (j, v) :: (k, w) :: t => v != d && decide (j < k) && tabWf d ((k, w) :: t)

/-- Lay a list of values at consecutive keys. -/
def tputs {α : Type} [DecidableEq α] (d : α) (t : Tab α) (k : Nat) : List α → Tab α
  | [] => t
  | v :: vs => tputs d (tput d t k v) (k + 1) vs

/-- The values at `n` consecutive keys. -/
def tgets {α : Type} (d : α) (t : Tab α) (k n : Nat) : List α := (List.range n).map fun i => tget d t (k + i)

/-! ### Little-endian numbers and bit fields (R39) -/

/-- The number `n` bytes hold, first byte least significant. -/
def leNat : List Byte → Nat
  | [] => 0
  | b :: bs => b.toNat + 256 * leNat bs

/-- The `n` bytes of a number, least significant first. -/
def natLe : Nat → Nat → List Byte
  | 0, _ => []
  | n + 1, v => BitVec.ofNat 8 v :: natLe n (v / 256)

/-- Bits `lo` to `lo + w - 1` of a word, as a number. -/
def fld {n : Nat} (v : BitVec n) (lo w : Nat) : Nat := (v.extractLsb' lo w).toNat

/-- One bit of a word. -/
def bitAt {n : Nat} (v : BitVec n) (i : Nat) : Bool := v.getLsbD i

/-- The word with bits `lo` to `lo + w - 1` replaced by the low `w` bits of `x`. -/
def setFld {n : Nat} (v : BitVec n) (lo w x : Nat) : BitVec n :=
  let m := ((BitVec.allOnes w).setWidth n) <<< lo
  (v &&& ~~~m) ||| (((BitVec.ofNat w x).setWidth n) <<< lo)

/-- A bit as a number. -/
def bit (b : Bool) : Nat := if b then 1 else 0

/-- A word with one bit set or cleared. -/
def setBit {n : Nat} (v : BitVec n) (i : Nat) (b : Bool) : BitVec n := setFld v i 1 (bit b)

/-- A bit mask of the given width from a predicate on bit numbers. -/
def maskOf (w : Nat) (f : Nat → Bool) : BitVec w :=
  (List.range w).foldl (fun m i => if f i then m ||| (BitVec.ofNat w 1 <<< i) else m) 0

/-- The numbers of the bits that are set, lowest first. -/
def setBits {n : Nat} (v : BitVec n) : List Nat := (List.range n).filter fun i => v.getLsbD i

/-- Sign-extend the low `w` bits of a number to an integer. -/
def sext (w v : Nat) : Int := let m := v % 2 ^ w; if m < 2 ^ (w - 1) then (m : Int) else (m : Int) - 2 ^ w

/-! ### Bytes of memory (R24, R39) -/

/-- The byte at a cluster offset; one that nothing has written reads 0 (R527: start-up leaves CM and CSPs zero). -/
def memByte (m : List Host.Cell) (a : Nat) : Byte := tget 0 m a

/-- Consecutive bytes of memory. -/
def memRead (m : List Host.Cell) (a n : Nat) : List Byte := tgets 0 m a n

/-- Store consecutive bytes. -/
def memWrite (m : List Host.Cell) (a : Nat) (bs : List Byte) : List Host.Cell := tputs 0 m a bs

/-- Store the bytes of a list of (address, byte) pairs. -/
def memPuts (m : List Host.Cell) : List (Nat × Byte) → List Host.Cell
  | [] => m
  | (a, b) :: t => memPuts (tput 0 m a b) t

/-! ### Vectors by number -/

/-- The element at index `i`; `d` beyond the end. -/
def vget {α : Type} {n : Nat} (d : α) (v : Vector α n) (i : Nat) : α := v[i]?.getD d

/-- The vector with element `i` changed; unchanged beyond the end. -/
def vmod {α : Type} {n : Nat} (v : Vector α n) (i : Nat) (f : α → α) : Vector α n :=
  if h : i < n then v.set i (f (v[i]'h)) h else v

/-- The vector with element `i` replaced; unchanged beyond the end. -/
def vset {α : Type} {n : Nat} (v : Vector α n) (i : Nat) (x : α) : Vector α n := vmod v i fun _ => x

/-- The vector with every element changed. -/
def vmap {α : Type} {n : Nat} (f : Nat → α → α) (v : Vector α n) : Vector α n := v.mapIdx fun i x => f i x

/-! ### Lists -/

/-- The first element that satisfies `p`, and the list without it. -/
def takeFirst {α : Type} (p : α → Bool) : List α → Option (α × List α)
  | [] => none
  | x :: xs => if p x then some (x, xs) else (takeFirst p xs).map fun r => (r.1, x :: r.2)

/-- Change the first element that satisfies `p`. -/
def modFirst {α : Type} (p : α → Bool) (f : α → α) : List α → List α
  | [] => []
  | x :: xs => if p x then f x :: xs else x :: modFirst p f xs

/-! ### One core's blocks -/

/-- The core numbered `c`. -/
def State.core (s : State) (c : CoreId) : Core := s.cores[c]

/-- Change core `c`. -/
def State.updCore (s : State) (c : CoreId) (f : Core → Core) : State :=
  { s with cores := s.cores.set c (f s.cores[c]) }

/-- Change the control core of core `c`. -/
def State.updSeq (s : State) (c : CoreId) (f : Seq → Seq) : State := s.updCore c fun k => { k with seq := f k.seq }
/-- Change the matrix engine of core `c`. -/
def State.updMxe (s : State) (c : CoreId) (f : Mxe → Mxe) : State := s.updCore c fun k => { k with mxe := f k.mxe }
/-- Change the tile register file of core `c`. -/
def State.updTrf (s : State) (c : CoreId) (f : Trf → Trf) : State := s.updCore c fun k => { k with trf := f k.trf }
/-- Change the vector engine of core `c`. -/
def State.updVxe (s : State) (c : CoreId) (f : Vxe → Vxe) : State := s.updCore c fun k => { k with vxe := f k.vxe }
/-- Change the stream block of core `c`. -/
def State.updStr (s : State) (c : CoreId) (f : Str → Str) : State := s.updCore c fun k => { k with str := f k.str }
/-- Change stream unit `u` of core `c`. -/
def State.updUnit (s : State) (c : CoreId) (u : UnitId) (f : StrUnit → StrUnit) : State :=
  s.updStr c fun k => { k with units := k.units.set u (f k.units[u]) }
/-- Change the core cache of core `c`. -/
def State.updCch (s : State) (c : CoreId) (f : Cch → Cch) : State := s.updCore c fun k => { k with cch := f k.cch }
/-- Change the channel endpoint of core `c`. -/
def State.updChn (s : State) (c : CoreId) (f : Chn → Chn) : State := s.updCore c fun k => { k with chn := f k.chn }
/-- Change the CCU. -/
def State.updCcu (s : State) (f : Ccu → Ccu) : State := { s with ccu := f s.ccu }
/-- Change mesh port `p`. -/
def State.updPort (s : State) (p : PortId) (f : Port → Port) : State :=
  { s with ports := s.ports.set p (f s.ports[p]) }
/-- Entries of a crossing, and of a core's loopback queue (R15, R541). -/
def crossDepth : Nat := 16
/-- Write a message for core `c`'s crossing towards the CCU (R14). The first 16 entries are the crossing; what stands behind
them waits at its sender, which is held (R15). -/
def State.tell (s : State) (c : CoreId) (m : CcuMsg) : State :=
  s.updCcu fun u => { u with toCcu := u.toCcu.set c (u.toCcu[c] ++ [m]) }
/-- Write a message for the CCU's crossing towards core `c` (R14, R15), as `State.tell` does the other way. -/
def State.answer (s : State) (c : CoreId) (m : CoreMsg) : State :=
  s.updCcu fun u => { u with toCore := u.toCore.set c (u.toCore[c] ++ [m]) }

/-! ### Pages and registers (R485, R487, R514) -/

/-- The page of block `b` of core `c`: 0 SEQ, 1 MXE, 2 VXE, 3 TRF, 4 STR, 5 CCH, 6 CSP, 7 CHN (R485). -/
def corePage (c : CoreId) (b : Nat) : Nat := 0x40 + 0x10 * c.val + b

/-- SEQ page (R485). -/
abbrev pgSeq (c : CoreId) : Nat := corePage c 0
/-- MXE page (R485). -/
abbrev pgMxe (c : CoreId) : Nat := corePage c 1
/-- VXE page (R485). -/
abbrev pgVxe (c : CoreId) : Nat := corePage c 2
/-- TRF page (R485). -/
abbrev pgTrf (c : CoreId) : Nat := corePage c 3
/-- STR page (R485). -/
abbrev pgStr (c : CoreId) : Nat := corePage c 4
/-- CCH page (R485). -/
abbrev pgCch (c : CoreId) : Nat := corePage c 5
/-- CSP page (R485). -/
abbrev pgCsp (c : CoreId) : Nat := corePage c 6
/-- CHN page (R485). -/
abbrev pgChn (c : CoreId) : Nat := corePage c 7
/-- Mesh port page (R485). -/
abbrev pgMp (p : PortId) : Nat := 8 + p.val

/-- The blocks that own pages (R485). -/
inductive Block where
  | ccu | cmc | csc | txu | evx | rqt | ecm | mp | dbg
  | seq | mxe | vxe | trf | str | cch | csp | chn
  deriving DecidableEq, Repr, Inhabited

/-- The block of a core's page number b (R485). -/
def coreBlock : Nat → Option Block
  | 0 => some .seq | 1 => some .mxe | 2 => some .vxe | 3 => some .trf
  | 4 => some .str | 5 => some .cch | 6 => some .csp | 7 => some .chn
  | _ => none

/-- The block that owns a page; none for an absent page (R485, R486). -/
def blockOf (page : Nat) : Option Block :=
  if page = 0 then some .ccu else if page = 1 then some .cmc else if page = 2 then some .csc
  else if page = 3 then some .txu else if page = 4 then some .evx else if page = 5 then some .rqt
  else if page = 6 then some .ecm else if 8 ≤ page ∧ page ≤ 11 then some .mp else if page = 15 then some .dbg
  else if 0x40 ≤ page ∧ page < 0xC0 then coreBlock (page % 16) else none

/-- The core whose page it is. -/
def pageCore (page : Nat) : CoreId := Fin.ofNat 8 ((page - 0x40) / 16)

/-- The instance number of a page (R485). -/
def pageInstance (page : Nat) : Nat :=
  if 0x40 ≤ page then (page - 0x40) / 16 else if 8 ≤ page ∧ page ≤ 11 then page - 8 else 0

/-- Reset value of TMO.EXP by block (R514). -/
def tmoReset : Block → Nat
  | .ccu => 11 | .cmc => 16 | .csc => 16 | .txu => 17 | .evx => 24 | .rqt => 20 | .ecm => 20 | .mp => 12 | .dbg => 20
  | .seq => 16 | .mxe => 21 | .vxe => 21 | .trf => 16 | .str => 16 | .cch => 21 | .csp => 16 | .chn => 21

/-- The block type of PID (R514). -/
def pidType : Block → Nat
  | .ccu => 0x10 | .cmc => 0x11 | .csc => 0x12 | .txu => 0x13 | .evx => 0x14 | .rqt => 0x15 | .ecm => 0x16
  | .mp => 0x18 | .dbg => 0x1F | .seq => 2 | .mxe => 3 | .vxe => 5 | .trf => 4 | .str => 6 | .cch => 7 | .csp => 8
  | .chn => 9

/-- Reset values of the block-specific registers that do not reset to 0 (R138, R242, R263, R296, R349, R376, R380,
R415, R416, R423, R448, R481, R483, R510, R513). A husked register holds its 32-bit value (R495). -/
def blockReset : Block → Nat → Nat
  | .ccu, off =>
    if off = 0x150 then 0x40000000 else if off = 0x158 then 3 else if off = 0x160 then 5860
    else if off = 0x180 then 4 * 2 ^ 18 else if off = 0x190 then 4096 else if off = 0x198 then 3 else 0
  | .cmc, off => if off = 0x108 then 16 + 2 ^ 8 else 0
  | .txu, off => if off = 0x110 then 24 else 0
  | .evx, off => if off = 0x108 then 2 + 4 * 4 else 0
  | .rqt, off => if off = 0x108 then 20 else 0
  | .ecm, off =>
    if off = 0x100 then 3 + 2 ^ 4 + 2 ^ 5 + 2 ^ 6 + 34 * 2 ^ 7 else if off = 0x108 then 10 + 2 * 2 ^ 8 else 0
  | .mp, off =>
    if off = 0x100 then 14 * 4 + 32 * 2 ^ 7 else if off = 0x118 then 4 + 2 * 2 ^ 8 + 2 * 2 ^ 16
    else if off = 0x500 then 16
    else if 0x600 ≤ off ∧ (off - 0x600) % 0x28 = 0x20 then 9375 + 64 * 2 ^ 20 else 0
  | .dbg, off => if off = 0x100 then 2 else 0
  | .seq, off => if off = 0x198 then 21 else if 0x3C0 ≤ off ∧ off < 0x440 ∧ off % 8 = 0 then 1 else 0
  | .trf, off => if off = 0x200 then 21 else 0
  | .str, off => if off = 0x130 then 384 else 0
  | .chn, off => if off = 0x100 then 20 else 0
  | .csc, _ => 0
  | .mxe, _ => 0
  | .vxe, _ => 0
  | .cch, _ => 0
  | .csp, _ => 0

/-- Reset value of the register at an offset of a page (R487 and the page tables). -/
def regReset (page off : Nat) : Dword :=
  match blockOf page with
  | none => 0
  | some b => BitVec.ofNat 64 (if off = 0x40 then tmoReset b else blockReset b off)

/-- The register-file key of an offset of a page. -/
def regKey (page off : Nat) : Nat := 4096 * page + off

/-- The register held at an offset of a page. -/
def State.reg (s : State) (page off : Nat) : Dword := tget (regReset page off) s.regs (regKey page off)

/-- Replace the register held at an offset of a page. -/
def State.setReg (s : State) (page off : Nat) (v : Dword) : State :=
  { s with regs := tput (regReset page off) s.regs (regKey page off) v }

/-- Change the register held at an offset of a page. -/
def State.modReg (s : State) (page off : Nat) (f : Dword → Dword) : State := s.setReg page off (f (s.reg page off))

/-- A field of a register. -/
def State.rf (s : State) (page off lo w : Nat) : Nat := fld (s.reg page off) lo w

/-- Replace a field of a register. -/
def State.setRf (s : State) (page off lo w x : Nat) : State := s.modReg page off fun v => setFld v lo w x

/-- Set bits of a register. -/
def State.orReg (s : State) (page off : Nat) (m : Dword) : State := s.modReg page off fun v => v ||| m

/-- Add to a counter field that wraps. -/
def State.bumpRf (s : State) (page off lo w n : Nat) : State := s.setRf page off lo w (s.rf page off lo w + n)

/-- Add to a counter field that saturates. -/
def State.satRf (s : State) (page off lo w n : Nat) : State :=
  s.setRf page off lo w (min (2 ^ w - 1) (s.rf page off lo w + n))

/-- A husked register pair of 32-bit values, low half first (R496). -/
def State.regPair (s : State) (page lo hi : Nat) : Nat := s.rf page lo 0 32 + 2 ^ 32 * s.rf page hi 0 32

/-- Discard the listed register-file entries of a page for which `drop` holds, so that they read their reset value. -/
def State.resetRegs (s : State) (page : Nat) (drop : Nat → Bool) : State :=
  { s with regs := s.regs.filter fun e => !(e.1 / 4096 == page && drop (e.1 % 4096)) }

/-! ### Free values -/

/-- A free byte, and the state after drawing it. -/
def State.drawByte (s : State) : Byte × State := (Config.freeByte s.draws, { s with draws := s.draws + 1 })
/-- A free 32-bit value, and the state after drawing it. -/
def State.drawWord (s : State) : Word32 × State := (Config.freeWord s.draws, { s with draws := s.draws + 1 })
/-- A free 64-bit value, and the state after drawing it. -/
def State.drawDword (s : State) : Dword × State := (Config.freeDword s.draws, { s with draws := s.draws + 1 })
/-- A free choice among `n` (0 when there is none), and the state after drawing it. -/
def State.drawChoice (s : State) (n : Nat) : Nat × State :=
  (Config.freeChoice s.draws % n, { s with draws := s.draws + 1 })

end Sys2Proof.Machine
end

