-- ==== Sys2Proof/Machine/Wire.lean ====
section
/-! DEFINITION. Packets and their check codes, routes, the sending side of a mesh port, notifications to host software
and the recording of errors on a register page (R424 to R440, R491, R506). -/

namespace Sys2Proof.Machine

/-! ### CRC-32C (R369) -/

/-- One bit of the reflected Castagnoli division. -/
def crcBit (c : BitVec 32) : BitVec 32 := if c.getLsbD 0 then (c >>> 1) ^^^ 0x82F63B78 else c >>> 1

/-- One byte folded into the CRC register. -/
def crcByte (c : BitVec 32) (b : Byte) : BitVec 32 :=
  crcBit (crcBit (crcBit (crcBit (crcBit (crcBit (crcBit (crcBit (c ^^^ b.setWidth 32))))))))

/-- CRC-32C of a byte string: initial value and final XOR all ones (R369). -/
def crc32c (bs : List Byte) : BitVec 32 := ~~~(bs.foldl crcByte 0xFFFFFFFF)


end Sys2Proof.Machine

namespace Sys2Proof

open Sys2Proof.Machine

/-! ### Packets (R424 to R426) -/

/-- A packet of the given type, class and destination with every other field zero. -/
def Packet.blank (type tc : Nat) (dst : BitVec 32) : Packet where
  type := BitVec.ofNat 4 type
  tc := BitVec.ofNat 2 tc
  sr := false
  yx := false
  mem := false
  hops := 0
  rsv := 0
  seq := 0
  tag := 0
  rsv2 := 0
  dst := dst
  src := 0
  addr := 0
  sub := 0
  spec := 0
  hchk := 0
  payload := []
  crc := 0

/-- Header bytes 0 to 7 (R425). -/
def Packet.word0 (k : Packet) : Nat :=
  k.type.toNat + 2 ^ 4 * k.tc.toNat + 2 ^ 6 * bit k.sr + 2 ^ 7 * bit k.yx + 2 ^ 8 * bit k.mem
    + 2 ^ 9 * (k.payload.length % 4096) + 2 ^ 21 * k.hops.toNat + 2 ^ 27 * k.rsv.toNat + 2 ^ 32 * k.seq.toNat
    + 2 ^ 48 * k.tag.toNat + 2 ^ 59 * k.rsv2.toNat

/-- Header bytes 0 to 29 (R425). -/
def Packet.head30 (k : Packet) : List Byte :=
  natLe 8 k.word0 ++ natLe 4 k.dst.toNat ++ natLe 4 k.src.toNat ++ natLe 6 k.addr.toNat ++ natLe 2 k.sub.toNat
    ++ natLe 6 k.spec.toNat

/-- HCHK: the low half of the CRC of header bytes 0 to 29 (R425). -/
def Packet.headCheck (k : Packet) : BitVec 16 := (crc32c k.head30).setWidth 16

/-- Flits of a packet (R424). -/
def Packet.flits (k : Packet) : Nat := (36 + k.payload.length + 63) / 64

/-- Every byte of the packet but its last four: header, payload and zero padding (R424). -/
def Packet.body (k : Packet) : List Byte :=
  k.head30 ++ natLe 2 k.hchk.toNat ++ k.payload ++ List.replicate (64 * k.flits - 36 - k.payload.length) 0

/-- The CRC a packet must carry (R424). -/
def Packet.bodyCheck (k : Packet) : BitVec 32 := crc32c k.body

/-- The packet with its check fields computed afresh, as every sender does (R424). -/
def Packet.seal (k : Packet) : Packet :=
  let k1 := { k with hchk := k.headCheck }
  { k1 with crc := k1.bodyCheck }

/-- Byte `n` of the header, 24 ≤ n ≤ 29. -/
def Packet.byte (k : Packet) (n : Nat) : Byte := k.spec.extractLsb' (8 * (n - 24)) 8

/-- The island a packet addressed to the cluster goes to, as R513 numbers islands: a message to the core whose CSP window its
ADDR lies in, its answers to the core their TAG names, MGMT to the CCU island, everything else to the memory island. -/
def Packet.island (k : Packet) : Nat :=
  if k.type = 5 then fld k.addr 20 3
  else if k.type = 6 ∨ (k.type = 4 ∧ k.tc = 3 ∧ k.byte 25 ≠ 0) then fld k.tag 6 3
  else if k.type = 8 then 9
  else 8

end Sys2Proof

namespace Sys2Proof.Machine

/-! ### Coordinates and routes (R434 to R437, R449) -/

/-- Fields of COORD. -/
def State.ownDev (s : State) : Nat := s.rf 8 0x150 0 16
/-- Own die. -/
def State.ownDie (s : State) : Nat := s.rf 8 0x150 16 5
/-- Own cluster on the die. -/
def State.ownCluster (s : State) : Nat := s.rf 8 0x150 21 4
/-- Whether COORD is VALID. -/
def State.coordValid (s : State) : Bool := s.rf 8 0x150 25 1 == 1

/-- The SRC word of the cluster's own packets from a unit: 0–7 core, 8–11 port, 12 CCU island, 13 memory island
(R425). -/
def State.srcWord (s : State) (unit : Nat) : BitVec 32 :=
  BitVec.ofNat 32 (s.ownDev + 2 ^ 16 * s.ownDie + 2 ^ 21 * s.ownCluster + 2 ^ 25 * unit)

/-- The base of the own cluster's window in device-local addresses (R24). -/
def State.windowBase (s : State) : Nat := 2 ^ 47 + 2 ^ 38 * s.ownDie + 2 ^ 34 * s.ownCluster

/-- What becomes of a packet at a cluster. -/
inductive Hop where
  | deliver
  | out (p : PortId) (yx : Bool)
  | noroute
  deriving DecidableEq, Repr, Inhabited

/-- Whether a MEMWIN entry's EN counts: aligned base and SZ at most 14 (R437). -/
def memwinOn (v : Nat) : Bool :=
  let sz := v / 2 ^ 15 % 16
  v / 2 ^ 30 % 2 == 1 && decide (sz ≤ 14) && v % 2 ^ 15 % 2 ^ sz == 0

/-- Whether a MEMWIN entry matches an own-device address with bit 47 clear (R437). -/
def memwinHit (v addr : Nat) : Bool :=
  let sz := v / 2 ^ 15 % 16
  memwinOn v && addr / 2 ^ 32 % 2 ^ 15 / 2 ^ sz == v % 2 ^ 15 / 2 ^ sz

/-- The lowest-numbered MEMWIN entry that matches (R434). -/
def State.memwin (s : State) (addr : Nat) : Option Nat :=
  ((List.range 32).map fun w => s.rf 8 (0x200 + 8 * w) 0 32).find? fun v => memwinHit v addr

/-- DST and MEM of a packet to a system address (R434); none for ERR NOROUTE. -/
def State.dstOf (s : State) (sys : Nat) : Option (BitVec 32 × Bool) :=
  let dev := sys / 2 ^ 48 % 2 ^ 16
  let a := sys % 2 ^ 48
  if dev ≠ s.ownDev then some (BitVec.ofNat 32 dev, false)
  else if a / 2 ^ 47 = 1 then
    if a / 2 ^ 43 % 16 = 0 then
      some (BitVec.ofNat 32 (dev + 2 ^ 16 * (a / 2 ^ 38 % 32) + 2 ^ 21 * (a / 2 ^ 34 % 16)), false)
    else none
  else
    match s.memwin a with
    | none => none
    | some v =>
      some (BitVec.ofNat 32 (dev + 2 ^ 16 * (v / 2 ^ 19 % 32) + 2 ^ 21 * (v / 2 ^ 24 % 16) + 2 ^ 25 * (v / 2 ^ 28 % 4)),
        true)

/-- Whether an EXIT entry matches a destination outside the own die (R435, R436). -/
def State.exitHit (s : State) (v dst : Nat) : Bool :=
  let dev := dst % 2 ^ 16
  let die := dst / 2 ^ 16 % 32
  v / 2 ^ 28 % 2 == 1 &&
  (if v % 2 = 1 then
     dev == s.ownDev && decide (v / 2 % 32 ≤ die) && decide (die ≤ v / 2 ^ 6 % 32)
   else
     let plen := min 16 (v / 2 ^ 17 % 32)
     (v / 2 % 2 ^ 16) / 2 ^ (16 - plen) == dev / 2 ^ (16 - plen))

/-- First side towards cluster `d` in X-then-Y or Y-then-X order; cluster c lies at x = c[1:0], y = c[3:2]. -/
def sideTowards (own d : Nat) (yx : Bool) : PortId :=
  let x := own % 4
  let y := own / 4 % 4
  let dx := d % 4
  let dy := d / 4 % 4
  let inX : PortId := if dx > x then 1 else 3
  let inY : PortId := if dy > y then 2 else 0
  if yx then (if dy ≠ y then inY else inX) else (if dx ≠ x then inX else inY)

/-- Leaving through a port: a packet with YX set has no route when that port is FAILED, DOWN or MISWIRE (R435). -/
def State.leaveBy (s : State) (p : PortId) (yx : Bool) : Hop :=
  if !yx then .out p false
  else match s.ports[p].link with
    | .failed => .noroute
    | .down => .noroute
    | .miswire => .noroute
    | .hello => .out p true
    | .up => .out p true
    | .disabled => .out p true

/-- Routing towards another cluster of the own die (R435). -/
def State.routeTowards (s : State) (d : Nat) (yx : Bool) : Hop :=
  if yx then s.leaveBy (sideTowards s.ownCluster d true) true
  else
    let r := s.rf 8 (0x180 + 8 * d) 0 5
    let port : PortId := Fin.ofNat 4 (r / 4)
    match r % 4 with
    | 0 => .out (sideTowards s.ownCluster d false) false
    | 1 => .out port false
    | 2 => .out port true
    | _ => .noroute

/-- The cluster of the own die that a packet makes for, and the side by which it leaves there if it goes on (R435); none when no
EXIT entry matches. -/
def State.aim (s : State) (dst : BitVec 32) (mem : Bool) : Option (Nat × Option PortId) :=
  let d := dst.toNat
  if d % 2 ^ 16 ≠ s.ownDev ∨ d / 2 ^ 16 % 32 ≠ s.ownDie then
    (((List.range 64).map fun e => s.rf 8 (0x300 + 8 * e) 0 32).find? fun v => s.exitHit v d).map fun v =>
      (v / 2 ^ 22 % 16, some (Fin.ofNat 4 (v / 2 ^ 26)))
  else some (d / 2 ^ 21 % 16, if mem then some (Fin.ofNat 4 (d / 2 ^ 25)) else none)

/-- The route of a packet at this cluster from its DST alone (R435). -/
def State.route (s : State) (dst : BitVec 32) (mem yx : Bool) : Hop :=
  match s.aim dst mem with
  | none => .noroute
  | some (c, side) =>
    if c ≠ s.ownCluster then s.routeTowards c yx
    else match side with
      | none => .deliver
      | some p => s.leaveBy p yx

/-! ### Performance counters (R488) -/

/-- Count an event of a block in every PMCNT[n] whose PMSEL[n] holds its code, unless PMFREEZE is 1 (R488). -/
def State.pm (s : State) (page code n : Nat) : State :=
  if s.rf 15 0x100 0 1 = 1 then s
  else (List.range 8).foldl
    (fun t k => if t.rf page (0x80 + 8 * k) 0 8 = code then t.modReg page (0xC0 + 8 * k) (· + BitVec.ofNat 64 n) else t) s

/-! ### Sending on a link (R428, R430) -/

/-- Weight of class 1 to 3 (R448: 0 reads 1). -/
def State.wrr (s : State) (p : PortId) (k : Fin 3) : Nat := max 1 (s.rf (pgMp p) 0x118 (8 * k.val) 8)

/-- Whether the link may carry this packet in its present state: nothing when FAILED or DISABLED, everything when UP,
nothing but HELLO in MISWIRE, and source-routed packets while the HELLO exchange runs (R429, R442, R444, R448). -/
def linkCarries (l : LinkState) (k : Packet) : Bool :=
  match l with
  | .up => true
  | .down => k.sr
  | .hello => k.sr
  | .failed => false
  | .disabled => false
  | .miswire => false

/-- Whether the head packet of a class can leave: the link carries it, credits cover every flit, and the replay buffer
has room (R428, R430). -/
def Port.canSend (q : Port) (tc : Nat) : Bool :=
  match vget [] q.txq tc with
  | [] => false
  | k :: _ => linkCarries q.link k && decide (k.flits ≤ vget 0 q.credits tc) && decide (q.replay.length < 16)

/-- The class that sends next (R430): TC0 first, else weighted round robin among TC1 to TC3, with the turn after it. -/
def State.pickClass (s : State) (p : PortId) : Option (Nat × Fin 3 × Nat) :=
  let q := s.ports[p]
  if q.canSend 0 then some (0, q.turn, q.used)
  else
    let t0 := q.turn
    let t1 : Fin 3 := t0 + 1
    let t2 : Fin 3 := t0 + 2
    if q.canSend (t0.val + 1) && decide (q.used < s.wrr p t0) then some (t0.val + 1, t0, q.used)
    else if q.canSend (t1.val + 1) then some (t1.val + 1, t1, 0)
    else if q.canSend (t2.val + 1) then some (t2.val + 1, t2, 0)
    else if q.canSend (t0.val + 1) then some (t0.val + 1, t0, 0)
    else none

/-- Send one packet of a port if one may leave: it takes the next SEQ and enters the replay buffer (R428). -/
def State.sendOne (s : State) (p : PortId) : State :=
  match s.pickClass p with
  | none => s
  | some (tc, turn, used) =>
    match vget [] s.ports[p].txq tc with
    | [] => s
    | k :: rest =>
      let q := s.ports[p]
      let sent := { k with seq := q.nextSeq }.seal
      let s1 := s.updPort p fun q =>
        { q with
          txq := vset q.txq tc rest
          credits := vmod q.credits tc fun n => n - k.flits
          replay := q.replay ++ [sent]
          nextSeq := q.nextSeq + 1
          turn := turn
          used := if tc = 0 then used else used + k.flits }
      ((s1.pm (pgMp p) 0x01 k.flits).pm (pgMp p) (0x03 + tc) 1)

/-- Send packets of a port while any may leave. -/
def State.pump (s : State) (p : PortId) : Nat → State
  | 0 => s
  | n + 1 => (s.sendOne p).pump p n

/-- Packets a port still holds for its link. -/
def Port.waiting (q : Port) : Nat := (q.txq.toList.map List.length).sum

/-- Queue a packet at a port of the cluster and let the port send what it may. -/
def State.enqueue (s : State) (p : PortId) (k : Packet) : State :=
  let s1 := s.updPort p fun q => { q with txq := vmod q.txq k.tc.toNat (· ++ [k]) }
  s1.pump p (s1.ports[p]).waiting

/-- Deliver a packet to the cluster: it enters the crossing from port `p`, or none for a packet of the cluster's own, to the
island it goes to (R14). -/
def State.deliver (s : State) (p : Option PortId) (k : Packet) : State := { s with inbox := s.inbox ++ [(p, k)] }

/-- Whether the crossing from port `p` to the island of a packet is full (R15). -/
def State.portFull (s : State) (p : PortId) (k : Packet) : Bool :=
  decide (crossDepth ≤ (s.inbox.filter fun x => x.1 == some p && x.2.island == k.island).length)

/-- The first delivered packet that satisfies `f`, if no other stands before it in its crossing (R14), with the port that
brought it, and the packets without it. `seen` are the crossings with an entry before this one. -/
def frontOf (f : Packet → Bool) :
    List (Option PortId × Nat) → List (Option PortId × Packet) → Option ((Option PortId × Packet) × List (Option PortId × Packet))
  | _, [] => none
  | seen, x :: xs =>
    if f x.2 && !seen.contains (x.1, x.2.island) then some (x, xs)
    else (frontOf f ((x.1, x.2.island) :: seen) xs).map fun r => (r.1, x :: r.2)

/-- Take a delivered packet that satisfies `f` from the front of its crossing. -/
def State.takePacket (s : State) (f : Packet → Bool) : Option ((Option PortId × Packet) × State) :=
  (frontOf f [] s.inbox).map fun r => (r.1, { s with inbox := r.2 })

/-- HOPLIM of a port (R448: 0 reads 1). -/
def State.hoplim (s : State) (p : PortId) : Nat := max 1 (s.rf (pgMp p) 0x100 7 6)

/-- Types that the cluster takes in when they are addressed to it. RED records, events and MRSP answers come with commands of
their own, or have no receiver here. -/
def takesIn (k : Packet) : Bool := decide (k.type.toNat ≤ 6) || k.type == 8

/-- Whether routing a packet here uses a ROUTE entry of a MODE other than 0. -/
def State.detoured (s : State) (k : Packet) : Bool :=
  match s.aim k.dst k.mem with
  | none => false
  | some (c, _) => !k.yx && c != s.ownCluster && s.rf 8 (0x180 + 8 * c) 0 2 != 0

/-- Give a packet that enters the mesh here to the port its DST chooses, with HOPS set to that port's HOPLIM (R433,
R435); none if it has no route. A packet whose destination is this cluster is delivered at once. -/
def State.sendMesh (s : State) (k : Packet) : Option State :=
  match s.route k.dst k.mem k.yx with
  | .noroute => none
  | .deliver => some (if takesIn k then s.deliver none k.seal else s)
  | .out p yx =>
    some ((if s.detoured k then s.pm (pgMp p) 0x0B 1 else s).enqueue p { k with yx := yx, hops := BitVec.ofNat 6 (s.hoplim p) })

/-- Send a packet of the cluster to a system address; none for ERR NOROUTE (R434). -/
def State.sendSys (s : State) (sys : Nat) (k : Packet) : Option State :=
  match s.dstOf sys with
  | none => none
  | some (dst, mem) => s.sendMesh { k with dst := dst, mem := mem, addr := BitVec.ofNat 48 sys }

/-! ### Notifications (R506, R507) -/

/-- Build one EVT packet and send it as EVT_ADDR routes it; none when it does not route (R506). -/
def State.evtPacket (s : State) (code : Nat) (detail : Dword) : Option State :=
  let k : Packet :=
    { Packet.blank 0xA 0 0 with
      src := s.srcWord 12
      spec := BitVec.ofNat 48 code
      payload := natLe 8 detail.toNat }
  (s.sendSys (s.regPair 0 0x210 0x218) k).map fun t => t.modReg 0 0x228 fun v => setFld v 0 32 (fld v 0 32 + 1)

/-- An event of a coalesced code: sent while EN is 1 when its EVT_PEND bit changes from 0 to 1 and it is not masked (R506). -/
def State.evtOnce (s : State) (code : Nat) (detail : Dword) : State :=
  if s.rf 0 0x200 0 1 = 1 then
    let pend := bitAt (s.reg 0 0x208) code
    let s1 := s.orReg 0 0x208 (1 <<< code)
    if !pend && !bitAt (s.reg 0 0x220) code then (s1.evtPacket code detail).getD s1 else s1
  else s

/-- Count an "always" event that was not sent and set ERR.EVTLOST, itself a cause that ERROR reports (R506, R507). -/
def State.evtLost (s : State) : State :=
  let s1 := s.modReg 0 0x228 fun v => setFld v 32 32 (fld v 32 32 + 1)
  let e := s1.reg 0 0x20
  if bitAt (s1.reg 0 0x28) 12 then s1
  else
    let s2 := if fld e 3 61 = 0 then (s1.setReg 0 0x30 (BitVec.ofNat 64 (6 * 2 ^ 20))).setReg 0 0x38 0 else s1
    (s2.orReg 0 0x20 (1 <<< 12)).evtOnce 0xC 0

/-- Codes that are sent at every occurrence (R507). -/
def evtAlways (code : Nat) : Bool :=
  code == 1 || code == 2 || code == 3 || code == 4 || code == 5 || code == 0xB

/-- Notify host software of an event (R506). -/
def State.evt (s : State) (code : Nat) (detail : Dword) : State :=
  if evtAlways code then
    if s.rf 0 0x200 0 1 = 1 then
      let s1 := s.orReg 0 0x208 (1 <<< code)
      (s1.evtPacket code detail).getD s1.evtLost
    else s.evtLost
  else s.evtOnce code detail

/-! ### Errors of a page (R491) -/

/-- Set an ERR bit that never captures: HUSK (0) or BUSY (2) (R491). -/
def State.errBit (s : State) (page b : Nat) : State :=
  if bitAt (s.reg page 0x28) b then s else s.orReg page 0x20 (1 <<< b)

/-- A husked write whose halves disagree is discarded (R495). -/
def State.huskErr (s : State) (page : Nat) : State := (s.errBit page 0).satRf page 0x48 0 32 1

/-- The value of a husked 64-bit write or word; none when its halves disagree (R495). -/
def huskValue (v : Dword) : Option Word32 :=
  if v.extractLsb' 32 32 = ~~~(v.extractLsb' 0 32) then some (v.extractLsb' 0 32) else none

/-- A 32-bit value with its complement above it (R495). -/
def husked (v : Word32) : Dword := ~~~v ++ v

/-- Record cause `b` on a page: unless masked, set its ERR bit, capture ERR_INFO when no capturing bit was set, and
notify ERROR (R491, R507). -/
def State.err (s : State) (page b : Nat) (info0 info1 : Dword) : State :=
  if bitAt (s.reg page 0x28) b then s
  else
    let e := s.reg page 0x20
    let s1 := if fld e 3 61 = 0 then (s.setReg page 0x30 info0).setReg page 0x38 info1 else s
    (s1.orReg page 0x20 (1 <<< b)).evt 0xC (BitVec.ofNat 64 page)

/-- The ERR code a request receives when no route leads to its target (R440). -/
def errNoRoute : Nat := 1

/-- ERR NOROUTE for a packet of the cluster's own (R434, R447). Which of the ports answers is left open when the packet has
not reached one. -/
def State.noRoute (s : State) (p : PortId) (k : Packet) : State :=
  let info0 := k.type.toNat + 2 ^ 4 * k.tc.toNat + 2 ^ 6 * 4 + 2 ^ 10 * k.seq.toNat + 2 ^ 26 * errNoRoute
  let s1 := s.err (pgMp p) 11 (BitVec.ofNat 64 info0) (k.src ++ k.dst)
  s1.bumpRf (pgMp p) 0x140 0 32 1

end Sys2Proof.Machine
end

