-- ==== Sys2Proof/Machine/Store.lean ====
section
/-! DEFINITION. Protected storage (R451 to R469): the check code, reads and writes of code words with remapping, flips
and reports, the error log, and byte access to the CM and the CSPs through it. `State.mem` holds what was last written;
`Ecm.upsets` and `Ecm.spareUpsets` hold how each stored code word differs from that. The code is linear, so the outcome
of a read depends on the difference alone. -/

namespace Sys2Proof.Machine

/-! ### The check code (R451, R452) -/

/-- Multiplication by α in GF(128) with α^7 = α + 1. -/
def gfAlpha (v : Nat) : Nat := if 2 * v < 128 then 2 * v else (2 * v) ^^^ 0x83

/-- α^n. -/
def gfPow : Nat → Nat
  | 0 => 1
  | n + 1 => gfAlpha (gfPow n)

/-- Whether a difference flips position `p` of the BCH code: c[p] for p < 14, else d[p − 14] (R451). -/
def bchBit (m : BitVec 80) (p : Nat) : Bool := if p < 14 then m.getLsbD (64 + p) else m.getLsbD (p - 14)

/-- The code-word bit at a BCH position. -/
def bchMask (p : Nat) : BitVec 80 := if p < 14 then 1 <<< (64 + p) else 1 <<< (p - 14)

/-- Syndrome of a difference at α^k. -/
def syndrome (k : Nat) (m : BitVec 80) : Nat :=
  (List.range 78).foldl (fun a p => if bchBit m p then a ^^^ gfPow (k * p % 127) else a) 0

/-- Parity of d and c[14:0] of a difference (R451). -/
def oddParity (m : BitVec 80) : Bool := (List.range 79).foldl (fun a p => a != m.getLsbD p) false

/-- The one position that explains a syndrome pair. -/
def locateOne (s1 s3 : Nat) : Option Nat :=
  (List.range 78).find? fun p => gfPow p == s1 && gfPow (3 * p % 127) == s3

/-- The two positions that explain a syndrome pair. -/
def locateTwo (s1 s3 : Nat) : Option (Nat × Nat) :=
  (List.range 78).findSome? fun p =>
    ((List.range p).find? fun q =>
      (gfPow p ^^^ gfPow q) == s1 && (gfPow (3 * p % 127) ^^^ gfPow (3 * q % 127)) == s3).map fun q => (p, q)

/-- The outcome of decoding (R452): clean, corrected by flipping the bits of `fix`, or uncorrectable. -/
inductive Ecc where
  | clean
  | ce (fix : BitVec 80)
  | ue (address : Bool)
  deriving DecidableEq, Repr, Inhabited

/-- Decode a word that differs by `m` from a code word (R452). -/
def eccOf (m : BitVec 80) : Ecc :=
  if m = 0 then .clean
  else if m.getLsbD 79 then .ue true
  else
    let s1 := syndrome 1 m
    let s3 := syndrome 3 m
    let odd := oddParity m
    let c14 : BitVec 80 := 1 <<< 78
    if s1 = 0 ∧ s3 = 0 then (if odd then .ce c14 else .clean)
    else match locateOne s1 s3 with
      | some p => .ce (if odd then bchMask p else bchMask p ||| c14)
      | none =>
        match locateTwo s1 s3 with
        | some (p, q) => if odd then .ue false else .ce (bchMask p ||| bchMask q)
        | none => .ue false

/-! ### Macro groups (R461) -/

/-- Key of a word of a macro group. -/
def wordKey (g i : Nat) : Nat := 2 ^ 17 * g + i

/-- Group and index of the CM word at a CM offset (R21, R461). -/
def cmWord (x : Nat) : Nat × Nat := (x / 128 % 48, x / 128 / 48 * 16 + x / 8 % 16)

/-- Group and index of the CSP word at an offset of core c's CSP (R461). -/
def cspWord (c x : Nat) : Nat × Nat := (64 + 4 * c, x / 8)

/-- Size of the CM (R24). -/
def cmSize : Nat := 0xC00000
/-- Size of a CSP (R24). -/
def cspSize : Nat := 0x80000
/-- Cluster offset of a CSP byte (R24). -/
def cspOff (c : CoreId) (x : Nat) : Nat := 0x100000000 + 0x100000 * c.val + x

/-- Group and index of the word at a cluster offset of the CM or of a CSP. -/
def placeOf (off : Nat) : Nat × Nat :=
  if off < 0x100000000 then cmWord off else cspWord (off / 0x100000 % 8) (off % 0x100000)

/-! ### Reports and the error log (R454, R455, R477) -/

/-- Lay an error-log record at the log's write pointer; the log is the upper half of the spare array (R477). -/
def State.logError (s : State) (group kind source flags w4 : Nat) : State :=
  let wp := s.rf 6 0x160 2 9
  let rec16 := natLe 4 (group % 256 + 2 ^ 8 * kind + 2 ^ 16 * source + 2 ^ 24 * flags) ++ natLe 4 w4
    ++ natLe 8 s.ccu.cyc.toNat
  let s1 := { s with ecm := { s.ecm with errlog := tputs 0 s.ecm.errlog (8192 + 16 * wp) rec16 } }
  s1.setRf 6 0x160 2 9 (wp + 1)

/-- Record an ECM cause with the capture of R480. -/
def State.ecmErr (s : State) (b group kind source : Nat) (addr : Bool) (index : Nat) : State :=
  s.err 6 b (BitVec.ofNat 64 (group % 128 + 2 ^ 7 * kind + 2 ^ 11 * source + 2 ^ 15 * bit addr)) (BitVec.ofNat 64 index)

/-- A CE report on its way to the ECM; the 64-entry queue loses what it cannot hold (R454). -/
def State.reportCe (s : State) (g i src : Nat) (fix : BitVec 80) : State :=
  if s.ecm.ceQ.length < 64 then
    { s with ecm := { s.ecm with ceQ := s.ecm.ceQ ++ [⟨g, i, src, false, s.ecm.tested.contains (wordKey g i), fix⟩] } }
  else (s.bumpRf 6 0x120 0 32 1).ecmErr 11 g 1 src false i

/-- A UE report on its way to the ECM (R455). -/
def State.reportUe (s : State) (g i src : Nat) (addr : Bool) : State :=
  { s with ecm := { s.ecm with ueQ := s.ecm.ueQ ++ [⟨g, i, src, addr, s.ecm.tested.contains (wordKey g i), 0⟩] } }

/-! ### Code words (R453, R463, R465, R468) -/

/-- Whether a remap value is VALID (R462). -/
def remapValid (v : Word32) : Bool := v.getLsbD 19
/-- INDEX of a remap value (R462). -/
def remapIndex (v : Word32) : Nat := fld v 0 17
/-- POISON of a remap value (R462). -/
def remapPoison (v : Word32) : Bool := v.getLsbD 17

/-- The entry that serves a word: the lowest VALID one that names it (R463). -/
def State.remapOf (s : State) (g i : Nat) : Option Nat :=
  (List.range 8).find? fun k =>
    let v := tget 0 s.ecm.remap (8 * g + k)
    remapValid v && remapIndex v == i

/-- The difference of the code word that serves a word. -/
def State.upsetOf (s : State) (g i : Nat) : BitVec 80 :=
  match s.remapOf g i with
  | some k => tget 0 s.ecm.spareUpsets (8 * g + k)
  | none => tget 0 s.ecm.upsets (wordKey g i)

/-- Set the difference of the code word that serves a word. -/
def State.setUpset (s : State) (g i : Nat) (m : BitVec 80) : State :=
  match s.remapOf g i with
  | some k => { s with ecm := { s.ecm with spareUpsets := tput 0 s.ecm.spareUpsets (8 * g + k) m } }
  | none => { s with ecm := { s.ecm with upsets := tput 0 s.ecm.upsets (wordKey g i) m } }

/-- Whether the word is served by a poisoned spare (R465). -/
def State.poisoned (s : State) (g i : Nat) : Bool :=
  match s.remapOf g i with
  | some k => remapPoison (tget 0 s.ecm.remap (8 * g + k))
  | none => false

/-- A read of one word: whether it is uncorrectable, how the delivered data differs from what was written, and the
reports it makes. -/
structure WordRead where
  ue   : Bool
  diff : Dword
  s    : State

/-- Read a word for a requester with source code `src` (R452, R454, R455, R463). -/
def State.readWord (s : State) (src g i : Nat) : WordRead :=
  if s.poisoned g i then ⟨true, 0, s.reportUe g i src false⟩
  else
    let m := s.upsetOf g i
    match eccOf m with
    | .clean => ⟨false, m.setWidth 64, s⟩
    | .ce fix => ⟨false, (m ^^^ fix).setWidth 64, s.reportCe g i src fix⟩
    | .ue a => ⟨true, 0, s.reportUe g i src a⟩

/-- Whether the flip registers are armed for a word (R468). -/
def State.flipHits (s : State) (g i : Nat) : Bool :=
  s.rf 6 0x158 1 1 == 1 && s.rf 6 0x150 0 17 == i && s.rf 6 0x150 17 7 == g

/-- The flip mask (R468). -/
def State.flipMask (s : State) : BitVec 80 := (s.reg 6 0x148).setWidth 16 ++ s.reg 6 0x140

/-- The code word of a word is rewritten: freshly encoded, or XOR the flip mask when the word is armed (R468), and its
TEST mark ends with the next write (R469). -/
def State.encodeWord (s : State) (g i : Nat) : State :=
  let key := wordKey g i
  if s.flipHits g i then
    let s1 := s.setUpset g i s.flipMask
    let s2 := { s1 with ecm := { s1.ecm with tested := key :: s1.ecm.tested.filter (· != key) } }
    s2.modReg 6 0x158 fun v => setFld (setFld v 1 1 0) 2 1 1
  else
    let s1 := s.setUpset g i 0
    { s1 with ecm := { s1.ecm with tested := s1.ecm.tested.filter (· != key) } }

/-- A full write of a word during its fill goes to the spare word too, which is no longer to be poisoned (R464, R465). -/
def RemapOp.written (o : RemapOp) (g i : Nat) : RemapOp := if o.fill ∧ o.group = g ∧ o.index = i then { o with poison := false } else o

/-- Clear POISON of the spare that serves a word, or will once its fill is done (R464, R465). -/
def State.clearPoison (s : State) (g i : Nat) : State :=
  match s.remapOf g i with
  | some k => { s with ecm := { s.ecm with remap := tmod 0 s.ecm.remap (8 * g + k) fun v => setFld v 17 1 0 } }
  | none => { s with ecm := { s.ecm with op := s.ecm.op.map fun o => o.written g i } }

/-- Write a word, whole or in part (R453, R465): whether it is refused, and how the data kept in a partial write
differs from what was last written. -/
def State.writeWord (s : State) (src g i : Nat) (full : Bool) : WordRead :=
  if full then ⟨false, 0, (s.clearPoison g i).encodeWord g i⟩
  else
    let r := s.readWord src g i
    if r.ue then r else ⟨false, r.diff, r.s.encodeWord g i⟩

/-! ### Bytes of the CM and the CSPs -/

/-- XOR a 64-bit difference into eight bytes. -/
def xorBytes (bs : List Byte) (d : Dword) : List Byte := (bs.zip (natLe 8 d.toNat)).map fun p => p.1 ^^^ p.2

/-- What a read of several words delivers: the bytes and the offsets of the uncorrectable words. -/
structure Loaded where
  bytes : List Byte
  bad   : List Nat
  s     : State

/-- Read `n` aligned words from a cluster offset. -/
def State.loadWords (s : State) (src off : Nat) : Nat → Loaded
  | 0 => ⟨[], [], s⟩
  | n + 1 =>
    let p := placeOf off
    let r := s.readWord src p.1 p.2
    let t := r.s.loadWords src (off + 8) n
    ⟨xorBytes (memRead s.mem off 8) r.diff ++ t.bytes, if r.ue then off :: t.bad else t.bad, t.s⟩

/-- Read `n` bytes from a cluster offset. -/
def State.load (s : State) (src off n : Nat) : Loaded :=
  let a := off / 8 * 8
  let r := s.loadWords src a ((off + n + 7) / 8 - off / 8)
  ⟨(r.bytes.drop (off - a)).take n, r.bad, r.s⟩

/-- Group neighbouring cells of one word together. -/
def groupCells : List (Nat × Byte) → List (Nat × List (Nat × Byte))
  | [] => []
  | (a, b) :: t =>
    match groupCells t with
    | (w, cs) :: r => if w = a / 8 then (w, (a, b) :: cs) :: r else (a / 8, [(a, b)]) :: (w, cs) :: r
    | [] => [(a / 8, [(a, b)])]

/-- What a write of several words leaves: whether a word refused it, and the state. -/
structure Stored where
  refused : Bool
  s       : State

/-- Write the words of a list of grouped cells; a word that refuses keeps its content, the others are written
(R453). -/
def State.storeWords (s : State) (src : Nat) : List (Nat × List (Nat × Byte)) → Stored
  | [] => ⟨false, s⟩
  | (w, cs) :: t =>
    let p := placeOf (8 * w)
    let r := s.writeWord src p.1 p.2 (decide (8 ≤ cs.length))
    if r.ue then let u := r.s.storeWords src t; ⟨true, u.s⟩
    else
      let kept := if r.diff = 0 then r.s.mem else memWrite r.s.mem (8 * w) (xorBytes (memRead r.s.mem (8 * w) 8) r.diff)
      { r.s with mem := memPuts kept cs }.storeWords src t

/-- Write a list of (cluster offset, byte) cells in ascending order. -/
def State.storeCells (s : State) (src : Nat) (cs : List (Nat × Byte)) : Stored := s.storeWords src (groupCells cs)

/-- The cells of consecutive bytes. -/
def cellsAt (off : Nat) : List Byte → List (Nat × Byte)
  | [] => []
  | b :: t => (off, b) :: cellsAt (off + 1) t

/-- Write consecutive bytes. -/
def State.store (s : State) (src off : Nat) (bs : List Byte) : Stored := s.storeCells src (cellsAt off bs)

/-! ### Whether the memory tile answers (R422, R471, R475, R523) -/

/-- Whether CM and CSC accesses are served: not after a cluster fault, not in SLEEP or OFF. Otherwise they receive an error
reply. -/
def State.cmServed (s : State) : Bool := s.ccu.st != .fault && s.ccu.power == .on

/-- Whether the memory island's logic has stopped (R471). -/
def State.memHalted (s : State) : Bool := vget false s.stopped 8

/-- Whether accesses to the CM and the CSC hang: the memory island's logic has stopped, and the CCU does not answer them with an
error yet (R471, R475). -/
def State.memDead (s : State) : Bool := s.memHalted && s.ccu.st != .fault

/-! ### Abort causes (R233, R236) -/

/-- Whether the core holds a task, or handles the descriptor or image of one (R233). -/
def Seq.holds (q : Seq) : Bool :=
  q.task.isSome || (match q.dispatch with
    | .reading _ => true
    | .loading _ _ => true
    | .none => false
    | .sent => false
    | .polling => false)

/-- A cause reaches core c's SEQ: recorded for the abort of the held task, or counted in ABORT.LOST when the task is
already aborting; nothing when no task is held. -/
def State.cause (s : State) (c : CoreId) (code : Byte) (host : Bool := false) : State :=
  let q := (s.core c).seq
  if q.abortTask then s.satRf (pgSeq c) 0x1A0 48 16 1
  else if !q.holds then s
  else s.updSeq c fun q => { q with causes := q.causes ++ [⟨code, host⟩] }

end Sys2Proof.Machine
end

