-- ==== Sys2Proof/Machine/Operands.lean ====
section
/-! DEFINITION. The fields of a control word and of its slots (R201 to R215, R106, R107, R135, R136, R176, R177, R292,
R293, R308, R346, R364): extraction, the reserved encodings that raise ILLEGAL_CW, and the A registers a word names. -/

namespace Sys2Proof.Machine

/-- A control word (R201). -/
abbrev Cw := BitVec 256

/-- FMT (R202). -/
def Cw.fmt (w : Cw) : Nat := fld w 248 8
/-- MX slot. -/
def Cw.mx (w : Cw) : BitVec 40 := w.extractLsb' 208 40
/-- VX slot. -/
def Cw.vx (w : Cw) : BitVec 40 := w.extractLsb' 168 40
/-- ST slot. -/
def Cw.st (w : Cw) : BitVec 40 := (w.extractLsb' 136 32).setWidth 40
/-- LS slot. -/
def Cw.ls (w : Cw) : BitVec 40 := (w.extractLsb' 104 32).setWidth 40
/-- CH slot. -/
def Cw.ch (w : Cw) : BitVec 40 := (w.extractLsb' 80 24).setWidth 40
/-- AG slot. -/
def Cw.ag (w : Cw) : BitVec 24 := w.extractLsb' 56 24
/-- FLOW field. -/
def Cw.flow (w : Cw) : BitVec 24 := w.extractLsb' 0 24
/-- Entry e of an immediate-table word (R203). -/
def Cw.imm (w : Cw) (e : Nat) : Addr := w.extractLsb' (48 * e) 48

/-- Opcode of an MX or VX slot: bits [39:36]. -/
def op40 (b : BitVec 40) : Nat := fld b 36 4
/-- Opcode of an ST or LS slot: bits [31:28]. -/
def op32 (b : BitVec 40) : Nat := fld b 28 4
/-- Opcode of a CH slot, of the AG slot and of FLOW: bits [23:20]. -/
def op24 {n : Nat} (b : BitVec n) : Nat := fld b 20 4

/-- A WAIT condition: ID and code (R246). -/
structure Cond where
  id   : Nat
  code : Nat
  deriving DecidableEq, Repr, Inhabited

/-- WAIT condition 0. -/
def Cw.cond0 (w : Cw) : Cond := ⟨fld w 39 7, fld w 36 3⟩
/-- WAIT condition 1. -/
def Cw.cond1 (w : Cw) : Cond := ⟨fld w 49 7, fld w 46 3⟩
/-- SIG (R251). -/
def Cw.sig (w : Cw) : Sig := ⟨w.extractLsb' 29 7, w.extractLsb' 27 2, w.extractLsb' 24 3⟩

/-! ### Control-store words (R226) -/

/-- What a fetch delivers: the word, whether a quarter is uncorrectable, the state after its reports. -/
structure Fetched where
  word : Cw
  ue   : Bool
  s    : State

/-- The difference a fetch of one quarter sees. -/
def State.fetchQuarter (s : State) (c : CoreId) (idx : CsIndex) (q : Nat) : WordRead :=
  s.readWord c.val (67 + 4 * c.val) (idx.toNat * 4 + q)

/-- Fetch a control-store word, each quarter through its check bits (R226). -/
def State.fetchCw (s : State) (c : CoreId) (idx : CsIndex) : Fetched :=
  let w := tget 0 (s.core c).seq.cs idx.toNat
  let r0 := s.fetchQuarter c idx 0
  let r1 := r0.s.fetchQuarter c idx 1
  let r2 := r1.s.fetchQuarter c idx 2
  let r3 := r2.s.fetchQuarter c idx 3
  ⟨w ^^^ (r3.diff ++ r2.diff ++ r1.diff ++ r0.diff), r0.ue || r1.ue || r2.ue || r3.ue, r3.s⟩

/-- Write a control-store word with its check bits (R227, R228). -/
def State.writeCw (s : State) (c : CoreId) (idx : CsIndex) (w : Cw) : State :=
  let g := 67 + 4 * c.val
  let s1 := (List.range 4).foldl (fun t q => (t.writeWord c.val g (idx.toNat * 4 + q) true).s) s
  s1.updSeq c fun k => { k with cs := tput 0 k.cs idx.toNat w }

/-! ### Reserved encodings (R204 check 2) -/

/-- Reserved MX opcode (R106). -/
def mxIllegal (b : BitVec 40) : Bool := decide (9 ≤ op40 b)

/-- Reserved VX opcode, VCLR sub-operation or VCLR INIT (R176). -/
def vxIllegal (b : BitVec 40) : Bool :=
  decide (5 ≤ op40 b) || (op40 b == 4 && (decide (4 ≤ fld b 20 4) || fld b 2 2 == 3))

/-- Reserved ST opcode (R292). -/
def stIllegal (b : BitVec 40) : Bool := decide (3 ≤ op32 b)

/-- Reserved LS opcode or field (R135, R136, R308, R364). -/
def lsIllegal (b : BitVec 40) : Bool :=
  match op32 b with
  | 0 => false
  | 1 => false
  | 2 => fld b 0 16 != 0
  | 3 => false
  | 4 => false
  | 8 => fld b 0 16 != 0 || decide (5 ≤ fld b 17 3)
  | 9 => fld b 0 16 != 0 || decide (5 ≤ fld b 17 3)
  | 10 => fld b 0 16 != 0 || decide (5 ≤ fld b 17 3)
  | 12 => fld b 0 28 != 0
  | 13 => fld b 0 13 != 0 || !(fld b 17 3 == 2 || fld b 17 3 == 3 || fld b 17 3 == 4)
  | 14 => fld b 0 13 != 0 || fld b 17 11 != 0
  | _ => true

/-- Reserved CH opcode or nonzero field (R346). -/
def chIllegal (b : BitVec 40) : Bool :=
  match op24 b with
  | 0 => false
  | 1 => fld b 0 4 != 0
  | 2 => fld b 0 10 != 0
  | 3 => fld b 0 14 != 0
  | 4 => fld b 0 10 != 0 || fld b 14 3 != 0
  | 5 => fld b 0 10 != 0
  | 6 => fld b 0 17 != 0
  | _ => true

/-- The kinds of item an ID names (R244). -/
inductive SyncKind where
  | f | cnt | cf | lf
  deriving DecidableEq, Repr, Inhabited

/-- Kind of an ID (R244). -/
def syncKind (id : Nat) : SyncKind := if id < 64 then .f else if id < 80 then .cnt else if id < 112 then .cf else .lf

/-- A condition code that is illegal for its item (R246). -/
def Cond.illegal (d : Cond) : Bool :=
  d.code == 7 || ((d.code == 3 || d.code == 4) && syncKind d.id != .cnt)

/-- Whether the slot a trigger names holds NOP (R251). -/
def Cw.trigNop (w : Cw) (trig : Nat) : Bool :=
  match trig with
  | 2 => op40 w.mx == 0
  | 3 => op40 w.vx == 0
  | 4 => op32 w.st == 0
  | 5 => op32 w.ls == 0
  | 6 => op24 w.ch == 0
  | _ => false

/-- An illegal SIG field (R251, R252). -/
def Cw.sigIllegal (w : Cw) : Bool :=
  let g := w.sig
  let t := g.trig.toNat
  t == 7 || w.trigNop t || (t != 0 && syncKind g.target.toNat == .lf && g.op != 1)

/-! ### A registers a word names (R213) -/

/-- A registers named by the VX slot (R177). -/
def vxRegs (b : BitVec 40) : List Nat :=
  match op40 b with
  | 0 => []
  | 4 => [fld b 28 4]
  | _ => [fld b 28 4, fld b 24 4, fld b 20 4, fld b 16 4, fld b 12 4]

/-- A registers named by the ST slot (R293). -/
def stRegs (b : BitVec 40) : List Nat :=
  match op32 b with
  | 1 => [fld b 22 4, fld b 18 4, fld b 13 4]
  | 2 => [fld b 22 4]
  | _ => []

/-- A registers named by the LS slot (R136, R308, R364). -/
def lsRegs (b : BitVec 40) : List Nat :=
  match op32 b with
  | 1 => [fld b 20 4, fld b 16 4] ++ (if fld b 14 1 = 1 then [2 * fld b 4 3, 2 * fld b 4 3 + 1] else [])
  | 2 => [fld b 20 4, fld b 16 4]
  | 3 => [fld b 20 4]
  | 8 => [fld b 24 4, fld b 20 4]
  | 9 => [fld b 24 4, fld b 20 4]
  | 13 => (if fld b 17 3 = 2 then [] else [fld b 24 4, fld b 20 4]) ++ [fld b 13 4]
  | 14 => [fld b 13 4]
  | _ => []

/-- A registers named by the CH slot (R346). -/
def chRegs (b : BitVec 40) : List Nat :=
  match op24 b with
  | 1 => [fld b 10 4]
  | 2 => [fld b 10 4]
  | 4 => [fld b 10 4]
  | _ => []

/-- A registers read or written by the AG slot (R208). -/
def agRegs (b : BitVec 24) : List Nat :=
  let d := fld b 16 4
  let s1 := fld b 12 4
  let s2 := fld b 8 4
  match op24 b with
  | 0 => []
  | 1 => [d]
  | 4 => [d, s1]
  | 5 => [d, s1]
  | 7 => [d]
  | 8 => if fld b 14 2 = 0 then [d, fld b 10 4] else [d]
  | 9 => [s1, s2]
  | 12 => [d, s1]
  | 13 => [d, s1]
  | _ => [d, s1, s2]

/-- A register read by FLOW (R214). -/
def flowRegs (b : BitVec 24) : List Nat := if op24 b = 1 ∧ fld b 7 1 = 0 then [fld b 3 4] else []

/-- Every A register the word reads or writes (R213). -/
def Cw.regs (w : Cw) : List Nat :=
  vxRegs w.vx ++ stRegs w.st ++ lsRegs w.ls ++ chRegs w.ch ++ agRegs w.ag ++ flowRegs w.flow

/-- An A register carried by a queue entry (R206). -/
def QEntry.a (e : QEntry) (i : Nat) : Nat := (vget 0 e.regs i).toNat

end Sys2Proof.Machine
end

