-- ==== Sys2Proof/Machine/Flags.lean ====
section
/-! DEFINITION. Flags: the compare flags and FLOW conditions (R210, R215), WAIT conditions and TAKE (R246 to R250),
signals and their release (R251 to R255), and the CCU's updates of cluster flags (R257, R258). -/

namespace Sys2Proof.Machine

/-! ### Compare flags -/

/-- The flags CMP sets from two 48-bit values: Z, N (less, signed), C (less, unsigned) (R210). -/
def cmpFlags (x y : Addr) : Bool × Bool × Bool := (decide (x = y), x.slt y, x.ult y)

/-- A FLOW condition on AF (R215). -/
def condAf (q : Seq) (cond : Nat) : Bool :=
  match cond with
  | 0 => true
  | 1 => q.z
  | 2 => !q.z
  | 3 => q.n
  | 4 => !q.n
  | 5 => q.c
  | 6 => !q.c
  | _ => false

/-- The bit BRP tests: P0 to P7 or a sticky condition (R215). -/
def condP (v : Vxe) (sel : Nat) : Bool :=
  match sel with
  | 8 => v.anyNan
  | 9 => v.anyInf
  | 10 => v.allZero
  | 11 => v.ovf
  | _ => v.p.getLsbD sel

/-! ### WAIT (R246 to R248) -/

/-- CTH[n] of core c (R263). -/
def State.cth (s : State) (c : CoreId) (n : Nat) : Nat := s.rf (pgSeq c) (0x3C0 + 8 * n) 0 16

/-- Value of the item an ID names: a flag as 0 or 1, or a count. -/
def itemVal (q : Seq) (id : Nat) : Nat :=
  match syncKind id with
  | .f => bit (q.flags.getLsbD id)
  | .cnt => (vget 0 q.cnt (id - 64)).toNat
  | .cf => bit (q.shadow.getLsbD (id - 80))
  | .lf => bit (q.lf.getLsbD (id - 112))

/-- Whether a condition holds, a cluster flag read from the shadow (R245, R246). -/
def State.condHolds (s : State) (c : CoreId) (d : Cond) : Bool :=
  let v := itemVal (s.core c).seq d.id
  match d.code with
  | 0 => true
  | 1 => v != 0
  | 2 => v == 0
  | 3 => decide (s.cth c (d.id - 64) ≤ v)
  | 4 => v == 0
  | 5 => if syncKind d.id = .cnt then decide (s.cth c (d.id - 64) ≤ v) else v != 0
  | 6 => v != 0
  | _ => false

/-- Whether the conditions combine by OR (R247). -/
def Cw.waitAny (w : Cw) : Bool := w.cond0.code == 6 || w.cond1.code == 6

/-- Whether the WAIT holds, taking every TAKE of a cluster flag by its shadow (R247). -/
def State.waitHolds (s : State) (c : CoreId) (w : Cw) : Bool :=
  let h0 := s.condHolds c w.cond0
  let h1 := s.condHolds c w.cond1
  if w.waitAny then (w.cond0.code != 0 && h0) || (w.cond1.code != 0 && h1) else h0 && h1

/-- The cluster flag a TAKE condition names. -/
def Cond.takesCf (d : Cond) : Option (BitVec 5) :=
  if d.code = 5 ∧ syncKind d.id = .cf then some (BitVec.ofNat 5 (d.id - 80)) else none

/-- The take request the WAIT needs: the cluster flags its TAKE conditions name. A single TAKE that does not hold under
ANY needs none (R248, R250). -/
def State.takeNeeds (s : State) (c : CoreId) (w : Cw) : Option (Option (BitVec 5) × Option (BitVec 5)) :=
  match w.cond0.takesCf, w.cond1.takesCf with
  | none, none => none
  | some a, none => if s.condHolds c w.cond0 then some (some a, none) else none
  | none, some b => if s.condHolds c w.cond1 then some (some b, none) else none
  | some a, some b => if a = b then some (some a, none) else some (some a, some b)

/-- Apply one TAKE that holds, to an item of the core (R248); cluster flags are taken by the CCU. -/
def State.applyTake (s : State) (c : CoreId) (d : Cond) : State :=
  if d.code ≠ 5 then s
  else match syncKind d.id with
    | .f => s.updSeq c fun q => { q with flags := setBit q.flags d.id false }
    | .cnt => s.updSeq c fun q => { q with cnt := vmod q.cnt (d.id - 64) fun v => v - BitVec.ofNat 16 (s.cth c (d.id - 64)) }
    | .lf => s.updSeq c fun q => { q with lf := setBit q.lf (d.id - 112) false }
    | .cf => s

/-- Apply the TAKEs of an issuing word: each that holds, once (R248). -/
def State.applyTakes (s : State) (c : CoreId) (w : Cw) : State :=
  let h0 := s.condHolds c w.cond0
  let h1 := s.condHolds c w.cond1
  let s1 := if h0 then s.applyTake c w.cond0 else s
  if h1 && !(w.cond0.code == 5 && w.cond1.id == w.cond0.id) then s1.applyTake c w.cond1 else s1

/-! ### Signals (R251 to R255) -/

/-- The dirty lines of a core's CCH, each with the generation of its dirtiness (R254: complete at CORE scope only). -/
def dirtyLines (k : Cch) : List (Nat × Nat) := (k.lines.filter fun l => l.dirty != 0).map fun l => (l.line, l.gen)

/-- Far writes of a core's stream units whose target has not taken them, by request number (R254). -/
def Core.streamWrites (k : Core) : List Nat :=
  k.str.units.toList.flatMap fun u => u.acts.flatMap fun a => (a.outs.filter (·.write)).map (·.id)

/-- Messages of a core that have no acknowledgement yet and satisfy `f`, by channel, binding number and message number (R336,
R341). -/
def Core.flying (k : Core) (f : Unacked → Bool) : List (Nat × Nat × Byte) :=
  k.chn.binds.flatMap fun e => (e.2.unacked.filter fun u => !u.pad && f u).map fun u => (e.1, e.2.number, u.number)

/-- Rows that TSTs have sent to a CSP of another core or cluster and that it has not taken, by word and row (R254). -/
def Core.farRows (k : Core) : List (Nat × Nat) :=
  k.trf.ops.flatMap fun o => if o.store then (o.pend.filter fun r => o.away.contains r).map fun r => (o.e.num, r) else []

/-- The OPEN transaction of a core, with its slot's generation (R352). -/
def State.openTx (s : State) (c : CoreId) : Option (SlotId × BitVec 6) :=
  ((List.finRange 64).find? fun i => s.txu.slots[i].st == .open_ && s.txu.slots[i].core == c).map fun i =>
    (i, s.txu.slots[i].gen)

/-- The writes a signal covers that are complete at CORE scope only (R254, R255). ISSUE (trigger 1) covers what every engine
has written; a done signal covers its queue: VX (3) the messages of CHANNEL outputs, LS (5) dirty lines and transactional
stores, CH (6) the messages of SENDs up to word `n`. The writes of the other queues are complete when they are done. -/
def State.coverOf (s : State) (c : CoreId) (trig n : Nat) : Cover :=
  let k := s.core c
  let ls := trig == 1 || trig == 5
  let mine := fun (u : Unacked) => match u.e with
    | none => trig == 1 || trig == 3
    | some e => trig == 1 || (trig == 6 && decide (e.num ≤ n))
  { lines := if ls then dirtyLines k.cch else []
    reqs := if trig = 1 then k.streamWrites else []
    msgs := k.flying mine
    rows := if trig = 1 then k.farRows else []
    tx := if ls then s.openTx c else none }

/-- Whether every write of a cover is complete at CLUSTER scope: no line is still dirty with that generation, no request,
message or row still on its way, the transaction committed or ended (R254, R358). -/
def State.covered (s : State) (c : CoreId) (v : Cover) : Bool :=
  let k := s.core c
  v.lines.all (fun p => !(dirtyLines k.cch).contains p) && v.reqs.all (fun r => !k.streamWrites.contains r)
    && v.msgs.all (fun m => !(k.flying fun _ => true).contains m) && v.rows.all (fun r => !k.farRows.contains r)
    && (v.tx.isNone || v.tx != s.openTx c)

/-- Change a counter by a SIG operation, recording saturation (R252). -/
def State.sigCounter (s : State) (c : CoreId) (n op : Nat) : State :=
  let v := vget 0 (s.core c).seq.cnt n
  let put := fun (t : State) (x : BitVec 16) => t.updSeq c fun q => { q with cnt := vset q.cnt n x }
  match op with
  | 0 => put s (BitVec.ofNat 16 (s.cth c n))
  | 1 => put s 0
  | 2 => if v = 0xFFFF then s.orReg (pgSeq c) 0x328 (1 <<< n) else put s (v + 1)
  | _ => if v = 0 then s.orReg (pgSeq c) 0x328 (1 <<< (16 + n)) else put s (v - 1)

/-- Fire a signal: an item of the core changes at once; a cluster flag is signalled through the crossing once the writes
it covers are complete at CLUSTER scope, and is held until then, behind those held before it (R252, R255). `n` is the word of
the instruction that is done. -/
def State.fire (s : State) (c : CoreId) (g : Sig) (n : Nat) : State :=
  let id := g.target.toNat
  match syncKind id with
  | .f => s.updSeq c fun q => { q with flags := setBit q.flags id (g.op == 0 || g.op == 2) }
  | .cnt => s.sigCounter c (id - 64) g.op.toNat
  | .lf => s.updSeq c fun q => { q with lf := setBit q.lf (id - 112) false }
  | .cf =>
    let cf := BitVec.ofNat 5 (id - 80)
    let v := s.coverOf c g.trig.toNat n
    if (s.core c).seq.held.isEmpty && s.covered c v then s.tell c (.signal cf g.op)
    else s.updSeq c fun q => { q with held := q.held ++ [⟨cf, g.op, v⟩] }

/-- Fire the done signal of a finished instruction (R251, R255). -/
def State.done (s : State) (c : CoreId) (e : QEntry) : State :=
  match e.sig with
  | none => s
  | some g => s.fire c g e.num

/-! ### Cluster flags (R245, R257, R258) -/

/-- Cores built into the cluster that are present (R510). -/
def State.present (s : State) (c : CoreId) : Bool := s.fuses.present.getLsbD c

/-- Whether CORE_FENCE holds a core (R510). -/
def State.fenced (s : State) (c : CoreId) : Bool := (s.reg 0 0x108).getLsbD c

/-- Whether a core's island answers: present, not in RETAIN or OFF, not fenced (R18, R504). -/
def State.reachable (s : State) (c : CoreId) : Bool :=
  s.present c && !s.fenced c && (s.core c).seq.st != .off

/-- Send every reachable core a message (R245 broadcasts). -/
def State.broadcast (s : State) (m : CoreMsg) : State :=
  (List.finRange 8).foldl (fun t c => if s.reachable c then t.answer c m else t) s

/-- Give a cluster flag a value and broadcast the change (R245). -/
def State.setCf (s : State) (n : BitVec 5) (v : Bool) : State :=
  if s.ccu.cf.getLsbD n.toNat = v then s
  else (s.updCcu fun u => { u with cf := setBit u.cf n.toNat v }).broadcast (.flag n v)

/-- Offset of CF_BAR[n] (R264). -/
def cfBar (n : BitVec 5) : Nat := 0x440 + 8 * n.toNat

/-- MASK of a barrier flag (R257). -/
def State.barMask (s : State) (n : BitVec 5) : Byte := (s.reg 0 (cfBar n)).setWidth 8
/-- ARRIVED of a barrier flag (R257). -/
def State.arrived (s : State) (n : BitVec 5) : Byte := (s.reg 0 (cfBar n)).extractLsb' 8 8
/-- The required set of a barrier flag: MASK and CORE_PRESENT, with fenced cores removed (R257). -/
def State.required (s : State) (n : BitVec 5) : Byte :=
  s.barMask n &&& s.fuses.present &&& ~~~((s.reg 0 0x108).setWidth 8)

/-- Toggle a barrier flag whose arrivals equal a nonempty required set (R257, R258). -/
def State.barrierCheck (s : State) (n : BitVec 5) : State :=
  let r := s.required n
  if r ≠ 0 ∧ s.arrived n = r then
    let s1 := s.modReg 0 (cfBar n) fun v => setFld (setFld v 8 8 0) 16 32 (fld v 16 32 + 1)
    s1.setCf n (!s.ccu.cf.getLsbD n.toNat)
  else s

/-- Replace ARRIVED of a barrier flag. -/
def State.setArrived (s : State) (n : BitVec 5) (a : Byte) : State := s.setRf 0 (cfBar n) 8 8 a.toNat

/-- Recompute a barrier's required set: arrivals outside it are removed, and the flag may toggle (R258). -/
def State.barrierRecompute (s : State) (n : BitVec 5) : State :=
  (s.setArrived n (s.arrived n &&& s.required n)).barrierCheck n

/-- Recompute every barrier (R258). -/
def State.barriersRecompute (s : State) : State :=
  (List.range 32).foldl
    (fun t n => if t.barMask (BitVec.ofNat 5 n) = 0 then t else t.barrierRecompute (BitVec.ofNat 5 n)) s

/-- The CCU applies a core's signal to a cluster flag (R252, R257). -/
def State.ccuSignal (s : State) (c : CoreId) (n : BitVec 5) (op : BitVec 2) : State :=
  if op = 0 then s.setCf n true
  else if op = 1 then s.setCf n false
  else if s.barMask n = 0 then s.setCf n (op == 2)
  else if !(s.required n).getLsbD c then s
  else if op = 2 then (s.setArrived n (setBit (s.arrived n) c true)).barrierCheck n
  else s.setArrived n (setBit (s.arrived n) c false)

end Sys2Proof.Machine
end

