-- ==== Sys2Proof/Machine/CoreOps.lean ====
section
/-! DEFINITION. Operations on a whole core that several meanings share: recording an error of the SEQ page, what task
start and an abort do to every engine, the end report, becoming idle and claiming, a core reset. The block has no
exception entry; taking an abort cause (R233 to R236) is what stands in its place. -/

namespace Sys2Proof.Machine

/-! ### Pages of a core -/

/-- CTL.PAUSE as written to a page (R500, R501). -/
def State.paused (s : State) (page : Nat) : Bool := s.rf page 0x10 1 1 == 1

/-- Whether an engine examines the head of its queue: the core holds a task that is not aborting, in RUN, in the drain of
TEND or HALT, or PAUSED. A pause is the last of the conditions that are examined (R87, R540), so it does not hide the others. -/
def State.mayExam (s : State) (c : CoreId) : Bool :=
  let q := (s.core c).seq
  (q.st == .run || ((q.st == .drain || (q.st == .paused && q.task.isSome)) && !q.abortTask)) && q.causes.isEmpty
    && !(vget false s.stopped c)

/-- Whether neither its own pause nor the core's (unless it is being single-stepped, R512) holds the SEQ or an engine (page
number b) of a core in RUN or in the drain of TEND or HALT (R224, R500, R501). -/
def State.unpaused (s : State) (c : CoreId) (b : Nat) : Bool :=
  let q := (s.core c).seq
  s.mayExam c && q.st != .paused && (!s.paused (pgSeq c) || q.stepping) && (b == 0 || !s.paused (corePage c b))

/-- Whether core `c` has written more than its crossing towards the CCU can take (R15). -/
def State.crossFull (s : State) (c : CoreId) : Bool := decide (crossDepth < s.ccu.toCcu[c].length)

/-- Whether the SEQ or an engine (page number b) may start anything: nothing pauses it and the crossing towards the CCU does
not hold the core (R15). -/
def State.mayStart (s : State) (c : CoreId) (b : Nat) : Bool := s.unpaused c b && !s.crossFull c

/-- Whether instructions already started may go on: the island has not stopped and the task is not aborted. -/
def State.alive (s : State) (c : CoreId) : Bool :=
  let q := (s.core c).seq
  !(vget false s.stopped c) && q.st != .off && q.st != .fenced && q.st != .fault

/-- Record an error of the SEQ page with the capture of R240. -/
def State.seqErr (s : State) (c : CoreId) (b cause slot : Nat) (cond0 cond1 addr detail : Nat) : State :=
  s.err (pgSeq c) b
    (BitVec.ofNat 64 ((s.core c).seq.pc.toNat + 2 ^ 12 * cause + 2 ^ 20 * slot + 2 ^ 24 * cond0 + 2 ^ 34 * cond1))
    (BitVec.ofNat 64 (addr % 2 ^ 48 + 2 ^ 48 * detail))

/-- The SEQ raises an abort cause of its own: its page captures, then the cause takes effect (R233, R240). -/
def State.seqRaise (s : State) (c : CoreId) (b cause slot : Nat) (addr detail : Nat := 0) (cond0 cond1 : Nat := 0) :
    State :=
  (s.seqErr c b cause slot cond0 cond1 addr detail).cause c (BitVec.ofNat 8 cause)

/-! ### Request tags (R283, R483) -/

/-- Tags held by a requester. -/
def Rqt.used (t : Rqt) (r : Nat) : Nat :=
  (t.tags.filter fun e => match e.2 with
    | some g => g.r == r
    | none => false).length

/-- Request `user` leaves a fill. One that has fetched the line and ends without its answer leaves those who joined to look
the line up again. -/
def CscFill.leave (f : CscFill) (user : TagUser) : CscFill :=
  if f.owner = user ∧ f.data = none then { f with joiners := [], waiters := f.joiners ++ f.waiters, data := some (.error 0) }
  else { f with joiners := f.joiners.filter (· != user), waiters := f.waiters.filter (· != user) }

/-- Fills that are in flight or still have a request to serve. -/
def CscFill.open_ (f : CscFill) : Bool := f.data.isNone || !f.joiners.isEmpty || !f.waiters.isEmpty

/-- Change the fills of the CSC; one that has returned and serves nobody any more goes. -/
def State.updFills (s : State) (f : List CscFill → List CscFill) : State :=
  { s with cscBuf := (f s.cscBuf).filter CscFill.open_ }

/-- The requests of a list leave the fills they have a part in (R285). -/
def State.leaveFills (s : State) (users : List TagUser) : State :=
  s.updFills fun l => l.map fun f => users.foldl CscFill.leave f

/-- Free the tags for which `p` holds; their requests leave the fills they have a part in. -/
def State.freeIf (s : State) (p : Tag → Bool) : State :=
  let users := s.rqt.tags.filterMap fun e => match e.2 with
    | some g => if p g then some g.user else none
    | none => none
  { s with rqt := { s.rqt with tags := s.rqt.tags.filter fun e => match e.2 with
      | some g => !p g
      | none => false } }.leaveFills users

/-- Free the tag a user holds, if it holds one; it leaves the fills it has a part in. -/
def State.freeUser (s : State) (user : TagUser) : State := (s.freeIf fun g => g.user == user).leaveFills [user]

/-- The tag a user holds. -/
def Rqt.ofUser (t : Rqt) (user : TagUser) : Option Tag :=
  t.tags.findSome? fun e => match e.2 with
    | some g => if g.user = user then some g else none
    | none => none

/-- The tag a user holds, by number. -/
def Rqt.numOf (t : Rqt) (user : TagUser) : Option (BitVec 11) :=
  t.tags.findSome? fun e => match e.2 with
    | some g => if g.user = user then some (BitVec.ofNat 11 e.1) else none
    | none => none

/-- Raise a high-water mark. -/
def State.hwm (s : State) (page off lo n : Nat) : State :=
  if s.rf page off lo 12 < n then s.setRf page off lo 12 n else s

/-- Allocate a free tag for a requester, if any is free (R283: back-pressure when none is). Which free tag is taken is
left open. `sent` is how many packets go out for it. -/
def State.allocTag (s : State) (r : Nat) (user : TagUser) (addr sent : Nat) : Option (BitVec 11 × State) :=
  let free := (List.range 2048).filter fun k => (tget none s.rqt.tags k).isNone
  if free.isEmpty then none
  else
    let (k, s1) := s.drawChoice free.length
    let tag := free.getD k 0
    let s2 := { s1 with rqt := { s1.rqt with
      tags := tput none s1.rqt.tags tag (some ⟨r, user, BitVec.ofNat 64 addr, sent, false, false⟩) } }
    let s3 := (s2.hwm 5 0x100 12 s2.rqt.tags.length).hwm 5 (0x140 + 8 * r) 12 (s2.rqt.used r)
    some (BitVec.ofNat 11 tag, s3.pm 5 0x01 1)

/-- The tag of a request that has one, `n` more packets going out for it; else a new one. -/
def State.moreTag (s : State) (r : Nat) (user : TagUser) (addr n : Nat) : Option (BitVec 11 × State) :=
  match s.rqt.numOf user with
  | some k => some (k, { s with rqt := { s.rqt with
      tags := tmod none s.rqt.tags k.toNat fun g => g.map fun x => { x with sent := x.sent + n } } })
  | none => s.allocTag r user addr n

/-- An access to the memory tile that its command completes takes a tag and gives it back (R13, R283); none when no tag is
free. -/
def State.rqtPass (s : State) (r addr : Nat) : Option State :=
  (s.allocTag r (.plain r) addr 0).map fun x => x.2.freeUser (.plain r)

/-! ### Access to a CSP (R322, R326) -/

/-- SRC of CSP_FAULT. -/
def inboundSrc : Inbound → Nat
  | .ownCore => 0
  | .otherCore _ => 1
  | .port _ => 2
  | .privileged => 3

/-- Source code of R477 of whoever accesses core c's CSP; through which port an access came is left open. -/
def State.inboundSource (s : State) (c : CoreId) (who : Inbound) : Nat × State :=
  match who with
  | .ownCore => (c.val, s)
  | .otherCore d => (d.val, s)
  | .port _ => let (n, s1) := s.drawChoice 4; (8 + n, s1)
  | .privileged => (12, s)

/-- A CSP error: its ERR bit and, for the first after ERR is cleared, CSP_FAULT (R326). -/
def State.cspErr (s : State) (c : CoreId) (b kind : Nat) (who : Inbound) (off : Nat) : State :=
  let pg := pgCsp c
  if bitAt (s.reg pg 0x28) b then s
  else
    let s1 := if fld (s.reg pg 0x20) 9 2 = 0 then
        s.setReg pg 0x108 (BitVec.ofNat 64 (off % 2 ^ 19 + 2 ^ 19 * kind + 2 ^ 20 * inboundSrc who))
      else s
    (s1.orReg pg 0x20 (1 <<< b)).evt 0xC (BitVec.ofNat 64 pg)

/-- Whether CSP_GATE.MODE admits a requester (R322). -/
def State.gateOpen (s : State) (c : CoreId) (who : Inbound) : Bool :=
  match s.rf (pgCsp c) 0x100 0 2, who with
  | 0, _ => true
  | 1, .port own => own
  | 1, _ => true
  | _, .ownCore => true
  | _, .privileged => true
  | _, _ => false

/-- The end of a CSP read: an uncorrectable word sets ERR.UE; base is the cluster offset of the CSP, from which the
error offsets count (R322). -/
def cspLoaded (c : CoreId) (who : Inbound) (base : Nat) (r : Loaded) : Loaded :=
  match r.bad with
  | [] => r
  | w :: _ => ⟨r.bytes, r.bad.map (· - base), (r.s.cspErr c 9 0 who (w - base)).pm (pgCsp c) 0x05 r.bad.length⟩

/-- Read a CSP once admitted (R322). -/
def State.cspLoad (s : State) (c : CoreId) (who : Inbound) (off n : Nat) : Loaded :=
  let x := s.inboundSource c who
  cspLoaded c who (cspOff c 0) (x.2.load x.1 (cspOff c off) n)

/-- Write a CSP once admitted; a partial write into an uncorrectable word is refused and sets ERR.UE (R453). -/
def State.cspStoreCells (s : State) (c : CoreId) (who : Inbound) (cs : List (Nat × Byte)) : Stored :=
  let (src, s0) := s.inboundSource c who
  let r := s0.storeCells src (cs.map fun x => (cspOff c x.1, x.2))
  if r.refused then ⟨true, (r.s.cspErr c 9 0 who ((cs.headD (0, 0)).1)).pm (pgCsp c) 0x05 1⟩ else r

/-- Write consecutive bytes of a CSP. -/
def State.cspStore (s : State) (c : CoreId) (who : Inbound) (off : Nat) (bs : List Byte) : Stored :=
  s.cspStoreCells c who (cellsAt off bs)

/-- The gate refuses an inbound access (R322). -/
def State.gateRefuse (s : State) (c : CoreId) (who : Inbound) (off : Nat) : State :=
  ((s.cspErr c 10 1 who off).bumpRf (pgCsp c) 0x110 0 32 1).pm (pgCsp c) 0x04 1

/-- The offset in the own CSP that a device-local address names, if it names one. -/
def State.ownCsp (s : State) (c : CoreId) (addr : Nat) : Option Nat :=
  let base := s.windowBase + cspOff c 0
  if base ≤ addr ∧ addr < cspSize + base then some (addr - base) else none

/-! ### Transactions (R351, R361, R365) -/

/-- The OPEN or DOOMED slot of a core (R352). -/
def Txu.heldBy (t : Txu) (c : CoreId) : Option SlotId :=
  (List.finRange 64).find? fun i => (t.slots[i].st == .open_ || t.slots[i].st == .doomed) && t.slots[i].core == c

/-- The handle of a slot: generation and slot number (R445, R352). -/
def Txu.handle (t : Txu) (i : SlotId) : Nat := i.val + 64 * t.slots[i].gen.toNat

/-- Change a transaction slot. -/
def State.updSlot (s : State) (i : SlotId) (f : TxSlot → TxSlot) : State :=
  { s with txu := { s.txu with slots := s.txu.slots.set i (f s.txu.slots[i]) } }

/-- Lay a transaction log record (R365). -/
def State.txLog (s : State) (i : SlotId) (outcome scope : Nat) : State :=
  let k := s.txu.slots[i]
  let wp := s.rf 3 0x128 2 12
  let bs := natLe 2 (s.txu.handle i) ++ natLe 1 k.core.val ++ natLe 1 outcome ++ natLe 2 k.task.toNat ++ natLe 1 k.lines
    ++ natLe 1 scope ++ natLe 8 s.memCyc.toNat
  { s with txu := { s.txu with log := tputs 0 s.txu.log (16 * wp) bs } }.setRf 3 0x128 2 12 (wp + 1)

/-- Discard the pending lines of a slot. -/
def State.dropLines (s : State) (i : SlotId) : State :=
  { s with txu := { s.txu with lines := s.txu.lines.filter fun l => !(l.slot == i && !l.committing) } }

/-- The TXU discards a core's OPEN or DOOMED transaction and frees its slot (R361); an eviction counts those of the cores it
waits for (R369 W11). -/
def State.txDiscard (s : State) (c : CoreId) : State :=
  let s0 := { s with txu := { s.txu with mode := s.txu.mode.set c false } }
  match s0.txu.heldBy c with
  | none => s0
  | some i =>
    let s1 := (s0.txLog i 8 0).dropLines i
    let s2 := s1.updSlot i fun k => { k with st := .free, lines := 0, age := 0, reason := 0, dur := .none, tail := none }
    let s3 := s2.bumpRf 3 0x118 32 32 1
    if s3.evx.phase = .stopping ∧ s3.evx.wait.contains c = true then { s3 with evx := { s3.evx with txd := s3.evx.txd + 1 } }
    else s3

/-- A COMMITTING transaction of the core goes on without its status write and its LS done (R361). -/
def State.txOrphan (s : State) (c : CoreId) : State :=
  { s with txu := { s.txu with slots := s.txu.slots.map fun k => if k.core = c then { k with orphan := true } else k } }

/-! ### Engines at task start and abort -/

/-- Channels unbound with credits and WP 0, ports disarmed, waits for acknowledgements ended (R344). -/
def Chn.taskReset (k : Chn) : Chn where
  ports := k.ports.map fun p => { p with armed := false, log := [] }
  binds := k.binds.map fun e => (e.1, { e.2 with credits := 0, wp := 0, bound := false, unacked := [] })
  expect := k.expect

/-- The accumulators, FTQ, held values and operations of the MXE are dropped (R105). A change of shape in progress is dropped with
them: the old shape stands (DESIGN CHOICE, log entry 110). -/
def Mxe.drop (m : Mxe) : Mxe :=
  { m with
    banks := Vector.replicate 2 Bank.empty
    ftq := Vector.replicate 4 FtqSlot.empty
    held := ⟨false, [], 0⟩
    run := none
    op := none
    drains := [] }

/-- The MXE at task start: TALL, banks and FTQ empty, nothing held, CHAIN 0, the scale buffer invalid (R70, R81). -/
def Mxe.start (m : Mxe) : Mxe :=
  { m.drop with
    shape := 0
    shapeSrc := false
    chain := false
    nextPush := 0
    sb := Vector.replicate 2 ⟨false, [], []⟩ }

/-- VALID and TPOISON of every tile are cleared (R123). -/
def Trf.invalidate (t : Trf) : Trf :=
  { t with tiles := t.tiles.map fun x => { x with valid := false }, poison := Vector.replicate 16 0 }

/-- The VXE at task start and abort (R171, R173). -/
def Vxe.drop (v : Vxe) : Vxe :=
  { v with
    rss := []
    rssBad := []
    vsum := Vector.replicate 8 0
    p := 0
    anyNan := false
    anyInf := false
    allZero := true
    ovf := false
    acts := [] }

/-- Both spill rings are emptied; their high-water marks start again with a task (R196, R198). -/
def State.ringsReset (s : State) (c : CoreId) (start : Bool) : State :=
  let z := fun (t : State) (n : Nat) =>
    let t1 := (t.setReg (pgCsp c) (0x308 + 0x20 * n) 0).setReg (pgCsp c) (0x310 + 0x20 * n) 0
    if start then t1.setReg (pgCsp c) (0x318 + 0x20 * n) 0 else t1
  z (z s 0) 1

/-- Flags, counters and landing flags become 0 and SYNC_STS is cleared but for REL_DROP (R245). -/
def State.syncReset (s : State) (c : CoreId) : State :=
  (s.modReg (pgSeq c) 0x328 fun v => v &&& (1 <<< 34)).updSeq c fun q =>
    { q with flags := 0, cnt := Vector.replicate 16 0, lf := 0 }

/-- What task start does to every engine of the core; the change back to TALL counts as a shape change (R70, R109, R123, R173, R196, R245, R287, R344). -/
def State.startEngines (s : State) (c : CoreId) : State :=
  let s1 := ((s.syncReset c).ringsReset c true).setReg (pgMxe c) 0x118 0
  let s2 := if (s.core c).mxe.shape = 0 then s1 else (s1.bumpRf (pgMxe c) 0x100 32 32 1).pm (pgMxe c) 0x07 1
  s2.updCore c fun k =>
    { k with
      mxe := k.mxe.start
      trf := k.trf.invalidate
      vxe := k.vxe.drop
      str := { k.str with cur := false }
      chn := k.chn.taskReset }

/-- A TST goes on with the rows it has issued, without its done signal; rows that wait (R320), that are refused, or that the
discarded transaction would have taken end with it; a TLD is dropped (R133, R361). -/
def Trf.abort (t : Trf) : Trf :=
  { t.invalidate with
    ops := (t.ops.map fun o =>
      { o with
        e := { o.e with sig := none }
        pend := o.pend.filter fun r => !(o.tx.contains r || o.held.contains r || o.denied.contains r)
        held := [] }).filter fun o => o.store && !o.pend.isEmpty }

/-- The task that made a unit's posted writes has ended: an error they draw aborts nothing. -/
def StrUnit.disown (u : StrUnit) : StrUnit := { u with posted := u.posted.map fun p => { p with dead := true } }

/-- An aborted unit keeps only its issued writes; the done signals are lost (R291). -/
def StrUnit.abort (u : StrUnit) : StrUnit :=
  { u.disown with
    dq := []
    ldpg := none
    acts := (u.acts.map fun a =>
      { a with
        d := { a.d with e := { a.d.e with sig := none } }
        ag := { a.ag with done := true }
        emit := none
        open_ := none
        outs := a.outs.filter (·.write)
        waitT := false
        issued := true
        dead := true }).filter fun a => !a.outs.isEmpty }

/-- Whether a tag of a core belongs to a request the core no longer waits for. -/
def Core.forgot (k : Core) (c : CoreId) (g : Tag) : Bool :=
  match g.user with
  | .tlu d num row => d == c && !k.trf.ops.any fun o => o.e.num == num && o.pend.contains row
  | .str d u req => d == c && !(k.str.units[u].acts.any fun a => a.outs.any fun r => r.id == req)
      && !k.str.units[u].posted.any fun p => p.id == req
  | .image d => d == c && k.seq.dispatch == .none
  | .cch _ _ _ _ => false
  | .txLine _ _ _ => false
  | .txWord _ => false
  | .evx => false
  | .copy _ => false
  | .port _ => false
  | .plain _ => false

/-- Replies to forgotten requests of a core are dropped as they come: a request that no packet went out for gives its tag back
here, another when its RSP or ERR arrives (R234, R291, R441). -/
def State.sweepTags (s : State) (c : CoreId) : State := s.freeIf fun g => (s.core c).forgot c g && g.sent == 0

/-- What an abort does to every engine of the core (R105, R133, R173, R196, R234, R245, R291, R344, R361). -/
def State.abortEngines (s : State) (c : CoreId) : State :=
  let s1 := ((s.syncReset c).ringsReset c false)
  let s2 := (s1.txDiscard c).txOrphan c
  let s3 := s2.updCore c fun k =>
    { k with
      seq := { k.seq with
        loops := []
        rstk := []
        ag := none
        flow := none
        ldas := []
        stas := []
        layer := false
        draining := none
        takePend := false
        takeGrant := false
        takeVoid := k.seq.takeVoid + bit k.seq.takePend
        brkPassed := false
        stepping := false
        waitCnt := 0
        mxq := []
        vxq := []
        lsq := []
        chq := []
        stq := Vector.replicate 4 [] }
      mxe := k.mxe.drop
      trf := k.trf.abort
      vxe := k.vxe.drop
      str := { k.str with cur := false, tbuf := none, units := k.str.units.map StrUnit.abort }
      cch := { k.cch with op := none }
      chn := k.chn.taskReset }
  s3.sweepTags c

/-- Every write the core has issued is complete: no store row, no stream write and no message is on its way (R224, R235,
R303). -/
def Core.writesDone (k : Core) : Bool :=
  k.trf.ops.all (fun o => !o.store) && k.str.units.toList.all (fun u => u.acts.all fun a => a.outs.all (!·.write))
    && k.vxe.acts.all (·.sends.isEmpty) && k.seq.stas.isEmpty

/-! ### End of a task (R224, R235, R255) -/

/-- The core writes its claim into the crossing towards the CCU, with the CCU cycle it is written in (R30, R32). -/
def State.claimNow (s : State) (c : CoreId) : State :=
  (s.tell c (.claim s.ccu.cyc)).updSeq c fun q => { q with dispatch := .sent }

/-- The core becomes IDLE and claims at once, or PAUSED while CTL.PAUSE is 1; before READY it claims nothing (R30,
R228, R528). -/
def State.becomeIdle (s : State) (c : CoreId) : State :=
  if s.paused (pgSeq c) then s.updSeq c fun q => { q with st := .paused, dispatch := .none }
  else
    let s1 := s.updSeq c fun q => { q with st := .idle, dispatch := .none }
    if s1.ccu.readyS then s1.claimNow c else s1

/-- Held signals at the end report: those whose writes are complete enter the crossing, the others are discarded and set
REL_DROP (R255). -/
def State.flushHeld (s : State) (c : CoreId) : State :=
  let k := s.core c
  let ready := k.seq.held.filter fun h => s.covered c h.cover
  let s1 := ready.foldl (fun t h => t.tell c (.signal h.cf h.op)) s
  let s2 := if ready.length = k.seq.held.length then s1 else s1.orReg (pgSeq c) 0x328 (1 <<< 34)
  s2.updSeq c fun q => { q with held := [] }

/-- Code of a task's end (R242). -/
def EndKind.code : EndKind → Nat
  | .tend => 0
  | .halt => 1
  | .aborted => 2
  | .rejected => 3

/-- The number of the descriptor a core handles: its task's, or the one being read or loaded. -/
def Seq.descNum (q : Seq) : Word32 :=
  match q.task with
  | some t => t.num
  | none =>
    match q.dispatch with
    | .reading n => n
    | .loading n _ => n
    | .none => 0
    | .sent => 0
    | .polling => 0

/-- The SEQ ends its task: held signals and then the end report enter the crossing, LAST records the end, channels are
unbound and ports disarmed, the transaction is discarded (R224, R235, R255, R344, R361). -/
def State.endTask (s : State) (c : CoreId) (kind : EndKind) (cause : Byte) : State :=
  let q := (s.core c).seq
  let id : BitVec 16 := match q.task with
    | some t => t.id
    | none => 0
  let s1 := ((s.txDiscard c).txOrphan c).flushHeld c
  let s2 := s1.tell c (.report ⟨q.descNum, id, kind, cause⟩)
  let s3 := s2.modReg (pgSeq c) 0x1A8 fun v =>
    setFld (setFld (setFld v 0 16 id.toNat) 16 2 kind.code) 32 32 (fld v 32 32 + 1)
  let s4 := s3.pm (pgSeq c) (if kind = .tend ∨ kind = .halt then 0x08 else 0x09) 1
  s4.updCore c fun k =>
    { k with
      chn := k.chn.taskReset
      str := { k.str with units := k.str.units.map StrUnit.disown }
      seq := { k.seq with
        task := none
        dispatch := .none
        loops := []
        rstk := []
        causes := []
        abortTask := false
        draining := none
        layer := false } }

/-! ### Core reset (R494, R526) -/

/-- Offsets of the common layout that a core reset and SRST keep (R494). -/
def keptOffset (off : Nat) : Bool :=
  off == 0x20 || off == 0x28 || off == 0x30 || off == 0x38 || off == 0x40 || off == 0x48
    || (decide (0x80 ≤ off) && decide (off < 0x100))

/-- Reset a core: every block returns to its reset state, every register to its reset value but those of R494; the CSP,
the control store and the remap entries keep their contents (R526). The CCH is invalid afterwards; clock and pins are
not its own. CTL.PAUSE, kept by the page shell, is `pause` (R504, R519). -/
def State.coreReset (s : State) (c : CoreId) (pause : Bool) : State :=
  let s2 := (List.range 8).foldl (fun (t : State) b => t.resetRegs (corePage c b) fun off => !keptOffset off) s
  let s3 := (s2.txDiscard c).txOrphan c
  let s4 := s3.updCore c fun k =>
    { k with
      seq := { Seq.reset with cs := k.seq.cs, shadow := k.seq.shadow, words := k.seq.words }
      mxe := Mxe.reset
      trf := { Trf.reset with data := [] }
      vxe := Vxe.reset
      str := Str.reset
      cch := Cch.reset
      chn := Chn.reset }
  let s5 := s4.sweepTags c
  if pause then s5.setRf (pgSeq c) 0x10 1 1 1 else s5

end Sys2Proof.Machine
end

