-- ==== Sys2Proof/Machine/Tiles.lean ====
section
/-! DEFINITION. Access to the tile register file through its check bits (R112 to R115, R122, R453), validity of a tile
configuration (R114), the scoreboard (R124), and parity errors of an engine (R456). -/

namespace Sys2Proof.Machine

/-! ### Tile configuration (R114, R138) -/

/-- ROWS as a number. -/
def TileCfg.nRows (t : TileCfg) : Nat := t.rows.toNat
/-- RB, bytes per row (R114). -/
def TileCfg.rb (t : TileCfg) : Nat := 16 * t.rb16.toNat
/-- FMT as a number. -/
def TileCfg.f (t : TileCfg) : Nat := t.fmt.toNat
/-- First TRF byte of the tile: 16 × BASE. -/
def TileCfg.at_ (t : TileCfg) : Nat := 16 * t.base.toNat
/-- The side a tile lies on (R112). -/
def TileCfg.side (t : TileCfg) : Nat := t.base.toNat / 2048
/-- Bytes of the tile. -/
def TileCfg.size (t : TileCfg) : Nat := t.nRows * t.rb

/-- The conditions of R114. -/
def TileCfg.ok (t : TileCfg) : Bool :=
  decide (1 ≤ t.nRows) && decide (t.nRows ≤ 64) && decide (1 ≤ t.rb16.toNat) && decide (t.rb16.toNat ≤ 16)
    && decide (t.f ≤ 10) && decide (t.size ≤ 4096)
    && (t.base.toNat / 2048 == (t.base.toNat + t.nRows * t.rb16.toNat - 1) / 2048)

/-- A TCFG value as the op and the page write it; SRC aside (R138). -/
def TileCfg.ofBits (v : Nat) (src : Bool) : TileCfg where
  rows := BitVec.ofNat 7 v
  rb16 := BitVec.ofNat 5 (v / 2 ^ 7)
  fmt := BitVec.ofNat 4 (v / 2 ^ 12)
  base := BitVec.ofNat 12 (v / 2 ^ 16)
  valid := v / 2 ^ 28 % 2 == 1
  src := src

/-- TCFG[t] as it reads (R138). -/
def TileCfg.bits (t : TileCfg) : Nat :=
  t.rows.toNat + 2 ^ 7 * t.rb16.toNat + 2 ^ 12 * t.fmt.toNat + 2 ^ 16 * t.base.toNat + 2 ^ 28 * bit t.valid
    + 2 ^ 32 * bit t.src

/-- TCFG[t] of a core. -/
def Trf.cfg (k : Trf) (t : Nat) : TileCfg := vget TileCfg.zero k.tiles t

/-- Mark rows of a mask, row r at bit r. -/
def rowsMask (n : Nat) : Dword := maskOf 64 fun r => decide (r < n)

/-- Give TCFG[t] a value, with what R123 says of VALID and TPOISON. -/
def Trf.configure (k : Trf) (t : Nat) (v : TileCfg) : Trf :=
  let old := k.cfg t
  let p := vget 0 k.poison t
  let moved := old.base != v.base || old.rows != v.rows || old.rb16 != v.rb16
  let p1 := if !v.valid then 0 else if moved && p != 0 then p ||| rowsMask v.nRows else p
  { k with tiles := vset k.tiles t v, poison := vset k.poison t p1 }

/-- Change VALID of a tile. -/
def Trf.setValid (k : Trf) (t : Nat) (v : Bool) : Trf := { k with tiles := vmod k.tiles t fun x => { x with valid := v } }

/-- Mark rows of a tile poisoned. -/
def Trf.addPoison (k : Trf) (t : Nat) (m : Dword) : Trf := { k with poison := vmod k.poison t fun p => p ||| m }

/-! ### Bytes of the TRF (R112, R115, R461) -/

/-- Macro group of the TRF of a core (R461). -/
def trfGroup (c : CoreId) : Nat := 66 + 4 * c.val

/-- Read `n` words of the TRF from TRF byte `a` (line × 16 + byte, a multiple of 8). A byte beyond the last line, which
only a configuration that breaks R114 can name, has a free value. -/
def State.trfWords (s : State) (c : CoreId) (src a : Nat) : Nat → Loaded
  | 0 => ⟨[], [], s⟩
  | n + 1 =>
    if a < 65536 then
      let r := s.readWord src (trfGroup c) (a / 8)
      let bs := xorBytes (tgets 0 (s.core c).trf.data a 8) r.diff
      let t := r.s.trfWords c src (a + 8) n
      ⟨bs ++ t.bytes, if r.ue then a / 16 :: t.bad else t.bad, t.s⟩
    else
      let (v, s1) := s.drawDword
      let t := s1.trfWords c src (a + 8) n
      ⟨natLe 8 v.toNat ++ t.bytes, t.bad, t.s⟩

/-- Bank accesses that bytes `a` to `a + n - 1` take: one a line that the TRF has (R112, R140). -/
def trfAccesses (a n : Nat) : Nat := if n = 0 then 0 else min 4096 ((a + n + 15) / 16) - min 4096 (a / 16)

/-- Read `n` bytes of the TRF from TRF byte `a`; `bad` lists lines with an uncorrectable word. -/
def State.trfLoad (s : State) (c : CoreId) (src a n : Nat) : Loaded :=
  let b := a / 8 * 8
  let r := (s.pm (pgTrf c) 0x09 (trfAccesses a n)).trfWords c src b ((a + n + 7) / 8 - a / 8)
  ⟨(r.bytes.drop (a - b)).take n, r.bad, r.s⟩

/-- Write words of the TRF; a word that refuses a partial write keeps its content (R453). -/
def State.trfStoreWords (s : State) (c : CoreId) (src : Nat) : List (Nat × List (Nat × Byte)) → Stored
  | [] => ⟨false, s⟩
  | (w, cs) :: t =>
    if w < 8192 then
      let r := s.writeWord src (trfGroup c) w (decide (8 ≤ cs.length))
      if r.ue then let u := r.s.trfStoreWords c src t; ⟨true, u.s⟩
      else
        let put := fun (k : Trf) =>
          let kept := if r.diff = 0 then k.data else tputs 0 k.data (8 * w) (xorBytes (tgets 0 k.data (8 * w) 8) r.diff)
          { k with data := memPuts kept cs }
        (r.s.updTrf c put).trfStoreWords c src t
    else s.trfStoreWords c src t

/-- Write (TRF byte, value) cells, in ascending order. -/
def State.trfStore (s : State) (c : CoreId) (src : Nat) (cs : List (Nat × Byte)) : Stored :=
  (s.pm (pgTrf c) 0x09 ((cs.map fun x => x.1 / 16).filter (· < 4096)).dedup.length).trfStoreWords c src (groupCells cs)

/-- Record an uncorrectable TRF word on the TRF page (R137, R139): the op that read it, the tile and row it belongs to, and
its line. -/
def State.trfUeErr (s : State) (c : CoreId) (cw opcode tile row line : Nat) : State :=
  s.err (pgTrf c) 10 (BitVec.ofNat 64 (cw + 2 ^ 12 * opcode + 2 ^ 16 * tile + 2 ^ 20 * (row % 64) + 2 ^ 26 * 5))
    (BitVec.ofNat 64 (16 * line + 2 ^ 48))

/-- The tile among `ts` that holds a line, with the row; the first of the list when the configuration has changed since. -/
def Trf.tileAt (k : Trf) (ts : List Nat) (line : Nat) : Nat × Nat :=
  let mine := fun (t : Nat) =>
    let x := k.cfg t
    decide (x.base.toNat ≤ line) && decide (line < x.base.toNat + x.nRows * x.rb16.toNat)
  match ts.find? mine with
  | some t => (t, (line - (k.cfg t).base.toNat) / max 1 (k.cfg t).rb16.toNat)
  | none => (ts.headD 0, 0)

/-- An uncorrectable TRF word ends the task of the engine that reads it (R122); `ts` are the tiles it reads. -/
def State.trfUe (s : State) (c : CoreId) (cw : CsIndex) (opcode : Nat) (ts : List Nat) (line : Nat) : State :=
  let x := (s.core c).trf.tileAt ts line
  (s.trfUeErr c cw.toNat opcode x.1 x.2 line).cause c 0x08

/-! ### Parity errors (R456, R457, R104, R175) -/

/-- Log an event in the ECM's error log; the group and the index bytes of an event that concerns no macro word are left
open by R477. -/
def State.logEvent (s : State) (kind source flags : Nat) (w4 : Option Nat) : State :=
  let (g, s1) := s.drawByte
  match w4 with
  | some x => s1.logError g.toNat kind source flags x
  | none => let (x, s2) := s1.drawWord; s2.logError g.toNat kind source flags x.toNat

/-- A parity error in a value an engine reads: its page captures it, the task aborts with PARITY, the ECM counts and logs
it, the CCU is told (R456, R457). -/
def State.parityError (s : State) (c : CoreId) (page b : Nat) (info0 info1 : Nat) : State :=
  let s1 := (s.err page b (BitVec.ofNat 64 info0) (BitVec.ofNat 64 info1)).cause c 0x0E
  let s2 := ((s1.bumpRf 6 0x120 32 32 1).pm 6 0x06 1).logEvent 5 c.val 0 none
  s2.tell c .parityAbort

end Sys2Proof.Machine
end

