-- ==== Sys2Proof/Machine/Mem.lean ====
section
/-! DEFINITION. The paths to memory: what an address names (R24 to R29, R535), the shared cache (R300, R355, R358), requests
beyond the cluster with their tags and packets (R283, R285, R426, R434), the core cache (R299) and the window permission
ranges (R319, R320). A target beyond the cluster is answered by the `Reply` of the command that brings the answer. -/

namespace Sys2Proof.Machine

/-! ### Targets -/

/-- What an address names. -/
inductive Target where
  | cm (off : Nat)
  | csp (c : CoreId) (off : Nat)
  | dbg (c : CoreId) (off : Nat)
  | ext
  | away
  | refused
  deriving DecidableEq, Repr, Inhabited

/-- What an offset of the own cluster's window names for a requester that owns no privileged space and makes no register
access (R24, R25, R28). -/
def offTarget (off : Nat) : Target :=
  if off < cmSize then .cm off
  else if 0x100000000 ≤ off ∧ off < 0x100800000 then
    (if off % 0x100000 < cspSize then .csp (Fin.ofNat 8 (off / 0x100000)) (off % 0x100000) else .refused)
  else if 0x200000000 ≤ off ∧ off < 0x200800000 then
    (if off % 0x100000 < 0x10000 then .dbg (Fin.ofNat 8 (off / 0x100000)) (off % 0x100000) else .refused)
  else .refused

/-- What a device-local address of a device names: nothing where bit 47 and one of the reserved bits are set, the own cluster's
window, own-device external memory, or something away from the cluster (R24, R535). -/
def State.target (s : State) (dev loc : Nat) : Target :=
  if loc / 2 ^ 47 % 2 = 1 ∧ loc / 2 ^ 43 % 16 ≠ 0 then .refused
  else if dev ≠ s.ownDev then .away
  else if loc / 2 ^ 47 % 2 = 0 then .ext
  else if s.windowBase ≤ loc ∧ loc < 2 ^ 34 + s.windowBase then offTarget (loc - s.windowBase)
  else .away

/-- What `n` bytes from an address name: refused unless its last byte lies in the same place as its first. -/
def State.span (s : State) (dev loc n : Nat) : Target :=
  let a := s.target dev loc
  let b := s.target dev (loc + n - 1)
  match a, b with
  | .cm _, .cm _ => a
  | .csp c _, .csp d _ => if c = d then a else .refused
  | .dbg c _, .dbg d _ => if c = d then a else .refused
  | .ext, .ext => a
  | .away, .away => a
  | _, _ => .refused

/-- Why a memory access fails; `busy` says that it lacks a request tag it needs on the way (R283) and that its command must come
again. -/
inductive MemErr where
  | busy
  | ue
  | refused
  | isolated
  | perm
  | remote (code : Byte)
  deriving DecidableEq, Repr, Inhabited

/-- The error of a CM or CSC access that is not served: ISOLATED in SLEEP (R523), else a plain refusal (R422, R475). -/
def State.cmErr (s : State) : MemErr := if s.ccu.power == .sleep then .isolated else .refused

/-- What an access gives. -/
structure Got where
  bytes : List Byte
  err   : Option MemErr
  s     : State

/-! ### The TRF debug window (R26, R27, R113) -/

/-- TRF byte at byte `b` of a debug window: bank order (R112, R113). -/
def dbgByte (b : Nat) : Nat :=
  let bank := b / 2048 % 32
  let entry := b % 2048 / 16
  16 * (2048 * (bank / 16) + 16 * entry + bank % 16) + b % 16

/-- Read `n` aligned words of a debug window; an uncorrectable one sets UE of the TRF page (R137). -/
def State.dbgWords (s : State) (c : CoreId) (src off : Nat) : Nat → Got
  | 0 => ⟨[], none, s⟩
  | n + 1 =>
    let r := s.trfLoad c src (dbgByte off) 8
    let s1 := match r.bad with
      | [] => r.s
      | line :: _ => r.s.trfUeErr c 0 0 0 0 line
    let t := s1.dbgWords c src (off + 8) n
    ⟨r.bytes ++ t.bytes, if r.bad.isEmpty then t.err else some .ue, t.s⟩

/-- Read consecutive bytes of a debug window. -/
def State.dbgLoad (s : State) (c : CoreId) (src off n : Nat) : Got :=
  let a := off / 8 * 8
  let g := s.dbgWords c src a ((off + n + 7) / 8 - off / 8)
  { g with bytes := (g.bytes.drop (off - a)).take n }

/-! ### The shared cache (R300, R301) -/

/-- Macro word of word `i` of a CSC line (R461). -/
def cscWord (line i : Nat) : Nat × Nat :=
  let p := Config.cscPlace line + i
  (48 + p / 65536 % 4, p % 65536)

/-- A present line of the CSC. -/
def State.cscFind (s : State) (line : Nat) : Option CscLine := s.csc.find? fun l => l.line == line

/-- A committing line. -/
def State.txCommitting (s : State) (line : Nat) : Option TxLine := s.txu.lines.find? fun l => l.line == line && l.committing

/-- A pending line. -/
def State.txPending (s : State) (line : Nat) : Option TxLine := s.txu.lines.find? fun l => l.line == line && !l.committing

/-- Lines of a set that the CSC keeps for transactions. -/
def State.txInSet (s : State) (line : Nat) : Nat := (s.txu.lines.filter fun l => l.line % 1024 == line % 1024).length

/-- Bytes with those of a masked line laid over them. -/
def overlay (bs : List Byte) (mask : BitVec 128) (data : Tab Byte) : List Byte :=
  bs.mapIdx fun i b => if mask.getLsbD i then tget 0 data i else b

/-- What reading a line gives: its bytes, the offsets of its uncorrectable words, an error that leaves it without bytes. -/
structure LineRead where
  bytes : List Byte
  bad   : List Nat
  err   : Option MemErr
  s     : State

/-- Whether the word at offset `w` of a line holds a byte of `lo` to `hi - 1`. -/
def wordIn (lo hi w : Nat) : Bool := decide (w < hi) && decide (lo < w + 8)

/-- Read the words of a cached line, by their offset, that `need` asks for; the other bytes are not delivered (R452). -/
def State.lineWords (s : State) (src : Nat) (place : Nat → Nat × Nat) (data : Tab Byte) (need : Nat → Bool) : LineRead :=
  let one := fun (g : LineRead) (i : Nat) =>
    if need (8 * i) then
      let r := g.s.readWord src (place i).1 (place i).2
      LineRead.mk (g.bytes ++ xorBytes (tgets 0 data (8 * i) 8) r.diff) (if r.ue then g.bad ++ [8 * i] else g.bad) none r.s
    else { g with bytes := g.bytes ++ List.replicate 8 0 }
  (List.range 16).foldl one ⟨[], [], none, s⟩

/-- Read words of a line the CSC holds; an uncorrectable one sets ERR.UE and is a bus error (R327). -/
def State.cscLoad (s : State) (src : Nat) (l : CscLine) (need : Nat → Bool) : LineRead :=
  let g := s.lineWords src (cscWord l.line) l.data need
  if g.bad.isEmpty then g else { g with s := g.s.err 2 8 0 0 }

/-- Evict clean lines until the set of `line` has a way free; which clean line goes is left open by R300. -/
def State.cscRoom (s : State) (line : Nat) : State :=
  let mine := s.csc.filter fun l => l.line % 1024 == line % 1024
  if mine.length + s.txInSet line < 16 ∨ mine.isEmpty then s
  else
    let (k, s1) := s.drawChoice mine.length
    let victim := (mine.getD k default).line
    { s1 with csc := s1.csc.filter fun l => l.line != victim }

/-- Allocate a clean line. -/
def State.cscAlloc (s : State) (src line : Nat) (bs : List Byte) : State :=
  if (s.cscFind line).isSome then s
  else
    let s1 := s.cscRoom line
    let s2 := (List.range 16).foldl (fun t i => (t.writeWord src (cscWord line i).1 (cscWord line i).2 true).s) s1
    { s2 with csc := s2.csc ++ [⟨line, tputs 0 [] 0 bs⟩] }

/-- Invalidate a line that is neither pending nor committing (R306, R327). -/
def State.cscDrop (s : State) (line : Nat) : State :=
  if (s.cscFind line).isSome then
    { s with csc := s.csc.filter fun l => l.line != line }.pm 2 0x05 1
  else s

/-- DOOM a transaction: its pending lines are discarded and the reason is kept (R351, R356, R357, R376). -/
def State.txDoom (s : State) (i : SlotId) (reason : Nat) (holder : Nat := 0) : State :=
  if s.txu.slots[i].st = .open_ then
    let s1 := (s.dropLines i).updSlot i fun k =>
      { k with st := .doomed, reason := BitVec.ofNat 4 reason, holder := BitVec.ofNat 3 holder, lines := 0 }
    let pmCode := if reason = 2 then 3 else if reason = 3 then 4 else 5
    if reason = 6 then s1 else s1.pm 3 pmCode 1
  else s

/-- A non-transactional write of the cluster meets a line: a transaction that holds it pending is DOOMED (R356). -/
def State.txOverwritten (s : State) (line : Nat) : State :=
  match s.txPending line with
  | some l => s.txDoom l.slot 3
  | none => s

/-- Cells of one line, offsets within it. -/
def lineCells (line : Nat) (cs : List (Nat × Byte)) : List (Nat × Byte) :=
  (cs.filter fun c => c.1 / 128 == line).map fun c => (c.1 % 128, c.2)

/-- A non-transactional write of the cluster to own-device external memory, as the CSC takes it: it dooms a transaction
with the line pending, updates a present line, is remembered for a fill in flight, which it overtakes (R301), and overtakes
committed bytes still on their way (R300, R356, R358). -/
def State.cscWrite (s : State) (src line : Nat) (cs : List (Nat × Byte)) : State :=
  let s0 := s.txOverwritten line
  let s1 := { s0 with cscBuf := s0.cscBuf.map fun (f : CscFill) =>
    if f.line = line ∧ f.data = none then { f with wrote := f.wrote ++ cs } else f }
  let s2 := if (s1.cscFind line).isSome then
      let words := (cs.map fun c => c.1 / 8).dedup
      let full := fun (w : Nat) => decide (8 ≤ (cs.filter fun c => c.1 / 8 == w).length)
      let t := words.foldl (fun (t : State) w => (t.writeWord src (cscWord line w).1 (cscWord line w).2 (full w)).s) s1
      { t with csc := modFirst (·.line == line) (fun l => { l with data := memPuts l.data cs }) t.csc }.pm 2 0x06 1
    else s1
  match s2.txCommitting line with
  | none => s2
  | some _ =>
    let upd := fun (l : TxLine) =>
      { l with mask := cs.foldl (fun m c => m ||| (1 <<< c.1)) l.mask, data := memPuts l.data cs }
    { s2 with txu := { s2.txu with lines := modFirst (fun l => l.line == line && l.committing) upd s2.txu.lines } }

/-! ### Requests beyond the cluster (R283, R426, R434) -/

/-- Send a request packet of the cluster; one without a route is answered with ERR NOROUTE. -/
def State.sendRequest (s : State) (sys : Nat) (k : Packet) : State :=
  match s.sendSys sys k with
  | some t => t
  | none =>
    let (n, s1) := s.drawChoice 4
    let s2 := s1.noRoute (Fin.ofNat 4 n) k
    let e : Packet := { Packet.blank 4 k.tc.toNat k.src with
      tag := k.tag, src := k.src, addr := BitVec.ofNat 48 sys, spec := BitVec.ofNat 48 errNoRoute }
    s2.deliver none e.seal

/-- The class a request travels in (R426). -/
def reqClass (loc : Nat) : Nat :=
  if loc / 2 ^ 47 % 2 = 1 ∧ loc % 2 ^ 34 / 2 ^ 32 = 1 then 3 else 2

/-- An RD packet (R426). -/
def rdPacket (src : BitVec 32) (tag : BitVec 11) (loc n : Nat) : Packet :=
  { Packet.blank 0 (reqClass loc) 0 with src := src, tag := tag, spec := BitVec.ofNat 48 n }

/-- A WR packet: plain when the bytes are consecutive, else widened to whole words with a byte mask (R426). -/
def wrPacket (src : BitVec 32) (tag : BitVec 11) (loc : Nat) (cs : List (Nat × Byte)) : Nat × Packet :=
  let base := { Packet.blank 1 (reqClass loc) 0 with src := src, tag := tag }
  let lo := (cs.headD (loc, 0)).1
  let hi := (cs.getLastD (loc, 0)).1
  if hi - lo + 1 = cs.length then (lo, { base with payload := cs.map (·.2) })
  else
    let a := lo / 8 * 8
    let n := (hi + 8) / 8 * 8 - a
    let at_ := fun (i : Nat) => (cs.find? fun c => c.1 == a + i).map (·.2)
    let data := (List.range n).map fun i => (at_ i).getD 0
    let mask := (List.range (n / 8)).map fun w =>
      (List.range 8).foldl (fun (m : Byte) j => if (at_ (8 * w + j)).isSome then m ||| (1 <<< j) else m) 0
    (a, { base with spec := 1, payload := data ++ mask })

/-- Whether a tag counts against its core's 512 outstanding requests: stream units, TLU rows with the CCH fills they need,
image reads (R283). -/
def TagUser.counted : TagUser → Bool
  | .tlu _ _ _ => true
  | .str _ _ _ => true
  | .image _ => true
  | .cch _ _ _ _ => false
  | .txLine _ _ _ => false
  | .txWord _ => false
  | .evx => false
  | .copy _ => false
  | .port _ => false
  | .plain _ => false

/-- Far requests of a core's stream units that hold no tag: those that stay on the core-to-core link. -/
def State.untagged (s : State) (c : CoreId) : Nat :=
  ((List.finRange 4).map fun u => (s.core c).str.units[u].acts.foldl (fun n a =>
    n + (a.outs.filter fun r => (s.rqt.ofUser (.str c u r.id)).isNone).length) 0).sum

/-- Outstanding requests of a core, of the 512 it may hold (R283). -/
def State.coreOut (s : State) (c : CoreId) : Nat :=
  (s.rqt.tags.filter fun e => match e.2 with
    | some g => g.r == c.val && g.user.counted
    | none => false).length + s.untagged c

/-- Give a request its tag and send its packets, if it has any; none when no tag is free or its core holds 512 requests
(R283). -/
def State.launch (s : State) (r : Nat) (user : TagUser) (dev loc : Nat) (pkts : BitVec 11 → List (Nat × Packet)) :
    Option State :=
  if user.counted && decide (r < 8) && decide (512 ≤ s.coreOut (Fin.ofNat 8 r)) then none
  else match s.allocTag r user (2 ^ 48 * dev + loc) (pkts 0).length with
  | none => none
  | some (tag, t) => some ((pkts tag).foldl (fun (t : State) p => t.sendRequest (2 ^ 48 * dev + p.1) p.2) t)

/-- RD packets for `n` bytes, 2,048 at most in each (R426). -/
def rdPackets (src : BitVec 32) (tag : BitVec 11) (loc n : Nat) : List (Nat × Packet) :=
  (List.range ((n + 2047) / 2048)).map fun i =>
    (loc + 2048 * i, rdPacket src tag (loc + 2048 * i) (min 2048 (n - 2048 * i)))

/-- 128 B lines of a range. -/
def linesOf (loc n : Nat) : List Nat := (List.range ((loc + n + 127) / 128 - loc / 128)).map (loc / 128 + ·)

/-- A read asks for runs of bytes, each an address and a length, in ascending order (R277). -/
abbrev Runs := List (Nat × Nat)

/-- The first byte of the runs. -/
def runsLo (rs : Runs) : Nat := (rs.headD (0, 0)).1
/-- The byte after the last. -/
def runsHi (rs : Runs) : Nat := let r := rs.getLastD (0, 0); r.1 + r.2
/-- The lines that hold bytes of the runs. -/
def runLines (rs : Runs) : List Nat := (rs.flatMap fun r => linesOf r.1 r.2).dedup
/-- Whether a byte of the word at `a` lies in a run. -/
def runsNeed (rs : Runs) (a : Nat) : Bool := rs.any fun r => decide (a < r.1 + r.2) && decide (r.1 < a + 8)
/-- Whole lines as runs, neighbours together. -/
def lineRuns : List Nat → Runs
  | [] => []
  | l :: ls =>
    match lineRuns ls with
    | (a, n) :: t => if a = 128 * (l + 1) then (128 * l, n + 128) :: t else (128 * l, 128) :: (a, n) :: t
    | [] => [(128 * l, 128)]

/-- The CSC looks a line up for a request as it is made: present, in flight and joined by the request, which waits when eight
have joined, or missed and fetched by it. Whether it is fetched, and the state (R285). -/
def State.cscLook (s : State) (user : TagUser) (line : Nat) : Bool × State :=
  match s.cscFind line with
  | some l =>
    let f : CscFill := ⟨line, user, [user], [], some (.data (tgets 0 l.data 0 128)), []⟩
    (false, (s.updFills (· ++ [f])).pm 2 0x01 1)
  | none =>
    let here := fun (f : CscFill) => f.line == line && f.data.isNone
    match s.cscBuf.find? here with
    | none => (true, (s.updFills (· ++ [⟨line, user, [], [], none, []⟩])).pm 2 0x02 1)
    | some f =>
      if f.joiners.length < 8 then
        (false, ((s.updFills (modFirst here fun f => { f with joiners := f.joiners ++ [user] })).bumpRf 2 0x110 0 32 1).pm 2 0x03 1)
      else
        (false, ((s.updFills (modFirst here fun f => { f with waiters := f.waiters ++ [user] })).bumpRf 2 0x110 32 32 1).pm 2 0x04 1)

/-- The CSC looks up several lines; those the request fetches, and the state. -/
def State.cscLooks (s : State) (user : TagUser) : List Nat → List Nat × State
  | [] => ([], s)
  | l :: ls =>
    let x := s.cscLook user l
    let y := x.2.cscLooks user ls
    (if x.1 then l :: y.1 else y.1, y.2)

/-- A read request from a core or port to a target that needs a tag: the CM, external memory (through the CSC), or an
address away from the cluster. Its packets ask for the lines it fetches, away from the cluster for its runs. -/
def State.launchRead (s : State) (r unit : Nat) (user : TagUser) (dev : Nat) (rs : Runs) : Option State :=
  let lo := runsLo rs
  match s.span dev lo (runsHi rs - lo) with
  | .cm _ => s.launch r user dev lo fun _ => []
  | .ext =>
    let x := s.cscLooks user (runLines rs)
    x.2.launch r user dev lo fun tag => (lineRuns x.1).flatMap fun q => rdPackets (s.srcWord unit) tag q.1 q.2
  | .away => s.launch r user dev lo fun tag => rs.flatMap fun q => rdPackets (s.srcWord unit) tag q.1 q.2
  | .csp _ _ => some s
  | .dbg _ _ => some s
  | .refused => some s

/-- Whether request `user` can have a line from the CSC: it is present, its own fill brings it, or a fill it has joined has. -/
def State.cscHas (s : State) (user : TagUser) (line : Nat) : Bool :=
  (s.cscFind line).isSome || s.cscBuf.any fun f => f.line == line && (f.joiners.contains user || (f.owner == user && f.data.isNone))

/-- What request `user` must do before `lines` can be served through the CSC: nothing (none), wait for a fill it has joined or
waits for, or look a line up again that the CSC has replaced since it waited, and fetch it (R285). -/
def State.cscWaits (s : State) (unit : Nat) (user : TagUser) (lines : List Nat) : Option State :=
  if s.cscBuf.any fun f => f.data.isNone && (f.joiners.contains user || f.waiters.contains user) then some s
  else match lines.find? fun l => !s.cscHas user l with
  | none => none
  | some line =>
    let s1 := s.updFills fun l => l.map fun x => if x.line = line then x.leave user else x
    match s1.cscLook user line with
    | (false, t) => some t
    | (true, t) =>
      let loc := 2 ^ 48 * t.ownDev + 128 * line
      match t.moreTag unit user loc 1 with
      | none => some s
      | some (tag, t1) => some ((rdPackets (t1.srcWord unit) tag (128 * line) 128).foldl
          (fun (x : State) (p : Nat × Packet) => x.sendRequest (2 ^ 48 * x.ownDev + p.1) p.2) t1)

/-- A write request from a core or port to such a target. The own CM takes the bytes at its answer; external memory takes
them through the CSC now. -/
def State.launchWrite (s : State) (r unit : Nat) (user : TagUser) (dev : Nat) (cs : List (Nat × Byte)) : Option State :=
  let loc := (cs.headD (0, 0)).1
  match s.target dev loc with
  | .cm _ => s.launch r user dev loc fun _ => []
  | .ext =>
    let ls := (cs.map fun c => c.1 / 128).dedup
    (s.launch r user dev loc fun tag => [wrPacket (s.srcWord unit) tag loc cs]).map fun t =>
      ls.foldl (fun (t : State) l => t.cscWrite unit l (lineCells l cs)) t
  | .away => s.launch r user dev loc fun tag => [wrPacket (s.srcWord unit) tag loc cs]
  | .csp _ _ => some s
  | .dbg _ _ => some s
  | .refused => some s

/-- Whether the bond failed a beat of the request twice, so that its target is not reached (R419). -/
def State.bondBad (s : State) (user : TagUser) : Bool := (s.rqt.ofUser user).any (·.bondUe)

/-- A request that is answered frees its tag, if its RSP or ACK has not freed it already. -/
def State.takeTag (s : State) (user : TagUser) : State :=
  match s.rqt.ofUser user with
  | some _ => s.freeUser user
  | none => s.leaveFills [user]

/-- Bytes of a reply. -/
def replyBytes : Reply → List Byte
  | .data bs => bs
  | .error _ => []

/-- The error a reply from beyond the cluster carries. -/
def replyErr : Reply → Option MemErr
  | .data _ => none
  | .error c => some (.remote c)

/-- The first `n` bytes of what a target answers. -/
def takeBytes (n : Nat) (bs : List Byte) : List Byte := (List.range n).map fun i => bs.getD i 0

/-- Bytes of a line with what the cluster wrote to it while its fill was in flight (R301). -/
def overWritten (bs : List Byte) (cs : List (Nat × Byte)) : List Byte :=
  bs.mapIdx fun i b => ((cs.reverse.find? fun c => c.1 == i).map (·.2)).getD b

/-- A line the CSC does not hold comes with a fill: it is laid over with later writes and allocated. -/
def State.cscFilled (s : State) (src line : Nat) (cs : List (Nat × Byte)) : Reply → LineRead
  | .error c => ⟨List.replicate 128 0, [], some (.remote c), s⟩
  | .data bs => let b := overWritten (takeBytes 128 bs) cs; ⟨b, [], none, s.cscAlloc src line b⟩

/-- The part of a reply that belongs to the first line it was asked for, and the rest. -/
def replySplit : Reply → Reply × Reply
  | .error c => (.error c, .error c)
  | .data bs => (.data (takeBytes 128 bs), .data (bs.drop 128))

/-- The fill of a line returns with its reply: the line is allocated, and those who joined keep what came (R285). -/
def State.cscReturn (s : State) (src : Nat) (f : CscFill) (rep : Reply) : LineRead :=
  let g := s.cscFilled src f.line f.wrote rep
  let kept : Reply := match g.err with
    | none => .data g.bytes
    | some _ => rep
  { g with s := g.s.updFills (modFirst (· == f) fun f => { f with data := some kept }) }

/-- A reply that no request waits for any more still fills the lines its request fetched, those of `n` bytes at `loc` (R285). -/
def State.cscOrphan (s : State) (src : Nat) (user : TagUser) (loc n : Nat) (rep : Reply) : State :=
  let mine := s.cscBuf.filter fun f => f.owner == user && f.data.isNone && (linesOf loc n).contains f.line
  mine.foldl (fun (t : State) f =>
    let r : Reply := match rep with
      | .error c => .error c
      | .data bs => .data (bs.drop (128 * f.line - loc))
    (t.cscReturn src f (replySplit r).1).s) s

/-- A line of own-device external memory for request `user`, its words as `need` asks: the fill it has made returns with the
first line of its reply; a line it found present or has joined is read from the CSC, or is what came when the CSC has replaced
it; committed bytes lie over either (R285, R300, R355, R358). What is left of the reply is given back. -/
def State.extLine (s : State) (src : Nat) (user : TagUser) (line : Nat) (rep : Reply) (need : Nat → Bool) : LineRead × Reply :=
  let laid := fun (g : LineRead) => match g.s.txCommitting line with
    | some l => { g with bytes := overlay g.bytes l.mask l.data }
    | none => g
  match s.cscBuf.find? fun f => f.line == line && f.data.isNone && f.owner == user with
  | some f => (laid (s.cscReturn src f (replySplit rep).1), (replySplit rep).2)
  | none =>
    match s.cscFind line with
    | some l => (laid (s.cscLoad src l need), rep)
    | none =>
      match s.cscBuf.find? fun f => f.line == line && f.joiners.contains user with
      | some f =>
        (match f.data with
          | some (.data bs) => laid ⟨bs, [], none, s⟩
          | some (.error c) => ⟨List.replicate 128 0, [], some (.remote c), s⟩
          | none => ⟨List.replicate 128 0, [], some .busy, s⟩, rep)
      | none => (laid (s.cscFilled src line [] (replySplit rep).1), (replySplit rep).2)

/-- Whole lines of external memory that hold bytes of the runs. -/
def State.extLines (s : State) (src : Nat) (user : TagUser) (rs : Runs) (rep : Reply) : List Nat → Got
  | [] => ⟨[], none, s⟩
  | l :: ls =>
    let (g, rep1) := s.extLine src user l rep fun w => runsNeed rs (128 * l + w)
    let t := g.s.extLines src user rs rep1 ls
    ⟨g.bytes ++ t.bytes, match g.err with
      | some e => some e
      | none => if g.bad.isEmpty then t.err else some .ue, t.s⟩

/-- The bytes of the runs out of whole lines. -/
def pickRuns (rs : Runs) (ls : List Nat) (bs : List Byte) : List Byte :=
  rs.flatMap fun r => (List.range r.2).map fun i =>
    bs.getD (128 * (ls.takeWhile (· != (r.1 + i) / 128)).length + (r.1 + i) % 128) 0

/-- Whether the CM and the CSC answer with an error instead of data (R422, R475, R523). -/
def State.cmRead (s : State) (src off n : Nat) : Got :=
  if !s.cmServed then ⟨[], some s.cmErr, s⟩
  else
    let r := s.load src off n
    ⟨r.bytes, if r.bad.isEmpty then none else some .ue, r.s⟩

/-- Read a core's CSP for a requester inside the cluster. -/
def State.cspRead (s : State) (c : CoreId) (who : Inbound) (off n : Nat) : Got :=
  let inbound := who != .ownCore
  let s0 := if inbound then s.pm (pgCsp c) 0x03 1 else s
  if inbound && !s.reachable c then ⟨[], some .isolated, s⟩
  else if inbound && !s0.gateOpen c who then ⟨[], some .refused, s0.gateRefuse c who off⟩
  else
    let r := s0.cspLoad c who off n
    ⟨r.bytes, if r.bad.isEmpty then none else some .ue, r.s⟩

/-- Write a core's CSP for a requester inside the cluster. -/
def State.cspWrite (s : State) (c : CoreId) (who : Inbound) (cs : List (Nat × Byte)) : Got :=
  let inbound := who != .ownCore
  let s0 := if inbound then s.pm (pgCsp c) 0x03 1 else s
  if inbound && !s.reachable c then ⟨[], some .isolated, s⟩
  else if inbound && !s0.gateOpen c who then ⟨[], some .refused, s0.gateRefuse c who (cs.headD (0, 0)).1⟩
  else
    let r := s0.cspStoreCells c who cs
    ⟨[], if r.refused then some .ue else none, r.s⟩

/-- Whether an engine of core `c` counts as the own core of a CSP. -/
def whoFor (c d : CoreId) : Inbound := if c = d then .ownCore else .otherCore c

/-- Read runs one after another with `f`, which takes an address and a length; the first error decides. -/
def readRuns (f : State → Nat → Nat → Got) : Runs → State → Got
  | [], s => ⟨[], none, s⟩
  | r :: rs, s =>
    let g := f s r.1 r.2
    let t := readRuns f rs g.s
    ⟨g.bytes ++ t.bytes, match g.err with
      | some e => some e
      | none => t.err, t.s⟩

/-- The answer to a read of an engine of core `c` that bypasses the CCH: the bytes of its runs (R277, R298). -/
def State.readFar (s : State) (c : CoreId) (user : TagUser) (dev : Nat) (rs : Runs) (rep : Reply) : Got :=
  let lo := runsLo rs
  match s.span dev lo (runsHi rs - lo) with
  | .cm off => readRuns (fun t a n => t.cmRead c (off + (a - lo)) n) rs s
  | .csp d off => readRuns (fun t a n => t.cspRead d (whoFor c d) (off + (a - lo)) n) rs s
  | .dbg d off => readRuns (fun t a n =>
      if t.reachable d then t.dbgLoad d c (off + (a - lo)) n else ⟨[], some .isolated, t⟩) rs s
  | .ext =>
    if !s.cmServed then ⟨[], some s.cmErr, s⟩
    else
      let g := s.extLines c user rs rep (runLines rs)
      { g with bytes := pickRuns rs (runLines rs) g.bytes }
  | .away => ⟨takeBytes (rs.map (·.2)).sum (replyBytes rep), replyErr rep, s⟩
  | .refused => ⟨[], some .refused, s⟩

/-- The answer to a write of an engine of core `c` that bypasses the CCH; external memory has taken the bytes when the
request was made. -/
def State.writeFar (s : State) (c : CoreId) (dev : Nat) (cs : List (Nat × Byte)) (rep : Reply) : Got :=
  match s.target dev (cs.headD (0, 0)).1 with
  | .cm off =>
    if !s.cmServed then ⟨[], some s.cmErr, s⟩
    else
      let lo := (cs.headD (0, 0)).1
      let r := s.storeCells c (cs.map fun x => (off + (x.1 - lo), x.2))
      ⟨[], if r.refused then some .ue else none, r.s⟩
  | .csp d off =>
    let lo := (cs.headD (0, 0)).1
    s.cspWrite d (whoFor c d) (cs.map fun x => (off + (x.1 - lo), x.2))
  | .dbg d _ => ⟨[], some (if s.reachable d then .refused else .isolated), s⟩
  | .ext => ⟨[], if s.cmServed then replyErr rep else some s.cmErr, s⟩
  | .away => ⟨[], replyErr rep, s⟩
  | .refused => ⟨[], some .refused, s⟩

/-! ### Window permission ranges (R319, R320) -/

/-- Register n of an array of WPR registers. -/
def State.wpr (s : State) (c : CoreId) (base n : Nat) : Dword := s.reg (pgCch c) (base + 0x18 * n)

/-- WPR_GLOBAL.ENF. -/
def State.wprOn (s : State) (c : CoreId) : Bool := s.rf (pgCch c) 0x110 0 1 == 1

/-- Whether an enabled range is inconsistent while ENF is 1 (R320). -/
def State.wprBroken (s : State) (c : CoreId) : Bool :=
  s.wprOn c && (List.range 8).any fun n =>
    bitAt (s.wpr c 0x150 n) 21 && decide (fld (s.wpr c 0x148 n) 0 32 < fld (s.wpr c 0x140 n) 0 32)

/-- Whether the running task of a core is of class TRAIN. -/
def State.trainTask (s : State) (c : CoreId) : Bool :=
  match (s.core c).seq.task with
  | some t => t.train
  | none => false

/-- Whether the ranges allow an access of `n` bytes (R319). -/
def State.wprAllows (s : State) (c : CoreId) (dev loc n : Nat) (write : Bool) : Bool :=
  let ownCsp := match s.span dev loc n with
    | .csp d _ => d == c
    | _ => false
  !s.wprOn c || ownCsp || (List.range 8).any fun k =>
    let v := s.wpr c 0x150 k
    let own := bitAt v 16
    let cls := 17 + 2 * bit (s.trainTask c) + bit write
    bitAt v 21 && bitAt v cls && (if own then dev == s.ownDev else dev == fld v 0 16)
      && decide (fld (s.wpr c 0x140 k) 0 32 ≤ loc / 65536)
      && decide ((loc + n - 1) / 65536 ≤ fld (s.wpr c 0x148 k) 0 32)

/-- Count a refusal (R319). -/
def State.wprRefuse (s : State) (c : CoreId) (dev loc : Nat) : State :=
  ((s.bumpRf (pgCch c) 0x118 0 32 1).setReg (pgCch c) 0x120 (BitVec.ofNat 64 (loc % 2 ^ 48 + 2 ^ 48 * dev))).pm
    (pgCch c) 0x06 1

/-! ### The core cache (R299) -/

/-- Macro word of word `i` of a CCH line (R461). -/
def cchWord (c : CoreId) (l : CchLine) (i : Nat) : Nat × Nat :=
  (65 + 4 * c.val, 2048 * l.way.val + 16 * (l.line % 128) + i)

/-- A valid line. -/
def Cch.find (k : Cch) (line : Nat) : Option CchLine := k.lines.find? fun l => l.line == line

/-- Make a line the most recent of its set. -/
def Cch.touch (k : Cch) (line : Nat) : Cch :=
  { k with lines := (k.lines.filter fun l => l.line == line) ++ k.lines.filter fun l => l.line != line }

/-- Drop a line. -/
def Cch.remove (k : Cch) (line : Nat) : Cch := { k with lines := k.lines.filter fun l => l.line != line }

/-- Record an error of the CCH page (R323, R324): the word that issued the op, its LS opcode, 0 for none. -/
def State.cchErr (s : State) (c : CoreId) (b kind cw op scope addr : Nat) : State :=
  s.err (pgCch c) b (BitVec.ofNat 64 (cw + 2 ^ 12 * op + 2 ^ 16 * kind + 2 ^ 20 * scope))
    (BitVec.ofNat 64 (2 ^ 48 * s.ownDev + addr % 2 ^ 48))

/-- Read words of a line the CCH holds (R452). -/
def State.cchLoad (s : State) (c : CoreId) (l : CchLine) (need : Nat → Bool) : LineRead :=
  s.lineWords c (cchWord c l) l.data need

/-- The dirty bytes of a line as cells at device-local addresses. -/
def dirtyCells (l : CchLine) (bs : List Byte) : List (Nat × Byte) :=
  (List.range 128).filterMap fun i => if l.dirty.getLsbD i then some (128 * l.line + i, bs.getD i 0) else none

/-- What writing a line's dirty bytes back gives (R254, R305): whether the line could be read, whether the request found no tag
or the memory island does not answer, whether the write is still on its way beyond the cluster, whether its target refused it
(R311, R453), and the state. -/
structure WroteBack where
  ue      : Bool
  busy    : Bool
  away    : Bool
  refused : Bool
  s       : State

/-- Write back the dirty bytes of a line for the LS op that word `cw` issued, `op` being its opcode and 16 × its SCOPE, 0 for a host
command: into the CM at once, beyond the cluster by a write request. The line itself is left as it is. -/
def State.writeBack (s : State) (c : CoreId) (l : CchLine) (cw op : Nat) : WroteBack :=
  let g := s.cchLoad c l fun _ => true
  let loc := 128 * l.line
  if !g.bad.isEmpty then ⟨true, false, false, false, g.s⟩
  else if s.memDead then ⟨false, true, false, false, s⟩
  else
    let cs := dirtyCells l g.bytes
    let s1 := g.s.pm (pgCch c) 0x03 1
    match s1.target s1.ownDev loc with
    | .cm off =>
      (match s1.rqtPass c (2 ^ 48 * s1.ownDev + loc) with
      | none => ⟨false, true, false, false, s⟩
      | some t =>
        if !t.cmServed then ⟨false, false, false, true, t⟩
        else let r := t.storeCells c (cs.map fun x => (off + x.1 % 128, x.2)); ⟨false, false, false, r.refused, r.s⟩)
    | x =>
      if x = .ext ∧ s1.cmServed = false then ⟨false, false, false, true, s1⟩
      else match s1.launchWrite c c (.cch c l.line cw op) s1.ownDev cs with
      | some t => ⟨false, false, true, false, t⟩
      | none => ⟨false, true, false, false, s⟩

/-- A write-back fails: the CCH page records it, `op` giving the LS opcode and 16 × SCOPE of the op that word `cw` issued, and the
task aborts; a host command (`op` 0) aborts nothing (R311, R324, R325). -/
def State.lineFails (s : State) (c : CoreId) (b kind cause cw op line : Nat) : State :=
  let t := s.cchErr c b kind cw (op % 16) (op / 16) (128 * line)
  if op = 0 then t else t.cause c (BitVec.ofNat 8 cause)

/-- A write-back meets an uncorrectable word or is refused (R311). -/
def State.writeBackFails (s : State) (c : CoreId) (w : WroteBack) (cw op line : Nat) : State :=
  if w.ue then s.lineFails c 8 2 0x08 cw op line
  else if w.refused then s.lineFails c 9 3 0x13 cw op line
  else s

/-- Make room for a line in its set: the least recently used way, written back first when dirty; none while its write-back
finds no tag (R299). A dirty victim that holds an uncorrectable word is lost, and the task aborts (R311). -/
def State.cchRoom (s : State) (c : CoreId) (line cw op : Nat) : Option State :=
  let mine := (s.core c).cch.lines.filter fun l => l.line % 128 == line % 128
  if mine.length < 8 then some s
  else match mine.getLast? with
    | none => some s
    | some v =>
      if v.dirty = 0 then some (s.updCch c fun k => k.remove v.line)
      else
        let w := s.writeBack c v cw op
        if w.busy then none else some ((w.s.updCch c fun k => k.remove v.line).writeBackFails c w cw op v.line)

/-- Allocate a line with the given bytes, most recent in its set, for the LS op of opcode `op` that word `cw` issued; none
while the victim's write-back finds no tag. -/
def State.cchAlloc (s : State) (c : CoreId) (line : Nat) (bs : List Byte) (cw op : Nat) : Option State :=
  (s.cchRoom c line cw op).map fun s1 =>
    let used := ((s1.core c).cch.lines.filter fun l => l.line % 128 == line % 128).map (·.way)
    let way := ((List.finRange 8).find? fun w => !used.contains w).getD 0
    let l : CchLine := ⟨line, way, tputs 0 [] 0 bs, 0, 0⟩
    let s2 := (List.range 16).foldl (fun t i => (t.writeWord c (cchWord c l i).1 (cchWord c l i).2 true).s) s1
    s2.updCch c fun k => { k with lines := l :: k.lines }

/-- Who reads or writes through the CCH: the request, the word and LS opcode it belongs to, and the lines a fill must not
allocate (R306). -/
structure CchUse where
  user   : TagUser
  cw     : Nat
  op     : Nat
  noFill : Nat → Bool

/-- A line as its home gives it to the CCH, and what is left of the reply. -/
def State.cchFetch (s : State) (c : CoreId) (u : CchUse) (line : Nat) (rep : Reply) : LineRead × Reply :=
  match s.target s.ownDev (128 * line) with
  | .cm off =>
    if s.cmServed then
      let r := s.load c off 128
      (⟨r.bytes, r.bad.map (· - off), none, r.s⟩, rep)
    else (⟨[], [], some s.cmErr, s⟩, rep)
  | .ext => if s.cmServed then s.extLine c u.user line rep fun _ => true else (⟨[], [], some s.cmErr, s⟩, rep)
  | .away =>
    match replySplit rep with
    | (.data bs, rest) => (⟨bs, [], none, s⟩, rest)
    | (.error e, rest) => (⟨[], [], some (.remote e), s⟩, rest)
  | .csp _ _ => (⟨[], [], some s.cmErr, s⟩, rep)
  | .dbg _ _ => (⟨[], [], some s.cmErr, s⟩, rep)
  | .refused => (⟨[], [], some s.cmErr, s⟩, rep)

/-- One line for a TLD row that needs its bytes `lo` to `hi - 1`, or (`fill`) for a partial store, which needs none of a valid
line: from the CCH, or filled from its home and allocated. An uncorrectable word elsewhere in a line does not touch the row;
a line that comes with one is not kept, and a store's fill fails with it (R128, R299). -/
def State.cchLine (s : State) (c : CoreId) (u : CchUse) (line : Nat) (rep : Reply) (lo hi : Nat) (fill : Bool) : Got × Reply :=
  match (s.core c).cch.find line with
  | some l =>
    let x := ((s.pm (pgCch c) 0x01 1).updCch c fun k => k.touch line).cchLoad c l (wordIn lo hi)
    if x.bad.isEmpty then (⟨x.bytes, none, x.s⟩, rep)
    else (⟨x.bytes, some .ue, x.s.cchErr c 8 2 u.cw u.op 0 (128 * line)⟩, rep)
  | none =>
    let (x, rep1) := (s.pm (pgCch c) 0x02 1).cchFetch c u line rep
    match x.err with
    | some e => (⟨[], some e, x.s⟩, rep1)
    | none =>
      if !x.bad.isEmpty then (⟨x.bytes, if fill || x.bad.any (wordIn lo hi) then some .ue else none, x.s⟩, rep1)
      else if u.noFill line then (⟨x.bytes, none, x.s⟩, rep1)
      else match x.s.cchAlloc c line x.bytes u.cw u.op with
        | some t => (⟨x.bytes, none, t⟩, rep1)
        | none => (⟨[], some .busy, s⟩, rep)

/-- The lines of a TLD row at `loc` of `n` bytes through the CCH. -/
def State.cchLines (s : State) (c : CoreId) (u : CchUse) (rep : Reply) (loc n : Nat) : List Nat → Got
  | [] => ⟨[], none, s⟩
  | l :: ls =>
    let (g, rep1) := s.cchLine c u l rep (loc - 128 * l) (min 128 (loc + n - 128 * l)) false
    match g.err with
    | some .busy => g
    | e =>
      let t := g.s.cchLines c u rep1 loc n ls
      ⟨g.bytes ++ t.bytes, match t.err with
        | some .busy => some .busy
        | r => match e with
          | some x => some x
          | none => r, t.s⟩

/-- Merge cells (offsets within the line) into a valid line and mark them dirty. The dirty generation is new when the line
was clean. -/
def State.cchMerge (s : State) (c : CoreId) (line : Nat) (cs : List (Nat × Byte)) : Bool × State :=
  match (s.core c).cch.find line with
  | none => (true, s)
  | some l =>
    let words := (cs.map fun x => x.1 / 8).dedup
    let full := fun (w : Nat) => decide (8 ≤ (cs.filter fun x => x.1 / 8 == w).length)
    let (ue, s1) := words.foldl (fun (a : Bool × State) w =>
      let r := a.2.writeWord c (cchWord c l w).1 (cchWord c l w).2 (full w)
      (a.1 || r.ue, r.s)) (false, s)
    if ue then (false, s1)
    else
      (true, s1.updCch c fun k =>
        let g := if l.dirty = 0 then k.gen + 1 else l.gen
        let l1 := { l with
          data := memPuts l.data cs, dirty := cs.foldl (fun (m : BitVec 128) (x : Nat × Byte) => m ||| (1 <<< x.1)) l.dirty, gen := g }
        ({ k with gen := max k.gen g, lines := k.lines.map fun (x : CchLine) => if x.line = line then l1 else x }).touch line)

/-- Whether a target is cached by the CCH (R298). -/
def State.cchHolds (s : State) (dev loc n : Nat) : Bool :=
  match s.span dev loc n with
  | .cm _ => true
  | .ext => true
  | .away => dev == s.ownDev && !(loc / 2 ^ 47 % 2 == 1 && loc % 2 ^ 34 / 2 ^ 32 != 0)
  | .csp _ _ => false
  | .dbg _ _ => false
  | .refused => false

end Sys2Proof.Machine
end

