-- ==== Sys2Proof/Machine/Num.lean ====
section
/-! DEFINITION. Numbers (R35 to R61): formats, exact values, conversions with their rounding modes, the keyed random
word, group-exact summation, vector arithmetic and the transcendental reference algorithms. Every value is exact: a
sign, a magnitude and a power of two; rounding happens in one place. -/

namespace Sys2Proof.Machine

/-- An exact value: NaN, a signed infinity, or ±mag × 2^exp (a zero keeps its sign). -/
inductive Val where
  | nan
  | inf (neg : Bool)
  | fin (neg : Bool) (mag : Nat) (exp : Int)
  deriving DecidableEq, Repr, Inhabited

/-- +0. -/
abbrev Val.zero : Val := .fin false 0 0
/-- 1. -/
abbrev Val.one : Val := .fin false 1 0

/-- An integer as an exact value. -/
def Val.ofInt (i : Int) : Val := .fin (decide (i < 0)) i.natAbs 0

/-! ### Formats (R35, R36) -/

/-- Element width in bits by format code (R35); 0 for a reserved code. -/
def fmtBits : Nat → Nat
  | 0 => 32 | 1 => 16 | 2 => 16 | 3 => 8 | 4 => 8 | 5 => 8 | 6 => 4 | 7 => 8 | 8 => 32 | 9 => 64 | 10 => 8 | _ => 0

/-- Whether a format is one of the integers. -/
def fmtInt (f : Nat) : Bool := f == 7 || f == 8 || f == 9

/-- Whether a format is an MX element format (R37). -/
def fmtMx (f : Nat) : Bool := f == 5 || f == 6

/-- Shape of a floating format (R36): exponent bits, fraction bits, bias, bits of the largest finite magnitude. -/
structure FloatFmt where
  eb   : Nat
  fb   : Nat
  bias : Nat
  max  : Nat
  deriving DecidableEq, Repr

/-- The floating formats by code (R36); MXFP8 elements are E4M3, MXFP4 elements E2M1 (R38). -/
def floatFmt : Nat → FloatFmt
  | 0 => ⟨8, 23, 127, 0x7F7FFFFF⟩
  | 1 => ⟨8, 7, 127, 0x7F7F⟩
  | 2 => ⟨5, 10, 15, 0x7BFF⟩
  | 3 => ⟨4, 3, 7, 0x7E⟩
  | 4 => ⟨5, 2, 15, 0x7B⟩
  | 5 => ⟨4, 3, 7, 0x7E⟩
  | 6 => ⟨2, 1, 1, 0x7⟩
  | _ => ⟨8, 23, 127, 0x7F7FFFFF⟩

/-- Canonical NaN bits (R36); integers and E2M1 have none and take the value of R43 for a NaN source. -/
def canonNan : Nat → Nat
  | 0 => 0x7FC00000 | 1 => 0x7FC0 | 2 => 0x7E00 | 3 => 0x7F | 4 => 0x7E | 5 => 0x7F | 10 => 0xFF | _ => 0

/-- Bits of an infinity's magnitude, for the formats that have one (R36). -/
def infBits : Nat → Option Nat
  | 0 => some 0x7F800000 | 1 => some 0x7F80 | 2 => some 0x7C00 | 4 => some 0x7C | _ => none

/-- The value of an element's bits (R36). -/
def decodeEl (f bits : Nat) : Val :=
  if f = 10 then (if bits = 0xFF then .nan else .fin false 1 ((bits : Int) - 127))
  else if fmtInt f then Val.ofInt (sext (fmtBits f) bits)
  else
    let k := floatFmt f
    let w := fmtBits f
    let neg := decide (2 ^ (w - 1) ≤ bits % 2 ^ w)
    let e := bits / 2 ^ k.fb % 2 ^ k.eb
    let fr := bits % 2 ^ k.fb
    let mag := bits % 2 ^ (w - 1)
    if (f == 3 || f == 5) && mag == 0x7F then .nan
    else if (infBits f).isSome && e == 2 ^ k.eb - 1 then (if fr = 0 then .inf neg else .nan)
    else if e = 0 then .fin neg fr (1 - (k.bias : Int) - k.fb)
    else .fin neg (2 ^ k.fb + fr) ((e : Int) - k.bias - k.fb)

/-! ### Exact arithmetic -/

/-- The magnitude of a finite value in units of 2^e, for e at most its exponent. -/
def scaleTo (mag : Nat) (exp e : Int) : Nat := mag * 2 ^ (exp - e).toNat

/-- Signed integer of a finite value in units of 2^e. -/
def signedAt (neg : Bool) (mag : Nat) (exp e : Int) : Int :=
  let n : Int := scaleTo mag exp e
  if neg then -n else n

/-- Negation. -/
def Val.neg : Val → Val
  | .nan => .nan
  | .inf s => .inf (!s)
  | .fin s m e => .fin (!s) m e

/-- Magnitude. -/
def Val.abs : Val → Val
  | .nan => .nan
  | .inf _ => .inf false
  | .fin _ m e => .fin false m e

/-- Exact sum, IEEE special cases; an exact zero of differing signs is +0. -/
def Val.add : Val → Val → Val
  | .nan, _ => .nan
  | _, .nan => .nan
  | .inf s, .inf t => if s = t then .inf s else .nan
  | .inf s, _ => .inf s
  | _, .inf t => .inf t
  | .fin s m e, .fin t n f =>
    let x := min e f
    let r := signedAt s m e x + signedAt t n f x
    if r = 0 then .fin (s && t && m == 0 && n == 0) 0 0 else .fin (decide (r < 0)) r.natAbs x

/-- Exact difference. -/
def Val.sub (a b : Val) : Val := a.add b.neg

/-- Exact product, IEEE special cases (R52). -/
def Val.mul : Val → Val → Val
  | .nan, _ => .nan
  | _, .nan => .nan
  | .inf s, .inf t => .inf (s != t)
  | .inf s, .fin t n _ => if n = 0 then .nan else .inf (s != t)
  | .fin s m _, .inf t => if m = 0 then .nan else .inf (s != t)
  | .fin s m e, .fin t n f => .fin (s != t) (m * n) (e + f)

/-- The value times 2^k. -/
def Val.scale (a : Val) (k : Int) : Val :=
  match a with
  | .nan => .nan
  | .inf s => .inf s
  | .fin s m e => .fin s m (e + k)

/-- Order of two values that are numbers: negative, zero or positive as a − b. -/
def Val.cmp : Val → Val → Int
  | .nan, _ => 0
  | _, .nan => 0
  | .inf s, .inf t => if s = t then 0 else if s then -1 else 1
  | .inf s, .fin .. => if s then -1 else 1
  | .fin .., .inf t => if t then 1 else -1
  | .fin s m e, .fin t n f =>
    let x := min e f
    signedAt s m e x - signedAt t n f x

/-- a < b, for numbers. -/
def Val.lt (a b : Val) : Bool := a != .nan && b != .nan && decide (a.cmp b < 0)
/-- Numeric equality; false with a NaN. -/
def Val.eqv (a b : Val) : Bool := a != .nan && b != .nan && decide (a.cmp b = 0)

/-- Whether a value is zero of either sign. -/
def Val.isZero : Val → Bool
  | .fin _ m _ => m == 0
  | .inf _ => false
  | .nan => false

/-- The sign bit; false for NaN. -/
def Val.signBit : Val → Bool
  | .nan => false
  | .inf s => s
  | .fin s _ _ => s

/-- Max of R58. -/
def Val.maxv (a b : Val) : Val :=
  if a = .nan ∨ b = .nan then .nan
  else if a.isZero && b.isZero then (if a.signBit && b.signBit then a else .zero)
  else if a.lt b then b else a

/-- Min of R58. -/
def Val.minv (a b : Val) : Val :=
  if a = .nan ∨ b = .nan then .nan
  else if a.isZero && b.isZero then (if a.signBit || b.signBit then .fin true 0 0 else .zero)
  else if b.lt a then b else a

/-- floor(log2 |v|) of a nonzero finite value. -/
def log2Mag (mag : Nat) (exp : Int) : Int := (Nat.log2 mag : Int) + exp

/-! ### Rounding (R42 to R46, R49) -/

/-- How a conversion rounds: nearest-even, or stochastically with a random word (R42). -/
inductive Rnd where
  | rne
  | sr (word : Nat)
  deriving DecidableEq, Repr, Inhabited

/-- Round mag × 2^exp to a whole number of units of 2^q. -/
def roundUnits (r : Rnd) (mag : Nat) (exp q : Int) : Nat :=
  if q ≤ exp then mag * 2 ^ (exp - q).toNat
  else
    let k := (q - exp).toNat
    let lo := mag / 2 ^ k
    let rest := mag % 2 ^ k
    match r with
    | .rne =>
      let half := 2 ^ (k - 1)
      if rest > half ∨ (rest = half ∧ lo % 2 = 1) then lo + 1 else lo
    | .sr w => if w < 2 ^ 32 * rest / 2 ^ k then lo + 1 else lo

/-- A converted element: its bits and what the conversion met. -/
structure Conv where
  bits : Nat
  ovf  : Bool
  deriving DecidableEq, Repr, Inhabited

/-- Bits of a magnitude rounded to a floating format, before the overflow check. -/
def floatMagBits (k : FloatFmt) (r : Rnd) (mag : Nat) (exp : Int) : Nat :=
  if mag = 0 then 0
  else
    let q := max (log2Mag mag exp) (1 - (k.bias : Int)) - k.fb
    let u := roundUnits r mag exp q
    ((q + k.fb + k.bias).toNat - 1) * 2 ^ k.fb + u

/-- The overflow result of a floating format (R43). -/
def overflowBits (f : Nat) (sat : Bool) : Nat :=
  if sat then (floatFmt f).max
  else match infBits f with
    | some b => b
    | none => if f = 6 then (floatFmt f).max else canonNan f

/-- Put the sign on a magnitude's bits; a NaN result is the canonical NaN, without a sign. -/
def signed (f : Nat) (neg : Bool) (b : Nat) : Nat :=
  if b = canonNan f ∧ f ≠ 6 then b else if neg then b + 2 ^ (fmtBits f - 1) else b

/-- Whether mag × 2^exp exceeds the largest finite value of a floating format. -/
def exceedsMax (f mag : Nat) (exp : Int) : Bool :=
  (Val.fin false mag exp).cmp (decodeEl f (floatFmt f).max) > 0

/-- A value rounded once to a floating format. `strict` marks a conversion, where a source above the largest finite
value overflows before any rounding (R43); an arithmetic result overflows by what rounding gives (R57). -/
def toFloat (f : Nat) (sat strict : Bool) (r : Rnd) : Val → Conv
  | .nan => ⟨canonNan f, false⟩
  | .inf s => ⟨signed f s (overflowBits f sat), false⟩
  | .fin s m e =>
    if strict && exceedsMax f m e then ⟨signed f s (overflowBits f sat), true⟩
    else
      let b := floatMagBits (floatFmt f) r m e
      if (floatFmt f).max < b then ⟨signed f s (overflowBits f sat), true⟩
      else ⟨if s then b + 2 ^ (fmtBits f - 1) else b, false⟩

/-- Bits of an integer in two's complement. -/
def intBits (w : Nat) (i : Int) : Nat := (i % (2 ^ w : Int)).toNat

/-- A value converted to an integer format: rounded, then held at the nearest representable extreme (R43, R46). It overflows
where its magnitude passes the limit of its own sign (DEDUCED, log entry 109). -/
def toIntFmt (f : Nat) (r : Rnd) : Val → Conv
  | .nan => ⟨0, false⟩
  | .inf s =>
    let w := fmtBits f
    ⟨if s then 2 ^ (w - 1) else 2 ^ (w - 1) - 1, false⟩
  | .fin s m e =>
    let w := fmtBits f
    let u := roundUnits r m e 0
    let hi : Nat := 2 ^ (w - 1) - 1
    let lo : Nat := 2 ^ (w - 1)
    let lim := if s then lo else hi
    let past := decide (lim < u) || decide (0 < (Val.fin false m e).cmp (.fin false lim 0))
    let v : Int := if past then lim else u
    ⟨intBits w (if s then -v else v), past⟩

/-- A value converted to E8M0 (R44). -/
def toE8m0 : Val → Nat
  | .nan => 0xFF
  | .inf _ => 0xFE
  | .fin _ m e => if m = 0 then 0 else (max 0 (min 254 (log2Mag m e + 127))).toNat

/-- Conversion of a value to a format (R43, R44, R46). -/
def convert (f : Nat) (sat : Bool) (r : Rnd) (v : Val) : Conv :=
  if f = 10 then ⟨toE8m0 v, false⟩
  else if fmtInt f then toIntFmt f r v
  else toFloat f sat true r v

/-- Conversion into an MX element under block scale `s` (R45). -/
def convertMx (f : Nat) (sat : Bool) (r : Rnd) (s : Nat) (v : Val) : Conv :=
  if s = 0xFF then ⟨0, false⟩ else convert f sat r (v.scale (127 - (s : Int)))

/-- Whether a format holds a finite value exactly, so that its conversion draws no random word (R42, R49). -/
def holdsExactly (f : Nat) (v : Val) : Bool :=
  (decodeEl f (convert f false .rne v).bits).eqv v

/-! ### Keyed random words (R48) -/

/-- One round of Philox4x32. -/
def philoxRound (c : Nat × Nat × Nat × Nat) (k0 k1 : Nat) : Nat × Nat × Nat × Nat :=
  let p0 := 0xD2511F53 * c.1
  let p1 := 0xCD9E8D57 * c.2.2.1
  ((p1 / 2 ^ 32 ^^^ c.2.1 ^^^ k0), p1 % 2 ^ 32, (p0 / 2 ^ 32 ^^^ c.2.2.2 ^^^ k1), p0 % 2 ^ 32)

/-- The remaining rounds of Philox4x32-10, the key advancing between rounds. -/
def philox : Nat → (Nat × Nat × Nat × Nat) → Nat → Nat → (Nat × Nat × Nat × Nat)
  | 0, c, _, _ => c
  | n + 1, c, k0, k1 =>
    philox n (philoxRound c k0 k1) ((0x9E3779B9 + k0) % 2 ^ 32) ((0xBB67AE85 + k1) % 2 ^ 32)

/-- The random word of element index `i` of a tensor under a task seed (R48). -/
def srWord (seed tensor i : Nat) : Nat :=
  let j := i / 4
  let c := philox 10 (j % 2 ^ 32, j / 2 ^ 32 % 2 ^ 14, tensor % 2 ^ 32, 0) (seed % 2 ^ 32) (seed / 2 ^ 32 % 2 ^ 32)
  match i % 4 with
  | 0 => c.1
  | 1 => c.2.1
  | 2 => c.2.2.1
  | _ => c.2.2.2

/-! ### FP32 arithmetic -/

/-- A value rounded to FP32, nearest-even, as bits. -/
def f32Bits (v : Val) : Nat := (toFloat 0 false false .rne v).bits

/-- A value rounded to FP32, nearest-even. -/
def r32 (v : Val) : Val := decodeEl 0 (f32Bits v)

/-- The FP32 value of bits. -/
abbrev f32 (bits : Nat) : Val := decodeEl 0 bits

/-- Fused multiply-add rounded once to FP32. -/
def fma32 (a b c : Val) : Val := r32 ((a.mul b).add c)

/-! ### Group-exact summation (R51 to R54) -/

/-- A product term of R52: the element values times both block scales (0x7F stands for no scale). -/
def term (a b : Val) (sa sb : Nat) : Val :=
  if sa = 0xFF ∨ sb = 0xFF then .nan else (a.mul b).scale ((sa : Int) - 127 + ((sb : Int) - 127))

/-- The exponent of the largest nonzero term. -/
def topExp : List Val → Option Int
  | [] => none
  | .fin _ m e :: t =>
    if m = 0 then topExp t
    else match topExp t with
      | none => some (log2Mag m e)
      | some x => some (max x (log2Mag m e))
  | .nan :: t => topExp t
  | .inf _ :: t => topExp t

/-- A term truncated toward zero to whole units of 2^u. -/
def truncTo (u : Int) : Val → Int
  | .fin s m e =>
    let n : Nat := if u ≤ e then m * 2 ^ (e - u).toNat else m / 2 ^ (u - e).toNat
    if s then -(n : Int) else n
  | .nan => 0
  | .inf _ => 0

/-- The sum of a floating group, as FP32 bits (R53). -/
def groupSum (ts : List Val) : Nat :=
  if ts.any (· == .nan) then 0x7FC00000
  else if ts.any (· == .inf false) && ts.any (· == .inf true) then 0x7FC00000
  else if ts.any (· == .inf false) then 0x7F800000
  else if ts.any (· == .inf true) then 0xFF800000
  else match topExp ts with
    | none => if ts.all Val.signBit then 0x80000000 else 0
    | some e =>
      let u := e - 47
      let s := (ts.map (truncTo u)).sum
      if s = 0 then 0 else f32Bits (.fin (decide (s < 0)) s.natAbs u)

/-- An integer group: the accumulator's new bits, and whether the exact sum left the INT32 range (R54). -/
def groupSumInt (acc : Nat) (products : List Int) : Nat × Bool :=
  let s := sext 32 acc + products.sum
  (intBits 32 s, decide (s < -(2 ^ 31)) || decide (2 ^ 31 - 1 < s))

/-! ### Transcendental reference algorithms (R60) -/

/-- Leading bit position and exponent of a nonzero finite magnitude: |x| = m × 2^e with 1 ≤ m < 2. -/
def normM (mag : Nat) (exp : Int) : Val × Int :=
  let l := Nat.log2 mag
  (.fin false mag (-(l : Int)), (l : Int) + exp)

/-- The 23 fraction bits of m. -/
def frac23 (mag : Nat) : Nat :=
  let l := Nat.log2 mag
  if l ≤ 23 then mag * 2 ^ (23 - l) % 2 ^ 23 else mag / 2 ^ (l - 23) % 2 ^ 23

/-- A finite value rounded to an integer, ties to even. -/
def roundInt : Val → Int
  | .fin s m e => let u : Int := roundUnits .rne m e 0; if s then -u else u
  | .nan => 0
  | .inf _ => 0

/-- Integer square root by bits, for arguments below 2^26. -/
def isqrt26 (n : Nat) : Nat :=
  (List.range 13).foldl (fun r i => let c := r + 2 ^ (12 - i); if c * c ≤ n then c else r) 0

/-- exp2 of R60. -/
def exp2Ref (x : Val) : Val :=
  match x with
  | .nan => .nan
  | .inf s => if s then .zero else .inf false
  | .fin s m e =>
    if (Val.fin s m e).cmp (.fin false 128 0) ≥ 0 then .inf false
    else if (Val.fin s m e).cmp (.fin true 160 0) < 0 then .zero
    else
      let n := roundInt x
      let f := x.sub (Val.ofInt n)
      let p := fma32 (f32 0x3AAEC41E) f (f32 0x3C1D955F)
      let p := fma32 p f (f32 0x3D635841)
      let p := fma32 p f (f32 0x3E75FDEF)
      let p := fma32 p f (f32 0x3F317218)
      let p := fma32 p f (f32 0x3F800000)
      r32 (p.scale n)

/-- rcp of R60. -/
def rcpRef (x : Val) : Val :=
  match x with
  | .nan => .nan
  | .inf s => .fin s 0 0
  | .fin s m e =>
    if m = 0 then .inf s
    else
      let (mm, ee) := normM m e
      let i := frac23 m / 2 ^ 15
      let b := 513 + 2 * i
      let y0 : Val := .fin false ((2 * 2 ^ 17 + b) / (2 * b)) (-8)
      let step := fun y => fma32 y (fma32 mm.neg y .one) y
      let y := step (step y0)
      r32 (if s then (y.scale (-ee)).neg else y.scale (-ee))

/-- rsqrt of R60. -/
def rsqrtRef (x : Val) : Val :=
  match x with
  | .nan => .nan
  | .inf s => if s then .nan else .zero
  | .fin s m e =>
    if m = 0 then .inf s
    else if s then .nan
    else
      let (m0, e0) := normM m e
      let j := frac23 m / 2 ^ 16
      let odd := e0 % 2 = 1
      let mm := if odd then m0.scale 1 else m0
      let ee := if odd then e0 - 1 else e0
      let h := if odd then 1 else 0
      let a := (257 + 2 * j) * 2 ^ h
      let y0 : Val := .fin false ((isqrt26 (2 ^ 26 / a) + 1) / 2) (-8)
      let step := fun (y : Val) =>
        let t := r32 (y.mul y)
        let d := fma32 mm.neg t .one
        fma32 (r32 (y.scale (-1))) d y
      r32 ((step (step y0)).scale (-(ee / 2)))

/-- log2 of R60. -/
def log2Ref (x : Val) : Val :=
  match x with
  | .nan => .nan
  | .inf s => if s then .nan else .inf false
  | .fin s m e =>
    if m = 0 then .inf true
    else if s then .nan
    else
      let (m0, e0) := normM m e
      let big := m0.cmp (.fin false 3 (-1)) ≥ 0
      let mm := if big then m0.scale (-1) else m0
      let ee := if big then e0 + 1 else e0
      let q := r32 ((r32 (mm.sub .one)).mul (rcpRef (r32 (mm.add .one))))
      let t := r32 (q.mul q)
      let p := fma32 t (f32 0x3ED30BB2) (f32 0x3F13BB62)
      let p := fma32 p t (f32 0x3F76384F)
      let p := fma32 p t (f32 0x4038AA3B)
      let r := r32 (q.mul p)
      r32 ((Val.ofInt ee).add r)

/-- tanh of R60. -/
def tanhRef (x : Val) : Val :=
  match x with
  | .nan => .nan
  | .inf s => .fin s 1 0
  | .fin s m e =>
    let a : Val := .fin false m e
    let r :=
      if a.cmp (.fin false 10 0) ≥ 0 then Val.one
      else if a.cmp (.fin false 1 (-3)) < 0 then
        let t := r32 (a.mul a)
        r32 (a.mul (fma32 t (fma32 t (f32 0x3E088889) (f32 0xBEAAAAAB)) .one))
      else
        let z := exp2Ref (r32 (a.mul (f32 0x4038AA3B))).neg
        r32 ((r32 (Val.one.sub z)).mul (rcpRef (r32 (Val.one.add z))))
    if s then r.neg else r

/-! ### Packed elements (R39) -/

/-- Bits of element `i` of a packed byte string. -/
def elemAt (f : Nat) (bs : List Byte) (i : Nat) : Nat :=
  if f = 6 then (bs.getD (i / 2) 0).toNat / 2 ^ (4 * (i % 2)) % 16
  else let w := fmtBits f / 8; leNat ((bs.drop (i * w)).take w)

/-- Bytes of one element wider than four bits. -/
def elemBytes (f bits : Nat) : List Byte := natLe (fmtBits f / 8) bits

/-- Pack 4-bit elements in pairs, the even element in the low half (R39). -/
def packNibbles : List Nat → List Byte
  | [] => []
  | [a] => [BitVec.ofNat 8 (a % 16)]
  | a :: b :: t => BitVec.ofNat 8 (a % 16 + 16 * (b % 16)) :: packNibbles t

/-- Pack elements of a format. -/
def packElems (f : Nat) (els : List Nat) : List Byte :=
  if f = 6 then packNibbles els else els.flatMap (elemBytes f)

/-- Bytes that `n` packed elements occupy. -/
def packedLen (f n : Nat) : Nat := (n * fmtBits f + 7) / 8

/-- The elements of a packed byte string. -/
def unpackElems (f : Nat) (bs : List Byte) : List Nat :=
  (List.range (bs.length * 8 / max 1 (fmtBits f))).map (elemAt f bs)

/-! ### Order for TOPK and ARGMAX (R61) -/

/-- Whether an element comes strictly before another by value: larger first, every NaN after every number. -/
def topBefore (a b : Val) : Bool :=
  match a, b with
  | .nan, _ => false
  | _, .nan => true
  | x, y => decide (x.cmp y > 0)

end Sys2Proof.Machine
end

