-- ==== Sys2Proof/Machine/Mxe.lean ====
section
/-! DEFINITION. The matrix engine (R67 to R111, with the placement rules R118 and R119). An instruction issues in one
command, each pass ends in one (its accumulators are computed there, from the tiles it read), each drain in one. -/

namespace Sys2Proof.Machine

/-! ### Shapes and instruction fields (R67, R107) -/

/-- Rows R of a shape. -/
def shapeRows (c : Nat) : Nat := match c with
  | 0 => 128 | 1 => 64 | 2 => 32 | _ => 16
/-- Columns C of a shape. -/
def shapeCols (c : Nat) : Nat := match c with
  | 0 => 32 | 1 => 64 | 2 => 128 | _ => 256

/-- Rows of the shape in force. -/
def Mxe.rows (m : Mxe) : Nat := shapeRows m.shape.toNat
/-- Columns of the shape in force. -/
def Mxe.cols (m : Mxe) : Nat := shapeCols m.shape.toNat

/-- BANK of a slot. -/
def mxBank (b : BitVec 40) : BankId := Fin.ofNat 2 (fld b 35 1)
/-- D, or DISCARD of a DRAIN. -/
def mxD (b : BitVec 40) : Bool := b.getLsbD 34
/-- PAIR. -/
def mxPair (b : BitVec 40) : Bool := b.getLsbD 33
/-- TA, TH or TX. -/
def mxTa (b : BitVec 40) : Nat := fld b 29 4
/-- nA, nH or nX. -/
def mxNa (b : BitVec 40) : Nat := fld b 27 2 + 1
/-- FM. -/
def mxFm (b : BitVec 40) : Nat := fld b 25 2 + 1
/-- TB. -/
def mxTb (b : BitVec 40) : Nat := fld b 21 4
/-- nB. -/
def mxNb (b : BitVec 40) : Nat := fld b 19 2 + 1
/-- FN. -/
def mxFn (b : BitVec 40) : Nat := fld b 17 2 + 1
/-- TID. -/
def mxTid (b : BitVec 40) : BitVec 6 := b.extractLsb' 11 6
/-- KTAIL. -/
def mxKtail (b : BitVec 40) : Nat := fld b 9 2
/-- LR. -/
def mxLr (b : BitVec 40) : Bool := b.getLsbD 8
/-- S_hr of an HRMM. -/
def mxShr (b : BitVec 40) : Nat := fld b 25 2 + 1
/-- T of an HRMM. -/
def mxT (b : BitVec 40) : Nat := fld b 18 7 + 1

/-- Products per cell and step, k, of a pair of formats; none for a pair the MXE does not accept (R50). -/
def pairK (a b : Nat) : Option Nat :=
  let ok := fun f => decide (1 ≤ f) && decide (f ≤ 6)
  let wide := fun f => f == 1 || f == 2
  if a = 7 ∧ b = 7 then some 2
  else if !ok a || !ok b then none
  else if wide a || wide b then some 1
  else if a = 6 ∧ b = 6 then some 4
  else some 2

/-- The other bank. -/
def otherBank (b : BankId) : BankId := b + 1

/-- The bank pass p accumulates in (R77, R78). -/
def passBank (bank : BankId) (pair : Bool) (total p : Nat) : BankId :=
  if pair && decide (1 < total) then (if p % 2 = 0 then bank else otherBank bank) else bank + Fin.ofNat 2 p

/-- Passes of an instruction. -/
def mxTotal (b : BitVec 40) : Nat := if op40 b = 4 then 1 else mxFm b * mxFn b

/-- The passes that start together from pass p (R77, R78). -/
def mxGroup (b : BitVec 40) (p : Nat) : List Nat :=
  let n := mxTotal b
  if op40 b ≠ 4 ∧ mxPair b ∧ 1 < n ∧ p + 1 < n then [p, p + 1] else [p]

/-- The bank a pass of an instruction uses. -/
def mxPassBank (b : BitVec 40) (p : Nat) : BankId :=
  if op40 b = 4 then mxBank b else passBank (mxBank b) (mxPair b) (mxTotal b) p

/-! ### Tiles an instruction names (R74, R87, R124) -/

/-- Tiles of a group. -/
def groupTiles (t n : Nat) : List Nat := (List.range n).map (t + ·)

/-- The scale tile of a group, when its format is MX (R74). -/
def scaleTiles (k : Trf) (t n : Nat) : List Nat := if fmtMx (k.cfg t).f then [t + n] else []

/-- Tile registers an MX instruction names, operands and scales. -/
def mxTiles (k : Trf) (b : BitVec 40) : List Nat :=
  (match op40 b with
   | 1 => groupTiles (mxTa b) (mxNa b) ++ groupTiles (mxTb b) (mxNb b) ++ scaleTiles k (mxTa b) (mxNa b)
            ++ scaleTiles k (mxTb b) (mxNb b)
   | 2 => groupTiles (mxTa b) (mxNa b) ++ groupTiles (mxTb b) (mxNb b) ++ scaleTiles k (mxTa b) (mxNa b)
            ++ scaleTiles k (mxTb b) (mxNb b)
   | 3 => groupTiles (mxTa b) (mxNa b)
   | 4 => groupTiles (mxTa b) (mxNa b)
   | _ => []).filter (· < 16)

/-- Tiles in use by the MXE: those of the instruction it runs, until its last pass has ended, and of an HRLD (R124). -/
def Core.mxInUse (k : Core) : List Nat :=
  (match k.mxe.run with
   | some r => mxTiles k.trf r.e.bits
   | none => []) ++
  (match k.mxe.op with
   | some (.hrld e) => mxTiles k.trf e.bits
   | some (.shape _ _) => []
   | some (.ascl _) => []
   | none => [])

/-- Tiles a VX instruction in progress has not read to its last beat (R124). -/
def Core.vxInUse (k : Core) : List Nat := (k.vxe.acts.filter fun a => decide (a.rd < a.n)).flatMap (·.uses)

/-- Tiles with a nonzero scoreboard count. A TST has read its rows when it starts. -/
def Core.tilesInUse (k : Core) : List Nat := k.mxInUse ++ k.vxInUse

/-! ### Item 2 of R87 -/

/-- The bank an instruction names in slot bit 35, as BANK of ERR_INFO0 where no other bank is concerned; 0 for an instruction
that names none, whose bit 35 is ignored or is another field (R107, R110). -/
def mxNamedBank (b : BitVec 40) : Nat := if op40 b = 3 ∨ op40 b = 5 ∨ op40 b = 8 then 0 else (mxBank b).val

/-- A check of item 2 that fails: the tiles whose TCFG it examines, or none when it examines neither the shape nor a TCFG
and so is no mismatch of R103; the tile it concerns, and the bank where it concerns one. -/
structure MxFail where
  tile  : Nat
  tiles : Option (List Nat)
  cond  : Nat
  bank  : Option Nat
  deriving DecidableEq, Repr

/-- A failed check that is a mismatch. -/
def mismatch (fails : Bool) (tiles : List Nat) : List MxFail := if fails then [⟨tiles.headD 0, some tiles, 1, none⟩] else []
/-- A failed check of a tile that is none. -/
def plainBad (fails : Bool) (tile : Nat) : List MxFail := if fails then [⟨tile, none, 1, none⟩] else []
/-- A failed check of banks that is none: those for which `p` holds (R80, R82). -/
def bankBad (banks : List BankId) (p : BankId → Bool) : List MxFail :=
  (banks.filter p).map fun x => ⟨0, none, 2, some x.val⟩

/-- Whether the tiles of a group agree in ROWS, RB and FMT with its first. -/
def agree (k : Trf) (ts : List Nat) : Bool :=
  let h := k.cfg (ts.headD 0)
  ts.all fun t => (k.cfg t).rows == h.rows && (k.cfg t).rb16 == h.rb16 && (k.cfg t).fmt == h.fmt

/-- Bytes an edge of n elements of k values takes (R71). -/
def edgeBytes (n k f : Nat) : Nat := packedLen f (n * k)

/-- The bytes of a scale tile that E edge elements over n K indices use (R74). -/
def scaleBytes (n e : Nat) : Nat := (n + 31) / 32 * e

/-- The placement checks of R118 and R119 (R72 says which collector reads which edge). -/
def placementBad (k : Trf) (ta tb sc : List Nat) (ea eb : Nat) : Bool :=
  let sides := fun (l : List Nat) => l.map fun t => (k.cfg t).side
  let share := (sides ta).any fun x => (sides tb).contains x
  if 64 < min ea eb then share || (ta ++ tb).any fun t => (k.cfg t).base.toNat % 8 != 0
  else
    let bEdge := if eb ≤ ea then tb else ta
    share || (sides sc).any fun x => !(sides bEdge).all (· == x)

/-- Whether a bank waits for its drain. -/
def Mxe.toDrain (m : Mxe) (b : BankId) : Bool := m.drains.any fun d => d.bank == b

/-- A bank HELD and not on its way to the FTQ. -/
def Mxe.heldFree (m : Mxe) (b : BankId) : Bool := m.banks[b].st == .held && !m.toDrain b

/-- Banks an instruction uses. -/
def mxBanks (b : BitVec 40) : List BankId := ((List.range (mxTotal b)).map (mxPassBank b)).dedup

/-- Whether a pass of the instruction the array runs, in progress or still to start, uses a bank: until it has ended, the
bank's state says nothing about what a later instruction will find. -/
def Mxe.willUse (m : Mxe) (x : BankId) : Bool :=
  match m.run with
  | none => false
  | some r => (r.now ++ (List.range r.total).drop r.next).any fun p => mxPassBank r.e.bits p == x

/-- Whether a bank continues under R82 for an MMAC. -/
def Mxe.continues (m : Mxe) (b : BitVec 40) (x : BankId) : Bool :=
  let o := m.banks[x].org
  m.heldFree x && !o.hr && o.fm == mxFm b && o.fn == mxFn b && o.pair == mxPair b && o.base == mxBank b && o.ktail0

/-- The checks of an MMA or MMAC that fail. -/
def mmaFails (k : Trf) (m : Mxe) (b : BitVec 40) : List MxFail :=
  let r := m.rows
  let c := m.cols
  let ta := groupTiles (mxTa b) (mxNa b)
  let tb := groupTiles (mxTb b) (mxNb b)
  let ca := k.cfg (mxTa b)
  let cb := k.cfg (mxTb b)
  let sa := scaleTiles k (mxTa b) (mxNa b)
  let sb := scaleTiles k (mxTb b) (mxNb b)
  let sSteps := mxNa b / mxFm b * ca.nRows
  let base :=
    plainBad (mxNa b % mxFm b != 0) (mxTa b) ++ plainBad (mxNb b % mxFn b != 0) (mxTb b)
      ++ plainBad (ta.any (16 ≤ ·)) (mxTa b) ++ plainBad (tb.any (16 ≤ ·)) (mxTb b)
      ++ plainBad (!mxD b && decide (2 < mxTotal b)) (mxTa b)
      ++ plainBad (mxKtail b != 0 && !mxD b) (mxTa b)
      ++ bankBad (mxBanks b) (fun x => op40 b == 1 && m.heldFree x && !m.willUse x)
      ++ bankBad (mxBanks b) (fun x => op40 b == 2 && m.banks[x].st != .busy && !m.willUse x && !m.continues b x)
      ++ mismatch (!agree k ta) ta ++ mismatch (!agree k tb) tb
      ++ mismatch (decide (512 < mxFm b * r)) [] ++ mismatch (decide (512 < mxFn b * c)) []
      ++ mismatch (sSteps != mxNb b / mxFn b * cb.nRows) (ta ++ tb)
      ++ mismatch (sa.any (16 ≤ ·)) ta ++ mismatch (sb.any (16 ≤ ·)) tb
  match pairK ca.f cb.f with
  | none => base ++ mismatch true [mxTa b, mxTb b]
  | some kk =>
    let ea := edgeBytes r kk ca.f
    let eb := edgeBytes c kk cb.f
    let kn := if mxKtail b = 0 then sSteps * kk else (sSteps - 1) * kk + mxKtail b
    let mx := !sa.isEmpty || !sb.isEmpty
    let scBad := fun (l : List Nat) (e : Nat) => l.any fun t => decide ((k.cfg t).size < scaleBytes kn e)
    base ++ mismatch (ca.rb != ea) (ta ++ [mxTb b]) ++ mismatch (cb.rb != eb) (tb ++ [mxTa b])
      ++ mismatch (decide (kk ≤ mxKtail b)) [mxTa b, mxTb b]
      ++ mismatch (mx && mxKtail b == 0 && (sSteps * kk) % 32 != 0) [mxTa b, mxTb b]
      ++ mismatch (scBad sa (mxFm b * r)) (sa ++ [mxTa b, mxTb b])
      ++ mismatch (scBad sb (mxFn b * c)) (sb ++ [mxTa b, mxTb b])
      ++ mismatch (placementBad k ta tb (sa ++ sb) ea eb) (ta ++ tb ++ sa ++ sb)

/-- The checks of an HRLD that fail: its tiles agree in what makes a row, while their ROWS may differ (R71, R75, R94). -/
def hrldFails (k : Trf) (m : Mxe) (b : BitVec 40) : List MxFail :=
  let ts := groupTiles (mxTa b) (mxNa b)
  let h := k.cfg (mxTa b)
  let fit := fun (t : Nat) =>
    let x := k.cfg t
    x.fmt == h.fmt && x.rb == h.rb && ((List.range 5).any fun kk =>
      ((List.range 11).any fun f => !fmtMx f && pairK f x.f == some kk) && x.rb == edgeBytes m.cols kk x.f)
  plainBad (ts.any (16 ≤ ·)) (mxTa b) ++ mismatch (fmtMx h.f) [mxTa b] ++ mismatch (!ts.all fit) ts
    ++ mismatch (decide ((ts.map fun t => (k.cfg t).nRows).sum < m.rows)) ts

/-- The checks of an HRMM that fail (R50, R75, R94, R107). -/
def hrmmFails (k : Trf) (m : Mxe) (b : BitVec 40) : List MxFail :=
  let ts := groupTiles (mxTa b) (mxNa b)
  let x := k.cfg (mxTa b)
  let n := (ts.map fun t => (k.cfg t).size * 8 / max 1 (fmtBits x.f)).sum
  let bk := m.banks[mxBank b]
  let base :=
    plainBad (ts.any (16 ≤ ·)) (mxTa b) ++ plainBad (!m.held.valid) (mxTa b)
      ++ bankBad [mxBank b] (fun x => mxPair b && bk.st != .busy && !m.willUse x
          && !(m.heldFree x && bk.org.hr && bk.org.t == mxT b))
      ++ mismatch (decide (m.rows < mxT b)) [] ++ mismatch (fmtMx x.f) [mxTa b]
      ++ mismatch (!ts.all fun t => (k.cfg t).fmt == x.fmt) ts
  match pairK x.f m.held.fmt.toNat with
  | none => base ++ mismatch true [mxTa b]
  | some kk =>
    base ++ mismatch (m.held.valid && (m.held.rows.headD []).length != edgeBytes m.cols kk m.held.fmt.toNat) [mxTa b]
      ++ mismatch (decide (n < (mxT b - 1) * mxShr b + m.rows * kk)) ts

/-- The checks of item 2 of R87 that fail for the instruction at the queue head. -/
def mxFails (k : Trf) (m : Mxe) (b : BitVec 40) : List MxFail :=
  match op40 b with
  | 1 => mmaFails k m b
  | 2 => mmaFails k m b
  | 3 => hrldFails k m b
  | 4 => hrmmFails k m b
  | _ => []

/-- Whether R103 holds the instruction for a failed check instead of aborting: it is a mismatch, and the shape or a TCFG
it examines was last written through a register page. -/
def MxFail.held (f : MxFail) (k : Trf) (m : Mxe) : Bool :=
  match f.tiles with
  | none => false
  | some ts => m.shapeSrc || ts.any fun t => (k.cfg t).src

/-! ### Examining the queue head (R86, R87, R84, R97, R68) -/

/-- What examining the head of the MX queue gives: nothing to do, a hold with its COND of R110, a mismatch under R103, an
abort, or that it may issue. -/
inductive MxExam where
  | nothing
  | hold (cond tile bank : Nat)
  | cfg (tile : Nat)
  | shapeBad (cond tile bank : Nat)
  | poison (tile : Nat)
  | go
  deriving DecidableEq, Repr

/-- FTQ slots that are neither valid nor reserved. -/
def Mxe.freeSlots (m : Mxe) : List (Fin 4) := (List.finRange 4).filter fun i => !m.ftq[i].valid && !m.ftq[i].rsv

/-- Whether the passes that start together have their banks and FTQ slots (R86). -/
def Mxe.passHold (m : Mxe) (b : BitVec 40) (ps : List Nat) : MxExam :=
  let bad := (ps.map (mxPassBank b)).find? fun x =>
    !(m.banks[x].st == .empty || (op40 b == 2 && m.continues b x)
      || (op40 b == 4 && mxPair b && m.heldFree x && m.banks[x].org.hr && m.banks[x].org.t == mxT b))
  match bad with
  | some x => .hold 2 0 x.val
  | none => if mxD b && decide (m.freeSlots.length < ps.length) then .hold 3 0 (mxBank b).val else .go

/-- Examine an instruction with operand tiles: items 1 to 4 of R87. Where R110 gives BANK no value it is slot bit 35 (DESIGN
CHOICE, log entry 105). -/
def Core.examTiles (k : Core) (b : BitVec 40) : MxExam :=
  let ts := mxTiles k.trf b
  match ts.find? fun t => !(k.trf.cfg t).valid with
  | some t => .hold 1 t (mxNamedBank b)
  | none =>
    let fs := mxFails k.trf k.mxe b
    match fs.find? fun f => !f.held k.trf k.mxe with
    | some f => .shapeBad f.cond f.tile (f.bank.getD (mxNamedBank b))
    | none =>
      match fs with
      | f :: _ => .cfg f.tile
      | [] =>
        match ts.find? fun t => vget 0 k.trf.poison t != 0 with
        | some t => .poison t
        | none =>
          if k.mxe.run.isSome || k.mxe.op.isSome then .hold 2 0 (mxNamedBank b)
          else if op40 b = 3 then .go
          else k.mxe.passHold b (mxGroup b 0)

/-- Whether the operation in progress leaves open what the instruction at the queue head would be examined against: the shape
while it changes, and for an HRMM the held values while they are loaded. -/
def Mxe.unsettled (m : Mxe) (b : BitVec 40) : Bool :=
  match m.op with
  | some (.shape _ _) => true
  | some (.hrld _) => op40 b == 4
  | some (.ascl _) => false
  | none => false

/-- Examine the head of the MX queue. A hold for which R110 lists no condition of its own (the array runs another instruction,
or an HRLD, an ASCL or a change of shape is in progress) has the condition of the bank (DESIGN CHOICE, log entry 104). -/
def Core.mxExam (k : Core) : MxExam :=
  match k.seq.mxq with
  | [] => .nothing
  | e :: _ =>
    let m := k.mxe
    let b := e.bits
    let x := mxBank b
    if m.unsettled b then .hold 2 0 (mxNamedBank b)
    else match op40 b with
      | 5 =>
        match (List.finRange 2).find? fun i => m.heldFree i && !m.willUse i with
        | some i => .shapeBad 2 0 i.val
        | none =>
          match (List.finRange 2).find? fun i => m.banks[i].st != .empty with
          | some i => .hold 2 0 i.val
          | none => if m.run.isSome || m.op.isSome then .hold 2 0 0 else .go
      | 6 =>
        if m.op.isSome || m.willUse x then .hold 2 0 x.val
        else if m.banks[x].st = .empty then .go
        else if !m.heldFree x then .hold 2 0 x.val
        else if !mxD b && m.freeSlots.isEmpty then .hold 3 0 x.val
        else .go
      | 7 =>
        if m.banks[x].st = .empty && !m.willUse x then .shapeBad 2 0 x.val
        else if !m.heldFree x || m.run.isSome || m.op.isSome then .hold 2 0 x.val
        else if !(vget ⟨false, [], []⟩ m.sb (fld b 34 1)).valid then .hold 4 0 x.val
        else .go
      | 8 => if m.run.isSome || m.op.isSome then .hold 2 0 0 else .go
      | _ => k.examTiles b

/-! ### Errors of the MXE page (R104, R108, R110) -/

/-- ERR_INFO0 of the MXE page. -/
def mxInfo (m : Mxe) (e : QEntry) (tile bank cond : Nat) : Nat :=
  e.cw.toNat + 2 ^ 12 * op40 e.bits + 2 ^ 16 * tile + 2 ^ 20 * m.shape.toNat + 2 ^ 22 * bank + 2 ^ 24 * cond

/-- Raise an error of the MXE page and its abort cause. -/
def State.mxErr (s : State) (c : CoreId) (b cause info0 info1 : Nat) : State :=
  (s.err (pgMxe c) b (BitVec.ofNat 64 info0) (BitVec.ofNat 64 info1)).cause c (BitVec.ofNat 8 cause)

/-- PASS of ERR_INFO1 for an instruction at the queue head: its first. -/
def State.mxHeadErr (s : State) (c : CoreId) (e : QEntry) (x : MxExam) : State :=
  let m := (s.core c).mxe
  match x with
  | .shapeBad cond tile bank => s.mxErr c 8 0x01 (mxInfo m e tile bank cond) 0
  | .poison tile => s.mxErr c 9 0x02 (mxInfo m e tile (mxNamedBank e.bits) 1) 0
  | .nothing => s
  | .hold _ _ _ => s
  | .cfg _ => s
  | .go => s

/-- Issue the head of the MX queue when it holds operation `op`; `f` gives what issuing does once the entry has left the
queue. A pause holds only what would issue (R87). -/
def State.mxIssue (s : State) (c : CoreId) (op : Nat) (f : State → QEntry → State) : State :=
  let k := s.core c
  match k.seq.mxq with
  | [] => s
  | e :: rest =>
    if op40 e.bits ≠ op ∨ !s.mayExam c then s
    else match k.mxExam with
      | .go => if s.mayStart c 1 then f (s.updSeq c fun q => { q with mxq := rest }) e else s
      | x => s.mxHeadErr c e x

/-! ### Starting passes (R77 to R80, R86) -/

/-- Reserve the lowest free FTQ slot. -/
def Mxe.reserve (m : Mxe) : Mxe :=
  match m.freeSlots with
  | [] => m
  | i :: _ => { m with ftq := m.ftq.set i { m.ftq[i] with rsv := true } }

/-- Reserve n slots. -/
def Mxe.reserveN (m : Mxe) : Nat → Mxe
  | 0 => m
  | n + 1 => m.reserve.reserveN n

/-- Start the passes `ps` of an instruction: their banks are BUSY with their pass numbers, and a slot is reserved for each
that drains. -/
def Mxe.startPasses (m : Mxe) (e : QEntry) (ps : List Nat) : Mxe :=
  let b := e.bits
  let busy := fun (x : Mxe) (p : Nat) =>
    { x with banks := vmod x.banks (mxPassBank b p).val fun k => { k with st := .busy, pass := BitVec.ofNat 4 p } }
  let m1 := ps.foldl busy m
  let m2 := if mxD b then m1.reserveN ps.length else m1
  { m2 with run := some ⟨e, ps, ps.length + ps.headD 0, mxTotal b⟩ }

/-- MMA: an MMA whose issue rule holds leaves the queue and its first pass or pair starts from +0 (R86, R51). -/
def execMma (c : CoreId) (s : State) : Host.Outcome State Fault Refusal :=
  .next (s.mxIssue c 1 fun t e => t.updMxe c fun m => m.startPasses e (mxGroup e.bits 0))

/-- MMAC: as MMA, but accumulation continues from the banks HELD for it (R82). -/
def execMmac (c : CoreId) (s : State) : Host.Outcome State Fault Refusal :=
  .next (s.mxIssue c 2 fun t e => t.updMxe c fun m => m.startPasses e (mxGroup e.bits 0))

/-- HRMM: streams its input past the held operand into its bank (R93, R94). -/
def execHrmm (c : CoreId) (s : State) : Host.Outcome State Fault Refusal :=
  .next (s.mxIssue c 4 fun t e => t.updMxe c fun m => m.startPasses e [0])

/-- HRLD: begins to load the held operand; nothing accumulates until HRLD_DONE (R94, R95). -/
def execHrld (c : CoreId) (s : State) : Host.Outcome State Fault Refusal :=
  .next (s.mxIssue c 3 fun t e => t.updMxe c fun m => { m with op := some (.hrld e), held := ⟨false, [], 0⟩ })

/-- PASS_START: a later pass or pair starts once its banks and FTQ slots allow (R86). -/
def execPassStart (c : CoreId) (s : State) : Host.Outcome State Fault Refusal :=
  let m := (s.core c).mxe
  match m.run with
  | none => .next s
  | some r =>
    let ps := mxGroup r.e.bits r.next
    if r.now.isEmpty && decide (r.next < r.total) && s.alive c && m.passHold r.e.bits ps == .go then
      .next (s.updMxe c fun m => m.startPasses r.e ps)
    else .next s

/-! ### What a pass computes (R51 to R55, R71, R74, R76, R100) -/

/-- An element as a pass sees it: its value and the code of its block scale (0x7F where it has none). -/
abbrev El := Val × Nat

/-- The accumulators of a pass and what the checks of R101 need about it. -/
structure PassAcc where
  rows : List (List Word32)
  ovf  : Bool
  rmax : List (Nat × Int)
  cmax : List (Nat × Int)
  rbad : List Bool
  cbad : List Bool

/-- The larger of two magnitudes. -/
def maxMag (a b : Nat × Int) : Nat × Int := if (Val.fin false a.1 a.2).lt (Val.fin false b.1 b.2) then b else a

/-- The largest finite magnitude among terms. -/
def termMax (ts : List Val) : Nat × Int :=
  ts.foldl (fun a t => match t with
    | .fin _ m e => maxMag a (m, e)
    | .inf _ => a
    | .nan => a) (0, 0)

/-- Whether a term is NaN or infinite. -/
def termBad (ts : List Val) : Bool := ts.any fun t => match t with
  | .fin _ _ _ => false
  | .inf _ => true
  | .nan => true

/-- The product terms of a cell in one step. -/
def cellTerms (a b : List El) : List Val := List.zipWith (fun x y => term x.1 y.1 x.2 y.2) a b

/-- One step of a data cell. -/
def dataCell (int : Bool) (v : Word32) (ts : List Val) : Word32 × Bool :=
  if int then
    let r := groupSumInt v.toNat (ts.map (truncTo 0))
    (BitVec.ofNat 32 r.1, r.2)
  else (BitVec.ofNat 32 (groupSum (f32 v.toNat :: ts)), false)

/-- One step of a checksum cell: an exact sum rounded once, or a sum modulo 2^32 (R100). -/
def sumCell (int : Bool) (v : Word32) (ts : List Val) : Word32 :=
  if int then BitVec.ofInt 32 (v.toInt + (ts.map (truncTo 0)).sum)
  else BitVec.ofNat 32 (f32Bits (ts.foldl Val.add (f32 v.toNat)))

/-- The sum a checksum row or column is fed at one of a step's k positions (R100). -/
def edgeSum (int : Bool) (els : List El) : El :=
  let x := els.foldl (fun a e => a.add (term e.1 .one e.2 0x7F)) Val.zero
  (if int then x else r32 x, 0x7F)

/-- The edge of checksum values over the data positions of an edge, one per k position. -/
def sumEdge (int : Bool) (k : Nat) (els : List (List El)) : List El :=
  (List.range k).map fun q => edgeSum int (els.filterMap (·[q]?))

/-- One reduction step: `as` and `bs` are the edge vectors by row and by column, each already ending in its checksum
position where `sumRow` or `sumCol` says so. The magnitudes of R101 are those of data terms; a NaN or infinite term of a row or
column counts in its checksum cell too. -/
def stepAcc (int sumRow sumCol : Bool) (p : PassAcc) (as bs : List (List El)) : PassAcc :=
  let nr := as.length
  let nc := bs.length
  let isSum := fun (i j : Nat) => (sumRow && i + 1 == nr) || (sumCol && j + 1 == nc)
  let cells := (List.zip p.rows as).mapIdx fun i ra =>
    (List.zip ra.1 bs).mapIdx fun j vb =>
      let ts := cellTerms ra.2 vb.2
      if isSum i j then (sumCell int vb.1 ts, false) else dataCell int vb.1 ts
  let checked := sumRow || sumCol
  let rowTerms := fun (all : Bool) =>
    as.mapIdx fun i a => (bs.mapIdx fun j b => if !all && isSum i j then [] else cellTerms a b).flatten
  let colTerms := fun (all : Bool) =>
    bs.mapIdx fun j b => (as.mapIdx fun i a => if !all && isSum i j then [] else cellTerms a b).flatten
  { rows := cells.map fun r => r.map (·.1)
    ovf := p.ovf || cells.any fun r => r.any (·.2)
    rmax := if checked then List.zipWith (fun x t => maxMag x (termMax t)) p.rmax (rowTerms false) else p.rmax
    cmax := if checked then List.zipWith (fun x t => maxMag x (termMax t)) p.cmax (colTerms false) else p.cmax
    rbad := if checked then List.zipWith (fun x t => x || termBad t) p.rbad (rowTerms true) else p.rbad
    cbad := if checked then List.zipWith (fun x t => x || termBad t) p.cbad (colTerms true) else p.cbad }

/-- Cut a list into chunks of n. -/
def chunks {α : Type} (n : Nat) (l : List α) : List (List α) :=
  (List.range ((l.length + n - 1) / max 1 n)).map fun i => (l.drop (i * n)).take n

/-- The edge vector of one step as rows or columns of k elements, with scales and KTAIL applied (R51, R71, R74).
`scale e q` is the scale of edge element e at K index q of the instruction. -/
def edgeOf (f k valid j : Nat) (scale : Nat → Nat → Nat) (bs : List Byte) : List (List El) :=
  (chunks k (unpackElems f bs)).mapIdx fun e els =>
    (els.take valid).mapIdx fun q v => (decodeEl f v, scale e (j * k + q))

/-- The bytes of a group's tile rows for one edge block, segment by segment, with the lines that were uncorrectable. -/
def State.tileRows (s : State) (c : CoreId) : List (Nat × Nat) → Loaded
  | [] => ⟨[], [], s⟩
  | (t, rows) :: rest =>
    let x := (s.core c).trf.cfg t
    let r := s.trfLoad c c.val x.at_ (rows * x.rb)
    let u := r.s.tileRows c rest
    ⟨r.bytes ++ u.bytes, r.bad ++ u.bad, u.s⟩

/-- Tiles of edge block `blk` of a group, with their rows. -/
def blockTiles (k : Trf) (t n f blk : Nat) : List (Nat × Nat) :=
  let seg := n / max 1 f
  (List.range seg).map fun i => (t + blk * seg + i, (k.cfg (t + blk * seg + i)).nRows)

/-- The number `i` of a table listed from 0. -/
def tabOf (n : Nat) (f : Nat → Word32) : Tab Word32 :=
  (List.range n).filterMap fun i => if f i = 0 then none else some (i, f i)

/-- A bank's accumulators as rows. -/
def accRows (acc : Tab Word32) (r c : Nat) : List (List Word32) := chunks c (tgets 0 acc 0 (r * c))

/-- Rows of accumulators as a table. -/
def accTab (rows : List (List Word32)) : Tab Word32 :=
  (rows.flatten.mapIdx fun i v => (i, v)).filter fun e => e.2 != 0

/-- What the passes of an instruction start from: the bank's own values, or +0 for a fresh one. -/
def Bank.begin (b : Bank) (r c : Nat) (fresh : Bool) : PassAcc :=
  if fresh then
    ⟨List.replicate r (List.replicate c 0), false, List.replicate r (0, 0), List.replicate c (0, 0),
      List.replicate r false, List.replicate c false⟩
  else
    ⟨accRows b.acc r c, false, (List.range r).map fun i => tget (0, 0) b.rowMax i,
      (List.range c).map fun i => tget (0, 0) b.colMax i, (List.range r).map b.rowBad.contains,
      (List.range c).map b.colBad.contains⟩

/-- Numbers of the entries that hold. -/
def whichTrue (l : List Bool) : List Nat := (List.range l.length).filter fun i => l.getD i false

/-- A list as a table of nonzero magnitudes. -/
def magTab (l : List (Nat × Int)) : Tab (Nat × Int) := (l.mapIdx fun i v => (i, v)).filter fun e => e.2 != (0, 0)

/-- The bank after a pass. -/
def Bank.finish (b : Bank) (p : PassAcc) (org : BankOrigin) (fresh checked : Bool) (k : Nat) : Bank :=
  { b with
    st := .held
    org := org
    acc := accTab p.rows
    k := if fresh then k else b.k + k
    rowMax := magTab p.rmax
    colMax := magTab p.cmax
    rowBad := whichTrue p.rbad
    colBad := whichTrue p.cbad
    scaled := if fresh then false else b.scaled
    checked := checked
    bad := [] }

/-- An edge held by the reuse latch for the second pass of a pair (R78): which operand, its block, its bytes. -/
structure EdgeLatch where
  edgeA : Bool
  block : Nat
  bytes : List Byte

/-- What one pass needs and gives: its accumulators, or the lines it could not read, and the edge it leaves in the reuse
latch. -/
structure PassOut where
  acc  : PassAcc
  k    : Nat
  bad  : List Nat
  latch : Option EdgeLatch
  s    : State

/-- The bytes of an edge block: from the reuse latch when it holds them, which suppresses one read a step, else from the
tiles. -/
def State.edgeRead (s : State) (c : CoreId) (latch : Option EdgeLatch) (edgeA : Bool) (block steps : Nat)
    (tiles : List (Nat × Nat)) : Loaded :=
  match latch with
  | some l => if l.edgeA = edgeA ∧ l.block = block then ⟨l.bytes, [], s.pm (pgMxe c) 0x09 steps⟩ else s.tileRows c tiles
  | none => s.tileRows c tiles

/-- A pass of an MMA or MMAC from `p0`: every step in ascending order over both edges. The first pass of a pair leaves the
edge it shares with the second in the latch: A when FN ≥ 2, else B (R78). -/
def State.mmaPass (s : State) (c : CoreId) (b : BitVec 40) (checked : Bool) (p : Nat) (latch : Option EdgeLatch)
    (p0 : PassAcc) : PassOut :=
  let k0 := (s.core c).trf
  let r := (s.core c).mxe.rows
  let cN := (s.core c).mxe.cols
  let mb := p / mxFn b
  let nb := p % mxFn b
  let ca := k0.cfg (mxTa b)
  let cb := k0.cfg (mxTb b)
  let kk := (pairK ca.f cb.f).getD 1
  let int := ca.f == 7
  let steps := mxNa b / max 1 (mxFm b) * ca.nRows
  let la := s.edgeRead c latch true mb steps (blockTiles k0 (mxTa b) (mxNa b) (mxFm b) mb)
  let lb := la.s.edgeRead c latch false nb steps (blockTiles k0 (mxTb b) (mxNb b) (mxFn b) nb)
  let scales := fun (t : State) (l : List Nat) => match l with
    | [] => Loaded.mk [] [] t
    | x :: _ => t.trfLoad c c.val (k0.cfg x).at_ (k0.cfg x).size
  let sa := scales lb.s (scaleTiles k0 (mxTa b) (mxNa b))
  let sb := scales sa.s (scaleTiles k0 (mxTb b) (mxNb b))
  let scaleOf := fun (bs : List Byte) (n off : Nat) (e q : Nat) =>
    if bs.isEmpty then 0x7F else (bs.getD (q / 32 * n + off + e) 0).toNat
  let one := fun (x : PassAcc) (j : Nat) =>
    let valid := if mxKtail b ≠ 0 ∧ j + 1 = steps then mxKtail b else kk
    let ea := edgeOf ca.f kk valid j (scaleOf sa.bytes (mxFm b * r) (mb * r)) ((la.bytes.drop (j * ca.rb)).take ca.rb)
    let eb := edgeOf cb.f kk valid j (scaleOf sb.bytes (mxFn b * cN) (nb * cN)) ((lb.bytes.drop (j * cb.rb)).take cb.rb)
    if checked then
      stepAcc int true true x (ea.dropLast ++ [sumEdge int valid ea.dropLast])
        (eb.dropLast ++ [sumEdge int valid eb.dropLast])
    else stepAcc int false false x ea eb
  ⟨(List.range steps).foldl one p0,
    if mxKtail b = 0 then steps * kk else (steps - 1) * kk + mxKtail b,
    la.bad ++ lb.bad ++ sa.bad ++ sb.bad,
    some (if 2 ≤ mxFn b then ⟨true, mb, la.bytes⟩ else ⟨false, nb, lb.bytes⟩), sb.s⟩

/-- The one pass of an HRMM from `p0`: R steps over the held rows (R93). -/
def State.hrPass (s : State) (c : CoreId) (b : BitVec 40) (checked : Bool) (p0 : PassAcc) : PassOut :=
  let k0 := (s.core c).trf
  let m := (s.core c).mxe
  let x := k0.cfg (mxTa b)
  let hf := m.held.fmt.toNat
  let kk := (pairK x.f hf).getD 1
  let int := x.f == 7
  let lx := s.tileRows c ((groupTiles (mxTa b) (mxNa b)).map fun t => (t, (k0.cfg t).nRows))
  let els := unpackElems x.f lx.bytes
  let noScale := fun (_ _ : Nat) => 0x7F
  let one := fun (a : PassAcc) (i : Nat) =>
    let as := (List.range (mxT b)).map fun t =>
      ((els.drop (t * mxShr b + i * kk)).take kk).map fun v => (decodeEl x.f v, 0x7F)
    let h := edgeOf hf kk kk i noScale (m.held.rows.getD i [])
    if checked then stepAcc int false true a as (h.dropLast ++ [sumEdge int kk h.dropLast])
    else stepAcc int false false a as h
  let top := { p0 with rows := p0.rows.take (mxT b), rmax := p0.rmax.take (mxT b), rbad := p0.rbad.take (mxT b) }
  let out := (List.range m.rows).foldl one top
  let keep : PassAcc :=
    { out with
      rows := out.rows ++ p0.rows.drop (mxT b)
      rmax := out.rmax ++ p0.rmax.drop (mxT b)
      rbad := out.rbad ++ p0.rbad.drop (mxT b) }
  ⟨keep, m.rows * kk, lx.bad, none, lx.s⟩

/-- CHECKED of the held task (R100). -/
def State.checkedTask (s : State) (c : CoreId) : Bool :=
  match (s.core c).seq.task with
  | some t => t.checked
  | none => false

/-- Origin of the tile a pass leaves (R81). -/
def passOrigin (m : Mxe) (k : Trf) (b : BitVec 40) (checked : Bool) (p : Nat) : BankOrigin :=
  let hr := op40 b == 4
  let fn := if hr then 1 else mxFn b
  let r := if checked then m.rows - 1 else m.rows
  let cN := if checked then m.cols - 1 else m.cols
  { fm := if hr then 1 else mxFm b
    fn := fn
    pair := !hr && mxPair b
    base := mxBank b
    ktail0 := hr || mxKtail b == 0
    hr := hr
    t := if hr then mxT b else 0
    tid := mxTid b
    row0 := if hr then 0 else BitVec.ofNat 9 (p / fn * r)
    col0 := if hr then 0 else BitVec.ofNat 9 (p % fn * cN)
    lr := mxLr b && p % fn == fn - 1
    int := (k.cfg (mxTa b)).f == 7 }

/-- FTQ slots reserved and not yet given to a drain, lowest first. -/
def Mxe.spareSlots (m : Mxe) : List (Fin 4) :=
  (List.finRange 4).filter fun i => m.ftq[i].rsv && !m.drains.any fun d => d.slot == i

/-- Queue the drain of a bank; the drain path serves one bank at a time (R79). -/
def Mxe.queueDrain (m : Mxe) (bank : BankId) (lr : Bool) (tid : BitVec 6) (e : QEntry) (last : Bool) : Mxe :=
  match m.spareSlots with
  | [] => m
  | i :: _ =>
    let st : BankState := if m.drains.isEmpty then .draining else .held
    { m with
      drains := m.drains ++ [⟨bank, i, lr, tid, e, last⟩]
      banks := m.banks.set bank { m.banks[bank] with st := st } }

/-- One pass ends: its bank holds what it computed and, with D = 1, its drain is queued. A held value of disagreeing
parity (R456) or an uncorrectable tile word (R122) raises its abort cause instead. -/
def State.endPass (s : State) (c : CoreId) (r : MxRun) (latch : Option EdgeLatch) (p : Nat) : Option EdgeLatch × State :=
  if !(s.core c).seq.causes.isEmpty then (none, s)
  else
    let b := r.e.bits
    let m := (s.core c).mxe
    let x := mxPassBank b p
    let bk := m.banks[x]
    let hr := op40 b == 4
    let fresh := op40 b == 1 || (hr && !mxPair b)
    if !fresh && !bk.bad.isEmpty then (none, s.parityError c (pgMxe c) 11 (mxInfo m r.e 0 x.val 0) p)
    else
      let checked := s.checkedTask c
      let p0 := bk.begin m.rows m.cols fresh
      let o := if hr then s.hrPass c b checked p0 else s.mmaPass c b checked p latch p0
      match o.bad with
      | line :: _ => (none, o.s.trfUe c r.e.cw 0 (mxTiles (s.core c).trf b) line)
      | [] =>
        let org := passOrigin m (s.core c).trf b checked p
        let s1 := o.s.updMxe c fun m =>
          let m1 := { m with banks := vmod m.banks x.val fun k => k.finish o.acc org fresh checked o.k }
          if mxD b then m1.queueDrain x org.lr org.tid r.e (p + 1 == r.total) else m1
        let s2 := if o.acc.ovf then s1.orReg (pgMxe c) 0x118 (1 <<< x.val) else s1
        (o.latch, s2.pm (pgMxe c) 0x08 1)

/-- PASS_END: the running pass or pair has accumulated its last step. The banks drain (D = 1) or stay HELD (D = 0); an
instruction with D = 0 completes with its last pass (R76 to R80, R251). -/
def execPassEnd (c : CoreId) (s : State) : Host.Outcome State Fault Refusal :=
  match (s.core c).mxe.run with
  | none => .next s
  | some r =>
    if r.now.isEmpty || !s.alive c || !(s.core c).seq.causes.isEmpty then .next s
    else
      let s1 := (r.now.foldl (fun (t : Option EdgeLatch × State) p => t.2.endPass c r t.1 p) (none, s)).2
      if !(s1.core c).seq.causes.isEmpty then .next s1
      else if r.next < r.total then .next (s1.updMxe c fun m => { m with run := some { r with now := [] } })
      else
        let s2 := s1.updMxe c fun m => { m with run := none }
        .next (if mxD r.e.bits then s2 else s2.done c r.e)

/-! ### Drains (R79, R81, R84, R101) -/

/-- Whether an accumulator value is NaN or infinite. -/
def accBad (v : Word32) : Bool := fld v 23 8 == 255

/-- One check of R101: the exact sum of the data values, rounded once, against the checksum cell. -/
def abftOk (int : Bool) (k : Nat) (mag : Nat × Int) (data : List Word32) (cell : Word32) : Bool :=
  if int then (data.map BitVec.toInt).sum % 2 ^ 32 == cell.toInt % 2 ^ 32
  else
    let s := r32 ((data.map fun v => f32 v.toNat).foldl Val.add Val.zero)
    let v := f32 cell.toNat
    let d := (s.sub v).abs
    if s == v then true
    else if d == .nan || d == .inf false then false
    else !(Val.fin false (k * mag.1) (mag.2 - 22)).lt d

/-- Outcome of the drain's checks: how many rows and columns were skipped, and the first miss as (index, column). -/
structure AbftResult where
  skips : Nat
  miss  : Option (Nat × Bool)

/-- The row and column checks of a bank at its drain (R101). A NaN or infinite term or value anywhere in a row or column, its
checksum cell included, has it skipped. -/
def Bank.abft (b : Bank) (r c : Nat) : AbftResult :=
  let rows := accRows b.acc r c
  let nData := if b.org.hr then b.org.t else r - 1
  let dataRows := (rows.take nData).map List.dropLast
  let rowRes := (List.range nData).map fun i =>
    let d := dataRows.getD i []
    let cell := (rows.getD i []).getLastD 0
    let skip := !b.org.int && (b.rowBad.contains i || d.any accBad || accBad cell)
    (i, skip, skip || abftOk b.org.int b.k (tget (0, 0) b.rowMax i) d cell)
  let colRes := if b.org.hr then [] else (List.range (c - 1)).map fun j =>
    let d := dataRows.map fun row => row.getD j 0
    let cell := (rows.getLastD []).getD j 0
    let skip := b.scaled || (!b.org.int && (b.colBad.contains j || d.any accBad || accBad cell))
    (j, skip, skip || abftOk b.org.int b.k (tget (0, 0) b.colMax j) d cell)
  let skips := (rowRes.filter (·.2.1)).length + (colRes.filter (·.2.1)).length
  match rowRes.find? fun x => !x.2.2, colRes.find? fun x => !x.2.2 with
  | some x, _ => ⟨skips, some (x.1, false)⟩
  | none, some y => ⟨skips, some (y.1, true)⟩
  | none, none => ⟨skips, none⟩

/-- The physical tile a drain leaves: the checksum row and column of a checked pass read +0 (R81). -/
def Bank.tile (b : Bank) (r c : Nat) : Tab Word32 :=
  if b.checked then
    b.acc.filter fun e => !(e.1 % c == c - 1) && (b.org.hr || !(e.1 / c == r - 1))
  else b.acc

/-- Complete the drain at the head of the drain path: the slot becomes valid with its metadata, the bank EMPTY, and the
next drain starts (R79, R81). MODE.CHAIN is taken as it stands at this completion (DESIGN CHOICE, log entry 103). -/
def Mxe.finishDrain (m : Mxe) (d : Draining) : Mxe :=
  let b := m.banks[d.bank]
  let slot : FtqSlot :=
    { valid := true
      rsv := false
      tid := d.tid
      row0 := b.org.row0
      col0 := b.org.col0
      pass := b.pass
      lr := d.lr
      int := b.org.int
      chain := m.chain
      seq := m.nextPush
      shape := m.shape
      data := b.tile m.rows m.cols
      bad := [] }
  let rest := m.drains.tail
  let banks := m.banks.set d.bank Bank.empty
  { m with
    ftq := m.ftq.set d.slot slot
    nextPush := m.nextPush + 1
    drains := rest
    banks := match rest with
      | [] => banks
      | n :: _ => vmod banks n.bank.val fun k => { k with st := .draining } }

/-- BANK_DRAIN_COMPLETE: parity and, in a checked task, the checks of R101 come first; a miss aborts with MXE_ABFT, counts
in ABFT_STS, whose MISSES wraps (DESIGN CHOICE, log entry 111), and is told to the CCU (R102). -/
def execBankDrainComplete (c : CoreId) (s : State) : Host.Outcome State Fault Refusal :=
  let m := (s.core c).mxe
  match m.drains with
  | [] => .next s
  | d :: _ =>
    if !s.alive c || !(s.core c).seq.causes.isEmpty then .next s
    else
      let b := m.banks[d.bank]
      if !b.bad.isEmpty then
        .next (s.parityError c (pgMxe c) 11 (mxInfo m d.e 0 d.bank.val 0) b.pass.toNat)
      else
        let a : AbftResult := if b.checked then b.abft m.rows m.cols else ⟨0, none⟩
        let s0 := s.satRf (pgMxe c) 0x120 16 16 a.skips
        match a.miss with
        | some (i, col) =>
          let s1 := s0.modReg (pgMxe c) 0x120 fun v =>
            setFld (setFld (setFld v 0 16 (fld v 0 16 + 1)) 32 8 i) 40 1 (bit col)
          let s2 := s1.mxErr c 10 0x07 (mxInfo m d.e 0 d.bank.val 0) (b.pass.toNat + 2 ^ 4 * i + 2 ^ 12 * bit col)
          .next ((s2.pm (pgMxe c) 0x0A 1).tell c .abftMiss)
        | none =>
          let s1 := s0.updMxe c fun m => m.finishDrain d
          .next (if d.last then s1.done c d.e else s1)

/-- DRAIN: moves a HELD bank towards an FTQ slot with its own tile ID and LR bit, empties it with DISCARD, or has no
effect on an EMPTY bank (R84). -/
def execDrain (c : CoreId) (s : State) : Host.Outcome State Fault Refusal :=
  .next (s.mxIssue c 6 fun t e =>
    let b := e.bits
    let x := mxBank b
    if (t.core c).mxe.banks[x].st = .empty then t.done c e
    else if mxD b then (t.updMxe c fun m => { m with banks := m.banks.set x Bank.empty }).done c e
    else t.updMxe c fun m => m.reserve.queueDrain x (mxLr b) (mxTid b) e true)

/-! ### Shape, held rows, scaling, mode -/

/-- SHAPE: begins the change of shape once both banks are EMPTY; the shape in force completes at once (R68, R69). -/
def execShape (c : CoreId) (s : State) : Host.Outcome State Fault Refusal :=
  .next (s.mxIssue c 5 fun t e =>
    let code : BitVec 2 := e.bits.extractLsb' 34 2
    if code = (t.core c).mxe.shape then (t.updMxe c fun m => { m with shapeSrc := false }).done c e
    else t.updMxe c fun m => { m with op := some (.shape (some e) code) })

/-- SHAPE_DONE: the new shape is in force, held values are invalid, CHANGES counts (R68, R109). -/
def execShapeDone (c : CoreId) (s : State) : Host.Outcome State Fault Refusal :=
  match (s.core c).mxe.op with
  | some (.shape e code) =>
    if vget false s.stopped c then .next s
    else
      let s1 := s.updMxe c fun m =>
        { m with shape := code, shapeSrc := e.isNone, held := ⟨false, [], 0⟩, op := none }
      let s2 := (s1.bumpRf (pgMxe c) 0x100 32 32 1).pm (pgMxe c) 0x07 1
      match e with
      | some q => .next (s2.done c q)
      | none => .next s2
  | some (.hrld _) => .next s
  | some (.ascl _) => .next s
  | none => .next s

/-- HRLD_DONE: the R held rows are in place (R94, R95). -/
def execHrldDone (c : CoreId) (s : State) : Host.Outcome State Fault Refusal :=
  match (s.core c).mxe.op with
  | some (.hrld e) =>
    if !s.alive c || !(s.core c).seq.causes.isEmpty then .next s
    else
      let k := (s.core c).trf
      let ts := groupTiles (mxTa e.bits) (mxNa e.bits)
      let l := s.tileRows c (ts.map fun t => (t, (k.cfg t).nRows))
      match l.bad with
      | line :: _ => .next (l.s.trfUe c e.cw 0 ts line)
      | [] =>
        let x := k.cfg (mxTa e.bits)
        let s1 := l.s.updMxe c fun m =>
          { m with op := none, held := ⟨true, (chunks x.rb l.bytes).take m.rows, x.fmt⟩ }
        .next (s1.done c e)
  | some (.shape _ _) => .next s
  | some (.ascl _) => .next s
  | none => .next s

/-- ASCL: begins to scale a HELD bank by a valid scale-buffer entry (R97). -/
def execAscl (c : CoreId) (s : State) : Host.Outcome State Fault Refusal :=
  .next (s.mxIssue c 7 fun t e => t.updMxe c fun m => { m with op := some (.ascl e) })

/-- One scaled accumulator value (R56). -/
def asclValue (v f : Word32) : Word32 := BitVec.ofNat 32 (f32Bits ((f32 v.toNat).mul (f32 f.toNat)))

/-- ASCL_DONE: row i of the bank is multiplied by factor i, the entry becomes invalid. What an INT32 bank holds afterwards
the spec leaves open, since R56 scales FP32 values only: a value that is free but a function of the operands (R62). -/
def execAsclDone (c : CoreId) (s : State) : Host.Outcome State Fault Refusal :=
  let m := (s.core c).mxe
  match m.op with
  | some (.ascl e) =>
    let x := mxBank e.bits
    let n := fld e.bits 34 1
    let sb := vget ⟨false, [], []⟩ m.sb n
    let bk := m.banks[x]
    if !s.alive c || !(s.core c).seq.causes.isEmpty then .next s
    else if !bk.bad.isEmpty || sb.bad.any (· < m.rows) then
      .next (s.parityError c (pgMxe c) 11 (mxInfo m e 0 x.val 0) bk.pass.toNat)
    else
      let rows := accRows bk.acc m.rows m.cols
      let f := if bk.org.int then Config.asclInt else asclValue
      let acc := accTab (rows.mapIdx fun i row => row.map fun v => f v (tget 0 sb.val i))
      .next ((s.updMxe c fun m =>
        { m with
          op := none
          sb := vset m.sb n ⟨false, [], []⟩
          banks := m.banks.set x { bk with acc := acc, scaled := true } }).done c e)
  | some (.shape _ _) => .next s
  | some (.hrld _) => .next s
  | none => .next s

/-- MODE: sets MODE.CHAIN with CW, clears both overflow flags with OVFCLR (R98). -/
def execMode (c : CoreId) (s : State) : Host.Outcome State Fault Refusal :=
  .next (s.mxIssue c 8 fun t e =>
    let b := e.bits
    let t1 := if b.getLsbD 34 then t.updMxe c fun m => { m with chain := b.getLsbD 35 } else t
    let t2 := if b.getLsbD 33 then t1.setReg (pgMxe c) 0x118 0 else t1
    t2.done c e)

/-! ### Timeouts (R88, R103) -/

/-- The hold of a folded instruction's next pass or pair, between two passes: COND and bank (R86). -/
def Mxe.laterHold (m : Mxe) : Option (MxRun × Nat × Nat) :=
  match m.run with
  | none => none
  | some r =>
    if r.now.isEmpty && decide (r.next < r.total) then
      (match m.passHold r.e.bits (mxGroup r.e.bits r.next) with
       | .hold cond _ bank => some (r, cond, bank)
       | _ => none)
    else none

/-- The hold of the MXE that its timeout counts: COND, with ERR_INFO0 and the pass. It is that of the next pass of a folded
instruction, or of the queue head; a pause is not timed, but an instruction already started keeps its own timeouts (R88, R500). -/
def State.mxHeld (s : State) (c : CoreId) : Option (Nat × Nat × Nat) :=
  let k := s.core c
  if !s.mayExam c then none
  else match k.mxe.laterHold with
    | some (r, cond, bank) => some (cond, mxInfo k.mxe r.e 0 bank cond, r.next)
    | none =>
      if !s.unpaused c 1 then none
      else match k.seq.mxq, k.mxExam with
        | e :: _, .hold cond tile bank => some (cond, mxInfo k.mxe e tile bank cond, 0)
        | _, _ => none

/-- MXE_HOLD_TMO: the queue head, or the next pass of a folded instruction, is still held; the task aborts with WAIT_TMO and
COND says what it waited for. -/
def execMxeHoldTmo (c : CoreId) (s : State) : Host.Outcome State Fault Refusal :=
  match s.mxHeld c with
  | some (_, info, pass) => .next (s.mxErr c 3 0x03 info pass)
  | none => .next s

/-- MXE_CFG_TMO: a mismatch under R103 is still unresolved; the task aborts with CFG_MISMATCH. Only cycles in which the core
is PAUSED do not count. -/
def execMxeCfgTmo (c : CoreId) (s : State) : Host.Outcome State Fault Refusal :=
  let k := s.core c
  if !s.mayExam c || k.seq.st == .paused then .next s
  else match k.seq.mxq, k.mxExam with
    | e :: _, .cfg tile => .next (s.mxErr c 12 0x11 (mxInfo k.mxe e tile (mxNamedBank e.bits) 5) 0)
    | _, _ => .next s

end Sys2Proof.Machine
end

