-- ==== Sys2Proof/Machine/Tlu.lean ====
section
/-! DEFINITION. The tile load unit (R112 to R140, R538, R539). A TLD or TST leaves the queue in one command, which makes its
row requests; each row returns or is accepted in a command of its own. A row is looked up in the CCH or the CSP when it
returns, in the order of the LS queue. -/

namespace Sys2Proof.Machine

/-! ### Fields of the LS slot (R136) -/

/-- T. -/
def lsTile (b : BitVec 40) : Nat := fld b 24 4
/-- TRANS. -/
def tldTrans (b : BitVec 40) : Bool := b.getLsbD 15
/-- CV. -/
def tldCv (b : BitVec 40) : Bool := b.getLsbD 14
/-- SFMT. -/
def tldSfmt (b : BitVec 40) : Nat := fld b 10 4
/-- RMODE. -/
def tldRmode (b : BitVec 40) : Nat := fld b 8 2
/-- SAT. -/
def tldSat (b : BitVec 40) : Bool := b.getLsbD 7
/-- The base of the register pair. -/
def tldPair (b : BitVec 40) : Nat := 2 * fld b 4 3
/-- The base address Aa. -/
def QEntry.aa (e : QEntry) : Addr := vget 0 e.regs (fld e.bits 20 4)
/-- The stride As. -/
def QEntry.as_ (e : QEntry) : Addr := vget 0 e.regs (fld e.bits 16 4)
/-- Address Aa + i × As of row i. -/
def QEntry.rowAddr (e : QEntry) (i : Nat) : Nat := (e.aa + e.as_ * BitVec.ofNat 48 i).toNat

/-- Bytes of an element of a format of at least one byte. -/
def elWidth (f : Nat) : Nat := fmtBits f / 8

/-- Requests of a TLD or TST: rows of the tile, or source rows under TRANS (R127, R130, R131). -/
def tluRows (store : Bool) (b : BitVec 40) (x : TileCfg) : Nat :=
  if !store && tldTrans b then x.rb / max 1 (elWidth x.f) else x.nRows

/-- Bytes of one request (R127, R129, R130, R131). -/
def tluLen (store : Bool) (b : BitVec 40) (x : TileCfg) : Nat :=
  if store then x.rb
  else if tldTrans b then x.nRows * elWidth x.f
  else if tldCv b then x.rb / max 1 (elWidth x.f) * elWidth (tldSfmt b)
  else x.rb

/-- Whether a format takes part in a converting load (R129). -/
def cvFmt (f : Nat) : Bool := decide (f ≤ 4) || (decide (7 ≤ f) && decide (f ≤ 9))

/-- The checks a TLD makes at its start (R127, R129, R130). -/
def tldBad (e : QEntry) (x : TileCfg) : Bool :=
  let b := e.bits
  let w := elWidth x.f
  if tldTrans b then
    tldCv b || fmtMx x.f || !(w == 1 || w == 2 || w == 4) || e.aa.toNat % w != 0 || e.as_.toNat % w != 0
  else
    (List.range x.nRows).any (fun r => e.rowAddr r % 16 != 0)
      || (tldCv b && (!cvFmt x.f || !cvFmt (tldSfmt b) || decide (2 ≤ tldRmode b)
        || (tldRmode b == 1 && (e.as_.getLsbD 47 || e.as_.toNat % elWidth (tldSfmt b) != 0))))

/-- The check a TST makes at its start (R131). -/
def tstBad (e : QEntry) (x : TileCfg) : Bool := (List.range x.nRows).any fun r => e.rowAddr r % 16 != 0

/-! ### Examining the LS queue head (R124, R126, R134, R309) -/

/-- What examining the head of the LS queue gives for a tile op. -/
inductive LsExam where
  | nothing
  | hold (cond tile : Nat)
  | cfg (tile : Nat)
  | shapeBad (tile : Nat)
  | go
  deriving DecidableEq, Repr

/-- Whether an earlier TLD is still filling a tile. -/
def Core.filling (k : Core) (t : Nat) : Bool := k.trf.ops.any fun o => !o.store && o.tile.toNat == t

/-- Whether an earlier op of the LS queue must still complete before another may start: a cache op (R309), or a TXC or TXA
(R364). -/
def State.lsBlocked (s : State) (c : CoreId) : Bool :=
  (s.core c).cch.op.isSome || s.txu.slots.toList.any fun k => k.tail.isSome && k.core == c && !k.orphan

/-- A tile whose TCFG fails R114: held when host software wrote it last, else the op aborts (R134). -/
def cfgExam (x : TileCfg) (t : Nat) : LsExam := if x.ok then .go else if x.src then .cfg t else .shapeBad t

/-- Examine the head of the LS queue. Inconsistent permission ranges hold the requests an op makes, not the op (R320). -/
def State.lsExam (s : State) (c : CoreId) : LsExam :=
  let k := s.core c
  match k.seq.lsq with
  | [] => .nothing
  | e :: _ =>
    let b := e.bits
    let t := lsTile b
    let x := k.trf.cfg t
    if s.lsBlocked c then .nothing
    else match op32 b with
      | 1 =>
        if k.tilesInUse.contains t || k.filling t then .hold 1 t
        else match cfgExam x t with
          | .go => if tldBad e x then .shapeBad t else if 2 ≤ k.trf.ops.length then .nothing else .go
          | r => r
      | 2 =>
        if !x.valid then .hold 2 t
        else match cfgExam x t with
          | .go => if tstBad e x then .shapeBad t else if 2 ≤ k.trf.ops.length then .nothing else .go
          | r => r
      | 3 =>
        if k.tilesInUse.contains t || k.filling t then .hold 1 t
        else if (TileCfg.ofBits (e.a (fld b 20 4)) false).ok then .go else .shapeBad t
      | 4 =>
        match (List.range 16).find? fun i => b.getLsbD (12 + i) && k.tilesInUse.contains i with
        | some i => .hold 1 i
        | none => .go
      | _ => .nothing

/-! ### Errors of the TRF page (R137, R139) -/

/-- ERR_INFO0 of the TRF page. -/
def tluInfo (e : QEntry) (tile row cond : Nat) : Nat :=
  e.cw.toNat + 2 ^ 12 * op32 e.bits + 2 ^ 16 * tile + 2 ^ 20 * (row % 64) + 2 ^ 26 * cond

/-- Record an error of the TRF page. -/
def State.tluErr (s : State) (c : CoreId) (b info0 info1 : Nat) : State :=
  s.err (pgTrf c) b (BitVec.ofNat 64 info0) (BitVec.ofNat 64 info1)

/-- Record it and abort the task. -/
def State.tluAbort (s : State) (c : CoreId) (b cause info0 info1 : Nat) : State :=
  (s.tluErr c b info0 info1).cause c (BitVec.ofNat 8 cause)

/-- A shape error at the queue head. Of ADDR and ROW, for which R139 gives nothing here, ADDR is A[a] and ROW 0 (log entry
106). -/
def State.lsShapeBad (s : State) (c : CoreId) (e : QEntry) (tile : Nat) : State :=
  s.tluAbort c 9 0x01 (tluInfo e tile 0 3) e.aa.toNat

/-- Start the head of the LS queue when it holds operation `op`; `f` gives what starting does once the entry has left the
queue, or none when it must wait. A pause holds the start, not the checks before it. -/
def State.lsStart (s : State) (c : CoreId) (op : Nat) (f : State → QEntry → Option State) : State :=
  match (s.core c).seq.lsq with
  | [] => s
  | e :: rest =>
    if op32 e.bits ≠ op ∨ !s.mayExam c then s
    else match s.lsExam c with
      | .go =>
        if !s.mayStart c 3 then s
        else match f (s.updSeq c fun q => { q with lsq := rest }) e with
        | some t => t
        | none => s
      | .shapeBad t => s.lsShapeBad c e t
      | .nothing => s
      | .hold _ _ => s
      | .cfg _ => s

/-! ### Row requests -/

/-- Lines of a range that it covers only in part. -/
def partialLines (loc n : Nat) : List Nat :=
  (linesOf loc n).filter fun l => decide (128 * l < loc) || decide (loc + n < 128 * (l + 1))

/-- Change op `o` (known by its word number) of the TLU. -/
def State.updOp (s : State) (c : CoreId) (num : Nat) (f : TluOp → TluOp) : State :=
  s.updTrf c fun k => { k with ops := modFirst (fun o => o.e.num == num) f k.ops }

/-- Whether a device-local range lies in the core's own CSP, which R319 does not check. -/
def State.inOwnCsp (s : State) (c : CoreId) (loc n : Nat) : Bool :=
  match s.span s.ownDev loc n with
  | .csp d _ => d == c
  | _ => false

/-- Lines of the CCH that a row misses, of those it needs. -/
def State.cchMisses (s : State) (c : CoreId) (ls : List Nat) : List Nat :=
  ls.filter fun l => ((s.core c).cch.find l).isNone

/-- Make the request of row `i` of `n` bytes, once the permission ranges let it: held while they are inconsistent (R320),
refused and counted (R319), or made by `f`. None when it finds no tag. -/
def State.rowRequest (s : State) (c : CoreId) (e : QEntry) (i n : Nat) (write : Bool) (f : State → Option State) : Option State :=
  let loc := e.rowAddr i
  if s.wprBroken c && !s.inOwnCsp c loc n then some (s.updOp c e.num fun o => { o with held := o.held ++ [i] })
  else
    let s1 := s.updOp c e.num fun o => { o with held := o.held.filter (· != i) }
    if !s.wprAllows c s.ownDev loc n write then
      some ((s1.wprRefuse c s.ownDev loc).updOp c e.num fun o => { o with denied := i :: o.denied })
    else f s1

/-- Make the request of a TLD row: a tag for what misses in the CCH, and packets beyond the cluster. -/
def State.tldRequest (s : State) (c : CoreId) (e : QEntry) (n i : Nat) : Option State :=
  let loc := e.rowAddr i
  let user := TagUser.tlu c e.num i
  s.rowRequest c e i n false fun t =>
    if t.cchHolds t.ownDev loc n then
      let miss := t.cchMisses c (linesOf loc n)
      if miss.isEmpty then some t else t.launchRead c c user t.ownDev (lineRuns miss)
    else t.launchRead c c user t.ownDev [(loc, n)]

/-- Make the request of a TST row: a transactional one goes to the TXU (R353), one through the CCH asks for the fills of lines it
covers in part, another is written to its CSP. -/
def State.tstRequest (s : State) (c : CoreId) (e : QEntry) (bs : List Byte) (i : Nat) : Option State :=
  let loc := e.rowAddr i
  let user := TagUser.tlu c e.num i
  s.rowRequest c e i bs.length true fun t =>
    if vget false t.txu.mode c && t.span t.ownDev loc bs.length == .ext then
      some (t.updOp c e.num fun o => { o with tx := i :: o.tx })
    else if t.cchHolds t.ownDev loc bs.length then
      let miss := t.cchMisses c (partialLines loc bs.length)
      if miss.isEmpty then some t else t.launchRead c c user t.ownDev (lineRuns miss)
    else
      let t1 := if t.inOwnCsp c loc bs.length then t else t.updOp c e.num fun o => { o with away := i :: o.away }
      t1.launchWrite c c user t1.ownDev (cellsAt loc bs)

/-- Make several requests; none when one of them finds no tag. -/
def requestAll (f : State → Nat → Option State) : List Nat → State → Option State
  | [], s => some s
  | i :: is, s => match f s i with
    | some t => requestAll f is t
    | none => none

/-- A TLD or TST as it starts. -/
def TluOp.start (e : QEntry) (store : Bool) (tile : Nat) (x : TileCfg) (rows : List Nat) : TluOp where
  e := e
  store := store
  tile := BitVec.ofNat 4 tile
  cfg := x
  pend := rows
  gather := []
  bad := []
  held := []
  denied := []
  tx := []
  away := []
  noFill := []

/-- TLD: clears VALID and TPOISON of its tile and requests its rows (R123, R127). It waits at the queue head until its rows
have the tags they need. -/
def execTld (c : CoreId) (s : State) : Host.Outcome State Fault Refusal :=
  .next (s.lsStart c 1 fun t e =>
    let tile := lsTile e.bits
    let x := (t.core c).trf.cfg tile
    let n := tluRows false e.bits x
    let t1 := t.updTrf c fun k =>
      { (k.setValid tile false) with
        poison := vset k.poison tile 0
        ops := k.ops ++ [TluOp.start e false tile x (List.range n)] }
    requestAll (fun u i => u.tldRequest c e (tluLen false e.bits x) i) (List.range n) t1)

/-- The rows a TST still has to read, in row order: each is read from the TRF and its request made; an uncorrectable word ends
the task, and the rows before it stay issued (R131, R133, R539). None when a request finds no tag. -/
def State.tstRows (s : State) (c : CoreId) (e : QEntry) (tile : Nat) (x : TileCfg) : List Nat → Option State
  | [] => some s
  | r :: rs =>
    let l := s.trfLoad c c.val (x.at_ + r * x.rb) x.rb
    match l.bad with
    | line :: _ => some ((l.s.updOp c e.num fun o => { o with e := { o.e with sig := none } }).trfUe c e.cw 2 [tile] line)
    | [] =>
      let s1 := l.s.updOp c e.num fun o =>
        { o with pend := o.pend ++ [r], gather := tputs 0 o.gather (256 * r) l.bytes }
      match s1.tstRequest c e l.bytes r with
      | some t => t.tstRows c e tile x rs
      | none => none

/-- A TST with no row to come leaves the TLU; its done signal fires if it has one (R131). -/
def State.tstFinish (s : State) (c : CoreId) (num : Nat) : State :=
  match (s.core c).trf.ops.find? fun o => o.e.num == num with
  | none => s
  | some o =>
    if o.pend.isEmpty then (s.updTrf c fun k => { k with ops := k.ops.filter fun y => y.e.num != num }).done c o.e else s

/-- TST: reads its rows from the TRF in order, skipping poisoned ones, and requests their stores (R131, R539). -/
def execTst (c : CoreId) (s : State) : Host.Outcome State Fault Refusal :=
  .next (s.lsStart c 2 fun t e =>
    let tile := lsTile e.bits
    let x := (t.core c).trf.cfg tile
    let p := vget 0 (t.core c).trf.poison tile
    let rows := (List.range x.nRows).filter fun r => !p.getLsbD r
    let t1 := (t.satRf (pgTrf c) 0x210 16 16 (x.nRows - rows.length)).updTrf c fun k =>
      { k with ops := k.ops ++ [TluOp.start e true tile x []] }
    (t1.tstRows c e tile x rows).map fun u => u.tstFinish c e.num)

/-- TCFG: writes TCFG[t] from A[a], VALID and TPOISON with it (R114, R123, R538). -/
def execTcfg (c : CoreId) (s : State) : Host.Outcome State Fault Refusal :=
  .next (s.lsStart c 3 fun t e =>
    some ((t.updTrf c fun k => k.configure (lsTile e.bits) (TileCfg.ofBits (e.a (fld e.bits 20 4)) false)).done c e))

/-- TINV: clears VALID and TPOISON of the masked tiles (R123, R136). -/
def execTinv (c : CoreId) (s : State) : Host.Outcome State Fault Refusal :=
  .next (s.lsStart c 4 fun t e =>
    let m := fun (i : Nat) => e.bits.getLsbD (12 + i)
    some ((t.updTrf c fun k =>
      { k with
        tiles := vmap (fun i x => if m i then { x with valid := false } else x) k.tiles
        poison := vmap (fun i p => if m i then 0 else p) k.poison }).done c e))

/-! ### Rows coming back (R127 to R131) -/

/-- KIND of R139 for a failed access. -/
def MemErr.kind : MemErr → Nat
  | .busy => 0
  | .ue => 1
  | .perm => 2
  | .remote _ => 4
  | .refused => 5
  | .isolated => 5

/-- Abort cause of R128 for a failed store row. -/
def MemErr.tstCause : MemErr → Nat
  | .busy => 0
  | .ue => 0x08
  | .perm => 0x09
  | .remote _ => 0x13
  | .refused => 0x09
  | .isolated => 0x09

/-- What an op reads and writes through the CCH for a row. -/
def TluOp.use (o : TluOp) (c : CoreId) (row : Nat) : CchUse where
  user := .tlu c o.e.num row
  cw := o.e.cw.toNat
  op := op32 o.e.bits
  noFill := fun l => o.noFill.any fun r => decide (r.1 ≤ l) && decide (l < r.2)

/-- The bytes of a TLD row as its target gives them (R127, R298). -/
def State.tldRead (s : State) (c : CoreId) (o : TluOp) (row n : Nat) (rep : Reply) : Got :=
  let loc := o.e.rowAddr row
  if o.denied.contains row then ⟨[], some .perm, s⟩
  else if s.cchHolds s.ownDev loc n then
    let g := s.cchLines c (o.use c row) rep loc n (linesOf loc n)
    { g with bytes := (g.bytes.drop (loc % 128)).take n }
  else s.readFar c (.tlu c o.e.num row) s.ownDev [(loc, n)] rep

/-- Lines of own-device external memory that a row at `loc` needs through the CSC: of those it needs, what the CCH does not
hold. -/
def State.rowLines (s : State) (c : CoreId) (loc n : Nat) (ls : List Nat) : List Nat :=
  match s.span s.ownDev loc n with
  | .ext => s.cchMisses c ls
  | _ => []

/-- A converted row (R129). -/
def cvRow (e : QEntry) (x : TileCfg) (seed r : Nat) (bs : List Byte) : List Byte :=
  let sf := tldSfmt e.bits
  let tensor := e.a (tldPair e.bits) % 2 ^ 32
  let base := e.a (tldPair e.bits + 1) + r * (e.as_.toNat / max 1 (elWidth sf))
  (unpackElems sf bs).zipIdx.flatMap fun p =>
    let rnd := if tldRmode e.bits = 1 then Rnd.sr (srWord seed tensor (base + p.2)) else .rne
    elemBytes x.f (convert x.f (tldSat e.bits) rnd (decodeEl sf p.1)).bits

/-- SEED of the held task (R48, R231). -/
def State.seed (s : State) (c : CoreId) : Nat :=
  match (s.core c).seq.task with
  | some t => t.seed.toNat
  | none => 0

/-- Scatter a source row of a transposing load into the tile layout (R130). -/
def scatter (x : TileCfg) (col : Nat) (buf : Tab Byte) (bs : List Byte) : Tab Byte :=
  let w := elWidth x.f
  (List.range x.nRows).foldl (fun b r => tputs 0 b (r * x.rb + col * w) ((bs.drop (r * w)).take w)) buf

/-- A TLD whose rows are all written or poisoned sets VALID and completes; a transposing one writes its rows now, or poisons
all of them when a source row has faulted (R123, R130). -/
def State.tldFinish (s : State) (c : CoreId) (num : Nat) : State :=
  match (s.core c).trf.ops.find? fun o => o.e.num == num with
  | none => s
  | some o =>
    if !o.pend.isEmpty then s
    else
      let t := o.tile.toNat
      let s1 :=
        if tldTrans o.e.bits then
          if o.bad.isEmpty then
            let u := (s.trfStore c c.val (cellsAt o.cfg.at_ (tgets 0 o.gather 0 o.cfg.size))).s
            u.pm (pgTrf c) 0x06 o.cfg.nRows
          else
            let u := s.updTrf c fun k => k.addPoison t (rowsMask o.cfg.nRows)
            (u.satRf (pgTrf c) 0x210 0 16 o.cfg.nRows).pm (pgTrf c) 0x0A o.cfg.nRows
        else s
      let s2 := s1.updTrf c fun k => { (k.setValid t true) with ops := k.ops.filter fun y => y.e.num != num }
      s2.done c o.e

/-- A row of a TLD is poisoned: TPOISON and its contents kept, counters, ERR.ROWPOISON (R128). Under TRANS the source row
is remembered, and its tile rows are poisoned and counted once every source row has returned (R130). -/
def State.poisonRow (s : State) (c : CoreId) (o : TluOp) (row kind : Nat) : State :=
  let t := o.tile.toNat
  let tr := tldTrans o.e.bits
  let s1 := if tr then s else s.updTrf c fun k => k.addPoison t (1 <<< row)
  let s2 := if tr then s1 else (s1.satRf (pgTrf c) 0x210 0 16 1).pm (pgTrf c) 0x0A 1
  let s3 := s2.tluErr c 8 (tluInfo o.e t row 4) (o.e.rowAddr row + 2 ^ 48 * kind)
  (s3.updOp c o.e.num fun y =>
    { y with pend := y.pend.filter (· != row), bad := if tr then row :: y.bad else y.bad }).tldFinish c o.e.num

/-- A row of a TLD has its data: it is converted and written to the TRF, or gathered under TRANS (R127, R129, R130). -/
def State.landRow (s : State) (c : CoreId) (o : TluOp) (row : Nat) (bs : List Byte) : State :=
  if tldTrans o.e.bits then
    (s.updOp c o.e.num fun y =>
      { y with pend := y.pend.filter (· != row), gather := scatter o.cfg row y.gather bs }).tldFinish c o.e.num
  else
    let out := if tldCv o.e.bits then cvRow o.e o.cfg (s.seed c) row bs else bs
    let s1 := (s.trfStore c c.val (cellsAt (o.cfg.at_ + row * o.cfg.rb) out)).s.pm (pgTrf c) 0x06 1
    (s1.updOp c o.e.num fun y => { y with pend := y.pend.filter (· != row) }).tldFinish c o.e.num

/-- Whether rows of op `i` may be looked up: the memory island answers, and of an earlier op of the other kind (a store
before a load, a load before a store) no row is still to come. -/
def State.rowTurn (s : State) (c : CoreId) (i : Nat) (store : Bool) : Bool :=
  s.alive c && !s.memDead && ((s.core c).trf.ops.take i).all fun o => o.store == store || o.pend.isEmpty

/-- TLD_ROW_RETURN: the reply of a row arrives; the row is written or poisoned, or the task aborts with WINDOW for an
unmapped offset or an isolated core (R127, R128). A row that inconsistent permission ranges have held is requested once they
are consistent (R320); one that has joined a fill of the CSC waits for it (R285). -/
def execTldRowReturn (c : CoreId) (op : Fin 2) (row : Byte) (r : Reply) (s : State) : Host.Outcome State Fault Refusal :=
  match (s.core c).trf.ops[op.val]? with
  | none => .next s
  | some o =>
    let i := row.toNat
    let loc := o.e.rowAddr i
    let n := tluLen false o.e.bits o.cfg
    if o.store || !o.pend.contains i || !s.rowTurn c op.val false || !(s.core c).seq.causes.isEmpty then .next s
    else if o.held.contains i then
      .next (if s.wprBroken c then s else (s.tldRequest c o.e n i).getD s)
    else match s.cscWaits c (.tlu c o.e.num i) (if o.denied.contains i then [] else s.rowLines c loc n (linesOf loc n)) with
    | some t => .next t
    | none =>
      let user := TagUser.tlu c o.e.num i
      let g := if s.bondBad user then ⟨[], some .ue, s⟩ else s.tldRead c o i n r
      let s1 := g.s.takeTag user
      match g.err with
      | none => .next (s1.landRow c o i g.bytes)
      | some .busy => .next s
      | some x =>
        if x.kind = 5 then .next (s1.tluAbort c 13 0x09 (tluInfo o.e o.tile.toNat i 4) (loc + 2 ^ 48 * 5))
        else .next (s1.poisonRow c o i x.kind)

/-- A row of a TST is over without having been stored; the TST fires no done signal any more. -/
def State.dropRow (s : State) (c : CoreId) (o : TluOp) (row : Nat) : State :=
  (s.updOp c o.e.num fun y =>
    { y with e := { y.e with sig := none }, pend := y.pend.filter (· != row) }).tstFinish c o.e.num

/-- A TST row fault aborts the task; ERR.STFAULT (R128, R137). In the drain of an abort the row only ends (R133). -/
def State.tstFault (s : State) (c : CoreId) (o : TluOp) (row kind cause : Nat) : State :=
  let s1 := s.dropRow c o row
  if (s.core c).seq.abortTask then s1
  else s1.tluAbort c 11 cause (tluInfo o.e o.tile.toNat row 4) (o.e.rowAddr row + 2 ^ 48 * kind)

/-- TLD_ROW_TMO: no reply within 2^TRF.TMO cc; a TLD row is poisoned and late data for it dropped, a TST aborts with
WAIT_TMO (R128). A row that R320 holds has made no request yet. -/
def execTldRowTmo (c : CoreId) (op : Fin 2) (row : Byte) (s : State) : Host.Outcome State Fault Refusal :=
  match (s.core c).trf.ops[op.val]? with
  | none => .next s
  | some o =>
    let i := row.toNat
    if !o.pend.contains i || o.held.contains i || !s.alive c || !(s.core c).seq.causes.isEmpty then .next s
    else
      let s1 := s.satRf (pgTrf c) 0x210 32 16 1
      let s2 := if o.store then s1.tstFault c o i 3 0x03 else s1.poisonRow c o i 3
      .next (s2.freeUser (.tlu c o.e.num i))

/-- Store a row through the CCH: whole lines are allocated without a fill, partial ones filled first (R299). -/
def State.cchStoreRow (s : State) (c : CoreId) (u : CchUse) (loc : Nat) (bs : List Byte) (rep : Reply) : List Nat → Got
  | [] => ⟨[], none, s⟩
  | l :: ls =>
    let cs := lineCells l (cellsAt loc bs)
    let (g, rep1) : Got × Reply :=
      if cs.length ≠ 128 then s.cchLine c u l rep 0 0 true
      else if ((s.core c).cch.find l).isSome then (⟨[], none, s.pm (pgCch c) 0x01 1⟩, rep)
      else match (s.pm (pgCch c) 0x02 1).cchAlloc c l (List.replicate 128 0) u.cw u.op with
        | some t => (⟨[], none, t⟩, rep)
        | none => (⟨[], some .busy, s⟩, rep)
    match g.err with
    | some _ => g
    | none =>
      let (ok, t) := g.s.cchMerge c l cs
      if ok then t.cchStoreRow c u loc bs rep1 ls else ⟨[], some .ue, t⟩

/-- What the target of a store row answers (R128, R298, R299, R322). -/
def State.tstWrite (s : State) (c : CoreId) (o : TluOp) (row : Nat) (bs : List Byte) (rep : Reply) : Got :=
  let loc := o.e.rowAddr row
  if o.denied.contains row then ⟨[], some .perm, s⟩
  else if s.cchHolds s.ownDev loc bs.length then s.cchStoreRow c (o.use c row) loc bs rep (linesOf loc bs.length)
  else match s.span s.ownDev loc bs.length with
    | .refused => ⟨[], some .refused, s⟩
    | _ => s.writeFar c s.ownDev (cellsAt loc bs) rep

/-- A store row of a TST has been accepted; the last completes the TST (R131, R539). -/
def State.rowAccepted (s : State) (c : CoreId) (o : TluOp) (row : Nat) : State :=
  ((s.updOp c o.e.num fun y => { y with pend := y.pend.filter (· != row) }).pm (pgTrf c) 0x07 1).tstFinish c o.e.num

/-- The first TST whose row is still to be accepted, with its place among the ops. -/
def Core.storeRow (k : Core) (row : Nat) : Option (Nat × TluOp) :=
  (k.trf.ops.mapIdx fun i o => (i, o)).find? fun p => p.2.store && p.2.pend.contains row

/-- The bytes of a row that a TST has read. -/
def TluOp.rowBytes (o : TluOp) (row : Nat) : List Byte := tgets 0 o.gather (256 * row) o.cfg.rb

/-- Whether the row of a store may go on: in its turn, or in the drain of an abort, which lets issued rows complete (R133). -/
def State.storeTurn (s : State) (c : CoreId) (i : Nat) : Bool :=
  s.rowTurn c i true || ((s.core c).seq.abortTask && s.alive c && !s.memDead)

/-- TST_ROW_ACCEPT: a row that is not a transactional store is accepted by the CCH or the target CSP, or faults (R128,
R131). A transactional row goes to the TXU (TX_STORE). An aborted TST's issued rows still complete (R133). A row that
inconsistent permission ranges have held is requested once they are consistent (R320). -/
def execTstRowAccept (c : CoreId) (row : Byte) (r : Reply) (s : State) : Host.Outcome State Fault Refusal :=
  match (s.core c).storeRow row.toNat with
  | none => .next s
  | some (i, o) =>
    let n := row.toNat
    let loc := o.e.rowAddr n
    let bs := o.rowBytes n
    if o.tx.contains n || !s.storeTurn c i then .next s
    else if o.held.contains n then .next (if s.wprBroken c then s else (s.tstRequest c o.e bs n).getD s)
    else match s.cscWaits c (.tlu c o.e.num n) (if o.denied.contains n then [] else s.rowLines c loc bs.length (partialLines loc bs.length)) with
    | some t => .next t
    | none =>
      let user := TagUser.tlu c o.e.num n
      let g := if s.bondBad user then ⟨[], some .ue, s⟩ else s.tstWrite c o n bs r
      let s1 := g.s.takeTag user
      match g.err with
      | none => .next (s1.rowAccepted c o n)
      | some .busy => .next s
      | some x => .next (s1.tstFault c o n x.kind x.tstCause)

/-! ### Timeouts (R126, R134) -/

/-- The hold of the LS queue's head, by the scoreboard, or of a TST by a tile that is not VALID: the op, COND and the tile. A pause
stops the count (R126, log entry 113). -/
def State.lsHeld (s : State) (c : CoreId) : Option (QEntry × Nat × Nat) :=
  match (s.core c).seq.lsq, s.lsExam c with
  | e :: _, .hold cond tile => if s.unpaused c 3 then some (e, cond, tile) else none
  | _, _ => none

/-- LS_HOLD_TMO: the head of the LS queue is still held; ADDR and ROW are those of log entry 106. -/
def execLsHoldTmo (c : CoreId) (s : State) : Host.Outcome State Fault Refusal :=
  match s.lsHeld c with
  | some (e, cond, tile) => .next (s.tluAbort c 3 0x03 (tluInfo e tile 0 cond) e.aa.toNat)
  | none => .next s

/-- TLU_CFG_TMO: a page-written TCFG still fails R114; the task aborts with CFG_MISMATCH, its count stopped only while the core
is PAUSED (R502). ADDR and ROW are those of log entry 106. -/
def execTluCfgTmo (c : CoreId) (s : State) : Host.Outcome State Fault Refusal :=
  match (s.core c).seq.lsq, s.lsExam c with
  | e :: _, .cfg tile =>
    if s.mayExam c && (s.core c).seq.st != .paused then .next (s.tluAbort c 12 0x11 (tluInfo e tile 0 3) e.aa.toNat) else .next s
  | _, _ => .next s

end Sys2Proof.Machine
end

