-- ==== Sys2Proof/Machine/ChanOps.lean ====
section
/-! DEFINITION. Operations of the message channels that the channel commands and the vector engine share (R329 to R350):
bindings and landing rings, sending a record, releasing records and returning their credits. -/

namespace Sys2Proof.Machine

/-! ### Bindings and ports (R330, R332) -/

/-- Units of the sub-ring, CR (R332). -/
def Binding.cr (b : Binding) : Nat := fld b.record 53 8 + 1
/-- SROFS (R332). -/
def Binding.srofs (b : Binding) : Nat := fld b.record 46 7
/-- RCH (R332). -/
def Binding.rch (b : Binding) : BitVec 6 := b.record.extractLsb' 40 6
/-- EPOCH of a binding (R332). -/
def Binding.epoch (b : Binding) : Byte := b.record.extractLsb' 32 8
/-- PORT of a binding (R332). -/
def Binding.port (b : Binding) : BitVec 3 := b.record.extractLsb' 29 3
/-- CORE of a binding (R332). -/
def Binding.core (b : Binding) : CoreId := Fin.ofNat 8 (fld b.record 26 3)
/-- DIE and CLUSTER of a binding, as DST bits 16 to 24 (R425). -/
def Binding.place (b : Binding) : Nat := fld b.record 17 9
/-- The receiver's device: DEV, or the own device (R332). -/
def Binding.dev (b : Binding) (own : Nat) : Nat := if b.record.getLsbD 16 then fld b.record 0 16 else own

/-- A channel nothing has bound yet. -/
def Binding.blank : Binding where
  record := 0
  credits := 0
  wp := 0
  bound := false
  stale := false
  number := 0
  next := 0
  unacked := []

/-- Channel n of a core. -/
def Chn.bind (k : Chn) (n : Nat) : Binding := tget Binding.blank k.binds n

/-- Change channel n of a core. -/
def State.updBind (s : State) (c : CoreId) (n : Nat) (f : Binding → Binding) : State :=
  s.updChn c fun k => { k with binds := tmod Binding.blank k.binds n f }

/-- Whether messages of the channel have no acknowledgement yet; a PAD record is no message (R333). -/
def Binding.waiting (b : Binding) : Bool := b.unacked.any fun u => !u.pad

/-- Ring size in units (R330). -/
def LandPort.units (p : LandPort) : Nat := 2 ^ fld p.record 15 4 / 64
/-- Whether a port's ring lies in the TRF (R329). -/
def trfPort (p : Nat) : Bool := p == 2 || p == 3
/-- Whether a port is a VXE input port (R329). -/
def vxePort (p : Nat) : Bool := decide (p < 2)
/-- First TRF byte or CSP offset of the ring (R330). -/
def LandPort.base (q : LandPort) (p : Nat) : Nat := if trfPort p then 16 * fld q.record 0 12 else 16 * fld q.record 0 15

/-- Change landing port p of a core. -/
def State.updPortOf (s : State) (c : CoreId) (p : Nat) (f : LandPort → LandPort) : State :=
  s.updChn c fun k => { k with ports := vmod k.ports p f }

/-- Landing port p of a core. -/
def Chn.port (k : Chn) (p : Nat) : LandPort := vget LandPort.reset k.ports p

/-- Disarm a port: its records are abandoned, its EPOCH is kept (R343). -/
def LandPort.disarm (q : LandPort) : LandPort := { q with armed := false, log := [] }

/-! ### Errors of the CHN page (R347, R348) -/

/-- ERR_INFO0 of the CHN page. -/
def chnInfo0 (cw op ch port kind detail : Nat) : Nat :=
  cw + 2 ^ 12 * op + 2 ^ 16 * ch + 2 ^ 22 * port + 2 ^ 25 * kind + 2 ^ 29 * detail

/-- ERR_INFO1 of the CHN page. -/
def chnInfo1 (addr need credits : Nat) : Nat := addr % 2 ^ 48 + 2 ^ 48 * (need % 256) + 2 ^ 56 * (credits % 256)

/-- What the capture says of the instruction concerned: its word, its CH opcode (0 for a VXE CHANNEL output), and its record or
source address (0 for a VXE CHANNEL output, which has none). -/
structure ChWho where
  cw   : Nat
  op   : Nat
  addr : Nat

/-- Value of A register Aa of a CH op. -/
def QEntry.chAddr (e : QEntry) : Nat := e.a (fld e.bits 10 4)

/-- A CH op at the queue head. -/
def QEntry.chWho (e : QEntry) : ChWho := ⟨e.cw.toNat, op24 e.bits, e.chAddr⟩

/-- A VXE CHANNEL output. -/
def QEntry.vxWho (e : QEntry) : ChWho := ⟨e.cw.toNat, 0, 0⟩

/-- Who sent a record. -/
def Unacked.who (u : Unacked) : ChWho :=
  match u.e with
  | some e => e.chWho
  | none => ⟨u.cw.toNat, 0, 0⟩

/-- Record an error of the CHN page and raise its abort cause. -/
def State.chnAbort (s : State) (c : CoreId) (b cause : Nat) (w : ChWho) (kind : Nat) (ch port detail need credits : Nat := 0) :
    State :=
  (s.err (pgChn c) b (BitVec.ofNat 64 (chnInfo0 w.cw w.op ch port kind detail))
    (BitVec.ofNat 64 (chnInfo1 w.addr need credits))).cause c (BitVec.ofNat 8 cause)

/-! ### The core-to-core link (R14, R18, R541) -/

/-- Write an entry into the link from core `c` to core `d`; one towards an isolated or absent core is discarded and counted
(R18). -/
def State.linkPut (s : State) (c d : CoreId) (m : LinkMsg) : State :=
  if s.reachable d then { s with links := s.links ++ [(c, d, m)] } else s.bumpRf 0 0x170 0 32 1

/-- Entries of the link an item takes: a message one for each 256 B beat, anything else one (R345). -/
def LinkMsg.entries : LinkMsg → Nat
  | .msg m => max 1 ((m.payload.length + 255) / 256)
  | .cut _ _ => 1
  | .ack _ _ _ _ => 1
  | .credit _ _ _ => 1

/-- Entries waiting in the link from core `c` to core `d`. -/
def State.linkLoad (s : State) (c d : CoreId) : Nat :=
  ((s.links.filter fun x => x.1 == c && x.2.1 == d).map fun x => x.2.2.entries).sum

/-- Whether the CHN of a core is held by a full link or loopback queue: more waits than its entries can take (R15, R541). -/
def State.chnHeld (s : State) (c : CoreId) : Bool :=
  (List.finRange 8).any fun d => s.reachable d && decide (crossDepth < s.linkLoad c d)

/-- The front entry of the link from core `a` to core `b`, and the state without it. -/
def State.linkTake (s : State) (a b : CoreId) : Option (LinkMsg × State) :=
  match takeFirst (fun x => x.1 == a && x.2.1 == b) s.links with
  | none => none
  | some (x, rest) => some (x.2.2, { s with links := rest })

/-- Device-local address of a core's CSP window in a cluster given as die and cluster (R24). -/
def cspWindow (place : Nat) (core : CoreId) : Nat :=
  2 ^ 47 + 0x100000000 + 2 ^ 38 * (place % 32) + 2 ^ 34 * (place / 32) + 0x100000 * core.val

/-- Send a class 3 packet of a core over the mesh to DST; one without a route is answered with ERR NOROUTE to the core if it
is a request, else counted (R440). The ERR names the channel in byte 25, as channel + 1. -/
def State.meshPut (s : State) (c : CoreId) (request : Bool) (ch : Nat) (k : Packet) : State :=
  match s.sendMesh { k with src := s.srcWord c } with
  | some t => t
  | none =>
    let (n, s1) := s.drawChoice 4
    if !request then s1.bumpRf (pgMp (Fin.ofNat 4 n)) 0x130 32 32 1
    else
      let s2 := s1.noRoute (Fin.ofNat 4 n) k
      let e : Packet := { Packet.blank 4 3 (s.srcWord c) with
        src := s.srcWord c, tag := k.tag, addr := k.addr, spec := BitVec.ofNat 48 (1 + 256 * (ch + 1)) }
      s2.deliver none e.seal

/-- The destination word of a packet that answers a SRC: its unit is not part of a DST (R425). -/
def dstOfSrc (src : BitVec 32) : BitVec 32 := (src.setWidth 25).setWidth 32

/-- TAG of a channel's packets: the sending core and its channel, which the answers carry back (log entry 62). -/
def chTag (c ch : Nat) : BitVec 11 := BitVec.ofNat 11 (ch + 64 * c)

/-- The type-specific half word of a MSG packet: PAD, the end of a cut message, RCH and the record's units (log entry 62). -/
def msgSub (m : Msg) (cut : Bool) : Nat := bit m.pad + 2 * bit cut + 4 * m.rch.toNat + 256 * (m.units % 256)

/-- ADDR of a MSG packet: the receiver's CSP window, with the binding's number below it (R333, log entry 62). -/
def msgAddr (place : Nat) (core : CoreId) (bind : Nat) : Nat := cspWindow place core + bind % 2 ^ 16

/-- Whether a message was cut: it has fewer bytes than its record (R341). -/
def msgCut (m : Msg) : Bool := !m.pad && decide (m.payload.length < 64 * m.units)

/-- MSG packets of a record that core `c` sends: one for a PAD, one for each 2,048 B of a message; the last of a cut message
marks its end (R341, R425, R426). -/
def msgPackets (c : CoreId) (dst : BitVec 32) (addr : Nat) (m : Msg) : List Packet :=
  let one := fun (pos : Nat) (cut : Bool) (bs : List Byte) =>
    { Packet.blank 5 3 dst with
      tag := chTag c m.ch.toNat
      addr := BitVec.ofNat 48 addr
      sub := BitVec.ofNat 16 (msgSub m cut)
      spec := BitVec.ofNat 48 (m.ch.toNat + 2 ^ 8 * m.number.toNat + 2 ^ 16 * m.epoch.toNat + 2 ^ 24 * m.port.toNat
        + 2 ^ 32 * (pos % 2 ^ 16))
      payload := bs }
  let n := max 1 ((m.payload.length + 2047) / 2048)
  (List.range n).map fun i => one (m.pos + 32 * i) (msgCut m && i + 1 == n) ((m.payload.drop (2048 * i)).take 2048)

/-! ### Sending (R340) -/

/-- What trying to send gives: the record may go, it waits for that many credits, or the channel refuses it. -/
inductive SendTry where
  | ready (s : State)
  | wait (need : Nat) (s : State)
  | unbound
  | tooBig
  deriving Repr

/-- Emit one record for word `cw`: it takes the next number and its units of credit, and leaves by the link or the mesh. A
message of fewer bytes than its units is one that an uncorrectable word has ended early (R341). -/
def State.emit (s : State) (c : CoreId) (n units : Nat) (pad : Bool) (bs : List Byte) (cw : CsIndex) (e : Option QEntry) : State :=
  let b := (s.core c).chn.bind n
  let m : Msg := ⟨BitVec.ofNat 6 n, b.rch, b.port, b.epoch, b.next, b.srofs + b.wp, units, pad, b.number, bs⟩
  let s1 := s.updBind c n fun b =>
    { b with
      credits := b.credits - units
      next := b.next + 1
      wp := (b.wp + units) % b.cr
      unacked := b.unacked ++ [⟨b.next, units, pad, e, cw⟩] }
  let s2 := if pad then s1.pm (pgChn c) 0x03 1
    else (s1.bumpRf (pgChn c) (0x800 + 0x18 * n) 0 32 1).pm (pgChn c) 0x01 1
  if b.dev s.ownDev = s.ownDev ∧ b.place = s.ownDie + 32 * s.ownCluster then
    let s3 := s2.linkPut c b.core (.msg m)
    if msgCut m then s3.linkPut c b.core (.cut m.ch m.port) else s3
  else
    let dst := BitVec.ofNat 32 (b.dev s.ownDev + 2 ^ 16 * b.place)
    (msgPackets c dst (msgAddr b.place b.core m.bind) m).foldl (fun t k => t.meshPut c true n k) s2

/-- Before a message of `units` that word `cw` sends: the PAD of a short tail goes out, then the message needs its credits
(R340). -/
def State.trySend (s : State) (c : CoreId) (n units : Nat) (cw : CsIndex) : SendTry :=
  let b := (s.core c).chn.bind n
  if !b.bound then .unbound
  else if b.cr < units then .tooBig
  else
    let tail := b.cr - b.wp
    if tail < units then
      if b.credits < tail then .wait tail s
      else
        let s1 := s.emit c n tail true [] cw none
        if ((s1.core c).chn.bind n).credits < units then .wait units s1 else .ready s1
    else if b.credits < units then .wait units s
    else .ready s

/-- CH_DEAD or CH_TOOBIG of a send that the channel refuses (R340, R343). -/
def State.sendRefused (s : State) (c : CoreId) (n units : Nat) (w : ChWho) (tooBig : Bool) : State :=
  let b := (s.core c).chn.bind n
  if tooBig then s.chnAbort c 9 0x06 w 3 (ch := n) (port := b.port.toNat) (need := units) (credits := b.credits)
  else s.chnAbort c 8 0x05 w 8 (ch := n) (port := b.port.toNat) (need := units) (credits := b.credits)

/-! ### Releasing records (R338) -/

/-- Whether two records lie in one sub-ring: they come from one channel of one sender. -/
def LogRec.sameRing (a b : LogRec) : Bool := a.sender == b.sender && a.src == b.src && a.ch == b.ch

/-- Return a record's credits to its sender. A mesh sender gets them in a CACK packet: byte 26 bit 1 set, byte 27 the units,
bytes 28 and 29 the binding number. -/
def State.creditBack (s : State) (c : CoreId) (r : LogRec) : State :=
  match r.sender with
  | some d => s.linkPut c d (.credit r.ch r.bind r.units)
  | none =>
    s.meshPut c false 0 { Packet.blank 6 3 (dstOfSrc r.src) with
      tag := r.tag
      spec := BitVec.ofNat 48 (r.ch.toNat + 2 ^ 8 * r.number.toNat + 2 ^ 17 + 2 ^ 24 * r.units + 2 ^ 32 * (r.bind % 2 ^ 16)) }

/-- Acknowledge a record (R336, R342). -/
def State.ackBack (s : State) (c : CoreId) (r : LogRec) (stale : Bool) : State :=
  match r.sender with
  | some d => s.linkPut c d (.ack r.ch r.number stale r.bind)
  | none =>
    s.meshPut c false 0 { Packet.blank 6 3 (dstOfSrc r.src) with
      tag := r.tag
      spec := BitVec.ofNat 48 (r.ch.toNat + 2 ^ 8 * r.number.toNat + 2 ^ 16 * bit stale) }

/-- The unreleased records of a port. -/
def LandPort.held (q : LandPort) : List LogRec := q.log.filter fun r => !r.rel

/-- PAD records that are the oldest unreleased of their sub-ring. -/
def oldPads : List LogRec → List LogRec → List LogRec
  | _, [] => []
  | seen, r :: rs =>
    if r.rel then oldPads seen rs
    else if r.pad ∧ !seen.any r.sameRing then r :: oldPads seen rs
    else oldPads (r :: seen) rs

/-- Release the records of a port for which `p` holds: their credits return, and a record still landing stays until its
landing ends. -/
def State.releaseIf (s : State) (c : CoreId) (port : Nat) (p : LogRec → Bool) : State :=
  let q := (s.core c).chn.port port
  let gone := q.held.filter p
  let s1 := s.updPortOf c port fun q =>
    { q with log := (q.log.map fun r => if !r.rel && p r then { r with rel := true } else r).filter fun r => !r.rel || r.landing }
  gone.foldl (fun t r => t.creditBack c r) s1

/-- Release the PAD records whose turn has come. -/
def State.releasePads (s : State) (c : CoreId) (port : Nat) : State :=
  let pads := oldPads [] ((s.core c).chn.port port).log
  s.releaseIf c port fun r => pads.contains r

/-- Release the `n` oldest message records of a port (R338). -/
def State.releaseOldest (s : State) (c : CoreId) (port n : Nat) : State :=
  let rs := ((((s.core c).chn.port port).held).filter fun r => !r.pad).take n
  (s.releaseIf c port fun r => rs.contains r).releasePads c port

/-! ### Reading a VXE port (R145) -/

/-- The oldest unreleased message record of a port, if bytes of it can be read. -/
def LandPort.front (q : LandPort) : Option LogRec := (q.held.find? fun r => !r.pad).bind fun r =>
  if r.used < 64 * r.units ∧ (r.whole ∨ !r.landing) then some r else none

end Sys2Proof.Machine
end

