-- ==== Sys2Proof/Machine/VxeStage.lean ====
section
/-! DEFINITION. Chains of the vector engine: headers, stage words and operand selectors (R151 to R153), validity of an entry
(R154 to R160, R166), what one beat of a chain computes (R154 to R160, R169), and the reduction tree (R59, R61, R163 to
R168). -/

namespace Sys2Proof.Machine

/-! ### The chain table (R151, R152, R181) -/

/-- A chain entry: header, eight stage words, eight pairs of constants. -/
structure Chain where
  hdr : Dword
  stg : List Dword
  kp  : List Dword
  deriving DecidableEq, Repr, Inhabited

/-- Offset of CHT[n] on the VXE page. -/
def chtAt (n : Nat) : Nat := 0x200 + 0x88 * n

/-- The bits that word `i` of a chain-table entry holds: header, stages, constants (R10, R151, R152). -/
def chtMask (i : Nat) : Dword := if i = 0 then 0x7FFFFFFFFFF else if i ≤ 8 then 0xFFFFFFFFFFFE0000 else BitVec.allOnes 64

/-- CHT[n] of a core. -/
def State.chain (s : State) (c : CoreId) (n : Nat) : Chain where
  hdr := s.reg (pgVxe c) (chtAt n)
  stg := (List.range 8).map fun i => s.reg (pgVxe c) (chtAt n + 8 + 8 * i)
  kp := (List.range 8).map fun i => s.reg (pgVxe c) (chtAt n + 0x48 + 8 * i)

/-- Stages of the chain. -/
def Chain.stages (h : Chain) : Nat := fld h.hdr 0 3 + 1
/-- ORD. -/
def Chain.ord (h : Chain) : Bool := h.hdr.getLsbD 3
/-- EPB. -/
def Chain.epb (h : Chain) : Nat := 64 * 2 ^ fld h.hdr 4 2
/-- IN0K. -/
def Chain.in0k (h : Chain) : Nat := fld h.hdr 6 3
/-- IN0F. -/
def Chain.in0f (h : Chain) : Nat := fld h.hdr 9 4
/-- IN1K. -/
def Chain.in1k (h : Chain) : Nat := fld h.hdr 13 3
/-- IN1F. -/
def Chain.in1f (h : Chain) : Nat := fld h.hdr 16 4
/-- OUTK. -/
def Chain.outk (h : Chain) : Nat := fld h.hdr 20 3
/-- MASKK. -/
def Chain.maskk (h : Chain) : Nat := fld h.hdr 23 2
/-- MSTG. -/
def Chain.mstg (h : Chain) : Nat := fld h.hdr 25 3
/-- RED. -/
def Chain.red (h : Chain) : Nat := fld h.hdr 28 3
/-- k of TOPK. -/
def Chain.topk (h : Chain) : Nat := fld h.hdr 31 3 + 1
/-- ROWLOG. -/
def Chain.rowlog (h : Chain) : Nat := fld h.hdr 34 4
/-- PDST. -/
def Chain.pdst (h : Chain) : Nat := fld h.hdr 38 4
/-- STK. -/
def Chain.stk (h : Chain) : Bool := h.hdr.getLsbD 42
/-- Stage word i. -/
def Chain.stage (h : Chain) (i : Nat) : Dword := h.stg.getD i 0
/-- Constant i. -/
def Chain.const (h : Chain) (i : Nat) : Nat := fld (h.kp.getD (i / 2) 0) (32 * (i % 2)) 32

/-- OP of a stage word. -/
def sgOp (w : Dword) : Nat := fld w 58 6
/-- FMT of a stage word. -/
def sgFmt (w : Dword) : Nat := fld w 54 4
/-- RMODE of a stage word. -/
def sgRm (w : Dword) : Nat := fld w 52 2
/-- SAT of a stage word. -/
def sgSat (w : Dword) : Bool := w.getLsbD 51
/-- SA of a stage word. -/
def sgA (w : Dword) : Nat := fld w 45 6
/-- SB of a stage word. -/
def sgB (w : Dword) : Nat := fld w 39 6
/-- SC of a stage word. -/
def sgC (w : Dword) : Nat := fld w 33 6
/-- AUX of a stage word. -/
def sgAux (w : Dword) : Nat := fld w 17 16

/-- FMT of stage i. -/
def Chain.fmtOf (h : Chain) (i : Nat) : Nat := sgFmt (h.stage i)
/-- The output format: the last stage's FMT. -/
def Chain.outf (h : Chain) : Nat := h.fmtOf (h.stages - 1)

/-- Bytes per beat of a stream of a format (R141). -/
def Chain.beat (h : Chain) (f : Nat) : Nat := h.epb * fmtBits f / 8

/-! ### Operations (R155) -/

/-- The stage operations. -/
inductive VOp where
  | mov | add | sub | mul | fma | max | min | cmp | sel | cvt | qscale | exp2 | log2 | rcp | rsqrt | tanh | abs | neg
  | shl | shr | sra | and | or | xor | not | clamp | perm | shuf | pack | unpack | gather
  deriving DecidableEq, Repr, Inhabited

/-- The operation of a code (R155); none for a reserved one. -/
def vopOf : Nat → Option VOp
  | 0x00 => some .mov | 0x01 => some .add | 0x02 => some .sub | 0x03 => some .mul | 0x04 => some .fma
  | 0x05 => some .max | 0x06 => some .min | 0x07 => some .cmp | 0x08 => some .sel | 0x09 => some .cvt
  | 0x0A => some .qscale | 0x0B => some .exp2 | 0x0C => some .log2 | 0x0D => some .rcp | 0x0E => some .rsqrt
  | 0x0F => some .tanh | 0x10 => some .abs | 0x11 => some .neg | 0x12 => some .shl | 0x13 => some .shr
  | 0x14 => some .sra | 0x15 => some .and | 0x16 => some .or | 0x17 => some .xor | 0x18 => some .not
  | 0x19 => some .clamp | 0x1A => some .perm | 0x1B => some .shuf | 0x1C => some .pack | 0x1D => some .unpack
  | 0x1E => some .gather | _ => none

/-- How an operation treats its operands (R154). -/
inductive VClass where
  | arith | keep | cross | resize | gather
  deriving DecidableEq, Repr

/-- The class of an operation. -/
def VOp.cls : VOp → VClass
  | .mov => .keep | .sel => .keep | .shl => .keep | .shr => .keep | .sra => .keep | .and => .keep | .or => .keep
  | .xor => .keep | .not => .keep | .perm => .keep | .shuf => .keep
  | .cvt => .cross | .qscale => .cross | .pack => .resize | .unpack => .resize | .gather => .gather
  | .add => .arith | .sub => .arith | .mul => .arith | .fma => .arith | .max => .arith | .min => .arith
  | .cmp => .arith | .exp2 => .arith | .log2 => .arith | .rcp => .arith | .rsqrt => .arith | .tanh => .arith
  | .abs => .arith | .neg => .arith | .clamp => .arith

/-- Whether an operation is one of the transcendentals (R60). -/
def VOp.trans : VOp → Bool
  | .exp2 => true | .log2 => true | .rcp => true | .rsqrt => true | .tanh => true | _ => false

/-- Whether a floating format may be the FMT of an arithmetic stage: not MX, not E8M0. -/
def plainFloat (f : Nat) : Bool := decide (f ≤ 4)

/-- Whether R155 allows a FMT for an operation. -/
def VOp.fmtOk (o : VOp) (f : Nat) : Bool :=
  match o with
  | .fma => plainFloat f
  | .exp2 => plainFloat f | .log2 => plainFloat f | .rcp => plainFloat f | .rsqrt => plainFloat f | .tanh => plainFloat f
  | .qscale => fmtInt f
  | .shl => fmtInt f | .shr => fmtInt f | .sra => fmtInt f
  | .and => fmtInt f | .or => fmtInt f | .xor => fmtInt f | .not => fmtInt f
  | .pack => f == 7 || f == 8
  | .unpack => f == 8 || f == 9
  | .gather => decide (8 ≤ fmtBits f)
  | .mov => true | .sel => true | .perm => true | .shuf => true | .cvt => true
  | .add => plainFloat f || fmtInt f | .sub => plainFloat f || fmtInt f | .mul => plainFloat f || fmtInt f
  | .max => plainFloat f || fmtInt f | .min => plainFloat f || fmtInt f | .cmp => plainFloat f || fmtInt f
  | .abs => plainFloat f || fmtInt f | .neg => plainFloat f || fmtInt f | .clamp => plainFloat f || fmtInt f

/-- SHUF kind and amount (R155, R157). -/
def shufKind (aux : Nat) : Nat := aux / 16 % 4
/-- SHUF amount. -/
def shufAmt (aux : Nat) : Nat := aux / 64 % 256

/-- The selectors an operation uses (R158). -/
def stageSels (o : VOp) (w : Dword) : List Nat :=
  match o with
  | .fma => [sgA w, sgB w, sgC w] | .sel => [sgA w, sgB w, sgC w] | .clamp => [sgA w, sgB w, sgC w]
  | .add => [sgA w, sgB w] | .sub => [sgA w, sgB w] | .mul => [sgA w, sgB w] | .max => [sgA w, sgB w]
  | .min => [sgA w, sgB w] | .cmp => [sgA w, sgB w] | .shl => [sgA w, sgB w] | .shr => [sgA w, sgB w]
  | .sra => [sgA w, sgB w] | .and => [sgA w, sgB w] | .or => [sgA w, sgB w] | .xor => [sgA w, sgB w]
  | .cvt => if fmtMx (sgFmt w) then [sgA w, sgB w] else [sgA w]
  | .shuf => if shufKind (sgAux w) = 1 then [sgA w, sgB w] else [sgA w]
  | _ => [sgA w]

/-! ### Selectors (R153) -/

/-- What a selector names: a stream or stage result with its format, the element's lane, a constant, an RSS value, zero, IN0
of a chain that has none (no value is stated), or nothing valid. -/
inductive Sel where
  | in0 | in1 | stage (i : Nat) | lane | const (i : Nat) | rss (v : Nat) | zero | absent | bad
  deriving DecidableEq, Repr

/-- The selector `x` of stage `s` (R153, R158). -/
def Chain.sel (h : Chain) (s x : Nat) : Sel :=
  let i := x % 16
  let first : Sel := if h.in0k = 0 then .absent else .in0
  match x / 16 with
  | 0 =>
    if i = 0 then (if s = 0 then first else .stage (s - 1))
    else if i = 1 then first
    else if i = 2 then (if h.in1k = 0 then .bad else .in1)
    else if i = 3 then .zero
    else if i = 4 then .lane
    else if i < 8 then .bad
    else if i - 8 < s then .stage (i - 8) else .bad
  | 1 => .const i
  | 2 => if i < 4 ∧ h.rowlog ≠ 0 then .rss i else .bad
  | _ => .bad

/-- The format of a stream, stage or lane operand; none for an operand that has none of its own. -/
def Chain.selFmt (h : Chain) : Sel → Option Nat
  | .in0 => some h.in0f
  | .in1 => some h.in1f
  | .stage i => some (h.fmtOf i)
  | .lane => some 8
  | .const _ => none
  | .rss _ => none
  | .zero => none
  | .absent => none
  | .bad => none

/-! ### Validity of an entry (R158) -/

/-- Whether an operand's format breaks R154 or R155 for an operation of format `f`; `j` is the operand's place. -/
def operandOk (o : VOp) (f j : Nat) (g : Option Nat) : Bool :=
  match g with
  | none => !(o == .cvt && j == 1)
  | some x =>
    match o.cls with
    | .arith => fmtInt f == fmtInt x
    | .keep => (o == .sel && j == 2) || fmtBits x == fmtBits f
    | .cross => j == 0 || x == 10
    | .resize => fmtInt x && (if o = .pack then decide (fmtBits f ≤ fmtBits x) else decide (fmtBits x ≤ fmtBits f))
    | .gather => fmtInt x

/-- Whether stage `s` of an entry is valid. -/
def Chain.stageOk (h : Chain) (s : Nat) : Bool :=
  let w := h.stage s
  let f := sgFmt w
  let aux := sgAux w
  match vopOf (sgOp w) with
  | none => false
  | some o =>
    let sels := (stageSels o w).map (h.sel s)
    decide (f ≤ 10) && o.fmtOk f
      && !(o == .cmp && decide (6 ≤ aux % 8))
      && !(o == .shuf && (match shufKind aux with
        | 0 => decide (h.epb ≤ 2 ^ shufAmt aux)
        | 1 => decide (2 ≤ shufAmt aux)
        | 2 => decide (h.epb ≤ shufAmt aux)
        | _ => true))
      && !(o.cls == .cross && decide (2 ≤ sgRm w))
      && !(o.cls == .cross && sgRm w == 1 && decide (13 < aux % 16 + bit (o == .qscale)))
      && sels.all (· != .bad)
      && (List.range sels.length).all fun j => operandOk o f j (h.selFmt (sels.getD j .bad))

/-- Whether a header is valid for VRUN (1), VRED (2) or VSTAT (3) with its d or ACC bits (R158, R166). A reserved code makes
it invalid also in a field its instruction ignores, but for RED, which R166 lets a VRUN ignore (log entry 117). -/
def Chain.hdrOk (h : Chain) (op d : Nat) (acc : Bool) : Bool :=
  decide (fld h.hdr 4 2 < 3) && decide (h.in0k ≤ 4) && decide (h.in1k ≤ 4) && h.in1k != 3 && decide (h.outk ≤ 4)
    && h.maskk != 3 && (op == 1 || h.red != 7) && decide (h.pdst ≤ 8)
    && (h.rowlog == 0 || (decide (4 ≤ h.rowlog) && decide (h.rowlog ≤ 10)))
    && decide (h.in0f ≤ 10) && decide (h.in1f ≤ 10)
    && !(h.maskk == 2 && decide (h.stages ≤ h.mstg + 1))
    && !(op == 3 && (h.rowlog == 0 || h.red == 4 || (h.red == 3 && acc)))
    && !(op == 2 && h.red == 4 && decide (8 < d + h.topk))

/-- Whether an entry is valid for an instruction (R158). -/
def Chain.ok (h : Chain) (op d : Nat) (acc : Bool) : Bool := h.hdrOk op d acc && (List.range h.stages).all h.stageOk

/-- The first invalid stage of an entry whose header is valid; 0 where the header is the cause (R180). -/
def Chain.badStage (h : Chain) (op d : Nat) (acc : Bool) : Nat :=
  if h.hdrOk op d acc then ((List.range h.stages).find? fun i => !h.stageOk i).getD 0 else 0

/-- Whether any stage reads the RSS. -/
def Chain.readsRss (h : Chain) : Bool :=
  (List.range h.stages).any fun s => match vopOf (sgOp (h.stage s)) with
    | none => false
    | some o => (stageSels o (h.stage s)).any fun x => x / 16 == 2

/-- Whether any stage is a GATHER. -/
def Chain.gathers (h : Chain) : Bool := (List.range h.stages).any fun s => sgOp (h.stage s) == 0x1E

/-- Stages that add 6 cc (R161). -/
def Chain.slow (h : Chain) : Nat :=
  ((List.range h.stages).filter fun s => match vopOf (sgOp (h.stage s)) with
    | none => false
    | some o => o.trans || o == .gather).length

/-- Transcendental stages. -/
def Chain.transStages (h : Chain) : Nat :=
  ((List.range h.stages).filter fun s => match vopOf (sgOp (h.stage s)) with
    | none => false
    | some o => o.trans).length

/-- Chain latency L (R161). -/
def Chain.latency (h : Chain) : Nat := 4 + 3 * h.stages + 6 * h.slow

/-- Cycles per beat, p (R142). -/
def Chain.period (h : Chain) : Nat :=
  let up := fun (a b : Nat) => (a + b - 1) / b
  let ins := (if h.in0k = 0 then [] else [(h.in0k, h.in0f)]) ++ (if h.in1k = 0 then [] else [(h.in1k, h.in1f)])
  let streams := ins ++ (if h.outk = 0 then [] else [(h.outk, h.outf)])
  let widths := streams.map (fun x => h.beat x.2) ++ (List.range h.stages).map fun i => h.beat (h.fmtOf i)
  let trf := ((streams.filter fun x => x.1 == 2).map fun x => h.beat x.2).sum
  let csp := ((ins.filter fun x => x.1 == 1).map fun x => h.beat x.2).sum + (if h.maskk = 1 then h.epb / 8 else 0)
  (widths.map fun w => up w 256).foldl max
    (max 1 (max (up trf 256) (max (up csp 512) (if h.gathers then h.epb / 16 else 1))))

/-! ### Operand values (R154) -/

/-- What one beat of a chain sees: its elements from IN0 and IN1, the RSS values of the rows of its elements, the
permutation tables, the keyed draw's seed, and its number. -/
structure BeatIn where
  in0  : List Nat
  in1  : List Nat
  rss  : Nat → List Nat
  perm : Nat → List Nat
  seed : Nat
  beat : Nat

/-- An operand of a stage: its format, whether its bits are raw (a constant or an RSS value), and the bits of each
element. -/
structure Opnd where
  fmt  : Nat
  raw  : Bool
  bits : List Nat

/-- The operand a selector names, for the stage of word `w` and class `k`. An operand without a format of its own is FP32 or
INT32 as the stage's FMT is floating or an integer; PACK, UNPACK and GATHER take it as INT32. An IN0 that does not exist
gives values that depend on the entry, the stage and the element alone (R62, log entry 42). -/
def Chain.opnd (h : Chain) (x : BeatIn) (outs : List (List Nat)) (w : Dword) (k : VClass) (s : Sel) : Opnd :=
  let n := h.epb
  let f := sgFmt w
  let t := if fmtInt f || k == .resize || k == .gather then 8 else 0
  match s with
  | .in0 => ⟨h.in0f, false, x.in0⟩
  | .in1 => ⟨h.in1f, false, x.in1⟩
  | .stage i => ⟨h.fmtOf i, false, outs.getD i []⟩
  | .lane => ⟨8, false, List.range n⟩
  | .const i => ⟨t, true, List.replicate n (h.const i)⟩
  | .rss v => ⟨t, true, x.rss v⟩
  | .zero => ⟨t, true, List.replicate n 0⟩
  | .absent => ⟨t, true, (List.range n).map fun e => (Config.absentIn h.hdr w (x.beat * n + e)).toNat⟩
  | .bad => ⟨t, true, []⟩

/-- An operand's bits at width `w`, for the stages that keep bits. -/
def Opnd.fit (o : Opnd) (w : Nat) : List Nat :=
  if o.raw then o.bits.map fun v => if w = 64 then intBits 64 (sext 32 v) else v % 2 ^ w else o.bits

/-- An operand's values. -/
def Opnd.vals (o : Opnd) : List Val := o.bits.map (decodeEl o.fmt)
/-- An integer operand's values. -/
def Opnd.ints (o : Opnd) : List Int := o.bits.map fun v => sext (fmtBits o.fmt) v

/-- Whether an element of a format differs from zero; ±0 is zero, NaN is not (R155, R165, R169). -/
def nonzeroEl (f bits : Nat) : Bool := !(decodeEl f bits).isZero

/-- Whether SEL's operand C differs from zero in an element of bits `v`. A constant or RSS value counts in the format of the
stage, cut to its width (R154); in E8M0, which has no zero, it counts as its bits (log entry 116). -/
def Opnd.isSet (o : Opnd) (f v : Nat) : Bool :=
  if !o.raw then nonzeroEl o.fmt v else if f = 10 then v != 0 else nonzeroEl f v

/-! ### Stage operations (R155 to R160) -/

/-- A floating operation on its operands' values, before rounding. -/
def floatOp (o : VOp) (a b c : Val) : Val :=
  match o with
  | .add => a.add b | .sub => a.sub b | .mul => a.mul b | .fma => (a.mul b).add c
  | .max => a.maxv b | .min => a.minv b | .clamp => (a.maxv b).minv c
  | .abs => a.abs | .neg => a.neg
  | .exp2 => exp2Ref a | .log2 => log2Ref a | .rcp => rcpRef a | .rsqrt => rsqrtRef a | .tanh => tanhRef a
  | _ => a

/-- An integer operation. -/
def intOp (o : VOp) (a b c : Int) : Int :=
  match o with
  | .add => a + b | .sub => a - b | .mul => a * b
  | .max => max a b | .min => min a b | .clamp => min (max a b) c
  | .abs => (a.natAbs : Int) | .neg => -a
  | _ => a

/-- A relation of CMP by code, given a − b. -/
def relHolds (r : Nat) (d : Int) : Bool :=
  match r with
  | 0 => d == 0 | 1 => d != 0 | 2 => decide (d < 0) | 3 => decide (d ≤ 0) | 4 => decide (0 < d) | _ => decide (0 ≤ d)

/-- CMP on values (R58): with a NaN every relation but NE is false. -/
def cmpVals (r : Nat) (a b : Val) : Bool := if a = .nan ∨ b = .nan then r == 1 else relHolds r (a.cmp b)

/-- Combine three lists element by element; missing operands repeat the first. -/
def zip3 {α β : Type} (f : α → α → α → β) (a b c : List α) : List β :=
  List.zipWith (fun x (y : α × α) => f x y.1 y.2) a (List.zip b c)

/-- An arithmetic stage. With SAT 1 an infinite result of infinite operands becomes the largest finite value too (DESIGN CHOICE, log
entry 107); MAX, MIN and CLAMP of integers wider than FMT wrap (DESIGN CHOICE, log entry 108). -/
def arithStage (o : VOp) (w : Dword) (ops : List Opnd) : List Nat :=
  let f := sgFmt w
  let at_ := fun (i : Nat) => ops.getD i (ops.headD ⟨0, false, []⟩)
  if fmtInt f then
    let a := (at_ 0).ints
    let b := (at_ 1).ints
    if o = .cmp then List.zipWith (fun x y => bit (relHolds (sgAux w % 8) (x - y))) a b
    else zip3 (fun x y z => intBits (fmtBits f) (intOp o x y z)) a b (at_ 2).ints
  else
    let a := (at_ 0).vals
    let b := (at_ 1).vals
    if o = .cmp then
      List.zipWith (fun x y => if cmpVals (sgAux w % 8) x y then (toFloat f false false .rne .one).bits else 0) a b
    else zip3 (fun x y z => (toFloat f (sgSat w) o.trans .rne (floatOp o x y z)).bits) a b (at_ 2).vals

/-- Shift amount: B mod width. -/
def shiftEl (o : VOp) (w x y : Nat) : Nat :=
  let k := y % w
  match o with
  | .shl => x * 2 ^ k % 2 ^ w
  | .shr => x / 2 ^ k
  | _ => intBits w (sext w x / (2 ^ k : Int))

/-- SHUF (R157). -/
def shufStage (n aux : Nat) (a b : List Nat) : List Nat :=
  let m := shufAmt aux
  match shufKind aux with
  | 0 => (List.range n).map fun e => a.getD (e ^^^ 2 ^ m) 0
  | 1 =>
    let h := if m = 0 then 0 else n / 2
    (List.range n).map fun e => (if e % 2 = 0 then a else b).getD (e / 2 + h) 0
  | _ => (List.range n).map fun e => a.getD ((e + m) % n) 0

/-- A stage that keeps bits. -/
def keepStage (o : VOp) (n : Nat) (w : Dword) (x : BeatIn) (ops : List Opnd) : List Nat :=
  let wd := fmtBits (sgFmt w)
  let aux := sgAux w
  let a := (ops.headD ⟨0, false, []⟩).fit wd
  let b := (ops.getD 1 ⟨0, false, []⟩).fit wd
  match o with
  | .not => a.map fun v => 2 ^ wd - 1 - v
  | .and => List.zipWith (· &&& ·) a b
  | .or => List.zipWith (· ||| ·) a b
  | .xor => List.zipWith (· ^^^ ·) a b
  | .shl => List.zipWith (shiftEl .shl wd) a b
  | .shr => List.zipWith (shiftEl .shr wd) a b
  | .sra => List.zipWith (shiftEl .sra wd) a b
  | .sel =>
    let c := ops.getD 2 ⟨0, false, []⟩
    List.zipWith (fun (p : Nat × Nat) v => if c.isSet (sgFmt w) v then p.1 else p.2) (List.zip a b) (c.fit wd)
  | .perm =>
    let t := x.perm (aux % 16)
    (List.range n).map fun e => let k := t.getD e 0; if k < n then a.getD k 0 else 0
  | .shuf => shufStage n aux a b
  | _ => a

/-- The rounding of a CVT or QSCALE stage for element `e` of a beat (R42, R160). -/
def Chain.rounding (h : Chain) (x : BeatIn) (w : Dword) (o : VOp) (e : Nat) : Rnd :=
  if sgRm w = 1 then
    let c := sgAux w % 16 + bit (o == .qscale)
    let b0 := h.const (c + 1) + 2 ^ 32 * (h.const (c + 2) % 2 ^ 16)
    .sr (srWord x.seed (h.const c) (b0 + x.beat * h.epb + e))
  else .rne

/-- A stage's results with what QSCALE meets: elements that set OVF and elements that set ANY_NAN (R47). -/
structure StageOut where
  bits : List Nat
  ovf  : List Bool
  nan  : List Bool

/-- A stage that touches no sticky condition. -/
def plainOut (bits : List Nat) : StageOut := ⟨bits, [], []⟩

/-- A CVT or QSCALE stage (R44 to R47, R155). -/
def Chain.crossStage (h : Chain) (o : VOp) (w : Dword) (x : BeatIn) (ops : List Opnd) : StageOut :=
  let f := sgFmt w
  let a := (ops.headD ⟨0, false, []⟩).vals
  if o = .cvt then
    let scales := (ops.getD 1 ⟨10, false, []⟩).bits
    plainOut (a.mapIdx fun e v =>
      let r := h.rounding x w o e
      if fmtMx f then (convertMx f (sgSat w) r (scales.getD e 0x7F) v).bits else (convert f (sgSat w) r v).bits)
  else
    let ex := sext 32 (h.const (sgAux w % 16))
    let one := fun (e : Nat) (v : Val) =>
      let r := toIntFmt f (h.rounding x w o e) (v.scale (-ex))
      (r.bits, r.ovf || v == .inf false || v == .inf true, v == .nan)
    let rs := a.mapIdx one
    ⟨rs.map (·.1), rs.map (·.2.1), rs.map (·.2.2)⟩

/-- A PACK or UNPACK stage. -/
def resizeStage (o : VOp) (w : Dword) (a : Opnd) : List Nat :=
  let wd := fmtBits (sgFmt w)
  if fmtBits a.fmt = wd then a.bits
  else if o = .pack then
    if sgSat w then a.ints.map fun v => intBits wd (max (-(2 ^ (wd - 1) : Int)) (min (2 ^ (wd - 1) - 1) v))
    else a.ints.map (intBits wd)
  else if sgAux w % 2 = 1 then a.bits.map (· % 2 ^ fmtBits a.fmt)
  else a.ints.map (intBits wd)

/-- A fault of a GATHER: its stage, whether it is a WINDOW fault or an uncorrectable word, and its offset from the start of
the own CSP. -/
structure GatherFault where
  stage  : Nat
  window : Bool
  off    : Int

/-- What computing the stages of one beat gives: the results of every stage, the sticky marks of its QSCALE stages, the first
fault of its GATHERs, and the state after their reads. -/
structure BeatOut where
  outs  : List (List Nat)
  ovf   : List Bool
  nan   : List Bool
  fault : Option GatherFault
  s     : State

/-- Join two lists of marks. -/
def orMarks (a b : List Bool) : List Bool := if a.isEmpty then b else if b.isEmpty then a else List.zipWith (· || ·) a b

/-- GATHER of stage `i` (R159): `live` are the elements the mask stream or an earlier predicate stage leaves unmasked. A
masked element reads nothing and counts as 0. The first fault ends the reads. -/
def State.gather (s : State) (c : CoreId) (i : Nat) (base : Int) (w : Nat) :
    List (Int × Bool) → List Nat × Option GatherFault × State
  | [] => ([], none, s)
  | (a, live) :: t =>
    let off := base + a * w
    if !live then
      let (vs, f, s1) := s.gather c i base w t
      (0 :: vs, f, s1)
    else if off < 0 ∨ cspSize < off + w then ([], some ⟨i, true, off⟩, s)
    else
      let r := s.cspLoad c .ownCore off.toNat w
      if !r.bad.isEmpty then ([], some ⟨i, false, off⟩, r.s)
      else
        let (vs, f, s1) := r.s.gather c i base w t
        (leNat r.bytes :: vs, f, s1)

/-- One more stage of a beat. -/
def Chain.step (h : Chain) (c : CoreId) (x : BeatIn) (mask : List Bool) (y : BeatOut) (i : Nat) : BeatOut :=
  let w := h.stage i
  match vopOf (sgOp w) with
  | none => { y with outs := y.outs ++ [[]] }
  | some o =>
    let f := sgFmt w
    let ops := (stageSels o w).map fun q => h.opnd x y.outs w o.cls (h.sel i q)
    let a := ops.headD ⟨0, false, []⟩
    match o.cls with
    | .arith => { y with outs := y.outs ++ [arithStage o w ops] }
    | .keep => { y with outs := y.outs ++ [keepStage o h.epb w x ops] }
    | .resize => { y with outs := y.outs ++ [resizeStage o w a] }
    | .cross =>
      let r := h.crossStage o w x ops
      { y with outs := y.outs ++ [r.bits], ovf := orMarks y.ovf r.ovf, nan := orMarks y.nan r.nan }
    | .gather =>
      let live := if h.maskk = 1 then mask
        else if h.maskk = 2 ∧ h.mstg < i then (y.outs.getD h.mstg []).map (nonzeroEl (h.fmtOf h.mstg))
        else List.replicate h.epb true
      if y.fault.isSome then y
      else
        let (vs, bad, s1) := y.s.gather c i (h.const (sgAux w % 16)) (fmtBits f / 8) (List.zip a.ints live)
        { y with outs := y.outs ++ [vs], fault := bad, s := s1 }

/-- Every stage of a beat. -/
def State.runBeat (s : State) (c : CoreId) (h : Chain) (x : BeatIn) (mask : List Bool) : BeatOut :=
  (List.range h.stages).foldl (h.step c x mask) ⟨[], [], [], none, s⟩

/-- The elements that are unmasked (R169). -/
def Chain.live (h : Chain) (mask : List Bool) (outs : List (List Nat)) : List Bool :=
  match h.maskk with
  | 1 => mask
  | 2 => (outs.getD h.mstg []).map (nonzeroEl (h.fmtOf h.mstg))
  | _ => List.replicate h.epb true

/-! ### Reductions (R59, R61, R163 to R168) -/

/-- A partial result of the reduction tree; `none` where every position was masked. -/
inductive Part where
  | none
  | flt (v : Val)
  | int (i : Int)
  | top (l : List (Val × Nat × Nat))
  | nat (n : Nat)
  deriving DecidableEq, Repr, Inhabited

/-- Whether an entry of TOPK stands before another (R61). -/
def topLess (a b : Val × Nat × Nat) : Bool :=
  topBefore a.1 b.1 || (!topBefore b.1 a.1 && decide (a.2.1 < b.2.1))

/-- Insert an entry in the order of R61. -/
def topInsert (x : Val × Nat × Nat) : List (Val × Nat × Nat) → List (Val × Nat × Nat)
  | [] => [x]
  | y :: t => if topLess x y then x :: y :: t else y :: topInsert x t

/-- Combine two partial results, the first standing lower or earlier (R59, R163). -/
def combine (red k f : Nat) (a b : Part) : Part :=
  match a, b with
  | .none, y => y
  | x, .none => x
  | .flt x, .flt y => .flt (if red = 0 then r32 (x.add y) else if red = 1 then x.maxv y else x.minv y)
  | .int x, .int y =>
    let w := if f = 9 then 64 else 32
    .int (if red = 0 then sext w (intBits w (x + y)) else if red = 1 then max x y else min x y)
  | .top x, .top y => .top ((y.foldl (fun l e => topInsert e l) x).take k)
  | .nat x, .nat y => .nat (if red = 5 then x + y else x ||| y)
  | x, _ => x

/-- The partial result of one element at position `pos`. -/
def partOf (red f pos bits : Nat) : Part :=
  if red ≤ 2 then (if fmtInt f then .int (sext (fmtBits f) bits) else .flt (decodeEl f bits))
  else if red ≤ 4 then .top [(decodeEl f bits, pos, bits)]
  else if red = 5 then .nat (bit (nonzeroEl f bits))
  else .nat bits

/-- One level of the tree: adjacent positions combine. -/
def treeLevel (g : Part → Part → Part) : List Part → List Part
  | a :: b :: t => g a b :: treeLevel g t
  | l => l

/-- `n` levels of the tree. -/
def treeLevels (g : Part → Part → Part) : Nat → List Part → List Part
  | 0, l => l
  | n + 1, l => treeLevels g n (treeLevel g l)

/-- The partial results of one beat: one for each part of 2^levels positions. -/
def Chain.reduceBeat (h : Chain) (levels pos0 posMod : Nat) (live : List Bool) (bits : List Nat) : List Part :=
  let k := if h.red = 3 then 1 else h.topk
  treeLevels (combine h.red k h.outf) levels
    ((List.zip bits live).mapIdx fun e p => if p.2 then partOf h.red h.outf ((pos0 + e) % posMod) p.1 else .none)

/-- An entry of ARGMAX or TOPK as 64 bits (R61, R164). -/
def topWord (f : Nat) (e : Val × Nat × Nat) : Nat :=
  let v := if fmtInt f then intBits 32 (sext (fmtBits f) e.2.2) else f32Bits e.1
  v + 2 ^ 32 * (e.2.1 % 2 ^ 32)

/-- A missing entry (R163). -/
def topMissing (f : Nat) : Nat := (if fmtInt f then 0 else 0x7FC00000) + 2 ^ 32 * 0xFFFFFFFF

/-- What a reduction gives when every position is masked (R163). -/
def emptyPart (red f : Nat) : Part :=
  if red = 0 then (if fmtInt f then .int 0 else .flt .zero)
  else if red ≤ 2 then
    let w := if f = 9 then 64 else 32
    if fmtInt f then .int (if red = 1 then -(2 ^ (w - 1) : Int) else 2 ^ (w - 1) - 1)
    else .flt (.inf (red == 1))
  else if red ≤ 4 then .top []
  else .nat 0

/-- The part itself, or the value of an all-masked reduction. -/
def Part.orEmpty (p : Part) (red f : Nat) : Part := if p = .none then emptyPart red f else p

/-- The words a VRED writes (R164). -/
def redWords (red k f : Nat) (p : Part) : List Dword :=
  match p.orEmpty red f with
  | .flt v => [BitVec.ofNat 64 (f32Bits v)]
  | .int i => [BitVec.ofInt 64 i]
  | .nat n => [BitVec.ofNat 64 n]
  | .top l => (List.range k).map fun i => BitVec.ofNat 64 ((l[i]?.map (topWord f)).getD (topMissing f))
  | .none => [0]

/-- The value part of a VRED result, for P (R165): ±0 is zero, NaN is not. -/
def redNonzero (red f : Nat) (p : Part) : Bool :=
  match p.orEmpty red f with
  | .flt v => !v.isZero
  | .int i => i != 0
  | .nat n => n != 0
  | .top l => match l with
    | [] => !fmtInt f
    | e :: _ => if fmtInt f then intBits 32 (sext (fmtBits f) e.2.2) != 0 else !e.1.isZero
  | .none => false

/-- The 32-bit value a VSTAT writes (R168); a free value that the result determines where it does not fit 32 bits, since
R168 states none (log entry 42). -/
def rssWord (red f : Nat) (p : Part) : Word32 :=
  match p.orEmpty red f with
  | .flt v => BitVec.ofNat 32 (f32Bits v)
  | .int i => if sext 32 (intBits 32 i) = i then BitVec.ofInt 32 i else Config.statWide i
  | .nat n => if n < 2 ^ 32 then BitVec.ofNat 32 n else Config.statWide n
  | .top l => (match l with
    | [] => 0xFFFFFFFF
    | e :: _ => BitVec.ofNat 32 e.2.1)
  | .none => 0

/-- An RSS value as a partial result, for ACC (R154, R168). -/
def rssPart (red f bits : Nat) : Part :=
  if 5 ≤ red then .nat bits else if fmtInt f then .int (sext 32 bits) else .flt (f32 bits)

end Sys2Proof.Machine
end

