-- ==== Sys2Proof/Machine/Vxe.lean ====
section
/-! DEFINITION. The vector engine (R141 to R182) with its spill rings (R194 to R199). A VX instruction runs beat by beat: a beat
is read as soon as its bytes are there and the pipeline has room, and its effects are made when it leaves the last stage.
FTQ_TILE_SELECT, an arriving message and returning credits let it go on; VX_COMPLETE writes its results. -/

namespace Sys2Proof.Machine

/-! ### Fields of a VX slot (R177) -/

/-- Chain n. -/
def vxChain (b : BitVec 40) : Nat := fld b 32 4
/-- RSSB. -/
def vxRssb (b : BitVec 40) : Nat := fld b 4 8
/-- The A register at slot bits lo to lo + 3. -/
def QEntry.va (e : QEntry) (lo : Nat) : Nat := e.a (fld e.bits lo 4)
/-- N. -/
def QEntry.beats (e : QEntry) : Nat := e.va 12 % 2 ^ 24
/-- The entry of a VX instruction in progress. -/
def VxAct.chain (a : VxAct) : Chain := ⟨a.entry.headD 0, (a.entry.drop 1).take 8, a.entry.drop 9⟩
/-- An entry as a list of words. -/
def Chain.words (h : Chain) : List Dword := h.hdr :: h.stg ++ h.kp

/-! ### Spill rings (R194 to R198) -/

/-- Whether a ring is enabled: EN as it reads (R198), which a write of SR_CFG leaves in bit 20 beside the written EN. -/
def State.ringOn (s : State) (c : CoreId) (n : Nat) : Bool := s.rf (pgCsp c) (0x300 + 0x20 * n) 20 1 == 1
/-- First CSP offset of a ring. -/
def State.ringBase (s : State) (c : CoreId) (n : Nat) : Nat := 16 * s.rf (pgCsp c) (0x300 + 0x20 * n) 0 15
/-- SIZE of a ring. -/
def State.ringSize (s : State) (c : CoreId) (n : Nat) : Nat := 2 ^ s.rf (pgCsp c) (0x300 + 0x20 * n) 15 4
/-- CWP. -/
def State.ringWp (s : State) (c : CoreId) (n : Nat) : Nat := s.rf (pgCsp c) (0x308 + 0x20 * n) 0 32
/-- CRP. -/
def State.ringRp (s : State) (c : CoreId) (n : Nat) : Nat := s.rf (pgCsp c) (0x310 + 0x20 * n) 0 32
/-- CWP − CRP. -/
def State.ringFill (s : State) (c : CoreId) (n : Nat) : Nat := (2 ^ 32 + s.ringWp c n - s.ringRp c n) % 2 ^ 32

/-- The enabled ring an offset lies in. -/
def State.ringAt (s : State) (c : CoreId) (off : Nat) : Option Nat :=
  [0, 1].find? fun n => s.ringOn c n && decide (s.ringBase c n ≤ off) && decide (off < s.ringBase c n + s.ringSize c n)

/-- SPILL_OVF (R195, R199). -/
def State.spillOvf (s : State) (c : CoreId) (e : QEntry) (n : Nat) (under : Bool) (pos bytes : Nat) : State :=
  (s.err (pgCsp c) 8 (BitVec.ofNat 64 (e.cw.toNat + 2 ^ 12 * n + 2 ^ 13 * bit under))
    (BitVec.ofNat 64 (pos + 2 ^ 32 * (bytes % 2 ^ 32)))).cause c 0x0C

/-- Check an input ring stream of B bytes and advance CRP; none aborts as an underrun. -/
def State.ringTake (s : State) (c : CoreId) (n bytes : Nat) : Option State :=
  if s.ringFill c n < bytes then none else some (s.bumpRf (pgCsp c) (0x310 + 0x20 * n) 0 32 bytes)

/-- Check an output ring stream of B bytes and advance CWP; none aborts as an overflow. -/
def State.ringPut (s : State) (c : CoreId) (n bytes : Nat) : Option State :=
  if s.ringSize c n < s.ringFill c n + bytes then none
  else
    let s1 := s.bumpRf (pgCsp c) (0x308 + 0x20 * n) 0 32 bytes
    some (s1.setRf (pgCsp c) (0x318 + 0x20 * n) 0 32 (max (s1.rf (pgCsp c) (0x318 + 0x20 * n) 0 32) (s1.ringFill c n)))

/-- Offset of ring position q. -/
def State.ringOff (s : State) (c : CoreId) (n q : Nat) : Nat := s.ringBase c n + q % s.ringSize c n

/-- Read bytes of the own CSP from an offset, or from a ring position. -/
def State.streamRead (s : State) (c : CoreId) (off n : Nat) (ring : Option (Nat × Nat)) : Loaded :=
  match ring with
  | none => s.cspLoad c .ownCore off n
  | some (k, q) =>
    let room := s.ringSize c k - q % s.ringSize c k
    let r := s.cspLoad c .ownCore (s.ringOff c k q) (min n room)
    if n ≤ room then r
    else
      let t := r.s.cspLoad c .ownCore (s.ringBase c k) (n - room)
      ⟨r.bytes ++ t.bytes, r.bad ++ t.bad, t.s⟩

/-! ### Streams of an instruction (R143) -/

/-- Where a CSP stream of `n` bytes lies: none when R143 refuses its address, else its offset and the ring it selects. -/
def State.vxCsp (s : State) (c : CoreId) (addr n : Nat) : Option (Nat × Option Nat) :=
  match s.ownCsp c addr with
  | none => none
  | some off =>
    if addr % 16 ≠ 0 then none
    else match s.ringAt c off with
      | some k => some (off, some k)
      | none => if off + n ≤ cspSize then some (off, none) else none

/-- Whether a mask stream lies in the own CSP (R143). -/
def State.vxMaskOk (s : State) (c : CoreId) (addr n : Nat) : Bool :=
  match s.ownCsp c addr with
  | none => false
  | some off => decide (off + n ≤ cspSize)

/-- A stream of an instruction: its kind, format and A register value. -/
structure VxStream where
  kind : Nat
  f    : Nat
  a    : Nat

/-- IN0. -/
def Chain.in0 (h : Chain) (e : QEntry) : VxStream := ⟨h.in0k, h.in0f, e.va 28⟩
/-- IN1. -/
def Chain.in1 (h : Chain) (e : QEntry) : VxStream := ⟨h.in1k, h.in1f, e.va 24⟩
/-- OUT. -/
def Chain.out (h : Chain) (e : QEntry) : VxStream := ⟨h.outk, h.outf, e.va 20⟩
/-- Bytes of a stream. -/
def Chain.bytesOf (h : Chain) (e : QEntry) (x : VxStream) : Nat := e.beats * h.beat x.f

/-! ### Examining the queue head (R540) -/

/-- What examining the head of the VX queue gives: nothing to do, a hold with its COND of R180, an invalid entry under R158
that holds, an abort, or that it may issue. -/
inductive VxExam where
  | nothing
  | hold (cond addr : Nat)
  | cfg (stage : Nat)
  | illegal (stage : Nat)
  | shapeBad (cond addr : Nat)
  | window (addr : Nat)
  | poison (addr : Nat)
  | go
  deriving DecidableEq, Repr

/-- TRF byte address of a tile as R180 gives it: line × 16. -/
def tileAddr (k : Trf) (t : Nat) : Nat := 16 * (k.cfg t).base.toNat

/-- Rows of a tile that a stream of `n` bytes touches. -/
def tileRowsOf (k : Trf) (t n : Nat) : Nat := (n + (k.cfg t).rb - 1) / max 1 (k.cfg t).rb

/-- Whether a TRF stream breaks the geometry of R144. -/
def Chain.tileBad (h : Chain) (k : Trf) (e : QEntry) (x : VxStream) : Bool :=
  x.kind == 2 && ((k.cfg (x.a % 16)).f != x.f || decide ((k.cfg (x.a % 16)).size < h.bytesOf e x))

/-- Whether a tile's rows that a stream reads are poisoned. -/
def Chain.tilePoisoned (h : Chain) (k : Trf) (e : QEntry) (x : VxStream) : Bool :=
  x.kind == 2 && (vget 0 k.poison (x.a % 16) &&& rowsMask (tileRowsOf k (x.a % 16) (h.bytesOf e x))) != 0

/-- Whether an instruction in progress is a VSTAT. -/
def VxAct.isVstat (a : VxAct) : Bool := op40 a.e.bits == 3

/-- A predecessor hazard of R162, or an STA of an earlier word that is not made yet (R213). -/
def Core.vxHazard (k : Core) (h : Chain) (e : QEntry) : Bool :=
  let cspIn := h.in0k == 1 || h.in1k == 1 || h.maskk == 1 || h.gathers
  let rss := h.readsRss || (op40 e.bits == 3 && e.bits.getLsbD 2)
  (k.vxe.acts.any fun a => (a.isVstat && rss) || (a.chain.outk == 1 && cspIn))
    || (h.outk == 1 && k.seq.stas.any fun t => decide (t.num < e.num))

/-- How long ago a slot's sequence number was given. -/
def Mxe.seqAge (m : Mxe) (x : FtqSlot) : Nat := (m.nextPush - x.seq).toNat

/-- The valid slot of lowest sequence number among those that satisfy `p`. -/
def Mxe.oldest (m : Mxe) (p : FtqSlot → Bool) : Option (Fin 4) :=
  (List.finRange 4).foldl (fun best i =>
    let x := m.ftq[i]
    if x.valid && p x then
      match best with
      | none => some i
      | some j => if m.seqAge m.ftq[j] < m.seqAge x then some i else some j
    else best) none

/-- NEXT_POP (R149). -/
def Mxe.nextPop (m : Mxe) : BitVec 16 :=
  match m.oldest fun _ => true with
  | some i => m.ftq[i].seq
  | none => m.nextPush

/-- The slot an FTQ stream selects (R148). -/
def Mxe.select (m : Mxe) (a : Nat) : Option (Fin 4) :=
  if a / 64 % 2 = 0 then m.oldest fun x => x.seq == m.nextPop else m.oldest fun x => x.tid.toNat == a % 64

/-- Whether a slot's shape breaks R150 for an instruction whose rows matter. -/
def Chain.rowsBad (h : Chain) (e : QEntry) (x : FtqSlot) : Bool :=
  (h.readsRss || op40 e.bits == 3) && h.rowlog != Nat.log2 (shapeCols x.shape.toNat)

/-- The slot whose shape breaks R150 at issue: the one the instruction would select now. -/
def Chain.rowsBadAt (h : Chain) (m : Mxe) (e : QEntry) : Option (Fin 4) :=
  if h.in0k = 3 ∧ e.beats ≠ 0 then (m.select (h.in0 e).a).filter fun i => h.rowsBad e m.ftq[i] else none

/-- Examine a VRUN, VRED or VSTAT at the queue head. -/
def State.vxExamRun (s : State) (c : CoreId) (e : QEntry) : VxExam :=
  let k := s.core c
  let h := s.chain c (vxChain e.bits)
  let ins := [h.in0 e, h.in1 e]
  let all := ins ++ [h.out e]
  let n := e.beats
  match ins.find? fun x => x.kind == 2 && !(k.trf.cfg (x.a % 16)).valid with
  | some x => .hold 1 (tileAddr k.trf (x.a % 16))
  | none =>
    if !h.ok (op40 e.bits) (fld e.bits 0 3) (e.bits.getLsbD 2) then
      let i := h.badStage (op40 e.bits) (fld e.bits 0 3) (e.bits.getLsbD 2)
      if s.rf (pgVxe c) 0x1F8 (vxChain e.bits) 1 = 1 then .cfg i else .illegal i
    else if h.rowlog ≠ 0 ∧ ((n * h.epb) % 2 ^ h.rowlog ≠ 0 ∨ 256 < n * h.epb / 2 ^ h.rowlog) then .shapeBad 12 0
    else if h.outk = 4 ∧ (h.outf ≠ 0 ∨ 128 < n * h.epb) then .shapeBad 12 0
    else match h.rowsBadAt k.mxe e with
    | some i => .shapeBad 12 i.val
    | none => match ins.find? (h.tileBad k.trf e) with
    | some x => .shapeBad 1 (tileAddr k.trf (x.a % 16))
    | none =>
      if h.tileBad k.trf e (h.out e) then .shapeBad 2 (tileAddr k.trf ((h.out e).a % 16))
      else match all.find? fun x => x.kind == 1 && (s.vxCsp c (x.a % 2 ^ 48) (h.bytesOf e x)).isNone with
      | some x => .window x.a
      | none =>
        if h.maskk = 1 ∧ !s.vxMaskOk c (e.va 16) (n * h.epb / 8) then .window (e.va 16)
        else match ins.find? (h.tilePoisoned k.trf e) with
        | some x => .poison (tileAddr k.trf (x.a % 16))
        | none =>
          let t := (h.out e).a % 16
          if h.outk = 2 ∧ (k.mxInUse.contains t || k.filling t) then .hold 2 (tileAddr k.trf t)
          else if h.outk = 4 ∧ (vget ⟨false, [], []⟩ k.mxe.sb ((h.out e).a % 2)).valid then .hold 3 0
          else if k.vxHazard h e then .hold 9 0
          else .go

/-- Examine the head of the VX queue: it is examined once its predecessor has read its last beat (R162). -/
def State.vxExam (s : State) (c : CoreId) : VxExam :=
  match (s.core c).seq.vxq with
  | [] => .nothing
  | e :: _ =>
    if (s.core c).vxe.acts.any VxAct.reading then .nothing
    else if op40 e.bits = 4 then (if (s.core c).vxe.acts.isEmpty then .go else .nothing)
    else s.vxExamRun c e

/-! ### Errors of the VXE page (R175, R180) -/

/-- ERR_INFO0 of the VXE page. -/
def vxInfo (e : QEntry) (stage cond : Nat) : Nat :=
  e.cw.toNat + 2 ^ 12 * op40 e.bits + 2 ^ 16 * vxChain e.bits + 2 ^ 20 * stage + 2 ^ 24 * cond

/-- Raise an error of the VXE page and its abort cause. -/
def State.vxAbort (s : State) (c : CoreId) (e : QEntry) (b cause stage cond info1 : Nat) : State :=
  (s.err (pgVxe c) b (BitVec.ofNat 64 (vxInfo e stage cond)) (BitVec.ofNat 64 info1)).cause c (BitVec.ofNat 8 cause)

/-- The abort an examination calls for. -/
def State.vxHeadErr (s : State) (c : CoreId) (e : QEntry) (x : VxExam) : State :=
  match x with
  | .illegal stage => s.vxAbort c e 12 0x0D stage 11 0
  | .shapeBad cond a => s.vxAbort c e 8 0x01 0 cond (a % 2 ^ 48)
  | .window a => s.vxAbort c e 11 0x09 0 8 (a % 2 ^ 48)
  | .poison a => s.vxAbort c e 9 0x02 0 1 a
  | .nothing => s
  | .hold _ _ => s
  | .cfg _ => s
  | .go => s

/-- Issue the head of the VX queue when it holds operation `op`; `f` gives what issuing does once the entry has left the
queue. -/
def State.vxIssue (s : State) (c : CoreId) (op : Nat) (f : State → QEntry → State) : State :=
  match (s.core c).seq.vxq with
  | [] => s
  | e :: rest =>
    if op40 e.bits ≠ op ∨ !s.mayExam c then s
    else match s.vxExam c with
      | .go => if s.mayStart c 2 then f (s.updSeq c fun q => { q with vxq := rest }) e else s
      | x => s.vxHeadErr c e x

/-! ### Ring checks at issue (R195) -/

/-- The ring checks of an instruction, inputs before its output: the ring positions its streams start from, or the failing
check's ring, direction, position and bytes with the state it leaves. -/
def State.vxRings (s : State) (c : CoreId) :
    List (Bool × Nat × Nat) → Option (Nat × Bool × Nat × Nat) × List (Nat × Nat) × State
  | [] => (none, [], s)
  | (out, k, b) :: t =>
    let pos := if out then s.ringWp c k else s.ringRp c k
    match if out then s.ringPut c k b else s.ringTake c k b with
    | none => (some (k, !out, pos, b), [], s)
    | some s1 =>
      let (f, ps, s2) := s1.vxRings c t
      (f, (k, pos) :: ps, s2)

/-! ### Reading a beat (R141, R143, R145, R148) -/

/-- Change the instruction that runs beats. -/
def State.updReading (s : State) (c : CoreId) (f : VxAct → VxAct) : State :=
  s.updVxe c fun v => { v with acts := modFirst VxAct.reading f v.acts }

/-- What a beat being read still lacks: bytes of IN0, of IN1, or of the mask, which follow one another. -/
inductive VxLack where
  | in0 | in1 | mask
  deriving DecidableEq, Repr

/-- What the beat being read still lacks; none when it is read. -/
def VxAct.lacks (a : VxAct) : Option VxLack :=
  let h := a.chain
  let k := a.rd + 1 - a.left
  if h.in0k ≠ 0 ∧ a.in0.length < k * h.beat h.in0f then some .in0
  else if h.in1k ≠ 0 ∧ a.in1.length < k * h.beat h.in1f then some .in1
  else if h.maskk = 1 ∧ a.mask.length < k * (h.epb / 8) then some .mask
  else none

/-- Whether the next beat may be read: the pipeline reaches L / p beats beyond the one that leaves it (R142, R161). -/
def VxAct.mayRead (a : VxAct) : Bool :=
  decide (a.rd < a.n) && decide (a.rd ≤ a.left + a.chain.latency / a.chain.period)

/-- Words of a slot that its stream has read. -/
def VxAct.slotPos (a : VxAct) : Nat := a.rd * a.chain.epb - (a.tiles.getLast?.map (·.1)).getD 0

/-- What reading bytes of a beat gives: nothing is there, bytes, or an abort. -/
inductive VxFetch where
  | stall
  | got (bs : List Byte) (s : State)
  | failed (s : State)
  deriving Repr

/-- ECC_UE of a VX instruction's CSP read at an offset (R175, R180). -/
def State.vxUe (s : State) (c : CoreId) (e : QEntry) (stage off : Nat) : State :=
  s.vxAbort c e 10 0x08 stage 9 (s.windowBase + cspOff c off)

/-- ECC_UE of a VX instruction's TRF read at a line: the TRF page captures it too (R137). -/
def State.vxTrfUe (s : State) (c : CoreId) (e : QEntry) (tile line : Nat) : State :=
  let x := (s.core c).trf.tileAt [tile] line
  (s.trfUeErr c e.cw.toNat 0 x.1 x.2 line).vxAbort c e 10 0x08 0 9 (16 * line)

/-- A parity error in an FTQ word: the VXE page and the MXE page capture it (R104, R175, R456, log entry 114). -/
def State.ftqParity (s : State) (c : CoreId) (e : QEntry) (i : Fin 4) : State :=
  let m := (s.core c).mxe
  (s.err (pgMxe c) 11 (BitVec.ofNat 64 (e.cw.toNat + 2 ^ 20 * m.shape.toNat))
    (BitVec.ofNat 64 m.ftq[i].pass.toNat)).parityError c (pgVxe c) 13 (vxInfo e 0 10) i.val

/-- The bytes of `n` words of a slot from word `at_`. -/
def FtqSlot.bytes (x : FtqSlot) (at_ n : Nat) : List Byte := (tgets 0 x.data at_ n).flatMap fun v => natLe 4 v.toNat

/-- Read a beat's words of the selected slot; a tile read to its last byte is popped (R148). -/
def State.vxReadFtq (s : State) (c : CoreId) (a : VxAct) : VxFetch :=
  match a.slot with
  | none => .stall
  | some i =>
    let x := (s.core c).mxe.ftq[i]
    let p := a.slotPos
    let n := a.chain.epb
    if x.bad.any fun w => decide (p ≤ w) && decide (w < p + n) then .failed (s.ftqParity c a.e i)
    else if p + n < 4096 then .got (x.bytes p n) s
    else
      let s1 := (s.updMxe c fun m => { m with ftq := m.ftq.set i FtqSlot.empty }).setReg (pgVxe c) 0x118
        (BitVec.ofNat 64 (x.seq.toNat + 2 ^ 16 * x.tid.toNat))
      .got (x.bytes p n) ((s1.pm (pgVxe c) 0x0A 1).updReading c fun a => { a with slot := none })

/-- Read up to `want` bytes of the oldest message of a VXE port; a message read to its end is released (R145). -/
def State.vxReadLand (s : State) (c : CoreId) (a : VxAct) (p want : Nat) : VxFetch :=
  let q := (s.core c).chn.port p
  match q.front with
  | none => .stall
  | some r =>
    let n := min want (64 * r.units - r.used)
    let l := s.cspLoad c .ownCore (q.base p + 64 * r.pos + r.used) n
    match l.bad with
    | off :: _ => .failed (l.s.vxUe c a.e 0 off)
    | [] =>
      if r.used + n = 64 * r.units then
        .got l.bytes ((l.s.releaseIf c p fun x => x == r).releasePads c p)
      else
        .got l.bytes
          (l.s.updPortOf c p fun q => { q with log := q.log.map fun x => if x = r then { x with used := r.used + n } else x })

/-- Read bytes of a stream for the beat being read: `have_` bytes of the stream are read since beat `left`. -/
def State.vxReadStream (s : State) (c : CoreId) (a : VxAct) (x : VxStream) (ring : Option (Nat × Nat)) (have_ : Nat) :
    VxFetch :=
  let h := a.chain
  let w := h.beat x.f
  let pos := a.left * w + have_
  match x.kind with
  | 1 =>
    let r := s.streamRead c (x.a % 2 ^ 48 - (s.windowBase + cspOff c 0) + pos) w (ring.map fun k => (k.1, k.2 + pos))
    (match r.bad with
     | off :: _ => .failed (r.s.vxUe c a.e 0 off)
     | [] => .got r.bytes r.s)
  | 2 =>
    let r := s.trfLoad c c.val (((s.core c).trf.cfg (x.a % 16)).at_ + pos) w
    (match r.bad with
     | line :: _ => .failed (r.s.vxTrfUe c a.e (x.a % 16) line)
     | [] => .got r.bytes r.s)
  | 3 => s.vxReadFtq c a
  | 4 => s.vxReadLand c a (x.a % 2) ((a.rd + 1 - a.left) * w - have_)
  | _ => .stall

/-- Read what the beat being read lacks. -/
def State.vxFetch (s : State) (c : CoreId) (a : VxAct) (l : VxLack) : VxFetch :=
  let h := a.chain
  match l with
  | .in0 => s.vxReadStream c a (h.in0 a.e) a.pos0 a.in0.length
  | .in1 => s.vxReadStream c a (h.in1 a.e) a.pos1 a.in1.length
  | .mask =>
    let r := s.cspLoad c .ownCore (a.e.va 16 - (s.windowBase + cspOff c 0) + a.rd * (h.epb / 8)) (h.epb / 8)
    match r.bad with
    | off :: _ => .failed (r.s.vxUe c a.e 0 off)
    | [] => .got r.bytes r.s

/-- Bytes join what the beat lacked. -/
def VxAct.put (a : VxAct) (l : VxLack) (bs : List Byte) : VxAct :=
  match l with
  | .in0 => { a with in0 := a.in0 ++ bs }
  | .in1 => { a with in1 := a.in1 ++ bs }
  | .mask => { a with mask := a.mask ++ bs }

/-! ### Computing a beat (R150, R153, R159, R167 to R171) -/

/-- The RSS row of stream element p (R150, R167). -/
def VxAct.rowOf (a : VxAct) (h : Chain) (p : Nat) : Nat :=
  let b := vxRssb a.e.bits
  if h.in0k = 3 then
    let (start, shape) := (a.tiles.reverse.find? fun t => decide (t.1 ≤ p)).getD (0, 0)
    (b + (p - start) / shapeCols shape.toNat) % 256
  else (b + p / 2 ^ h.rowlog) % 256

/-- The inputs of the beat that leaves the last stage next. -/
def State.beatIn (s : State) (c : CoreId) (h : Chain) (a : VxAct) : BeatIn :=
  let v := (s.core c).vxe
  { in0 := unpackElems h.in0f (a.in0.take (h.beat h.in0f))
    in1 := unpackElems h.in1f (a.in1.take (h.beat h.in1f))
    rss := fun i => (List.range h.epb).map fun e => (tget 0 v.rss (4 * a.rowOf h (a.left * h.epb + e) + i)).toNat
    perm := fun j => (tgets 0 v.pt (256 * j) 256).map BitVec.toNat
    seed := s.seed c
    beat := a.left }

/-- The mask of that beat under MASKK 1 (R169): its bytes begin at the byte of its first element. -/
def VxAct.maskOf (a : VxAct) (h : Chain) : List Bool :=
  (List.range h.epb).map fun e => (a.mask.getD (e / 8) 0).getLsbD (e % 8)

/-- RSS values that the beat reads by its stages, by row × 4 + value. -/
def VxAct.rssReads (a : VxAct) (h : Chain) : List Nat :=
  let vs := (List.range h.stages).flatMap fun i => match vopOf (sgOp (h.stage i)) with
    | none => []
    | some o => (stageSels o (h.stage i)).filterMap fun x => if x / 16 = 2 then some (x % 16) else none
  if vs.isEmpty then []
  else
    let rows := ((List.range (h.epb / 16)).map fun i => a.rowOf h (a.left * h.epb + 16 * i)).dedup
    vs.flatMap fun v => rows.map fun r => 4 * r + v

/-- Whether an unmasked element carries a mark. -/
def anyLive (marks live : List Bool) : Bool := (List.zip marks live).any fun p => p.1 && p.2

/-- The sticky conditions after a beat (R171). -/
def Vxe.sticky (v : Vxe) (h : Chain) (ovf nan : Bool) (els : List (Nat × Bool)) : Vxe :=
  let live := (els.filter (·.2)).map fun x => decodeEl h.outf x.1
  let f := !fmtInt h.outf
  { v with
    ovf := v.ovf || ovf
    anyNan := v.anyNan || nan || (h.stk && f && live.any (· == .nan))
    anyInf := v.anyInf || (h.stk && f && live.any fun x => x == .inf false || x == .inf true)
    allZero := v.allZero && !(h.stk && live.any fun x => !x.isZero) }

/-! ### Outputs of a beat (R143, R146, R147, R170) -/

/-- Cells of an output stream: unmasked elements only; a byte shared by two 4-bit elements keeps a masked one's half. -/
def outCells (f : Nat) (els : List (Nat × Bool)) (at_ : Nat → Nat) (old : Nat → Byte) : List (Nat × Byte) :=
  if f = 6 then
    (List.range (els.length / 2)).filterMap fun i =>
      let x := els.getD (2 * i) (0, false)
      let y := els.getD (2 * i + 1) (0, false)
      if !x.2 && !y.2 then none
      else
        let o := (old (at_ i)).toNat
        let lo := if x.2 then x.1 % 16 else o % 16
        let hi := if y.2 then y.1 % 16 else o / 16
        some (at_ i, BitVec.ofNat 8 (lo + 16 * hi))
  else
    let w := fmtBits f / 8
    (els.mapIdx fun i x => if x.2 then (natLe w x.1).mapIdx fun j b => (at_ (i * w + j), b) else []).flatten

/-- Sort cells by address, later ones winning. -/
def sortCells (cs : List (Nat × Byte)) : List (Nat × Byte) := cs.foldl (fun t x => tins x.1 x.2 (tdel t x.1)) []

/-- Write a beat's CSP output; whether a word refused it (R170, R194, R453). -/
def State.vxOutCsp (s : State) (c : CoreId) (h : Chain) (a : VxAct) (els : List (Nat × Bool)) : Stored :=
  let pos := a.left * h.beat h.outf
  let off := (h.out a.e).a % 2 ^ 48 - (s.windowBase + cspOff c 0) + pos
  let old := fun x => memByte s.mem (cspOff c x)
  match a.outPos with
  | none => s.cspStoreCells c .ownCore (outCells h.outf els (off + ·) old)
  | some (k, q) => s.cspStoreCells c .ownCore (sortCells (outCells h.outf els (fun i => s.ringOff c k (q + pos + i)) old))

/-- Write a beat's TRF output. -/
def State.vxOutTrf (s : State) (c : CoreId) (h : Chain) (a : VxAct) (els : List (Nat × Bool)) : Stored :=
  let k := (s.core c).trf
  let at_ := (k.cfg ((h.out a.e).a % 16)).at_ + a.left * h.beat h.outf
  s.trfStore c c.val (outCells h.outf els (at_ + ·) fun x => tget 0 k.data x)

/-- Write a beat's factors into the scale-buffer entry; a masked one stays 1.0 (R147, R170). -/
def State.vxOutSb (s : State) (c : CoreId) (h : Chain) (a : VxAct) (els : List (Nat × Bool)) : State :=
  s.updMxe c fun m =>
    { m with
      sb := vmod m.sb ((h.out a.e).a % 2) fun x =>
        { x with
          val := (List.zip (List.range els.length) els).foldl (fun t iv =>
            if iv.2.2 then tput 0 t (a.left * h.epb + iv.1) (BitVec.ofNat 32 iv.2.1) else t) x.val } }

/-- Bytes of a message of a CHANNEL output (R143). -/
def VxAct.msgLen (a : VxAct) (h : Chain) : Nat := 64 * ((h.out a.e).a / 64 % 64 + 1)

/-- Cut whole messages off the bytes of a CHANNEL output. -/
def cutMessages (len : Nat) (bs : List Byte) : List (List Byte) × List Byte :=
  let n := bs.length / max 1 len
  ((List.range n).map fun i => (bs.drop (i * len)).take len, bs.drop (n * len))

/-- A beat of a CHANNEL output: masked elements as zeros; the messages that are whole wait to be sent, and after the last
beat also the rest, filled with zeros to 64 B (R146, R170). -/
def VxAct.cut (a : VxAct) (h : Chain) (els : List (Nat × Bool)) : VxAct :=
  let bs := packElems h.outf (els.map fun x => if x.2 then x.1 else 0)
  let (ms, rest) := cutMessages (a.msgLen h) (a.part ++ bs)
  if a.left + 1 = a.n ∧ !rest.isEmpty then
    { a with sends := a.sends ++ ms ++ [rest ++ List.replicate ((64 - rest.length % 64) % 64) 0], part := [] }
  else { a with sends := a.sends ++ ms, part := rest }

/-- The beat has left the last stage: its input bytes go, and the reduction tree of a VRED or VSTAT keeps what it needs. -/
def VxAct.leave (a : VxAct) (h : Chain) (els : List Nat × List Bool) : VxAct :=
  { a with
    left := a.left + 1
    in0 := a.in0.drop (h.beat h.in0f)
    in1 := a.in1.drop (h.beat h.in1f)
    mask := a.mask.drop (h.epb / 8)
    outs := if op40 a.e.bits = 1 then [] else a.outs ++ [els] }

/-- The output of a beat; a word that refuses it aborts the task. -/
def State.vxOut (s : State) (c : CoreId) (h : Chain) (a : VxAct) (x : List Nat × List Bool) : State :=
  let els := List.zip x.1 x.2
  let done := fun (t : State) => t.updReading c fun a => a.leave h x
  match h.outk with
  | 1 =>
    let w := s.vxOutCsp c h a els
    if w.refused then w.s.vxAbort c a.e 10 0x08 0 9 ((h.out a.e).a % 2 ^ 48) else done w.s
  | 2 =>
    let w := s.vxOutTrf c h a els
    if w.refused then w.s.vxAbort c a.e 10 0x08 0 9 (tileAddr (s.core c).trf ((h.out a.e).a % 16)) else done w.s
  | 3 => s.updReading c fun a => (a.cut h els).leave h x
  | 4 => done (s.vxOutSb c h a els)
  | _ => done s

/-- The beat that leaves the last stage next: a GATHER's fault aborts the task, else its output, its sticky conditions and its
counts are made (R159, R171, R175, R182). -/
def State.vxBeat (s : State) (c : CoreId) (a : VxAct) : State :=
  let h := a.chain
  if (a.rssReads h).any (s.core c).vxe.rssBad.contains then s.parityError c (pgVxe c) 13 (vxInfo a.e 0 10) 0
  else
    let y := s.runBeat c h (s.beatIn c h a) (if h.maskk = 1 then a.maskOf h else [])
    match y.fault with
    | some f =>
      if f.window then
        y.s.vxAbort c a.e 11 0x09 f.stage 8 ((((s.windowBase + cspOff c 0 : Nat) : Int) + f.off) % 2 ^ 48).toNat
      else y.s.vxUe c a.e f.stage f.off.toNat
    | none =>
      let live := h.live (if h.maskk = 1 then a.maskOf h else []) y.outs
      let els := y.outs.getLastD []
      let s1 := (y.s.pm (pgVxe c) 0x0B (h.transStages * els.length)).pm (pgVxe c) 0x0C (live.filter (! ·)).length
      let s2 := s1.updVxe c fun v => v.sticky h (anyLive y.ovf live) (anyLive y.nan live) (List.zip els live)
      s2.vxOut c h a (els, live)

/-! ### Running (R145, R146, R161, R195) -/

/-- Whether the next beat's output waits for ring bytes that the instruction's own input has not read yet (R195). -/
def VxAct.ringStuck (a : VxAct) (size : Nat → Nat) : Bool :=
  let h := a.chain
  let blocks := fun (pos : Option (Nat × Nat)) (f : Nat) =>
    match a.outPos, pos with
    | some (k, q), some (j, r) =>
      let d := (2 ^ 32 + q - r) % 2 ^ 32
      k == j && decide (a.rd < a.n) && decide (size k + a.rd * h.beat f < d + (a.left + 1) * h.beat h.outf)
    | _, _ => false
  blocks a.pos0 h.in0f || blocks a.pos1 h.in1f

/-- Send the next message of a CHANNEL output (R146): none while it waits for credits, beside what trying has sent. -/
def State.vxSend (s : State) (c : CoreId) (a : VxAct) (m : List Byte) : Bool × State :=
  let ch := (a.chain.out a.e).a % 64
  let n := m.length / 64
  match s.trySend c ch n a.e.cw with
  | .unbound => (true, s.sendRefused c ch n a.e.vxWho false)
  | .tooBig => (true, s.sendRefused c ch n a.e.vxWho true)
  | .wait _ t => (false, t)
  | .ready t => (true, (t.emit c ch n false m a.e.cw none).updReading c fun a => { a with sends := a.sends.tail })

/-- One thing the instruction that runs can do: send a message, read bytes of a beat, finish reading a beat, or let a beat
leave the last stage; false where it stalls. -/
def State.vxStep (s : State) (c : CoreId) : Bool × State :=
  match (s.core c).vxe.acts.find? VxAct.reading with
  | none => (false, s)
  | some a =>
    match a.sends with
    | m :: _ => s.vxSend c a m
    | [] =>
      let compute : Bool × State :=
        if a.left < a.rd ∧ !a.ringStuck (s.ringSize c) then (true, s.vxBeat c a) else (false, s)
      if !a.mayRead then compute
      else match a.lacks with
      | none => (true, (s.updReading c fun a => { a with rd := a.rd + 1 }).pm (pgVxe c) 0x01 1)
      | some l =>
        match s.vxFetch c a l with
        | .stall => compute
        | .failed t => (true, t)
        | .got bs t => (true, t.updReading c fun a => a.put l bs)

/-- Let the chains in progress do what they can, in at most so many steps. -/
def State.vxSteps (s : State) (c : CoreId) : Nat → State
  | 0 => s
  | n + 1 =>
    if !(s.core c).seq.causes.isEmpty then s
    else match s.vxStep c with
      | (true, t) => t.vxSteps c n
      | (false, t) => t

/-- Let the chains in progress do all they can: a beat takes at most 64 messages to read, 32 to send and three more steps. -/
def State.vxPump (s : State) (c : CoreId) : State :=
  s.vxSteps c (128 * ((s.core c).vxe.acts.map fun a => a.n).sum + 128)

/-! ### Issue (R143, R144, R147, R161) -/

/-- What an output takes at issue: a tile loses VALID, a scale-buffer entry fills with 1.0 (R123, R147). -/
def State.vxClaim (s : State) (c : CoreId) (h : Chain) (e : QEntry) : State :=
  match h.outk with
  | 2 => s.updTrf c fun k => k.setValid ((h.out e).a % 16) false
  | 4 =>
    let ones := (List.range 128).map fun i => (i, (0x3F800000 : Word32))
    s.updMxe c fun m => { m with sb := vset m.sb ((h.out e).a % 2) ⟨false, ones, []⟩ }
  | _ => s

/-- Issue a VRUN, VRED or VSTAT. -/
def State.vxStart (s : State) (c : CoreId) (e : QEntry) : State :=
  let h := s.chain c (vxChain e.bits)
  let n := e.beats
  let rings := fun (x : VxStream) (out : Bool) =>
    if x.kind = 1 then
      match s.vxCsp c (x.a % 2 ^ 48) (h.bytesOf e x) with
      | some (_, some k) => [(out, k, h.bytesOf e x)]
      | _ => []
    else []
  let l0 := rings (h.in0 e) false
  let l1 := rings (h.in1 e) false
  let lo := rings (h.out e) true
  let (fail, ps, s1) := s.vxRings c (l0 ++ l1 ++ lo)
  match fail with
  | some (k, under, pos, b) => s1.spillOvf c e k under pos b
  | none =>
    let act : VxAct :=
      { e := e, entry := h.words, n := n, rd := 0, left := 0, in0 := [], in1 := [], mask := [], tiles := [], slot := none
        pos0 := if l0.isEmpty then none else ps.head?
        pos1 := if l1.isEmpty then none else ps[l0.length]?
        outPos := if lo.isEmpty then none else ps[l0.length + l1.length]?
        outs := [], part := [], sends := []
        uses := ([h.in0 e, h.in1 e].filter fun x => x.kind == 2).map fun x => x.a % 16 }
    let s2 := if n = 0 then s1 else s1.vxClaim c h e
    (s2.updVxe c fun v => { v with acts := v.acts ++ [act] }).vxPump c

/-- VRUN: issues its chain (R161). -/
def execVrun (c : CoreId) (s : State) : Host.Outcome State Fault Refusal := .next (s.vxIssue c 1 fun t e => t.vxStart c e)
/-- VRED: issues a chain whose last stage feeds the reduction tree (R164). -/
def execVred (c : CoreId) (s : State) : Host.Outcome State Fault Refusal := .next (s.vxIssue c 2 fun t e => t.vxStart c e)
/-- VSTAT: issues a chain that reduces each row into the RSS (R168). -/
def execVstat (c : CoreId) (s : State) : Host.Outcome State Fault Refusal := .next (s.vxIssue c 3 fun t e => t.vxStart c e)

/-! ### Finished tiles (R148 to R150, R189) -/

/-- The instruction that waits for a finished tile: its next beat may be read, lacks its bytes and has no slot. -/
def Core.wantsTile (k : Core) : Option VxAct :=
  (k.vxe.acts.find? VxAct.reading).filter fun a =>
    a.sends.isEmpty && a.mayRead && a.lacks == some .in0 && a.chain.in0k == 3 && a.slot.isNone

/-- FTQ_TILE_SELECT: the FTQ stream that needs a tile selects a slot and goes on, or the task aborts with TILE_SHAPE,
FTQ_ORDER or PARITY. -/
def execFtqTileSelect (c : CoreId) (s : State) : Host.Outcome State Fault Refusal :=
  let k := s.core c
  match k.wantsTile with
  | none => .next s
  | some a =>
    let h := a.chain
    if !s.alive c ∨ !k.seq.causes.isEmpty then .next s
    else match k.mxe.select (h.in0 a.e).a with
    | none => .next s
    | some i =>
      let x := k.mxe.ftq[i]
      let np := k.mxe.nextPop
      if h.in0f ≠ (if x.int then 8 else 0) then .next (s.vxAbort c a.e 8 0x01 0 12 i.val)
      else if (h.ord && x.seq != np) || (!h.ord && x.chain) then
        .next (s.vxAbort c a.e 15 0x12 0 7 (i.val + 2 ^ 16 * np.toNat + 2 ^ 48 * x.seq.toNat))
      else if h.rowsBad a.e x then .next (s.vxAbort c a.e 8 0x01 0 12 i.val)
      else
        .next ((s.updReading c fun a =>
          { a with slot := some i, tiles := a.tiles ++ [(a.rd * h.epb, x.shape)] }).vxPump c)

/-! ### Completion (R161, R164, R165, R168) -/

/-- The result of a VRED (R163, R165). -/
def VxAct.redAll (a : VxAct) (h : Chain) : Part :=
  let k := if h.red = 3 then 1 else h.topk
  (a.outs.mapIdx fun b x => (h.reduceBeat (Nat.log2 h.epb) (b * h.epb) (2 ^ 40) x.2 x.1).headD .none).foldl
    (combine h.red k h.outf) .none

/-- The row results of a VSTAT by RSS row (R167, R168). -/
def VxAct.rowParts (a : VxAct) (h : Chain) : Tab (Option Part) :=
  let lv := min h.rowlog (Nat.log2 h.epb)
  let step := fun (t : Tab (Option Part)) (b : Nat) (x : List Nat × List Bool) =>
    ((h.reduceBeat lv (b * h.epb) (2 ^ h.rowlog) x.2 x.1).mapIdx fun i p => (i, p)).foldl (fun t (ip : Nat × Part) =>
      let row := a.rowOf h (b * h.epb + ip.1 * 2 ^ lv)
      let old := (tget none t row).getD .none
      tput none t row (some (combine h.red 1 h.outf old ip.2))) t
  (a.outs.mapIdx fun b x => (b, x)).foldl (fun t bx => step t bx.1 bx.2) []

/-- RSS values that a VSTAT with ACC combines with, by row × 4 + value. -/
def VxAct.accReads (a : VxAct) (h : Chain) : List Nat :=
  if op40 a.e.bits = 3 ∧ a.e.bits.getLsbD 2 then
    ((List.range (a.n * h.epb / 16)).map fun i => 4 * a.rowOf h (16 * i) + fld a.e.bits 0 2).dedup
  else []

/-- Write the row results into the RSS (R168). A result that does not fit 32 bits leaves a free value. -/
def State.vxRss (s : State) (c : CoreId) (h : Chain) (a : VxAct) : State :=
  let v := fld a.e.bits 0 2
  let acc := a.e.bits.getLsbD 2
  let old := (s.core c).vxe.rss
  (a.rowParts h).foldl (fun (t : State) e =>
    let p := e.2.getD .none
    let key := 4 * e.1 + v
    if acc && p == .none then t
    else
      let q := if acc then combine h.red 1 h.outf (rssPart h.red h.outf (tget 0 old key).toNat) p else p
      t.updVxe c fun k =>
        { k with rss := tput 0 k.rss key (rssWord h.red h.outf q), rssBad := k.rssBad.filter (· != key) }) s

/-- Write the results of a VRED into VSUM and P (R164, R165). -/
def State.vxSum (s : State) (c : CoreId) (h : Chain) (a : VxAct) : State :=
  let p := a.redAll h
  let d := fld a.e.bits 0 3
  let ws := redWords h.red (if h.red = 3 then 1 else h.topk) h.outf p
  s.updVxe c fun v =>
    { v with
      vsum := (List.zip (List.range ws.length) ws).foldl (fun t x => vset t (d + x.1) x.2) v.vsum
      p := if h.pdst < 8 then setBit v.p h.pdst (redNonzero h.red h.outf p) else v.p }

/-- The results of an instruction whose beats have all left: VSUM and P, the RSS, an output tile's VALID and poison bits, the
scale-buffer entry's validity (R123, R147, R161). -/
def State.vxResults (s : State) (c : CoreId) (h : Chain) (a : VxAct) : State :=
  let s1 := if op40 a.e.bits = 2 then s.vxSum c h a else if op40 a.e.bits = 3 then s.vxRss c h a else s
  match h.outk with
  | 2 =>
    let t := (h.out a.e).a % 16
    let rows := rowsMask (tileRowsOf (s1.core c).trf t (h.bytesOf a.e (h.out a.e)))
    s1.updTrf c fun k => { k.setValid t true with poison := vmod k.poison t fun p => p &&& ~~~rows }
  | 4 => s1.updMxe c fun m => { m with sb := vmod m.sb ((h.out a.e).a % 2) fun x => { x with valid := true } }
  | _ => s1

/-- The instruction at the front completes. -/
def State.vxDone (s : State) (c : CoreId) (a : VxAct) : State :=
  (s.updVxe c fun v => { v with acts := v.acts.tail }).done c a.e

/-- The instruction at the front completes when all its beats have left and its messages are sent. -/
def State.vxFinish (s : State) (c : CoreId) : State :=
  match (s.core c).vxe.acts with
  | [] => s
  | a :: _ =>
    if a.reading || !(s.core c).seq.causes.isEmpty then s
    else if a.n = 0 then s.vxDone c a
    else if (a.accReads a.chain).any (s.core c).vxe.rssBad.contains then
      s.parityError c (pgVxe c) 13 (vxInfo a.e 0 10) 0
    else (s.vxResults c a.chain a).vxDone c a

/-- VX_COMPLETE: the front instruction goes on as far as it can, and completes when all its beats have left; one whose
messages wait for credits stays. -/
def execVxComplete (c : CoreId) (s : State) : Host.Outcome State Fault Refusal :=
  if !s.alive c || !(s.core c).seq.causes.isEmpty then .next s else .next ((s.vxPump c).vxFinish c)

/-! ### VCLR (R178) -/

/-- VCLR CLEAR: VSUM entries, sticky conditions, P bits and RSS values. -/
def execVclrClear (c : CoreId) (s : State) : Host.Outcome State Fault Refusal :=
  match (s.core c).seq.vxq with
  | [] => .next s
  | h :: _ =>
    if fld h.bits 20 4 ≠ 0 then .next s
    else .next (s.vxIssue c 4 fun t e =>
      let b := e.bits
      let n := min 256 (e.va 28 % 512)
      let init : Word32 := if fld b 2 2 = 0 then 0 else if fld b 2 2 = 1 then 0xFF800000 else 0x7F800000
      let keys := (List.range n).flatMap fun j =>
        (List.range 4).filterMap fun v => if b.getLsbD (24 + v) then some (4 * ((vxRssb b + j) % 256) + v) else none
      (t.updVxe c fun k =>
        { k with
          vsum := vmap (fun i x => if b.getLsbD (12 + i) then 0 else x) k.vsum
          anyNan := if b.getLsbD 1 then false else k.anyNan
          anyInf := if b.getLsbD 1 then false else k.anyInf
          ovf := if b.getLsbD 1 then false else k.ovf
          allZero := if b.getLsbD 1 then true else k.allZero
          p := if b.getLsbD 0 then 0 else k.p
          rss := keys.foldl (fun t i => tput 0 t i init) k.rss
          rssBad := k.rssBad.filter fun i => !keys.contains i }).done c e)

/-- Issue a VCLR that loads `n` bytes from a CSP address of the given alignment. -/
def State.vclrLoad (s : State) (c : CoreId) (sub n align : Nat) (f : State → QEntry → List Byte → State) : State :=
  match (s.core c).seq.vxq with
  | [] => s
  | h :: _ =>
    if fld h.bits 20 4 ≠ sub then s
    else s.vxIssue c 4 fun t e =>
      let a := e.va 28
      match t.ownCsp c a with
      | none => t.vxAbort c e 11 0x09 0 8 a
      | some off =>
        if a % align ≠ 0 ∨ cspSize < off + n then t.vxAbort c e 11 0x09 0 8 a
        else
          let r := t.cspLoad c .ownCore off n
          match r.bad with
          | x :: _ => r.s.vxAbort c e 10 0x08 0 9 (t.windowBase + cspOff c x)
          | [] => (f r.s e r.bytes).done c e

/-- VCLR LOADC: CHT[n] from 136 B of the own CSP, reserved bits ignored. -/
def execVclrLoadc (c : CoreId) (s : State) : Host.Outcome State Fault Refusal :=
  .next (s.vclrLoad c 1 136 8 fun t e bs =>
    let n := vxChain e.bits
    let put := fun (t : State) (i : Nat) =>
      t.setReg (pgVxe c) (chtAt n + 8 * i) (BitVec.ofNat 64 (leNat ((bs.drop (8 * i)).take 8)) &&& chtMask i)
    ((List.range 17).foldl put t).setRf (pgVxe c) 0x1F8 n 1 0)

/-- VCLR SETK: constant k of CHT[n] from A[a][31:0]. -/
def execVclrSetk (c : CoreId) (s : State) : Host.Outcome State Fault Refusal :=
  match (s.core c).seq.vxq with
  | [] => .next s
  | h :: _ =>
    if fld h.bits 20 4 ≠ 2 then .next s
    else .next (s.vxIssue c 4 fun t e =>
      let n := vxChain e.bits
      let k := fld e.bits 24 4
      let t1 := t.setRf (pgVxe c) (chtAt n + 0x48 + 8 * (k / 2)) (32 * (k % 2)) 32 (e.va 28)
      (t1.setRf (pgVxe c) 0x1F8 n 1 0).done c e)

/-- VCLR LOADP: permutation table k from 256 B of the own CSP. -/
def execVclrLoadp (c : CoreId) (s : State) : Host.Outcome State Fault Refusal :=
  .next (s.vclrLoad c 3 256 16 fun t e bs =>
    t.updVxe c fun v => { v with pt := tputs 0 v.pt (256 * fld e.bits 24 4) bs })

/-! ### Timeouts (R174, R158) -/

/-- The condition a running chain's beat stall waits for (R180): an FTQ slot, landing data, or room its own input would have
to free. -/
def State.vxStall (s : State) (c : CoreId) : Option (VxAct × Nat) :=
  match (s.core c).vxe.acts.find? VxAct.reading with
  | none => none
  | some a =>
    let empty := fun (x : VxStream) => x.kind == 4 && ((s.core c).chn.port (x.a % 2)).front.isNone
    let h := a.chain
    if !a.sends.isEmpty then none
    else if a.mayRead ∧ a.lacks = some .in0 ∧ h.in0k = 3 ∧ a.slot = none then
      (if ((s.core c).mxe.select (h.in0 a.e).a).isNone then some (a, 4) else none)
    else if a.mayRead && ((a.lacks == some .in0 && empty (h.in0 a.e)) || (a.lacks == some .in1 && empty (h.in1 a.e))) then
      some (a, 5)
    else if a.ringStuck (s.ringSize c) then some (a, 0)
    else none

/-- The hold of the VXE: the instruction that waits, COND (9 for a predecessor of R162, which no timeout counts) and the address.
It is the beat stall of a chain that runs, or the hold of the queue head before issue; a pause is not timed (R174). -/
def State.vxHeld (s : State) (c : CoreId) : Option (QEntry × Nat × Nat) :=
  if !s.alive c || !(s.core c).seq.causes.isEmpty then none
  else match s.vxStall c with
    | some (a, cond) => some (a.e, cond, 0)
    | none =>
      if !s.unpaused c 2 then none
      else match (s.core c).seq.vxq, s.vxExam c with
        | e :: _, .hold cond a => some (e, cond, a)
        | _, _ => none

/-- VXE_HOLD_TMO: a hold before issue or a beat stall is still there; the task aborts with WAIT_TMO
(COND 0 for a stall R180 lists no code for: DEDUCED, log entry 47). -/
def execVxeHoldTmo (c : CoreId) (s : State) : Host.Outcome State Fault Refusal :=
  match s.vxHeld c with
  | some (e, cond, a) => .next (if cond = 9 then s else s.vxAbort c e 3 0x03 0 cond a)
  | none => .next s

/-- VXE_CFG_TMO: a page-written entry is still invalid; the task aborts with CFG_MISMATCH. The count stands while the core is
PAUSED (R502). -/
def execVxeCfgTmo (c : CoreId) (s : State) : Host.Outcome State Fault Refusal :=
  if !s.mayExam c || (s.core c).seq.st == .paused then .next s
  else match (s.core c).seq.vxq, s.vxExam c with
    | e :: _, .cfg stage => .next (s.vxAbort c e 14 0x11 stage 6 0)
    | _, _ => .next s

end Sys2Proof.Machine
end

