-- ==== Sys2Proof/Machine/Chan.lean ====
section
/-! DEFINITION. Message channels (R329 to R350): the CH slot's operations, arrivals at a landing port, acknowledgements,
returned credits and the channel timeouts. A message crosses the cluster as one entry of a link and lands in one step; its
acknowledgement follows with LANDING_DONE. -/

namespace Sys2Proof.Machine

/-! ### Fields of a CH slot (R346) -/

/-- Channel. -/
def chChan (b : BitVec 40) : Nat := fld b 14 6
/-- Port. -/
def chPort (b : BitVec 40) : Nat := fld b 17 3
/-- LEN / 64 of a SEND. -/
def chLen (b : BitVec 40) : Nat := fld b 4 6 + 1
/-- n of a CREL. -/
def chCount (b : BitVec 40) : Nat := fld b 10 7 + 1

/-- Run the head of the CH queue when it holds operation `op` and no full link holds the CHN; `f` answers what it does, the
entry still in the queue. -/
def State.chHead (s : State) (c : CoreId) (op : Nat) (f : State → QEntry → State) : State :=
  match (s.core c).seq.chq with
  | [] => s
  | e :: _ => if op24 e.bits ≠ op ∨ !s.mayStart c 7 || s.chnHeld c then s else f s e

/-- The head leaves the CH queue. -/
def State.chLeave (s : State) (c : CoreId) : State := s.updSeq c fun q => { q with chq := q.chq.tail }

/-- What reading a port or binding record gives: its eight bytes, or the state after the abort that refuses them. -/
inductive RecordRead where
  | ok (v : Dword) (s : State)
  | bad (s : State)

/-- Read a record of the own CSP at a multiple of 8 (R330, R331, R332). -/
def State.chRecord (s : State) (c : CoreId) (e : QEntry) (ch port : Nat) : RecordRead :=
  let a := e.chAddr
  let window := RecordRead.bad (s.chnAbort c 11 0x09 e.chWho 5 (ch := ch) (port := port))
  match s.ownCsp c a with
  | none => window
  | some off =>
    if a % 8 ≠ 0 then window
    else
      let r := s.cspLoad c .ownCore off 8
      if r.bad.isEmpty then .ok (BitVec.ofNat 64 (leNat r.bytes)) r.s
      else .bad (r.s.chnAbort c 12 0x08 e.chWho 6 (ch := ch) (port := port))

/-! ### Sending and binding (R332, R333, R340, R341) -/

/-- The source of a SEND in the own CSP, if its address is allowed (R341). -/
def State.sendSource (s : State) (c : CoreId) (e : QEntry) : Option Nat :=
  match s.ownCsp c e.chAddr with
  | none => none
  | some off => if e.chAddr % 64 ≠ 0 ∨ cspSize < off + 64 * chLen e.bits then none else some off

/-- SEND: sends LEN bytes of the own CSP once its credits are there; it completes with its acknowledgement (R340, R341). -/
def execSend (c : CoreId) (s : State) : Host.Outcome State Fault Refusal :=
  .next (s.chHead c 1 fun t e =>
    let n := chChan e.bits
    let len := chLen e.bits
    let b := (t.core c).chn.bind n
    if !b.bound then t.sendRefused c n len e.chWho false
    else if b.cr < len then t.sendRefused c n len e.chWho true
    else match t.sendSource c e with
    | none => t.chnAbort c 11 0x09 e.chWho 5 (ch := n) (port := b.port.toNat) (need := len) (credits := b.credits)
    | some off =>
      match t.trySend c n len e.cw with
      | .unbound => t
      | .tooBig => t
      | .wait _ t1 => t1
      | .ready t1 =>
        let r := (t1.chLeave c).cspLoad c .ownCore off (64 * len)
        match r.bad with
        | [] => r.s.emit c n len false r.bytes e.cw (some e)
        | x :: _ =>
          let sent := r.s.emit c n len false (r.bytes.take ((x - off) / 256 * 256)) e.cw (some e)
          sent.chnAbort c 12 0x08 e.chWho 6 (ch := n) (port := b.port.toNat) (need := len) (credits := b.credits))

/-- Unbind a channel: credits and WP are 0 (R333, R344). -/
def Binding.unbind (b : Binding) : Binding := { b with bound := false, credits := 0, wp := 0, unacked := [] }

/-- BIND: starts a new binding with CR credits, once every message of the channel is acknowledged (R333). -/
def execBind (c : CoreId) (s : State) : Host.Outcome State Fault Refusal :=
  .next (s.chHead c 2 fun t e =>
    let n := chChan e.bits
    if ((t.core c).chn.bind n).waiting then t
    else match t.chRecord c e n 0 with
    | .bad t1 => t1
    | .ok v t1 =>
      if fld v 61 3 ≠ 0 then t1.chnAbort c 10 0x0D e.chWho 4 (ch := n) (detail := 1)
      else if 127 < fld v 53 8 then
        (t1.updBind c n Binding.unbind).chnAbort c 10 0x0D e.chWho 4 (ch := n) (detail := 5)
      else
        ((t1.chLeave c).updBind c n fun b =>
          { b with record := v, credits := fld v 53 8 + 1, wp := 0, bound := true, number := b.number + 1, unacked := [] }).done c e)

/-- UNBIND: unbinds the channel, once every message of it is acknowledged (R333). -/
def execUnbind (c : CoreId) (s : State) : Host.Outcome State Fault Refusal :=
  .next (s.chHead c 3 fun t e =>
    let n := chChan e.bits
    if ((t.core c).chn.bind n).waiting then t else ((t.chLeave c).updBind c n Binding.unbind).done c e)

/-! ### Landing ports (R330, R331, R339, R342, R343) -/

/-- The first case of R331 that makes a port record invalid; 0 for a valid one. -/
def portCase (p : Nat) (v : Dword) : Nat :=
  let lg := fld v 15 4
  let size := 2 ^ lg
  let start := 16 * (if trfPort p then fld v 0 12 else fld v 0 15)
  if fld v 32 32 ≠ 0 ∨ (trfPort p ∧ fld v 12 3 ≠ 0) then 1
  else if lg < 9 ∨ 13 < lg then 2
  else if start % size ≠ 0 then 3
  else if trfPort p then (if start / 32768 = (start + size - 1) / 32768 then 0 else 4)
  else if cspSize < start + size then 4
  else 0

/-- Whether a PORT of record `v` is held: a landing into the armed port is in progress, or an epoch change within its
spacing (R342). -/
def LandPort.portHeld (q : LandPort) (v : Dword) : Bool :=
  (q.armed && q.log.any (·.landing)) || (v.extractLsb' 24 8 != q.epoch && !q.spaced)

/-- Apply a valid port record (R342). -/
def LandPort.arm (q : LandPort) (v : Dword) : LandPort where
  armed := true
  record := v.setWidth 32
  epoch := v.extractLsb' 24 8
  spaced := q.spaced && v.extractLsb' 24 8 == q.epoch
  log := []

/-- PORT at the head of the CH queue. -/
def State.portOp (s : State) (c : CoreId) : State :=
  s.chHead c 4 fun t e =>
    let p := chPort e.bits
    match t.chRecord c e 0 p with
    | .bad t1 => t1
    | .ok v t1 =>
      let k := portCase p v
      if k ≠ 0 then t1.chnAbort c 10 0x0D e.chWho 4 (port := p) (detail := k)
      else if ((t1.core c).chn.port p).portHeld v then t1
      else ((t1.chLeave c).updPortOf c p fun q => q.arm v).done c e

/-- PORT: arms a landing port with a record, abandoning its unreleased records, unless R342 holds it. -/
def execPort (c : CoreId) (s : State) : Host.Outcome State Fault Refusal := .next (s.portOp c)

/-- EPOCH_SPACING_DONE: 2^(CH_TMO − 8) cc have passed since the port's last epoch change; a PORT that waits for it applies
its record (R342). -/
def execEpochSpacingDone (c : CoreId) (p : LandId) (s : State) : Host.Outcome State Fault Refusal :=
  let s1 := s.updPortOf c p.val fun q => { q with spaced := true }
  match (s.core c).seq.chq with
  | [] => .next s1
  | e :: _ => .next (if chPort e.bits = p.val then s1.portOp c else s1)

/-- TRF bytes of a record as a range: first byte and length. -/
def LandPort.span (q : LandPort) (p : Nat) (r : LogRec) : Nat × Nat := (q.base p + 64 * r.pos, 64 * r.units)

/-- Tiles whose lines meet a TRF byte range. -/
def tilesMeeting (k : Trf) (a n : Nat) : List Nat :=
  (List.range 16).filter fun t =>
    let x := k.cfg t
    decide (x.at_ < a + n) && decide (a < x.at_ + x.size) && decide (0 < x.size)

/-- Tiles whose lines lie wholly in a TRF byte range. -/
def tilesWithin (k : Trf) (a n : Nat) : List Nat :=
  (List.range 16).filter fun t =>
    let x := k.cfg t
    decide (a ≤ x.at_) && decide (x.at_ + x.size ≤ a + n) && decide (0 < x.size)

/-- Whether the CREL at the queue head waits for the scoreboard (R339). -/
def Core.crelHeld (k : Core) (e : QEntry) : Bool :=
  let p := chPort e.bits
  let q := k.chn.port p
  trfPort p && ((q.held.filter fun r => !r.pad).take (chCount e.bits)).any fun r =>
    (tilesMeeting k.trf (q.span p r).1 (q.span p r).2).any k.tilesInUse.contains

/-- Whether a CREL at the queue head is held by the scoreboard (R339, R350). -/
def State.crelWaits (s : State) (c : CoreId) : Bool :=
  match (s.core c).seq.chq with
  | e :: _ => op24 e.bits == 5 && s.mayStart c 7 && !vxePort (chPort e.bits) && (s.core c).crelHeld e
  | [] => false

/-- CREL: releases the n oldest message records of a TRF or CSP port; one that names more than there are releases all and
sets ERR.CREL (R338, R339, R346). -/
def execCrel (c : CoreId) (s : State) : Host.Outcome State Fault Refusal :=
  .next (s.chHead c 5 fun t e =>
    let p := chPort e.bits
    let n := chCount e.bits
    if vxePort p then t.chnAbort c 10 0x0D e.chWho 4 (port := p)
    else if (t.core c).crelHeld e then t
    else
      let have_ := ((((t.core c).chn.port p).held).filter fun r => !r.pad).length
      let t1 := (t.chLeave c).releaseOldest c p n
      let t2 := if have_ < n then
          t1.err (pgChn c) 14 (BitVec.ofNat 64 (chnInfo0 e.cw.toNat (op24 e.bits) 0 p 11 0)) 0
        else t1
      t2.done c e)

/-- DISARM: unarms a port and abandons its records (R343). -/
def execDisarm (c : CoreId) (s : State) : Host.Outcome State Fault Refusal :=
  .next (s.chHead c 6 fun t e => ((t.chLeave c).updPortOf c (chPort e.bits) LandPort.disarm).done c e)

/-! ### Arrivals (R334 to R337, R342, R343) -/

/-- Offset of CNT0[n] on the CHN page. -/
def cnt0 (n : BitVec 6) : Nat := 0x800 + 0x18 * n.toNat
/-- Offset of PORT_STS[p]. -/
def portSts (p : Nat) : Nat := 0x148 + 0x20 * p

/-- The log entry of a message that is accepted. -/
def logRecOf (m : Msg) (sender : Option CoreId) (src : BitVec 32) (tag : BitVec 11) : LogRec where
  pos := m.pos
  units := m.units
  pad := m.pad
  sender := sender
  src := src
  tag := tag
  ch := m.ch
  bind := m.bind
  rch := m.rch
  number := m.number
  landing := !m.pad
  whole := m.pad || m.payload.length == 64 * m.units
  used := 0
  rel := false

/-- Write a message's bytes into the ring; the first byte of a TRF landing clears VALID of the tiles it touches (R336, R337). -/
def State.landBytes (s : State) (c : CoreId) (p : Nat) (m : Msg) : State :=
  let a := ((s.core c).chn.port p).base p + 64 * m.pos
  if m.payload.isEmpty then s
  else if trfPort p then
    let ts := tilesMeeting (s.core c).trf a (64 * m.units)
    ((s.updTrf c fun k => ts.foldl (fun k t => k.setValid t false) k).trfStore c c.val (cellsAt a m.payload)).s
  else (s.cspStore c .ownCore a m.payload).s

/-- A message or PAD record reaches core c's landing ports. -/
def State.arrive (s : State) (c : CoreId) (sender : Option CoreId) (src : BitVec 32) (tag : BitVec 11) (m : Msg) : State :=
  let p := m.port.toNat
  let q := (s.core c).chn.port p
  let r := logRecOf m sender src tag
  if !q.armed then
    (s.bumpRf (pgChn c) (cnt0 m.rch + 0x10) 32 32 1).pm (pgChn c) 0x07 1
  else if m.epoch ≠ q.epoch then
    ((s.bumpRf (pgChn c) (cnt0 m.rch + 0x10) 0 32 1).pm (pgChn c) 0x06 1).ackBack c r true
  else if q.units < m.pos + m.units then s.satRf (pgChn c) (portSts p) 16 16 1
  else
    let s1 := s.updPortOf c p fun q => { q with log := q.log ++ [r] }
    if m.pad then (s1.ackBack c r false).releasePads c p
    else (s1.landBytes c p m).vxPump c

/-- Whether a TRF landing waits: an instruction still reads a tile that the message would overwrite, so the scoreboard holds
the writer (R185, R187, log entry 115). -/
def State.landingHeld (s : State) (c : CoreId) (m : Msg) : Bool :=
  let k := s.core c
  let q := k.chn.port m.port.toNat
  trfPort m.port.toNat && q.armed && m.epoch == q.epoch && !m.payload.isEmpty
    && (tilesMeeting k.trf (q.base m.port.toNat + 64 * m.pos) (64 * m.units)).any k.tilesInUse.contains

/-- Whether the CHN of a core takes arrivals: its island answers and its logic runs (R18). -/
def State.chnUp (s : State) (c : CoreId) : Bool := s.reachable c && !(vget false s.stopped c)

/-- Whether a packet of the inbox belongs to a mesh message for core c (R426). -/
def State.isMsgPacket (s : State) (c : CoreId) (src : BitVec 32) (m : Msg) (k : Packet) : Bool :=
  k.type == 5 && k.src == src && k.byte 24 == m.ch.setWidth 8 && k.byte 25 == m.number && k.byte 26 == m.epoch
    && k.byte 27 == m.port.setWidth 8 && k.sub.toNat / 4 == msgSub m false / 4 && k.sub.getLsbD 0 == m.pad
    && k.addr.toNat == msgAddr (s.ownDie + 32 * s.ownCluster) c m.bind && decide (m.bind < 2 ^ 16)

/-- The mesh message a command spells, when its first packet stands at the front of its crossing and those behind it carry the
rest, with the TAG it came under and the state without it (R14). -/
def State.takeMesh (s : State) (c : CoreId) (src : BitVec 32) (m : Msg) : Option (BitVec 11 × State) :=
  match s.takePacket (s.isMsgPacket c src m) with
  | none => none
  | some ((p, k), t) =>
    let rest := fun (x : Option PortId × Packet) => x.1 == p && s.isMsgPacket c src m x.2
    let ks := k :: (t.inbox.filter rest).map (·.2)
    let ends := m.pad || m.payload.length == 64 * m.units || (ks.getLastD k).sub.getLsbD 1
    if (ks.map (·.payload)).flatten == m.payload && k.spec.toNat / 2 ^ 32 == m.pos && ends then
      some (k.tag, { t with inbox := t.inbox.filter fun x => !rest x })
    else none

/-- Whether a mesh message carries the number its channel expects (R427); the first of a sender's channel sets it. -/
def Chn.expected (k : Chn) (src : BitVec 32) (ch : BitVec 6) (number : Byte) : Bool :=
  match k.expect.find? fun x => x.1 == src && x.2.1 == ch with
  | none => true
  | some x => x.2.2 == number

/-- A CUT marker ends a message: its log entry goes, nothing is acknowledged, DROP_CUT counts it (R341). -/
def State.cutLanding (s : State) (c : CoreId) (p : Nat) (mine : LogRec → Bool) : State :=
  if ((s.core c).chn.port p).log.any mine then
    (s.updPortOf c p fun q => { q with log := q.log.filter fun r => !mine r }).satRf (pgChn c) (portSts p) 32 16 1
  else s

/-- MSG_ARRIVAL: the message at the head of a link, or one the mesh has delivered, reaches its landing port. A full link holds
the CHN, and so the arrival (R15). -/
def execMsgArrival (c : CoreId) (a : MsgArrive) (s : State) : Host.Outcome State Fault Refusal :=
  match a with
  | .link d =>
    match s.linkTake d c with
    | some (.msg m, t) =>
      if !s.chnUp c then .next (t.bumpRf 0 0x170 0 32 1)
      else if s.chnHeld c || s.landingHeld c m then .next s
      else .next (t.arrive c (some d) (s.srcWord d) 0 m)
    | _ => .next s
  | .mesh src m =>
    match s.takeMesh c src m with
    | none => .next s
    | some (tag, t) =>
      if !s.chnUp c then
        .next (t.meshPut c false 0
          { Packet.blank 4 3 (dstOfSrc src) with tag := tag, spec := BitVec.ofNat 48 (5 + 256 * (m.ch.toNat + 1)) })
      else if s.chnHeld c || s.landingHeld c m then .next s
      else if !(t.core c).chn.expected src m.ch m.number then .next t
      else
        let t1 := t.updChn c fun k =>
          { k with expect := (src, m.ch, m.number + 1) :: k.expect.filter fun x => !(x.1 == src && x.2.1 == m.ch) }
        let t2 := t1.arrive c none src tag m
        .next (if msgCut m then t2.cutLanding c m.port.toNat fun r => r.sender == none && r.src == src && r.ch == m.ch && !r.whole
          else t2)

/-- LANDING_DONE: the last byte of the oldest landing message of a port is written: LF is set, a TRF port's enclosed tiles
become VALID, the message is counted and acknowledged (R336, R337). -/
def execLandingDone (c : CoreId) (p : LandId) (s : State) : Host.Outcome State Fault Refusal :=
  let q := (s.core c).chn.port p.val
  match q.log.find? fun r => r.landing && r.whole with
  | none => .next s
  | some r =>
    if !s.chnUp c || s.chnHeld c then .next s
    else
      let done := fun (l : List LogRec) => (l.map fun x => if x = r then { x with landing := false } else x).filter fun x =>
        !x.rel || x.landing
      let s1 := s.updPortOf c p.val fun q => { q with log := done q.log }
      let s2 := if q.record.getLsbD 23 then
          s1.updSeq c fun k => { k with lf := setBit k.lf (fld q.record 19 4) true }
        else s1
      let s3 := if trfPort p.val then
          let (a, n) := q.span p.val r
          let ts := tilesWithin (s.core c).trf a n
          s2.updTrf c fun k => ts.foldl (fun k t => { k.setValid t true with poison := vset k.poison t 0 }) k
        else s2
      let s4 := ((s3.bumpRf (pgChn c) (cnt0 r.rch) 32 32 1).pm (pgChn c) 0x02 1).pm (pgChn c) 0x05 r.units
      .next (s4.ackBack c r false)

/-- MSG_CUT: a CUT marker ends the message before it; its log entry goes, nothing is acknowledged (R341). -/
def execMsgCut (c : CoreId) (sender : CoreId) (s : State) : Host.Outcome State Fault Refusal :=
  match s.linkTake sender c with
  | some (.cut ch port, t) =>
    .next (t.cutLanding c port.toNat fun r => r.sender == some sender && r.ch == ch && !r.whole)
  | _ => .next s

/-! ### Acknowledgements and credits (R333, R341, R342) -/

/-- An acknowledgement reaches the sender: its record is acknowledged, a stale one returns its credits and sets BIND1.STALE,
a SEND completes. One that answers nothing outstanding is ignored. -/
def State.acked (s : State) (c : CoreId) (ch : Nat) (number : Byte) (stale : Bool) : State :=
  let b := (s.core c).chn.bind ch
  match takeFirst (fun u => u.number == number) b.unacked with
  | none => s
  | some (u, rest) =>
    let s1 := s.updBind c ch fun b =>
      { b with
        unacked := rest
        stale := b.stale || stale
        credits := if stale then min b.cr (b.credits + u.units) else b.credits }
    match u.e with
    | some e => s1.done c e
    | none => s1

/-- A CACK packet of the inbox for core c, and the state without it. -/
def State.takeCack (s : State) (c : CoreId) (spec : Nat) : Option State :=
  (s.takePacket fun k => k.type == 6 && k.island == c.val && k.spec.toNat == spec).map (·.2)

/-- CACK: an acknowledgement, possibly stale, reaches the sender. -/
def execCack (c : CoreId) (a : AckArrive) (s : State) : Host.Outcome State Fault Refusal :=
  match a with
  | .link d =>
    match s.linkTake d c with
    | some (.ack ch number stale bind, t) =>
      .next (if s.chnUp c && ((s.core c).chn.bind ch.toNat).number == bind then t.acked c ch.toNat number stale else t)
    | _ => .next s
  | .mesh ch number stale =>
    match s.takeCack c (ch.toNat + 2 ^ 8 * number.toNat + 2 ^ 16 * bit stale) with
    | none => .next s
    | some t => .next (if s.chnUp c then t.acked c ch.toNat number stale else t)

/-- Credits reach the sender: added to the binding they belong to, discarded for an earlier one (R333). -/
def State.credited (s : State) (c : CoreId) (ch bind units : Nat) : State :=
  let s1 := s.pm (pgChn c) 0x08 1
  s1.updBind c ch fun b =>
    if b.bound ∧ b.number = bind then { b with credits := min b.cr (b.credits + units) } else b

/-- CREDIT_RETURN: released credits reach the sender, and a VXE CHANNEL output that waited for them goes on. A CACK packet
carries the number of the binding modulo 2^16. -/
def execCreditReturn (c : CoreId) (a : CreditArrive) (s : State) : Host.Outcome State Fault Refusal :=
  match a with
  | .link d =>
    match s.linkTake d c with
    | some (.credit ch bind units, t) => .next (if s.chnUp c then (t.credited c ch.toNat bind units).vxPump c else t)
    | _ => .next s
  | .mesh ch bind units =>
    let own := fun (k : Packet) => k.type == 6 && k.island == c.val && k.byte 24 == ch.setWidth 8
      && k.byte 26 == 2 && (k.byte 27).toNat == units && k.spec.toNat / 2 ^ 32 == bind
    match s.takePacket own with
    | none => .next s
    | some (_, t) =>
      let now := ((t.core c).chn.bind ch.toNat).number
      .next (if s.chnUp c then (t.credited c ch.toNat (if now % 2 ^ 16 = bind then now else now + 1) units).vxPump c
        else t)

/-! ### Timeouts and errors (R339, R342, R343) -/

/-- Whether a send of `units` waits for credits, its own or those of the PAD before it (R340). -/
def Binding.stalls (b : Binding) (units : Nat) : Bool :=
  let tail := b.cr - b.wp
  b.bound && decide (units ≤ b.cr) && (if tail < units then decide (b.credits < tail) else decide (b.credits < units))

/-- The sends that wait for credits, with their channel and units: a SEND at the queue head, and the next message of a VXE
CHANNEL output. -/
def State.creditWaits (s : State) (c : CoreId) : List (ChWho × Nat × Nat) :=
  let k := s.core c
  let head := match k.seq.chq with
    | e :: _ => if op24 e.bits = 1 ∧ s.mayStart c 7 = true then [(e.chWho, chChan e.bits, chLen e.bits)] else []
    | [] => []
  let vx := match k.vxe.acts.find? VxAct.reading with
    | some a => (a.sends.head?.map fun m => (a.e.vxWho, (a.chain.out a.e).a % 64, m.length / 64)).toList
    | none => []
  (head ++ vx).filter fun x => (k.chn.bind x.2.1).stalls x.2.2

/-- CH_CREDIT_TMO: a send still waits for credits; the task aborts with CH_DEAD (R343). Which of two waits is over is a free
choice. -/
def execChCreditTmo (c : CoreId) (s : State) : Host.Outcome State Fault Refusal :=
  if !s.alive c || !(s.core c).seq.causes.isEmpty then .next s
  else
    let ws := s.creditWaits c
    let (i, s1) := if ws.length < 2 then (0, s) else s.drawChoice ws.length
    match ws[i]? with
    | some (w, n, need) =>
      let b := (s.core c).chn.bind n
      .next (s1.chnAbort c 8 0x05 w 1 (ch := n) (port := b.port.toNat) (need := need) (credits := b.credits))
    | none => .next s

/-- CH_ACK_TMO: a message of the channel is still without acknowledgement; the task aborts with CH_DEAD (R343). -/
def execChAckTmo (c : CoreId) (ch : ChanId) (s : State) : Host.Outcome State Fault Refusal :=
  let b := (s.core c).chn.bind ch.val
  match b.unacked.find? fun u => !u.pad with
  | none => .next s
  | some u =>
    if !s.alive c || !(s.core c).seq.causes.isEmpty then .next s
    else
      .next (s.chnAbort c 8 0x05 u.who 2 (ch := ch.val) (port := b.port.toNat) (need := u.units) (credits := b.credits))

/-- CHN_HOLD_TMO: a CREL held by the scoreboard or a PORT held by R342 is still held; the task aborts with WAIT_TMO. -/
def execChnHoldTmo (c : CoreId) (s : State) : Host.Outcome State Fault Refusal :=
  match (s.core c).seq.chq with
  | [] => .next s
  | e :: _ =>
    let p := chPort e.bits
    if !s.mayStart c 7 then .next s
    else if op24 e.bits = 5 ∧ !vxePort p ∧ (s.core c).crelHeld e then
      .next (s.chnAbort c 3 0x03 e.chWho 9 (port := p))
    else if op24 e.bits = 4 then
      match s.chRecord c e 0 p with
      | .ok v t =>
        .next (if portCase p v = 0 ∧ ((s.core c).chn.port p).portHeld v then t.chnAbort c 3 0x03 e.chWho 10 (port := p) else s)
      | .bad _ => .next s
    else .next s

/-- An error response from beyond the cluster to a message of core c's channel aborts the task with REMOTE_ERR (R343). -/
def State.chnRemote (s : State) (c : CoreId) (ch : Nat) : State :=
  let b := (s.core c).chn.bind ch
  match b.unacked with
  | [] => s
  | u :: _ =>
    s.chnAbort c 13 0x13 u.who 7 (ch := ch) (port := b.port.toNat) (need := u.units) (credits := b.credits)

end Sys2Proof.Machine
end

