-- ==== Sys2Proof/Machine/Rdu.lean ====
section
/-! DEFINITION. Gradient reduction (R382 to R417): posts, instances, contributions, requests and results, the decision,
delivery and the step log. A contribution or a result arrives whole with its TAIL. -/

namespace Sys2Proof.Machine

/-! ### Group registers (R416) -/

/-- Register `k` of group `g`: 0 GRP_ID, 1 GRP_N, 2 GRP_MISS, 3 GRP_MEM, 4 GRP_DL. -/
def State.grp (s : State) (g : GroupId) (k : Nat) : Nat := s.rf 8 (0x600 + 0x28 * g.val + 8 * k) 0 32
/-- GID. -/
def State.gid (s : State) (g : GroupId) : Nat := s.grp g 0 % 2 ^ 16
/-- HOME. -/
def State.home (s : State) (g : GroupId) : PortId := Fin.ofNat 4 (s.grp g 0 / 2 ^ 16)
/-- NMEMB. -/
def State.nmemb (s : State) (g : GroupId) : Nat := s.grp g 1
/-- MAXMISS. -/
def State.maxMiss (s : State) (g : GroupId) : Nat := s.grp g 2 % 2 ^ 24
/-- CM offset of the schedule block. -/
def State.schedOff (s : State) (g : GroupId) : Nat := s.grp g 3 % 2 ^ 16 * 256
/-- CM offset of RBUF. -/
def State.rbufOff (s : State) (g : GroupId) : Nat := 4096 * (s.grp g 3 / 2 ^ 16 % 2 ^ 12)
/-- RBLOG. -/
def State.rblog (s : State) (g : GroupId) : Nat := s.grp g 3 / 2 ^ 28
/-- Size C of an RBUF area (R383). -/
def State.areaSize (s : State) (g : GroupId) : Nat := 4096 * 2 ^ s.rblog g

/-- A group that is not enabled. -/
def Group.off : Group where
  en := false
  sched := []
  key := none
  postKey := none
  inst := none
  req := none
  kept := none

/-- Group slot `g`. -/
def State.group (s : State) (g : GroupId) : Group := tget Group.off s.groups g.val
/-- Change group slot `g`. -/
def State.updGroup (s : State) (g : GroupId) (f : Group → Group) : State :=
  { s with groups := tmod Group.off s.groups g.val f }
/-- Change the open instance of a group. -/
def State.updInst (s : State) (g : GroupId) (f : Inst → Inst) : State :=
  s.updGroup g fun k => { k with inst := k.inst.map f }
/-- The enabled slot that holds a GID. -/
def State.slotOf (s : State) (gid : Nat) : Option GroupId :=
  (List.finRange 64).find? fun g => (s.group g).en && s.gid g == gid

/-- Whether a port's RDU works: its island and the memory island have not stopped (R471). -/
def State.rduLive (s : State) (p : PortId) : Bool := !(vget false s.stopped (10 + p.val)) && !s.memDead

/-- Whether a port's RDU can go on: it works, and its accesses to the CM find a request tag (R13, R283). -/
def State.rduReady (s : State) (p : PortId) : Bool :=
  s.rduLive p && (!s.cmServed || (s.rqtPass (8 + p.val) 0).isSome)

/-- An access of a port's RDU to the CM passes the RQT (R13). -/
def State.rduPass (s : State) (p : PortId) (off : Nat) : State := (s.rqtPass (8 + p.val) off).getD s

/-! ### Post records (R389) -/

/-- Group slot of a post. -/
def postG (r : Vector Dword 8) : GroupId := Fin.ofNat 64 (fld r[0] 0 6)
/-- BUCKET. -/
def postBucket (r : Vector Dword 8) : Nat := fld r[0] 8 16
/-- W64. -/
def postW64 (r : Vector Dword 8) : Bool := bitAt r[0] 24
/-- PP. -/
def postPp (r : Vector Dword 8) : Bool := bitAt r[0] 25
/-- NODIV. -/
def postNodiv (r : Vector Dword 8) : Bool := bitAt r[0] 26
/-- OVF. -/
def postOvf (r : Vector Dword 8) : Bool := bitAt r[0] 27
/-- LEN256. -/
def postLen (r : Vector Dword 8) : Nat := fld r[0] 28 12 + 1
/-- STEP. -/
def postStep (r : Vector Dword 8) : Nat := fld r[1] 0 32
/-- E. -/
def postE (r : Vector Dword 8) : Word32 := r[1].extractLsb' 32 32
/-- SRC. -/
def postSrc (r : Vector Dword 8) : Nat := fld r[2] 0 24
/-- DST. -/
def postDst (r : Vector Dword 8) : Nat := fld r[3] 0 24
/-- STAT. -/
def postStat (r : Vector Dword 8) : Nat := fld r[4] 0 24
/-- Whether a post has a reserved bit set. -/
def postRsv (r : Vector Dword 8) : Bool :=
  fld r[0] 6 2 != 0 || fld r[0] 40 24 != 0 || fld r[2] 24 40 != 0 || fld r[3] 24 40 != 0 || fld r[4] 24 40 != 0
    || fld r[5] 6 58 != 0 || r[6] != 0 || r[7] != 0
/-- Key STEP × 2^16 + BUCKET (R392). -/
def postKeyOf (r : Vector Dword 8) : BitVec 48 := BitVec.ofNat 48 (2 ^ 16 * postStep r + postBucket r)
/-- Bytes of its delivered result (R406, R409). -/
def postDstLen (r : Vector Dword 8) : Nat := if postW64 r && !postPp r then postLen r * 128 else postLen r * 256
/-- Whether STAT names a place for a status record (R389). -/
def postStatOk (r : Vector Dword 8) : Bool := postStat r % 64 == 0 && decide (postStat r + 128 ≤ cmSize)

/-- Whether key `a` is later than key `b` in serial order (R392). -/
def keyLater (a b : BitVec 48) : Bool := let d := (a - b).toNat; decide (1 ≤ d) && decide (d < 2 ^ 47)

/-! ### LEAD and TAIL records (R394) -/

/-- The values of a record's words; none when the halves of a word disagree. -/
def recValues (r : RedRecord) : Option (List Word32) := r.toList.mapM huskValue
/-- Value `k` of a record. -/
def recVal (vs : List Word32) (k : Nat) : Nat := (vs.getD k 0).toNat
/-- A record from its eight values. -/
def mkRecord (vs : List Nat) : RedRecord :=
  let h := fun (k : Nat) => husked (BitVec.ofNat 32 (vs.getD k 0))
  #v[h 0, h 1, h 2, h 3, h 4, h 5, h 6, h 7]
/-- Bytes of a record. -/
def recBytes (r : RedRecord) : List Byte := r.toList.flatMap fun d => natLe 8 d.toNat
/-- Key of a LEAD. -/
def leadKey (vs : List Word32) : BitVec 48 := BitVec.ofNat 48 (2 ^ 16 * recVal vs 1 + recVal vs 0 / 2 ^ 16)
/-- KIND of a LEAD. -/
def leadKind (vs : List Word32) : Nat := recVal vs 3 / 2 ^ 14 % 8
/-- Sender of a LEAD, in the layout of R384. -/
def leadFrom (vs : List Word32) : Nat := recVal vs 4 % 2 ^ 25
/-- The own cluster in the layout of R384. -/
def State.selfPartner (s : State) : Nat := s.ownDev + 2 ^ 16 * s.ownDie + 2 ^ 21 * s.ownCluster

/-- The LEAD of a message of an own instance. -/
def State.ownLead (s : State) (g : GroupId) (post : Vector Dword 8) (e : Word32) (kind entry : Nat) : RedRecord :=
  mkRecord [s.gid g + 2 ^ 16 * postBucket post, postStep post, e.toNat,
    postLen post % 2 ^ 13 + 2 ^ 13 * bit (postW64 post) + 2 ^ 14 * kind + 2 ^ 17 * entry, s.selfPartner]

/-- The TAIL with a header, a reason and a missing count. -/
def tailOf (h : RedHeader) (reason miss : Nat) : RedRecord :=
  mkRecord [h.count % 2 ^ 24 + 2 ^ 24 * bit h.ovf + 2 ^ 25 * bit h.ckerr + 2 ^ 26 * bit h.partial_ + 2 ^ 27 * bit h.emis
    + 2 ^ 28 * reason, fld h.sum 0 32, fld h.sum 32 32, miss % 2 ^ 24]

/-- The header a TAIL carries. -/
def headerOf (vs : List Word32) : RedHeader where
  count := recVal vs 0 % 2 ^ 24
  sum := BitVec.ofNat 64 (recVal vs 1 + 2 ^ 32 * recVal vs 2)
  ovf := (vs.getD 0 0).getLsbD 24
  ckerr := (vs.getD 0 0).getLsbD 25
  partial_ := (vs.getD 0 0).getLsbD 26
  emis := (vs.getD 0 0).getLsbD 27

/-! ### Schedule entries (R384, R386) -/

/-- KIND of an entry. -/
def entryKind (v : Word32) : Nat := fld v 25 3
/-- Partner of an entry, in the layout of R384. -/
def entryPartner (v : Word32) : Nat := fld v 0 25
/-- Whether an entry receives. -/
def entryRecv (v : Word32) : Bool := entryKind v == 1 || entryKind v == 3
/-- Whether an entry sends. -/
def entrySend (v : Word32) : Bool := entryKind v == 2 || entryKind v == 4

/-- Whether an entry's partner lies where its kind asks (R386). -/
def State.partnerOk (s : State) (v : Word32) : Bool :=
  if entryKind v = 1 ∨ entryKind v = 2 then fld v 0 16 == s.ownDev && entryPartner v != s.selfPartner
  else fld v 0 16 != s.ownDev

/-- Whether entries up to the first END form a valid schedule; `ring` says that a RING_RECV has come (R386). -/
def State.schedOk (s : State) (ring : Bool) : List Word32 → Bool
  | [] => false
  | v :: rest =>
    fld v 28 4 == 0 && match entryKind v with
      | 1 => !ring && s.partnerOk v && s.schedOk false rest
      | 2 => !ring && s.partnerOk v && rest.isEmpty
      | 3 => !ring && s.partnerOk v && s.schedOk true rest
      | 4 => s.partnerOk v && rest.isEmpty
      | 5 => rest.isEmpty
      | _ => false

/-- The schedule a block of 32 husked words holds: its entries before the first END; none when one read is not husked
(R384, R386). -/
def readSched : List Dword → Option (List Word32)
  | [] => some []
  | d :: ds =>
    match huskValue d with
    | none => none
    | some v =>
      if entryKind v = 0 then (if fld v 28 4 = 0 then some [] else none)
      else (readSched ds).map (v :: ·)

/-! ### Errors and the step log (R410, R411, R415) -/

/-- Set an RDU_ERR bit of a port; the first after RDU_ERR is cleared captures. -/
def State.rduErr (s : State) (p : PortId) (b kind : Nat) (g entry step addr : Nat) : State :=
  let pg := pgMp p
  let s1 := if s.rf pg 0x520 0 8 = 0 then
      (s.setReg pg 0x528 (BitVec.ofNat 64 (g % 64 + 2 ^ 6 * (entry % 32) + 2 ^ 11 * kind + 2 ^ 32 * step))).setReg pg 0x530
        (BitVec.ofNat 64 addr)
    else s
  s1.orReg pg 0x520 (1 <<< b)

/-- A stray arrival. -/
def State.stray (s : State) (p : PortId) (g entry step partner : Nat) : State :=
  (s.rduErr p 2 13 g entry step partner).bumpRf (pgMp p) 0x540 32 32 1

/-- SLOG.EN as it reads (R416). -/
def State.slogOn (s : State) : Bool :=
  let n := s.rf 8 0x510 16 4
  s.rf 8 0x510 20 1 == 1 && decide (4 ≤ n) && decide (n ≤ 12)
    && decide (s.rf 8 0x510 0 16 * 256 + 64 * 2 ^ n ≤ cmSize)

/-- Write bytes into the CM for port `p`'s RDU; the memory refuses after a cluster fault. -/
def State.rduStore (s : State) (p : PortId) (off : Nat) (bs : List Byte) : State :=
  if s.cmServed then ((s.rduPass p off).store (8 + p.val) off bs).s else s

/-- Write a step-log record (R410), or set RDU_ERR.LOG while the log is off (R411). -/
def State.stepLog (s : State) (g : GroupId) (type entry key0 step w3 w4 w5 : Nat) : State :=
  let p := s.home g
  if s.slogOn then
    let wp := s.rf 8 0x518 0 32
    let cyc := (vget 0 s.portCyc p.val).toNat
    let r := mkRecord [type + 2 ^ 8 * g.val + 2 ^ 14 * entry, key0, step, w3, w4, w5, cyc % 2 ^ 32, cyc / 2 ^ 32]
    (s.rduStore p (s.rf 8 0x510 0 16 * 256 + 64 * (wp % 2 ^ s.rf 8 0x510 16 4)) (recBytes r)).bumpRf 8 0x518 0 32 1
  else s.orReg (pgMp p) 0x520 (1 <<< 7)

/-- A step-log record about a partner for the open instance's key. -/
def State.logPair (s : State) (g : GroupId) (k : Inst) (type partner : Nat) : State :=
  s.stepLog g type k.entry (s.gid g + 2 ^ 16 * postBucket k.post) (postStep k.post) partner 0 0

/-! ### Lanes -/

/-- Bytes read from the CM with every uncorrectable word as 0 (R398), whether one was, and the state. -/
structure LanesRead where
  bytes : List Byte
  bad   : Bool
  s     : State

/-- Read lanes of an instance from the CM by the RDU of port `p`; an uncorrectable word sets its RDU_ERR.UE (R383, R398). -/
def State.readLanes (s : State) (p : PortId) (g : GroupId) (k : Inst) (off : Nat) : LanesRead :=
  let n := 256 * postLen k.post
  if s.cmServed then
    let r := (s.rduPass p off).load (8 + p.val) off n
    let bytes := r.bytes.mapIdx fun i b => if r.bad.contains ((off + i) / 8 * 8) then 0 else b
    match r.bad with
    | [] => ⟨bytes, false, r.s⟩
    | w :: _ => ⟨bytes, true, r.s.rduErr p 5 11 g.val k.entry (postStep k.post) w⟩
  else ⟨List.replicate n 0, true, s.rduErr p 5 11 g.val k.entry (postStep k.post) off⟩

/-- Where a partial sum lies (R383). -/
def State.placeAt (s : State) (g : GroupId) (k : Inst) : PAt → Nat
  | .src => postSrc k.post
  | .area b => s.rbufOff g + (if b then s.areaSize g else 0)

/-- The RBUF area that does not hold P. -/
def PAt.other : PAt → PAt
  | .src => .area false
  | .area b => .area (!b)

/-- Bytes of a lane: INT32 lanes in a pre-pass (R409), else as W64 says (R389). -/
def laneBytes (post : Vector Dword 8) : Nat := if postW64 post && !postPp post then 8 else 4

/-- Lanes as unsigned numbers. -/
def lanesOf (w : Nat) : Nat → List Byte → List Nat
  | 0, _ => []
  | n + 1, bs => leNat (bs.take w) :: lanesOf w n (bs.drop w)

/-- The lanes of an instance's byte string. -/
def postLanes (post : Vector Dword 8) (bs : List Byte) : List Nat :=
  let w := laneBytes post
  lanesOf w (256 * postLen post / w) bs

/-- The checksum: lanes sign-extended to 64 bits, summed (R395). A pre-pass has none (R409). -/
def checksum (post : Vector Dword 8) (bs : List Byte) : Dword :=
  if postPp post then 0
  else (postLanes post bs).foldl (fun (a : Dword) v => a + BitVec.ofInt 64 (sext (8 * laneBytes post) v)) 0

/-- Lanes combined: added with wrap, or the signed maximum in a pre-pass (R398, R409). -/
def combineLanes (post : Vector Dword 8) (xs ys : List Byte) : List Byte :=
  let w := laneBytes post
  ((postLanes post xs).zip (postLanes post ys)).flatMap fun p =>
    natLe w (if postPp post then (if sext (8 * w) p.1 < sext (8 * w) p.2 then p.2 else p.1)
      else (p.1 + p.2) % 2 ^ (8 * w))

/-- ceil(log2 n) (R387). -/
def clog2 (n : Nat) : Nat := if n ≤ 1 then 0 else Nat.log2 (n - 1) + 1

/-- Whether a lane passes the group's lane limit (R387). -/
def State.overLimit (s : State) (g : GroupId) (post : Vector Dword 8) (bs : List Byte) : Bool :=
  let w := 8 * laneBytes post
  let lim := 2 ^ (w - 1 - clog2 (s.nmemb g)) - 1
  !postPp post && (postLanes post bs).any fun v => decide (lim < (sext w v).natAbs)

/-! ### Sending (R394, R400, R405, R426) -/

/-- The partner of schedule entry `i`. -/
def State.partnerAt (s : State) (g : GroupId) (i : Nat) : Nat := entryPartner ((s.group g).sched.getD i 0)

/-- The port on the route to the partner of entry `i`, whose RDU sends to it (R383, R405); the home port where there is none. -/
def State.redPort (s : State) (g : GroupId) (i : Nat) : PortId :=
  match s.route (BitVec.ofNat 32 (s.partnerAt g i)) false false with
  | .out p _ => p
  | .deliver => s.home g
  | .noroute => s.home g

/-- Send one RED packet to the partner of entry `i`; a packet without a route is discarded and counted (R440). Its TAG names the
group and the entry, which an error response brings back (R400, log entry 118). -/
def State.sendRed (s : State) (g : GroupId) (i seg flags : Nat) (payload : List Byte) : State :=
  let p := s.redPort g i
  let k : Packet := { Packet.blank 7 1 (BitVec.ofNat 32 (s.partnerAt g i)) with
    src := s.srcWord (8 + p.val), tag := BitVec.ofNat 11 (g.val + 64 * i), spec := BitVec.ofNat 48 (seg + 2 ^ 16 * flags)
    payload := payload }
  match s.sendMesh k with
  | some t => t
  | none => s.bumpRf (pgMp p) 0x130 32 32 1

/-- Send lanes and a TAIL to the partners of some entries: in packets of up to eight units, or, to several partners, of one
unit in turn (R405, R426). `code` counts the units on the pages of the RDUs that send (R417). -/
def State.sendLanes (s : State) (g : GroupId) (is : List Nat) (code : Nat) (tail : RedRecord) (bs : List Byte) : State :=
  let w := if is.length ≤ 1 then 2048 else 256
  let n := (bs.length + w - 1) / w
  let chunk := fun (k : Nat) => (bs.drop (w * k)).take w
  let s1 := (List.range n).foldl (fun (t : State) k => is.foldl (fun (t : State) i => t.sendRed g i k 0 (chunk k)) t) s
  let s2 := is.foldl (fun (t : State) i => t.sendRed g i 0 2 (recBytes tail)) s1
  is.foldl (fun (t : State) i => t.pm (pgMp (t.redPort g i)) code (bs.length / 256)) s2

/-- The own SEND or RING_SEND entry of a schedule. -/
def Group.sender (k : Group) : Option Nat := (k.sched.find? entrySend).map entryPartner

/-! ### Delivery (R406, R407) -/

/-- A value rounded to FP64, nearest-even (R406). -/
def rnd64 : Val → Val
  | .nan => .nan
  | .inf s => .inf s
  | .fin s m e =>
    if m = 0 then .fin s 0 0
    else if log2Mag m e < -1100 then .fin s 0 0
    else if 1100 < log2Mag m e then .inf s
    else
      let q := max (log2Mag m e) (-1022) - 52
      let u := roundUnits .rne m e q
      if 1024 ≤ log2Mag u q ∧ u ≠ 0 then .inf s else .fin s u q

/-- A value divided by a count, nearest-even in FP64 (R406). -/
def div64 (v : Val) (n : Nat) : Val :=
  match v with
  | .nan => .nan
  | .inf s => .inf s
  | .fin s m e =>
    if m = 0 then .fin s 0 0
    else if n = 0 then .inf s
    else
      let x := 2 ^ 100 * m
      rnd64 (.fin s (2 * (x / n) + (if x % n = 0 then 0 else 1)) (e - 101))

/-- A delivered lane as FP32 bits (R406). -/
def deliverLane (v e : Int) (n : Nat) : Nat :=
  if v = 0 then 0 else f32Bits (div64 (rnd64 ((rnd64 (Val.ofInt v)).scale e)) n)

/-- The bytes written to DST: converted lanes, or the maximum lanes of a pre-pass (R406, R409). -/
def deliverBytes (post : Vector Dword 8) (e : Word32) (count : Nat) (bs : List Byte) : List Byte :=
  if postPp post then bs
  else
    let w := 8 * laneBytes post
    let n := if postNodiv post then 1 else count
    (postLanes post bs).flatMap fun v => natLe 4 (deliverLane (sext w v) e.toInt n)

/-- Raise STEP_REPEAT (R407, R507). -/
def State.stepRepeat (s : State) (g : GroupId) (reason step : Nat) : State :=
  let p := s.home g
  let s1 := ((s.bumpRf (pgMp p) 0x540 0 32 1).pm (pgMp p) 0x47 1).modReg 0 0x1B0 fun v =>
    setFld (setFld v 0 32 (fld v 0 32 + 1)) 32 12 (g.val + 2 ^ 6 * p.val + 2 ^ 8 * reason)
  s1.evt 5 (BitVec.ofNat 64 (g.val + 2 ^ 6 * p.val + 2 ^ 8 * reason + 2 ^ 32 * step))

/-- Write a status record, set CF when CFE is 1, and raise STEP_REPEAT when the reason is not 0 (R407). -/
def State.writeStatus (s : State) (g : GroupId) (post : Vector Dword 8) (lead tail : RedRecord) (reason : Nat) : State :=
  let s1 := s.rduStore (s.home g) (postStat post) (recBytes lead ++ recBytes tail)
  let s2 := if bitAt post[5] 5 then s1.setCf (post[5].extractLsb' 0 5) true else s1
  if reason = 0 then s2 else s2.stepRepeat g reason (postStep post)

/-- The status record of an instance is written, STEP_END logged and the instance closed (R403, R407, R411). -/
def State.closeInst (s : State) (g : GroupId) (k : Inst) : State :=
  let s1 := s.writeStatus g k.post k.resLead k.resTail k.reason.toNat
  let t0 := (k.resTail[0]).extractLsb' 0 32
  let s2 := s1.stepLog g 1 k.entry (s.gid g + 2 ^ 16 * postBucket k.post) (postStep k.post) (fld t0 0 24) k.miss t0.toNat
  s2.updGroup g fun x => { x with inst := none }

/-- The values of a record that has passed its check. -/
def valuesOf (r : RedRecord) : List Word32 := (recValues r).getD []

/-- A result's LEAD as this cluster forwards it to the partner of entry `i`: it names the entry and the cluster that sends it
(R394). -/
def State.forwardLead (s : State) (lead : RedRecord) (i : Nat) : RedRecord :=
  let v := recVal (valuesOf lead)
  mkRecord [v 0, v 1, v 2, v 3 % 2 ^ 17 + 2 ^ 17 * (i % 32), s.selfPartner]

/-- A result is held: it is forwarded to the partners of the first `n` entries that receive, and converted to DST when its
reason is 0 (R405, R406). -/
def State.holdResult (s : State) (g : GroupId) (n : Nat) (lead tail : RedRecord) (bs : List Byte)
    (e : Word32) (count reason : Nat) (post : Vector Dword 8) : State :=
  let is := (List.range n).filter fun i => entryRecv ((s.group g).sched.getD i 0)
  let s1 := is.foldl (fun (t : State) i => t.sendRed g i 0 1 (recBytes (t.forwardLead lead i))) s
  let s2 := s1.sendLanes g is 0x42 tail bs
  if reason = 0 then s2.rduStore (s.home g) (postDst post) (deliverBytes post e count bs) else s2

/-! ### Running an instance (R395 to R405, R409) -/

/-- E of a pre-pass result (R409). -/
def State.prepassE (s : State) (g : GroupId) (post : Vector Dword 8) (bs : List Byte) : Word32 :=
  let m := sext 32 (leNat (bs.take 4))
  let w : Int := if postW64 post then 64 else 32
  if m = -2147483648 then 0 else BitVec.ofInt 32 (m + clog2 (s.nmemb g) + 3 - w)

/-- The reason the root fixes (R404). -/
def State.rootReason (s : State) (g : GroupId) (h : RedHeader) : Nat :=
  if s.maxMiss g < s.nmemb g - h.count then 1
  else if h.ovf then 2
  else if h.ckerr then 3
  else if h.emis then 4
  else if s.nmemb g < h.count then 5
  else 0

/-- The root's decision at its ROOT entry (R404); the result is P. -/
def State.rootDecide (s : State) (g : GroupId) (k : Inst) : State :=
  let r := s.readLanes (s.home g) g k (s.placeAt g k k.pAt)
  let pp := postPp k.post
  let ck := !pp && (r.bad || checksum k.post r.bytes != k.hdr.sum)
  let h := { k.hdr with ckerr := k.hdr.ckerr || ck }
  let reason := r.s.rootReason g h
  let miss := r.s.nmemb g - h.count
  let e := if pp then r.s.prepassE g k.post r.bytes else k.e
  let lead := r.s.ownLead g k.post e (if pp then 4 else 1) k.entry
  let tail := tailOf h reason miss
  let s1 := r.s.updInst g fun x => { x with
    st := .deliver, hdr := h, e := e, reason := BitVec.ofNat 4 reason, miss := miss, resAt := k.pAt, resLead := lead, resTail := tail }
  s1.holdResult g k.entry lead tail r.bytes e h.count reason k.post

/-- The LEAD of the own contribution for entry `i`. -/
def State.contribLead (s : State) (g : GroupId) (k : Inst) (i : Nat) : RedRecord :=
  s.ownLead g k.post k.e (if postPp k.post then 3 else 0) i

/-- The lanes and TAIL of the own contribution leave for entry `i`; the result is then awaited (R400). -/
def State.sendBody (s : State) (g : GroupId) (i : Nat) (h : RedHeader) (bs : List Byte) : State :=
  ((s.sendLanes g [i] 0x41 (tailOf h 0 0) bs).updInst g fun x => { x with entry := i, st := .waitResult, hdr := h }).updGroup g
    fun x => { x with req := none }

/-- P is sent to the partner that has asked for it; the result is then awaited (R400). -/
def State.sendP (s : State) (g : GroupId) (k : Inst) : State :=
  let r := s.readLanes (s.redPort g k.entry) g k (s.placeAt g k k.pAt)
  let h := { k.hdr with ckerr := k.hdr.ckerr || (r.bad && !postPp k.post) }
  (r.s.sendRed g k.entry 0 1 (recBytes (r.s.contribLead g k k.entry))).sendBody g k.entry h r.bytes

/-- Whether the kept REQ asks for the open instance. -/
def Group.reqHeld (x : Group) (k : Inst) : Bool :=
  match x.req with
  | none => false
  | some r => match recValues r with
    | none => false
    | some vs => leadKey vs == postKeyOf k.post

/-- The schedule's next entry begins (R395): a REQ for a receiving one, P for a sending one whose REQ is held, the decision
at ROOT. -/
def State.enterEntry (s : State) (g : GroupId) : State :=
  match (s.group g).inst with
  | none => s
  | some k =>
    match (s.group g).sched[k.entry]? with
    | none => s
    | some v =>
      if entryRecv v then
        (s.updInst g fun x => { x with st := .waitLead }).sendRed g k.entry 0 5
          (recBytes (s.ownLead g k.post k.e 2 k.entry))
      else if entrySend v then
        let s1 := s.updInst g fun x => { x with st := .waitReq }
        if (s.group g).reqHeld k then s1.sendP g k else s1
      else s.rootDecide g k

/-- The pair of the entry in progress is resolved; the next entry begins. -/
def State.nextEntry (s : State) (g : GroupId) : State := (s.updInst g fun x => { x with entry := x.entry + 1 }).enterEntry g

/-- A pair is resolved without its partner: MISSING logged and counted, PARTIAL set (R396, R397). -/
def State.missed (s : State) (g : GroupId) (k : Inst) (partner : Nat) : State :=
  let p := s.home g
  let s1 := (s.logPair g k 2 partner).bumpRf (pgMp p) 0x538 32 32 1
  (s1.pm (pgMp p) 0x45 1).updInst g fun x => { x with hdr := { x.hdr with partial_ := true } }

/-- A pair is resolved without its partner, and the next entry begins. -/
def State.resolveMissing (s : State) (g : GroupId) (k : Inst) (partner : Nat) : State := (s.missed g k partner).nextEntry g

/-- The units of S that an incomplete contribution has formed: how many, and their bytes, are open (log entry 94). -/
def State.partialSum (s : State) (p : PortId) (g : GroupId) (k : Inst) : List Byte × State :=
  let (n, s1) := s.drawChoice (postLen k.post)
  let bs := (List.range (256 * n)).map fun i => Config.freeByte (s1.draws + i)
  (bs, { s1 with draws := s1.draws + 256 * n }.rduStore p (s1.placeAt g k k.pAt.other) bs)

/-- An accepted contribution fails: S is discarded and the pair is resolved as missing (R397, R427). In cut-through the units
that follow those already sent come from P alone, and the TAIL carries CKERR with P's COUNT (R401, R409). -/
def State.failPair (s : State) (p : PortId) (g : GroupId) (k : Inst) (cut : Bool) (partner : Nat) : State :=
  let (bs, s1) := s.partialSum p g k
  let s2 := s1.missed g k partner
  if cut then
    let r := s2.readLanes (s2.redPort g (k.entry + 1)) g k (s2.placeAt g k k.pAt)
    r.s.sendBody g (k.entry + 1) { k.hdr with partial_ := true, ckerr := k.hdr.ckerr || !postPp k.post }
      (bs ++ r.bytes.drop bs.length)
  else s2.nextEntry g

/-! ### Posts (R390 to R393) -/

/-- KIND of R415 for a refused post; none when it is accepted (R393). -/
def State.postFault (s : State) (p : PortId) (r : Vector Dword 8) : Option Nat :=
  let g := postG r
  if !(s.group g).en || s.home g != p then some 8
  else if postRsv r || decide (s.areaSize g < 256 * postLen r) || postSrc r % 256 != 0 || postDst r % 256 != 0
      || decide (cmSize < postSrc r + 256 * postLen r) || decide (cmSize < postDst r + postDstLen r) || !postStatOk r then some 6
  else match (s.group g).postKey with
    | some b => if keyLater (postKeyOf r) b then none else some 7
    | none => none

/-- A post reaches an RDU: queued, or refused with a status record when STAT is valid (R392, R393). None while the queue is
full: the write is held. -/
def State.rduPost (s : State) (p : PortId) (r : Vector Dword 8) : Option State :=
  if 16 ≤ (s.posts[p]).length then none
  else
    let g := postG r
    match s.postFault p r with
    | none =>
      let s1 := { s with posts := s.posts.set p (s.posts[p] ++ [r]) }
      let first := fun (x : Option (BitVec 48)) => match x with
        | none => some (postKeyOf r)
        | some b => some b
      some ((s1.updGroup g fun x => { x with postKey := some (postKeyOf r), key := first x.key }).pm (pgMp p) 0x43 1)
    | some kind =>
      let s1 := (s.rduErr p 1 kind g.val 0 (postStep r) (postStat r)).bumpRf (pgMp p) 0x540 32 32 1
      if postStatOk r then
        let h : RedHeader := ⟨0, 0, false, false, false, false⟩
        some (s1.writeStatus g r (s1.ownLead g r (postE r) (if postPp r then 3 else 0) 0) (tailOf h 7 0) 7)
      else some s1

/-- Submit a post; while the queue is full, or another write waits, it is held (R392). -/
def State.postOrHold (s : State) (p : PortId) (r : Vector Dword 8) : State :=
  if s.heldPosts.any fun x => x.1 == p then { s with heldPosts := s.heldPosts ++ [(p, r)] }
  else match s.rduPost p r with
    | none => { s with heldPosts := s.heldPosts ++ [(p, r)] }
    | some t => t

/-- A place in a port's post queue is free: the held writes follow, oldest first (R392). -/
def State.takeHeld (s : State) (p : PortId) : Nat → State
  | 0 => s
  | n + 1 =>
    match takeFirst (fun (x : PortId × Vector Dword 8) => x.1 == p) s.heldPosts with
    | none => s
    | some (x, rest) =>
      match { s with heldPosts := rest }.rduPost p x.2 with
      | none => s
      | some t => t.takeHeld p n

/-- RED_POST: host software or an OUT stream submits a post record (R390). -/
def execRedPost (p : PortId) (record : Vector Dword 8) (s : State) : Host.Outcome State Fault Refusal :=
  if !s.rduReady p then .next s else .next (s.postOrHold p record)

/-- The kept result of a group for a key. -/
def Group.keptFor (x : Group) (key : BitVec 48) : Option (RedRecord × RedRecord) :=
  match x.kept with
  | none => none
  | some (lead, tail) => match recValues lead with
    | none => none
    | some vs => if leadKey vs = key then some (lead, tail) else none

/-- INSTANCE_OPEN: the oldest queued post of a group opens (R392, R395); a kept result for its key is delivered at once
(R403). -/
def execInstanceOpen (g : GroupId) (s : State) : Host.Outcome State Fault Refusal :=
  let x := s.group g
  let p := s.home g
  if !x.en || x.inst.isSome || !s.rduReady p then .next s
  else match takeFirst (fun r => postG r == g) s.posts[p] with
    | none => .next s
    | some (post, rest) =>
      let h0 : RedHeader := ⟨1, 0, postOvf post, false, false, false⟩
      let blank : RedRecord := mkRecord []
      let k0 : Inst := ⟨post, 0, .deliver, .src, h0, postE post, 0, 0, .src, blank, blank, false⟩
      let s0 := { s with posts := s.posts.set p rest }.takeHeld p s.heldPosts.length
      match x.keptFor (postKeyOf post) with
      | some (lead, tail) =>
        let vs := valuesOf lead
        let ts := valuesOf tail
        let reason := recVal ts 0 / 2 ^ 28
        let k := { k0 with
          e := vs.getD 2 0, reason := BitVec.ofNat 4 reason, miss := recVal ts 3 % 2 ^ 24, resAt := .area true, resLead := lead,
          resTail := tail, late := true }
        let s1 := s0.updGroup g fun y => { y with key := some (postKeyOf post), kept := none, inst := some k }
        let s2 := s1.logPair g k 7 s1.selfPartner
        let r := s2.readLanes p g k (s2.placeAt g k (.area true))
        .next (r.s.holdResult g x.sched.length lead tail r.bytes k.e (recVal ts 0 % 2 ^ 24) reason post)
      | none =>
        let r := s0.readLanes p g k0 (postSrc post)
        let h := { h0 with
          sum := checksum post r.bytes, ovf := postOvf post || r.s.overLimit g post r.bytes, ckerr := r.bad && !postPp post }
        let k := { k0 with hdr := h }
        .next ((r.s.updGroup g fun y =>
          { y with key := some (postKeyOf post), kept := none, inst := some k }).enterEntry g)

/-! ### Arrivals (R399) -/

/-- A RED record that arrives in SLEEP is dropped as stray (R523). -/
def State.strayAsleep (s : State) (p : PortId) (lead : RedRecord) : State :=
  s.stray p 0 0 (recVal (valuesOf lead) 1) (leadFrom (valuesOf lead))

/-- REQ_ARRIVAL: a request is kept for the own SEND or RING_SEND entry, which sends P when it waits for it, or is discarded
as stray (R399, R400). -/
def execReqArrival (p : PortId) (lead : RedRecord) (s : State) : Host.Outcome State Fault Refusal :=
  if !s.rduReady p then .next s
  else if s.ccu.power = .sleep then .next (s.strayAsleep p lead)
  else match recValues lead with
    | none => .next (s.stray p 0 0 0 0)
    | some vs =>
      match s.slotOf (recVal vs 0 % 2 ^ 16) with
      | none => .next (s.stray p 0 0 (recVal vs 1) (leadFrom vs))
      | some g =>
        let x := s.group g
        let older := match x.key with
          | some b => leadKey vs != b && !keyLater (leadKey vs) b
          | none => false
        if x.sender != some (leadFrom vs) || older then .next (s.stray (s.home g) g.val 0 (recVal vs 1) (leadFrom vs))
        else
          let s1 := s.updGroup g fun y => { y with req := some lead }
          match x.inst with
          | some k =>
            if k.st = .waitReq ∧ (s1.group g).reqHeld k then .next (s1.sendP g k) else .next s1
          | none => .next s1

/-- Whether a LEAD's LEN256, W64 and KIND class fit an instance (R399). -/
def leadFits (post : Vector Dword 8) (vs : List Word32) : Bool :=
  recVal vs 3 % 2 ^ 13 == postLen post && (vs.getD 3 0).getLsbD 13 == postW64 post && leadKind vs == (if postPp post then 3 else 0)

/-- Index of the receiving entry that names a partner, up to entry `n`. -/
def Group.recvIndex (x : Group) (n partner : Nat) : Option Nat :=
  (x.sched.take n).findIdx? fun v => entryRecv v && entryPartner v == partner

/-- Whether the post of a key still waits in the home port's queue: no instance of it has opened (R393). -/
def State.unopened (s : State) (g : GroupId) (key : BitVec 48) : Bool :=
  (s.posts[s.home g]).any fun r => postG r == g && postKeyOf r == key

/-- A late contribution is dropped whole (R399). -/
def State.lateDrop (s : State) (g : GroupId) (entry : Nat) (vs : List Word32) : State :=
  let p := s.home g
  ((s.stepLog g 3 entry (recVal vs 0) (recVal vs 1) (leadFrom vs) 0 0).bumpRf (pgMp p) 0x538 0 32 1).pm (pgMp p) 0x46 1

/-- Whether the sum of a RING_RECV is cut through to the successor (R401). -/
def Group.cutting (x : Group) (k : Inst) : Bool :=
  (match x.sched[k.entry]?, x.sched[k.entry + 1]? with
   | some v, some w => entryKind v == 3 && entryKind w == 4
   | _, _ => false) && x.reqHeld k

/-- A contribution is accepted by port `p`; in cut-through the own LEAD leaves at once (R396, R401). -/
def State.acceptLead (s : State) (p : PortId) (g : GroupId) (k : Inst) (lead : RedRecord) : State :=
  let cut := (s.group g).cutting k
  let s1 := s.updInst g fun y => { y with st := .adding lead p cut }
  if cut then s1.sendRed g (k.entry + 1) 0 1 (recBytes (s1.contribLead g k (k.entry + 1))) else s1

/-- LEAD_ARRIVAL: a contribution begins to arrive; it is accepted for the open pair, or dropped whole (R396, R399). -/
def execLeadArrival (p : PortId) (lead : RedRecord) (s : State) : Host.Outcome State Fault Refusal :=
  if !s.rduReady p then .next s
  else if s.ccu.power = .sleep then .next (s.strayAsleep p lead)
  else match recValues lead with
    | none => .next (s.stray p 0 0 0 0)
    | some vs =>
      match s.slotOf (recVal vs 0 % 2 ^ 16) with
      | none => .next (s.stray p 0 0 (recVal vs 1) (leadFrom vs))
      | some g =>
        let x := s.group g
        let from_ := leadFrom vs
        let drop := s.stray (s.home g) g.val 0 (recVal vs 1) from_
        match x.key with
        | none => .next drop
        | some b =>
          if s.unopened g b ∧ !keyLater b (leadKey vs) then .next drop
          else if leadKey vs ≠ b then
            (if keyLater (leadKey vs) b then .next drop
             else .next (s.lateDrop g ((x.recvIndex x.sched.length from_).getD 0) vs))
          else match x.inst with
            | none =>
              match x.recvIndex x.sched.length from_ with
              | some i => .next (s.lateDrop g i vs)
              | none => .next drop
            | some k =>
              let here := match x.sched[k.entry]? with
                | some v => entryRecv v && entryPartner v == from_
                | none => false
              match k.st with
              | .waitLead =>
                if here then
                  (if leadFits k.post vs then .next (s.acceptLead p g k lead)
                   else .next (drop.logPair g k 4 from_))
                else match x.recvIndex k.entry from_ with
                  | some i => .next (s.lateDrop g i vs)
                  | none => .next drop
              | .adding _ q cut =>
                if here then .next (drop.failPair q g k cut from_)
                else match x.recvIndex k.entry from_ with
                  | some i => .next (s.lateDrop g i vs)
                  | none => .next drop
              | _ =>
                match x.recvIndex k.entry from_ with
                | some i => .next (s.lateDrop g i vs)
                | none => .next drop

/-- CONTRIBUTION_COMPLETE: the lanes and TAIL of the accepted contribution have come; S becomes P and the headers combine
(R395, R398), and in cut-through S leaves for the successor (R401). The RDU of the port it enters by adds (R383). Lanes that
are not the announced number of segments in order make the pair resolve as missing (R427). -/
def execContributionComplete (g : GroupId) (lanes : List Byte) (tail : RedRecord) (s : State) :
    Host.Outcome State Fault Refusal :=
  let x := s.group g
  let p := s.home g
  match x.inst with
  | none => .next s
  | some k =>
    match k.st with
    | .adding lead q cut =>
      let vs := valuesOf lead
      let from_ := leadFrom vs
      if !s.rduReady p || !s.rduLive q then .next s
      else match recValues tail with
        | none => .next (s.stray p g.val k.entry (postStep k.post) from_)
        | some ts =>
          if lanes.length ≠ 256 * postLen k.post then
            .next ((s.stray p g.val k.entry (postStep k.post) from_).failPair q g k cut from_)
          else
            let r := s.readLanes q g k (s.placeAt g k k.pAt)
            let pp := postPp k.post
            let t := headerOf ts
            let miss := !pp && checksum k.post lanes != t.sum
            let s1 := if miss then r.s.logPair g k 5 from_ else r.s
            let at_ := k.pAt.other
            let sum := combineLanes k.post r.bytes lanes
            let s2 := s1.rduStore q (s1.placeAt g k at_) sum
            let h : RedHeader := ⟨(k.hdr.count + t.count) % 2 ^ 24, if pp then 0 else k.hdr.sum + t.sum, k.hdr.ovf || t.ovf,
              !pp && (k.hdr.ckerr || t.ckerr || miss || r.bad), k.hdr.partial_ || t.partial_,
              k.hdr.emis || t.emis || vs.getD 2 0 != k.e⟩
            let s3 := (s2.pm (pgMp q) 0x40 (postLen k.post)).pm (pgMp p) 0x44 1
            let s4 := s3.updInst g fun y => { y with pAt := at_, hdr := h }
            .next (if cut then s4.sendBody g (k.entry + 1) h sum else s4.nextEntry g)
    | _ => .next s

/-- PAIR_DEADLINE: no LEAD has come by the deadline (R396). -/
def execPairDeadline (g : GroupId) (s : State) : Host.Outcome State Fault Refusal :=
  let x := s.group g
  match x.inst with
  | none => .next s
  | some k =>
    match k.st, x.sched[k.entry]? with
    | .waitLead, some v => if s.rduReady (s.home g) then .next (s.resolveMissing g k (entryPartner v)) else .next s
    | _, _ => .next s

/-- XFER_TMO_EXPIRY: an accepted contribution is not complete in time; S is discarded and the pair resolves as missing
(R397). In cut-through the units go on from P alone and the TAIL carries CKERR (R401). -/
def execXferTmoExpiry (g : GroupId) (s : State) : Host.Outcome State Fault Refusal :=
  let x := s.group g
  let p := s.home g
  match x.inst with
  | none => .next s
  | some k =>
    match k.st with
    | .adding lead q cut =>
      if !s.rduReady p then .next s
      else
        let from_ := leadFrom (valuesOf lead)
        .next ((s.rduErr p 3 9 g.val k.entry (postStep k.post) from_).failPair q g k cut from_)
    | _ => .next s

/-- RESULT_ARRIVAL: a result is delivered and forwarded, kept for a later key, or dropped as stray (R399, R403, R405). The RDU
of the port it enters by stores its lanes (R383). One for a later key that comes while an instance is open is not kept,
since both areas are in use (R403, log entry 95). -/
def execResultArrival (p : PortId) (lead : RedRecord) (lanes : List Byte) (tail : RedRecord) (s : State) :
    Host.Outcome State Fault Refusal :=
  if !s.rduReady p then .next s
  else if s.ccu.power = .sleep then .next (s.strayAsleep p lead)
  else match recValues lead, recValues tail with
    | some vs, some ts =>
      match s.slotOf (recVal vs 0 % 2 ^ 16) with
      | none => .next (s.stray p 0 0 (recVal vs 1) (leadFrom vs))
      | some g =>
        let x := s.group g
        let drop := s.stray (s.home g) g.val 0 (recVal vs 1) (leadFrom vs)
        if x.sender ≠ some (leadFrom vs) then .next drop
        else
          let later := match x.key with
            | some b => keyLater (leadKey vs) b
            | none => true
          match x.inst with
          | none =>
            if (later || (x.key == some (leadKey vs) && s.unopened g (leadKey vs))) && decide (lanes.length ≤ s.areaSize g) then
              .next ((s.rduStore p (s.rbufOff g + s.areaSize g) lanes).updGroup g fun y =>
                { y with kept := some (lead, tail) })
            else .next drop
          | some k =>
            if later then .next s
            else if x.key ≠ some (leadKey vs) ∨ k.st = .deliver ∨ lanes.length ≠ 256 * postLen k.post
                ∨ leadKind vs ≠ (if postPp k.post then 4 else 1) then .next drop
            else
              let reason := recVal ts 0 / 2 ^ 28
              let at_ := k.pAt.other
              let s1 := s.rduStore p (s.placeAt g k at_) lanes
              let s2 := s1.updInst g fun y => { y with
                st := .deliver, e := vs.getD 2 0, reason := BitVec.ofNat 4 reason, miss := recVal ts 3 % 2 ^ 24, resAt := at_,
                resLead := lead, resTail := tail }
              .next (s2.holdResult g k.entry lead tail lanes (vs.getD 2 0) (recVal ts 0 % 2 ^ 24) reason k.post)
    | _, _ => .next (s.stray p 0 0 0 0)

/-- RESULT_TMO: a sending entry's result timeout expires; the instance closes with NORESULT and forwards nothing (R400). -/
def execResultTmo (g : GroupId) (s : State) : Host.Outcome State Fault Refusal :=
  let x := s.group g
  let p := s.home g
  match x.inst with
  | none => .next s
  | some k =>
    if (k.st = .waitReq ∨ k.st = .waitResult) ∧ s.rduReady p then
      let partner := x.sender.getD 0
      let s1 := (s.rduErr p 4 10 g.val k.entry (postStep k.post) partner).logPair g k 6 partner
      let lead := s1.ownLead g k.post k.e (if postPp k.post then 3 else 0) k.entry
      .next (s1.closeInst g { k with reason := 6, miss := 0, resLead := lead, resTail := tailOf k.hdr 6 0 })
    else .next s

/-- DELIVERY_DONE: the DST writes are complete; the status record is written, CF set, the instance closed (R407). -/
def execDeliveryDone (g : GroupId) (s : State) : Host.Outcome State Fault Refusal :=
  let p := s.home g
  match (s.group g).inst with
  | none => .next s
  | some k =>
    if k.st = .deliver ∧ s.rduReady p then
      .next ((if k.reason = 0 then s.pm (pgMp p) 0x49 1 else s).closeInst g k)
    else .next s

/-! ### Setting up and stopping a group (R412, R413) -/

/-- The KIND of the first setup check that fails, and the schedule read (R412). -/
def State.setupFault (s : State) (g : GroupId) : Option Nat × List Word32 × State :=
  let p := s.home g
  let n := s.nmemb g
  if n < 1 ∨ 16777215 < n then (some 1, [], s)
  else if 8 < s.rblog g ∨ cmSize < s.rbufOff g + 2 * s.areaSize g then (some 2, [], s)
  else if cmSize < s.schedOff g + 256 ∨ !s.cmServed then (some 3, [], s)
  else
    let r := s.load (8 + p.val) (s.schedOff g) 256
    let ds := (List.range 32).map fun i => BitVec.ofNat 64 (leNat ((r.bytes.drop (8 * i)).take 8))
    match (if r.bad.isEmpty then readSched ds else none) with
    | none => (some 3, [], r.s)
    | some es =>
      if !s.schedOk false es then (some 3, [], r.s)
      else if (List.finRange 64).any fun h => h != g && (s.group h).en && s.gid h == s.gid g then (some 4, es, r.s)
      else if s.grp g 4 % 2 ^ 20 = 0 ∨ s.grp g 4 / 2 ^ 20 = 0 then (some 5, es, r.s)
      else (none, es, r.s)

/-- Whether a GRP_ID write would change GID or HOME. -/
def State.grpMoves (s : State) (g : GroupId) (v : Word32) : Bool := fld v 0 18 != s.grp g 0 % 2 ^ 18

/-- GROUP_ENABLE: a husked write of GRP_ID with EN = 1 copies the schedule and checks the setup (R386, R412). -/
def execGroupEnable (p : PortId) (g : GroupId) (value : Dword) (s : State) : Host.Outcome State Fault Refusal :=
  match huskValue value with
  | none => .next (s.huskErr (pgMp p))
  | some v =>
    if !v.getLsbD 18 then .next s
    else if (s.group g).en then (if s.grpMoves g v then .next (s.errBit (pgMp p) 2) else .next s)
    else
      let s1 := s.setReg 8 (0x600 + 0x28 * g.val) (BitVec.ofNat 64 (fld v 0 18))
      match s1.setupFault g with
      | (some kind, _, t) => .next (t.rduErr (t.home g) 0 kind g.val 0 0 (t.schedOff g))
      | (none, es, t) => .next (t.updGroup g fun _ => { Group.off with en := true, sched := es })

/-- GROUP_DISABLE: a husked write of GRP_ID with EN = 0 abandons the open instance and discards queued posts and kept
records (R413). -/
def execGroupDisable (p : PortId) (g : GroupId) (value : Dword) (s : State) : Host.Outcome State Fault Refusal :=
  match huskValue value with
  | none => .next (s.huskErr (pgMp p))
  | some v =>
    if v.getLsbD 18 then .next s
    else if (s.group g).en && s.grpMoves g v then .next (s.errBit (pgMp p) 2)
    else
      let s1 := s.setReg 8 (0x600 + 0x28 * g.val) (BitVec.ofNat 64 (fld v 0 18))
      let s2 := { s1 with posts := s1.posts.map fun (q : List (Vector Dword 8)) => q.filter fun r => postG r != g }.updGroup g
        fun _ => Group.off
      .next ((List.finRange 4).foldl (fun (t : State) q => t.takeHeld q s2.heldPosts.length) s2)

end Sys2Proof.Machine
end

