-- ==== Sys2Proof/Machine/Streams.lean ====
section
/-! DEFINITION. Stream units (R265 to R297): descriptors, address-generating programs, pieces and merged requests,
transpose, allowances, completion and faults. Address generation and requests run as far as the allowances let them in the
command that makes room; what is left goes on with the next. -/

namespace Sys2Proof.Machine

/-! ### Descriptor fields (R267) -/

/-- DIR. -/
def Desc.dir (d : Desc) : Nat := fld d.ctrl 0 2
/-- NEARMODE. -/
def Desc.nearMode (d : Desc) : Nat := fld d.ctrl 2 2
/-- NL. -/
def Desc.nl (d : Desc) : Bool := bitAt d.ctrl 4
/-- ACK. -/
def Desc.ack (d : Desc) : Bool := bitAt d.ctrl 5
/-- AFTER. -/
def Desc.after (d : Desc) : Bool := bitAt d.ctrl 6
/-- TRANS. -/
def Desc.trans (d : Desc) : Bool := bitAt d.ctrl 7
/-- Element width in bytes; ELW 3 is reserved. -/
def Desc.elw (d : Desc) : Nat := 2 ^ fld d.ctrl 8 2
/-- TR. -/
def Desc.tr (d : Desc) : Nat := fld d.ctrl 10 6 + 1
/-- TC. -/
def Desc.tc (d : Desc) : Nat := fld d.ctrl 16 6 + 1
/-- Bytes of a transpose block. -/
def Desc.block (d : Desc) : Nat := d.tr * d.tc * d.elw
/-- PGEN. -/
def Desc.pgen (d : Desc) : Bool := bitAt d.ctrl 22
/-- PGM. -/
def Desc.pgm (d : Desc) : Nat := fld d.ctrl 23 4
/-- Bytes of an index. -/
def Desc.idxW (d : Desc) : Nat := if bitAt d.ctrl 27 then 8 else 4
/-- MCMASK. -/
def Desc.mcMask (d : Desc) : BitVec 8 := d.ctrl.extractLsb' 28 8
/-- The device the far side lies on. -/
def State.farDev (s : State) (d : Desc) : Nat := if bitAt d.ctrl 36 then fld d.far 48 16 else s.ownDev
/-- FAR[47:0]. -/
def Desc.farLoc (d : Desc) : Addr := d.far.setWidth 48
/-- The address the descriptor was read from. -/
def QEntry.descAddr (e : QEntry) : Nat := e.a (fld e.bits 22 4)
/-- The program an LDPG names (R293). -/
def ldpgIndex (e : QEntry) : Nat := fld e.bits 18 4

/-! ### Errors (R290, R295) -/

/-- A stream fault: the ERR bit and KIND of R295, the abort cause and the DETAIL. -/
structure StrFault where
  b      : Nat
  kind   : Nat
  cause  : Nat
  detail : Nat

/-- A descriptor fails R268 for a reason. -/
def StrFault.desc (detail : Nat) : StrFault := ⟨8, 1, 0x04, detail⟩
/-- OVERRUN. -/
def StrFault.overrun : StrFault := ⟨9, 2, 0x04, 0⟩
/-- WINDOW. -/
def StrFault.window : StrFault := ⟨10, 3, 0x09, 0⟩
/-- ECC_UE. -/
def StrFault.ue : StrFault := ⟨11, 4, 0x08, 0⟩
/-- The element timeout. -/
def StrFault.tmo : StrFault := ⟨3, 5, 0x04, 0⟩
/-- REMOTE_ERR. -/
def StrFault.remote : StrFault := ⟨12, 6, 0x13, 0⟩

/-- The fault of a failed access. -/
def MemErr.strFault : MemErr → StrFault
  | .busy => .tmo
  | .ue => .ue
  | .refused => .window
  | .isolated => .window
  | .perm => .window
  | .remote _ => .remote

/-- Capture a stream fault and abort the task (R290, R295). -/
def State.strFault (s : State) (c : CoreId) (u : UnitId) (e : QEntry) (f : StrFault) (pc addr : Nat) : State :=
  let info0 := e.cw.toNat + 2 ^ 12 * u.val + 2 ^ 14 * f.kind + 2 ^ 18 * f.detail + 2 ^ 26 * (pc % 16)
  (s.err (pgStr c) f.b (BitVec.ofNat 64 info0) (BitVec.ofNat 64 addr)).cause c (BitVec.ofNat 8 f.cause)

/-! ### Units and active descriptors -/

/-- Unit u of core c. -/
def State.unit (s : State) (c : CoreId) (u : UnitId) : StrUnit := (s.core c).str.units[u]

/-- The descriptor that became active last. -/
def StrUnit.last (k : StrUnit) : Option ActDesc := k.acts.getLast?

/-- Change it. -/
def StrUnit.modLast (k : StrUnit) (f : ActDesc → ActDesc) : StrUnit :=
  match k.acts.getLast? with
  | none => k
  | some a => { k with acts := k.acts.dropLast ++ [f a] }

/-- Change the last active descriptor of a unit. -/
def State.modAct (s : State) (c : CoreId) (u : UnitId) (f : ActDesc → ActDesc) : State := s.updUnit c u (·.modLast f)

/-- Outstanding far requests of a unit, posted writes that hold their tag among them (R283). -/
def StrUnit.out (k : StrUnit) : Nat := k.acts.foldl (fun n a => n + a.outs.length) k.posted.length

/-- Whether a unit's active descriptor still has a request to make. -/
def StrUnit.issuing (k : StrUnit) : Bool :=
  match k.last with
  | some a => !a.issued && !a.waitT && !a.dead
  | none => false

/-- Whether the unit's active descriptor is an NL one. -/
def StrUnit.nl (k : StrUnit) : Bool :=
  match k.last with
  | some a => a.d.nl
  | none => false

/-- A fault while the last descriptor generates addresses or requests: it stops. -/
def State.actFault (s : State) (c : CoreId) (u : UnitId) (a : ActDesc) (f : StrFault) (addr : Nat) : State :=
  (s.modAct c u fun x => { x with emit := none, open_ := none, issued := true }).strFault c u a.d.e f a.ag.pc addr

/-- Whether the streams of a core may go on: the core's island works and no abort has been asked for or is running. -/
def State.strLive (s : State) (c : CoreId) : Bool :=
  s.alive c && (s.core c).seq.causes.isEmpty && !(s.core c).seq.abortTask

/-! ### Near side (R269, R278, R287) -/

/-- Whether LBUF is enabled (R287). -/
def State.lbufOn (s : State) (c : CoreId) : Bool :=
  let base := s.rf (pgStr c) 0x128 0 15 * 16
  let lg := s.rf (pgStr c) 0x128 15 4
  s.rf (pgStr c) 0x128 19 1 == 1 && base % 4096 == 0 && decide (12 ≤ lg) && decide (lg ≤ 18)
    && decide (base + 2 * 2 ^ lg ≤ cspSize)

/-- CSP offset of the near side; none when it passes its bounds (R269, R287). -/
def State.nearOf (s : State) (c : CoreId) (d : Desc) : Option Nat :=
  if d.nearMode = 0 then
    if d.nbytes = 0 then some 0
    else match s.ownCsp c (fld d.near 0 48) with
      | some o => if o + d.nbytes ≤ cspSize then some o else none
      | none => none
  else
    let size := 2 ^ s.rf (pgStr c) 0x128 15 4
    let k := if d.nearMode = 1 then (s.core c).str.cur else !(s.core c).str.cur
    let o := fld d.near 0 20
    if o + d.nbytes ≤ size then some (s.rf (pgStr c) 0x128 0 15 * 16 + bit k * size + o) else none

/-- Where source byte `p` of a transposing stream lands (R278). -/
def Desc.destOf (d : Desc) (p : Nat) : Nat :=
  let e := p / d.elw
  let q := e % (d.tr * d.tc)
  (e - q + (q % d.tc) * d.tr + q / d.tc) * d.elw + p % d.elw

/-- Which source byte lands at byte `p` (R278). -/
def Desc.sourceOf (d : Desc) (p : Nat) : Nat :=
  let e := p / d.elw
  let q := e % (d.tr * d.tc)
  (e - q + (q % d.tr) * d.tc + q / d.tr) * d.elw + p % d.elw

/-! ### AG programs (R271 to R275) -/

/-- Whether a straight walk finds the program valid from depth `d` (R273). -/
def agWalk (d : Nat) : List Dword → Bool
  | [] => false
  | i :: rest =>
    match fld i 60 4 with
    | 0 => d == 0
    | 1 => agWalk d rest
    | 2 => fld i 56 2 == d && decide (d < 4) && agWalk (d + 1) rest
    | 3 => d != 0 && agWalk (d - 1) rest
    | 4 => fld i 0 24 != 0 && decide (fld i 0 24 ≤ 524288) && agWalk d rest
    | 5 => fld i 0 24 != 0 && decide (fld i 0 24 ≤ 524288) && agWalk d rest
    | _ => false

/-- Whether a GATHER stands before the first END (R275). -/
def agGathers : List Dword → Bool
  | [] => false
  | i :: rest => fld i 60 4 != 0 && (fld i 60 4 == 5 || agGathers rest)

/-- Index of the ENDL that matches a LOOP, from the instruction after it; `d` counts the levels opened since. -/
def agMatch (d k : Nat) : List Dword → Nat
  | [] => k
  | i :: rest =>
    if fld i 60 4 = 2 then agMatch (d + 1) (k + 1) rest
    else if fld i 60 4 = 3 then (if d = 0 then k else agMatch (d - 1) (k + 1) rest)
    else agMatch d (k + 1) rest

/-- The address cur() of R272. -/
def AgRun.cur (r : AgRun) : Addr := r.levels.foldl (fun a l => a + BitVec.ofNat 48 l.1 * l.2.2.1) r.base

/-- What one AG instruction does: go on, emit, consume an index for an emit, or stop. -/
inductive AgOut where
  | go (r : AgRun)
  | emit (r : AgRun) (len : Nat)
  | gather (r : AgRun) (sh len : Nat)
  | stop (r : AgRun)

/-- Execute one AG instruction of a valid program (R272). -/
def AgRun.step (r0 : AgRun) (far : Addr) : AgOut :=
  let r := if r0.ran then { r0 with pc := r0.pc + 1, ran := false } else r0
  let i := r.prog.getD r.pc 0
  let next := { r with pc := r.pc + 1 }
  let made := { r with ran := true }
  match fld i 60 4 with
  | 1 => .go { next with base := far + i.setWidth 48 }
  | 2 =>
    let n := fld i 32 24
    if n = 0 then .go { r with pc := agMatch 0 (r.pc + 1) (r.prog.drop (r.pc + 1)) + 1 }
    else .go { next with levels := (0, n, (i.setWidth 32).signExtend 48, r.pc + 1) :: r.levels }
  | 3 =>
    match r.levels with
    | [] => .go next
    | (k, n, st, body) :: rest =>
      if k + 1 < n then .go { r with pc := body, levels := (k + 1, n, st, body) :: rest } else .go { next with levels := rest }
  | 4 => .emit made (fld i 0 24)
  | 5 => .gather made (fld i 24 6) (fld i 0 24)
  | _ => .stop { r with done := true }

/-- A program at its start. -/
def AgRun.start (prog : List Dword) (far : Addr) : AgRun where
  prog := prog
  pc := 0
  ran := false
  base := far
  levels := []
  near := 0
  gather := 0
  done := false

/-- Whether the emits of a program that its start decides lie in CM or external memory: all before its first GATHER, whose
index is read when it executes, in `n` instructions (R275, R286, log entry 119). -/
def State.mcScan (s : State) (dev : Nat) (far : Addr) (nbytes : Nat) : Nat → AgRun → Bool
  | 0, _ => true
  | n + 1, r =>
    match r.step far with
    | .go q => s.mcScan dev far nbytes n q
    | .emit q len =>
      let a := r.cur.toNat
      let ok := fun (x : Nat) => match s.target dev (x % 2 ^ 48) with
        | .cm _ => true
        | .ext => true
        | _ => false
      if nbytes < r.near + len then true
      else ok a && ok (a + len - 1) && s.mcScan dev far nbytes n { q with near := r.near + len }
    | .gather _ _ _ => true
    | .stop _ => true

/-- PGM[p] (R274, R296). -/
def State.pgm (s : State) (c : CoreId) (p : Nat) : List Dword :=
  (List.range 16).map fun i => s.reg (pgStr c) (0x400 + 0x80 * p + 8 * i)

/-! ### Checks at start (R268, R269, R275) -/

/-- The fault of a descriptor at its start with the address it captures, or the near offset (R268, R269, R275). -/
def State.descCheck (s : State) (c : CoreId) (d : Desc) : Sum (StrFault × Nat) Nat :=
  let at_ := d.e.descAddr
  let prog := s.pgm c d.pgm
  let dev := s.farDev d
  let bad := fun (n : Nat) => Sum.inl (StrFault.desc n, at_)
  let farOk := if d.pgen then s.mcScan dev d.farLoc d.nbytes (16 * cspSize) (AgRun.start prog d.farLoc)
    else d.nbytes == 0 || (match s.target dev d.farLoc.toNat, s.target dev ((d.farLoc.toNat + d.nbytes - 1) % 2 ^ 48) with
      | .cm _, .cm _ => true
      | .ext, .ext => true
      | _, _ => false)
  if !d.rsvOk || d.dir == 3 || d.nearMode == 3 || fld d.ctrl 8 2 == 3 then bad 1
  else if 524288 < d.nbytes then bad 2
  else if d.pgen && !agWalk 0 prog then bad 3
  else if d.trans && (decide (8192 < d.block) || d.nbytes == 0 || d.nbytes % d.block != 0) then bad 4
  else if d.nl && (d.dir != 0 || d.nearMode != 2) then bad 5
  else if d.dir == 2 && (d.nearMode != 0 || !farOk) then bad 6
  else if (d.nearMode == 1 || d.nearMode == 2) && !s.lbufOn c then bad 7
  else match s.nearOf c d with
    | none => .inl (.window, if d.nearMode = 0 then fld d.near 0 48 else s.windowBase + cspOff c (fld d.near 0 20))
    | some o =>
      if d.pgen && agGathers prog && fld d.idx 0 48 % d.idxW != 0 then .inl (.window, fld d.idx 0 48) else .inr o

/-! ### Requests (R276, R277, R283, R284, R286) -/

/-- Lowest far byte of a request. -/
def FarReq.lo (r : FarReq) : Nat := r.pieces.foldl (fun n p => min n p.far) ((r.pieces.headD ⟨0, 0, 0⟩).far)
/-- The byte after its highest. -/
def FarReq.hi (r : FarReq) : Nat := r.pieces.foldl (fun n p => max n (p.far + p.len)) 0
/-- Bytes it spans. -/
def FarReq.span (r : FarReq) : Nat := r.hi - r.lo
/-- Whether a request covers a far byte. -/
def FarReq.covers (r : FarReq) (x : Nat) : Bool := r.pieces.any fun p => decide (p.far ≤ x) && decide (x < p.far + p.len)
/-- The far bytes it covers, ascending. -/
def FarReq.covered (r : FarReq) : List Nat := (List.range r.span).filterMap fun i =>
  if r.covers (r.lo + i) then some (r.lo + i) else none
/-- Ascending addresses as runs of neighbours. -/
def runsOf : List Nat → Runs
  | [] => []
  | x :: xs =>
    match runsOf xs with
    | (a, n) :: t => if a = x + 1 then (x, n + 1) :: t else (x, 1) :: (a, n) :: t
    | [] => [(x, 1)]

/-- The bytes a request covers, as runs: what a merged read fetches (R277). -/
def FarReq.runs (r : FarReq) : Runs := runsOf r.covered

/-- The bytes of runs at their places from address `x` on, with zeros between them. -/
def spreadRuns : Nat → Runs → List Byte → List Byte
  | _, [], _ => []
  | x, (a, n) :: t, bs => List.replicate (a - x) 0 ++ bs.take n ++ spreadRuns (a + n) t (bs.drop n)

/-- Whether all 256 bytes of its window are covered (R277). -/
def FarReq.full (r : FarReq) : Bool := decide (r.covered.length = 256)

/-- The RED_POST window an own-device address lies in (R390). -/
def State.postPort (s : State) (dev loc : Nat) : Option PortId :=
  let o := loc - s.windowBase
  if dev = s.ownDev ∧ 0x300008000 + s.windowBase ≤ loc ∧ o < 0x30000C000 ∧ 0x5C0 ≤ o % 4096 ∧ o % 4096 < 0x600 then
    some (Fin.ofNat 4 (o / 4096))
  else none

/-- The RED_POST window a whole request lies in. -/
def State.redWindow (s : State) (dev : Nat) (r : FarReq) : Option PortId :=
  match s.postPort dev r.lo, s.postPort dev (r.hi - 1) with
  | some p, some q => if p = q then some p else none
  | _, _ => none

/-- The bytes of one piece of an OUT stream, as its near side stands now (R278, R282); none when a word read is
uncorrectable, with the near offset of that word. -/
def State.outPiece (s : State) (c : CoreId) (a : ActDesc) (p : Piece) : Sum Nat (List (Nat × Byte)) × State :=
  let src := (List.range p.len).map fun i => if a.d.trans then a.d.sourceOf (p.near + i) else p.near + i
  let lo := src.foldl min (src.headD 0)
  let hi := src.foldl max 0 + 1
  let r := s.cspLoad c .ownCore (a.near + lo) (hi - lo)
  match r.bad with
  | w :: _ => (.inl w, r.s)
  | [] => (.inr (src.mapIdx fun i x => (p.far + i, r.bytes.getD (x - lo) 0)), r.s)

/-- The bytes of every piece of a write, in order. -/
def State.outPieces (s : State) (c : CoreId) (a : ActDesc) : List Piece → Sum Nat (List (Nat × Byte)) × State
  | [] => (.inr [], s)
  | p :: ps =>
    match s.outPiece c a p with
    | (.inl w, t) => (.inl w, t)
    | (.inr xs, t) => match t.outPieces c a ps with
      | (.inl w, t1) => (.inl w, t1)
      | (.inr ys, t1) => (.inr (xs ++ ys), t1)

/-- The cells a merged write carries: where pieces overlap, the later piece's byte (R277). -/
def mergeCells (r : FarReq) (xs : List (Nat × Byte)) : List (Nat × Byte) :=
  r.covered.map fun x => (x, ((xs.reverse.find? fun y => y.1 == x).map (·.2)).getD 0)

/-- Whether an NL request may be issued now: no non-NL descriptor of the core has a request ready, and the core holds fewer
than TAGMAX requests (R284). -/
def State.nlMay (s : State) (c : CoreId) : Bool :=
  (List.finRange 4).all (fun v => !((s.unit c v).issuing && !(s.unit c v).nl))
    && decide (s.coreOut c < min 512 (s.rf (pgStr c) 0x130 0 10))

/-- Whether a request that its core checks must wait for a consistent set of permission ranges (R320). -/
def State.wprHolds (s : State) (c : CoreId) (dev : Nat) (r : FarReq) : Bool :=
  s.wprBroken c && (match s.span dev r.lo r.span with
    | .csp d _ => d != c
    | _ => true)

/-- Why a request may not be made at all, if it may not (R266, R286, R319). -/
def State.reqRefused (s : State) (c : CoreId) (d : Desc) (r : FarReq) : Option StrFault :=
  let dev := s.farDev d
  let red := d.dir == 1 && (s.redWindow dev r).isSome
  let place := s.span dev r.lo r.span
  let reach := match place with
    | .refused => red
    | .dbg _ _ => d.dir != 1
    | _ => true
  let shared := match place with
    | .cm _ => true
    | .ext => true
    | _ => false
  if !reach then some .window
  else if d.dir == 2 && !shared then some (.desc 6)
  else if !s.wprAllows c dev r.lo r.span (d.dir == 1) then some .window
  else none

/-- Issue the open request of a unit's last descriptor (R276, R277); none when it lacks an allowance or must wait. `starve`
issues an NL request at normal priority (R284). -/
def State.strIssue (s : State) (c : CoreId) (u : UnitId) (a : ActDesc) (r : FarReq) (starve : Bool) : Option State :=
  let dev := s.farDev a.d
  let sys := 2 ^ 48 * dev + r.lo
  if s.wprHolds c dev r then none
  else match s.reqRefused c a.d r with
    | some f =>
      let s1 := if f.b = 10 && !s.wprAllows c dev r.lo r.span (a.d.dir == 1) then s.wprRefuse c dev r.lo else s
      some (s1.actFault c u a f sys)
    | none =>
      if (128 ≤ (s.unit c u).out) ∨ 512 ≤ s.coreOut c then none
      else if a.d.nl && !starve && !s.nlMay c then none
      else
        let id := (s.core c).str.reqs
        let user := TagUser.str c u id
        let finish := fun (t : State) (q : FarReq) =>
          let t1 := t.modAct c u fun x => { x with open_ := none, outs := x.outs ++ [q] }
          let t2 := (t1.updStr c fun k => { k with reqs := k.reqs + 1 }).pm (pgStr c) 0x02 1
          if a.d.nl then t2.pm (pgStr c) 0x07 1 else t2
        if a.d.dir = 1 then
          match s.outPieces c a r.pieces with
          | (.inl w, t) => some (t.actFault c u a .ue (t.windowBase + cspOff c w))
          | (.inr xs, t) =>
            let cs := mergeCells r xs
            let q : FarReq := ⟨id, r.pieces, cs, true⟩
            if (t.redWindow dev r).isSome then some (finish t q)
            else (t.launchWrite c.val c.val user dev cs).map fun t1 => finish t1 q
        else (s.launchRead c.val c.val user dev r.runs).map fun t => finish t ⟨id, r.pieces, [], false⟩

/-! ### Address generation -/

/-- Read the next index of a GATHER from the own CSP (R275). -/
def State.readIndex (s : State) (c : CoreId) (a : ActDesc) : Sum (StrFault × Nat) Addr × State :=
  let w := a.d.idxW
  let addr := (BitVec.ofNat 48 (fld a.d.idx 0 48 + a.ag.gather * w)).toNat
  match s.ownCsp c addr with
  | none => (.inl (.window, addr), s)
  | some o =>
    if cspSize < o + w then (.inl (.window, addr), s)
    else
      let r := s.cspLoad c .ownCore o w
      if r.bad.isEmpty then (.inr (BitVec.ofNat 48 (leNat r.bytes)), r.s) else (.inl (.ue, addr), r.s)

/-- The running program's instruction at which `r` stands fails (R295: AGPC is the instruction being executed). -/
def State.agFault (s : State) (c : CoreId) (u : UnitId) (a : ActDesc) (r : AgRun) (f : StrFault) (addr : Nat) : State :=
  (s.modAct c u fun x => { x with ag := r }).actFault c u { a with ag := r } f addr

/-- An emit of the running program: it becomes the bytes to cut into pieces, or faults past NBYTES (R272). -/
def State.strEmit (s : State) (c : CoreId) (u : UnitId) (a : ActDesc) (r : AgRun) (at_ : Addr) (len : Nat) : State :=
  if a.d.nbytes < a.ag.near + len then s.agFault c u a r .overrun (2 ^ 48 * s.farDev a.d + at_.toNat)
  else s.modAct c u fun x =>
    { x with ag := { r with near := a.ag.near + len }, emit := some ⟨at_.toNat, a.ag.near, len⟩ }

/-- One AG instruction of the last descriptor. -/
def State.agStep (s : State) (c : CoreId) (u : UnitId) (a : ActDesc) : State :=
  match a.ag.step a.d.farLoc with
  | .go r => s.modAct c u fun x => { x with ag := r }
  | .emit r len => s.strEmit c u a r a.ag.cur len
  | .gather r sh len =>
    match s.readIndex c a with
    | (.inl (f, addr), t) => t.agFault c u a r f addr
    | (.inr x, t) => t.strEmit c u a { r with gather := r.gather + 1 } (a.ag.cur + x <<< sh) len
  | .stop r =>
    if a.d.trans && decide (a.ag.near < a.d.nbytes) then s.agFault c u a r .overrun a.d.e.descAddr
    else s.modAct c u fun x => { x with ag := r }

/-- Whether a piece joins the open request: same window, and no more pieces than the 16 cc a request stays open (R277). -/
def joins (r : FarReq) (p : Piece) : Bool :=
  (r.pieces.headD p).far / 256 == p.far / 256 && decide (r.pieces.length < 16)

/-- One action of a unit's last descriptor: issue the open request, cut a piece, or execute an AG instruction; none when it
has nothing to do or must wait. -/
def State.strStep (s : State) (c : CoreId) (u : UnitId) : Option State :=
  match (s.unit c u).last with
  | none => none
  | some a =>
    if !(s.unit c u).issuing || !s.strLive c then none
    else
      let merge := s.rf (pgStr c) 0x138 0 1 == 0
      let last := a.emit.isNone && a.ag.done
      match a.open_ with
      | some r =>
        if r.full || !merge || last then s.strIssue c u a r false
        else match a.emit with
          | none => some (s.agStep c u a)
          | some p =>
            let k := min p.len (256 - p.far % 256)
            let rest := if k = p.len then none else some ⟨(p.far + k) % 2 ^ 48, p.near + k, p.len - k⟩
            if joins r p then
              some ((s.modAct c u fun x =>
                { x with open_ := some { r with pieces := r.pieces ++ [⟨p.far, p.near, k⟩] }, emit := rest }).pm (pgStr c) 0x03 1)
            else s.strIssue c u a r false
      | none =>
        match a.emit with
        | some p =>
          let k := min p.len (256 - p.far % 256)
          let rest := if k = p.len then none else some ⟨(p.far + k) % 2 ^ 48, p.near + k, p.len - k⟩
          some (s.modAct c u fun x => { x with open_ := some ⟨0, [⟨p.far, p.near, k⟩], [], x.d.dir == 1⟩, emit := rest })
        | none => if a.ag.done then some (s.modAct c u fun x => { x with issued := true }) else some (s.agStep c u a)

/-- Actions of a unit until it must wait, at most `n`. -/
def State.strRun (s : State) (c : CoreId) (u : UnitId) : Nat → State
  | 0 => s
  | n + 1 => match s.strStep c u with
    | none => s
    | some t => t.strRun c u n

/-- Actions a unit takes in one command at most; a program that runs longer goes on with the next. -/
def strFuel : Nat := 4096

/-- Let the stream units of a core go on: those whose descriptor is not NL first, in ascending order (R284). -/
def State.strPump (s : State) (c : CoreId) : State :=
  let run := fun (nl : Bool) (t : State) (u : UnitId) => if (t.unit c u).nl = nl then t.strRun c u strFuel else t
  (List.finRange 4).foldl (run true) ((List.finRange 4).foldl (run false) s)

/-! ### The ST queue (R274, R280) -/

/-- The head of a unit's ST queue, if it holds operation `op` and may start. -/
def State.stHead (s : State) (c : CoreId) (u : UnitId) (op : Nat) : Option (QEntry × State) :=
  match (s.core c).seq.stq[u] with
  | [] => none
  | e :: rest =>
    if op32 e.bits = op && s.mayStart c 4 then some (e, s.updSeq c fun q => { q with stq := q.stq.set u rest }) else none

/-- Whether the reserved bits of a descriptor are 0 (R267). -/
def descRsvOk (bs : List Byte) : Bool :=
  leNat (bs.take 8) / 2 ^ 37 == 0 && leNat ((bs.drop 28).take 4) == 0 && leNat ((bs.drop 40).take 24) == 0

/-- ST_SUB: the unit reads a descriptor and applies the overrides of the slot (R280). It waits while the descriptor queue is
full. -/
def execStSub (c : CoreId) (u : UnitId) (s : State) : Host.Outcome State Fault Refusal :=
  match s.stHead c u 1 with
  | none => .next s
  | some (e, t) =>
    if 16 ≤ (s.unit c u).dq.length then .next s
    else
      let addr := e.descAddr
      match s.ownCsp c addr with
      | none => .next (t.strFault c u e .window 0 addr)
      | some o =>
        if addr % 64 ≠ 0 then .next (t.strFault c u e .window 0 addr)
        else
          let r := t.cspLoad c .ownCore o 64
          if !r.bad.isEmpty then .next (r.s.strFault c u e .ue 0 addr)
          else
            let w := fun (k n : Nat) => leNat ((r.bytes.drop k).take n)
            let far : Dword := BitVec.ofNat 64 (w 8 8)
            let near : Dword := BitVec.ofNat 64 (w 16 8)
            let d : Desc :=
              { ctrl := BitVec.ofNat 64 (w 0 8)
                far := if bitAt e.bits 17 then setFld far 0 48 (e.a (fld e.bits 18 4)) else far
                near := if bitAt e.bits 12 then setFld near 0 48 (e.a (fld e.bits 13 4)) else near
                nbytes := w 24 4
                idx := BitVec.ofNat 64 (w 32 8)
                rsvOk := descRsvOk r.bytes
                e := e }
            .next (r.s.updUnit c u fun k => { k with dq := k.dq ++ [d] })

/-- Whether an LDPG must still wait: for an earlier SUB in any ST queue, or an earlier descriptor that names its program
(R274). -/
def State.ldpgWaits (s : State) (c : CoreId) (e : QEntry) : Bool :=
  (List.finRange 4).any fun v =>
    (s.core c).seq.stq[v].any (fun x => op32 x.bits == 1 && decide (x.num < e.num))
      || ((s.unit c v).dq ++ ((s.unit c v).acts.filter fun a => !a.dead).map (·.d)).any fun d =>
        d.pgen && d.pgm == ldpgIndex e && decide (d.e.num < e.num)

/-- LDPG: the program is copied from the own CSP once the ordering waits are over (R274). -/
def execLdpg (c : CoreId) (u : UnitId) (s : State) : Host.Outcome State Fault Refusal :=
  match s.stHead c u 2 with
  | none => .next s
  | some (e, t) =>
    if (s.unit c u).ldpg.isSome || s.ldpgWaits c e then .next s
    else
      let addr := e.descAddr
      match s.ownCsp c addr with
      | none => .next (t.strFault c u e .window 0 addr)
      | some o =>
        if addr % 8 ≠ 0 ∨ cspSize < o + 128 then .next (t.strFault c u e .window 0 addr)
        else
          let r := t.cspLoad c .ownCore o 128
          if !r.bad.isEmpty then .next (r.s.strFault c u e .ue 0 addr)
          else
            let p := ldpgIndex e
            let put := fun (x : State) (i : Nat) => x.setReg (pgStr c) (0x400 + 0x80 * p + 8 * i)
              (BitVec.ofNat 64 (leNat ((r.bytes.drop (8 * i)).take 8)))
            let s1 := (List.range 16).foldl put r.s
            .next ((s1.modReg (pgStr c) 0x140 fun v => setBit v p false).updUnit c u fun k => { k with ldpg := some e })

/-- LDPG_DONE: the copy is complete and LDPG's done fires (R274). -/
def execLdpgDone (c : CoreId) (u : UnitId) (s : State) : Host.Outcome State Fault Refusal :=
  match (s.unit c u).ldpg with
  | none => .next s
  | some e => if s.strLive c then .next ((s.updUnit c u fun k => { k with ldpg := none }).done c e) else .next s

/-! ### Start and completion (R281) -/

/-- Whether a descriptor must wait for an LDPG of its program that an earlier word submitted (R274). -/
def State.pgmWaits (s : State) (c : CoreId) (d : Desc) : Bool :=
  d.pgen && (List.finRange 4).any fun v =>
    ((s.core c).seq.stq[v] ++ (s.unit c v).ldpg.toList).any fun x =>
      op32 x.bits == 2 && ldpgIndex x == d.pgm && decide (x.num < d.e.num)

/-- Whether the next descriptor of a unit may start: its predecessor has issued its last request, or with AFTER has
completed (R281). -/
def StrUnit.turn (k : StrUnit) (d : Desc) : Bool :=
  if d.after then k.acts.all (·.dead)
  else match k.last with
    | none => true
    | some a => a.issued

/-- Whether a unit's descriptor waits for the transpose buffer. -/
def StrUnit.waitsT (k : StrUnit) : Bool := k.acts.any fun a => a.waitT && !a.dead

/-- DESCRIPTOR_START: the next descriptor of a unit becomes active, is checked, and begins to request (R268, R281). A
transposing one takes the transpose buffer, or waits for it, behind units that wait already (R279). -/
def execDescriptorStart (c : CoreId) (u : UnitId) (s : State) : Host.Outcome State Fault Refusal :=
  match (s.unit c u).dq with
  | [] => .next s
  | d :: rest =>
    if !s.mayStart c 4 || !(s.unit c u).turn d || s.pgmWaits c d then .next s
    else
      let s1 := s.updUnit c u fun k => { k with dq := rest }
      match s.descCheck c d with
      | .inl (f, addr) => .next (s1.strFault c u d.e f 0 addr)
      | .inr near =>
        let run := d.pgen && d.nbytes != 0
        let ag := if run then AgRun.start (s.pgm c d.pgm) d.farLoc
          else { AgRun.start [] d.farLoc with near := d.nbytes, done := true }
        let emit : Option Piece := if d.pgen || d.nbytes == 0 then none else some ⟨d.farLoc.toNat, 0, d.nbytes⟩
        let wait := d.trans && ((s.core c).str.tbuf.isSome || (List.finRange 4).any fun v => (s.unit c v).waitsT)
        let a : ActDesc :=
          { d := d, near := near, ag := ag, emit := emit, open_ := none, outs := [], tdata := [], waitT := wait
            issued := d.nbytes == 0, dead := false }
        let s2 := s1.updUnit c u fun k => { k with acts := k.acts ++ [a] }
        let s3 := if d.trans && !wait then s2.updStr c fun k => { k with tbuf := some u } else s2
        .next (s3.strPump c)

/-- TBUF_GRANT: the free transpose buffer goes to the lowest waiting unit (R279). -/
def execTbufGrant (c : CoreId) (s : State) : Host.Outcome State Fault Refusal :=
  if !s.strLive c || (s.core c).str.tbuf.isSome then .next s
  else match (List.finRange 4).find? fun u => (s.unit c u).waitsT with
    | none => .next s
    | some u =>
      let s1 := s.updStr c fun k => { k with tbuf := some u }
      .next ((s1.updUnit c u fun k => { k with acts := k.acts.map fun a => { a with waitT := false } }).strPump c)

/-- MERGE_TIMEOUT: an open request 16 cc old is issued (R277). -/
def execMergeTimeout (c : CoreId) (u : UnitId) (s : State) : Host.Outcome State Fault Refusal :=
  match (s.unit c u).last with
  | none => .next s
  | some a =>
    if !(s.unit c u).issuing || !s.strLive c then .next s
    else match a.open_ with
      | none => .next s
      | some r => match s.strIssue c u a r false with
        | none => .next s
        | some t => .next (t.strPump c)

/-- NL_STARVE: an NL descriptor held back for 1,024 cc issues one request at normal priority (R284). -/
def execNlStarve (c : CoreId) (u : UnitId) (s : State) : Host.Outcome State Fault Refusal :=
  match (s.unit c u).last with
  | none => .next s
  | some a =>
    if !(s.unit c u).issuing || !s.strLive c || !a.d.nl then .next s
    else match a.open_ with
      | none => .next s
      | some r => match s.strIssue c u a r true with
        | none => .next s
        | some t => .next (t.strPump c)

/-- Whether a descriptor has moved everything. -/
def ActDesc.finished (a : ActDesc) : Bool := a.issued && !a.waitT && !a.dead && a.outs.isEmpty

/-- DESCRIPTOR_COMPLETE: the oldest descriptor of a unit completes; its ST done fires and the transpose buffer is released
(R279, R281). -/
def execDescriptorComplete (c : CoreId) (u : UnitId) (s : State) : Host.Outcome State Fault Refusal :=
  match takeFirst (fun a => !a.dead) (s.unit c u).acts with
  | none => .next s
  | some (a, rest) =>
    if !a.finished || !s.strLive c then .next s
    else
      let s1 := s.updUnit c u fun k => { k with acts := rest, done := k.done + 1 }
      let s2 := if a.d.trans then s1.updStr c fun k => { k with tbuf := none } else s1
      .next ((s2.pm (pgStr c) 0x01 1).done c a.d.e)

/-! ### Replies (R278, R282, R286) -/

/-- Change the active descriptor that has request `req` outstanding. -/
def State.updOut (s : State) (c : CoreId) (u : UnitId) (req : Nat) (f : ActDesc → ActDesc) : State :=
  s.updUnit c u fun k => { k with acts := modFirst (fun a => a.outs.any (·.id == req)) f k.acts }

/-- Write runs of near bytes into the CSP of core `t`; what it answers when it refuses one (R322). -/
def State.nearStore (s : State) (c t : CoreId) : List (List (Nat × Byte)) → Option MemErr × State
  | [] => (none, s)
  | cs :: rest =>
    let g := s.cspWrite t (whoFor c t) cs
    match g.err with
    | some e => (some e, g.s)
    | none => (if t = c then g.s.pm (pgStr c) 0x0A ((cs.length + 255) / 256) else g.s).nearStore c t rest

/-- Write the near bytes of a reply into the own CSP, or deliver them to the target cores of an MCAST: each gets its copy of the
reply, and the copy of one that is isolated is discarded and counted (R286, R322). -/
def State.nearStores (s : State) (c : CoreId) (d : Desc) (runs : List (List (Nat × Byte))) : Option MemErr × State :=
  let put := fun (x : Option MemErr × State) (t : CoreId) =>
    if !x.2.reachable t then (x.1, (x.2.bumpRf 0 0x170 0 32 1).pm (pgStr c) 0x0C 1)
    else
      let y := x.2.nearStore c t runs
      (match x.1 with
        | some e => some e
        | none => y.1, y.2)
  if d.dir ≠ 2 then s.nearStore c c runs
  else if runs.isEmpty then (none, s)
  else ((List.finRange 8).filter fun (t : CoreId) => d.mcMask.getLsbD t.val && s.present t).foldl put (none, s)

/-- Transpose blocks that a request's pieces touch. -/
def FarReq.blocks (r : FarReq) (b : Nat) : List Nat :=
  (r.pieces.flatMap fun p => [p.near / b, (p.near + p.len - 1) / b]).dedup.flatMap fun k =>
    (List.range 257).filterMap fun i => if r.pieces.any fun p => decide (p.near / b ≤ k) && decide (k + i ≤ (p.near + p.len - 1) / b)
      then some (k + i) else none

/-- Whether all source bytes of a transpose block have come. -/
def ActDesc.blockWhole (a : ActDesc) (b : Nat) : Bool :=
  let n := a.d.block
  let made := match a.emit with
    | some p => p.near
    | none => a.ag.near
  let meets := fun (r : FarReq) => r.pieces.any fun p => decide (p.near < (b + 1) * n) && decide (b * n < p.near + p.len)
  decide ((b + 1) * n ≤ made) && !(a.outs ++ a.open_.toList).any meets

/-- The runs of near bytes that a read's data gives: each piece's own bytes, or the transpose blocks now whole (R278,
R282). `a` is the descriptor after the request has left it and its data is gathered. -/
def ActDesc.landing (a : ActDesc) (r : FarReq) (data : List Byte) : List (List (Nat × Byte)) :=
  if a.d.trans then
    ((r.blocks a.d.block).dedup.filter a.blockWhole).map fun b =>
      (List.range a.d.block).map fun i =>
        let p := b * a.d.block + i
        (a.near + p, tget 0 a.tdata (a.d.sourceOf p))
  else r.pieces.map fun p => cellsAt (a.near + p.near) ((data.drop (p.far - r.lo)).take p.len)

/-- The lines of external memory a read needs, which the CSC serves. -/
def State.readLines (s : State) (dev : Nat) (r : FarReq) : List Nat :=
  match s.span dev r.lo r.span with
  | .ext => runLines r.runs
  | _ => []

/-- The source positions and bytes of a read, for the transpose buffer. -/
def FarReq.gathered (r : FarReq) (data : List Byte) (t : Tab Byte) : Tab Byte :=
  r.pieces.foldl (fun t p => tputs 0 t p.near ((data.drop (p.far - r.lo)).take p.len)) t

/-- A read's reply: the data is written to the near side or delivered, or the task aborts (R282, R286, R290). -/
def State.readData (s : State) (c : CoreId) (u : UnitId) (a : ActDesc) (r : FarReq) (rep : Reply) : State :=
  let dev := s.farDev a.d
  let sys := 2 ^ 48 * dev + r.lo
  let user := TagUser.str c u r.id
  let g0 := if s.bondBad user then ⟨[], some .ue, s⟩ else s.readFar c user dev r.runs rep
  let s1 := g0.s.takeTag user
  let g : Got := { g0 with bytes := spreadRuns r.lo r.runs g0.bytes, s := s1 }
  let leave := fun (x : ActDesc) => { x with
    outs := x.outs.filter (·.id != r.id), tdata := if x.d.trans then r.gathered g.bytes x.tdata else x.tdata }
  let s2 := g.s.updOut c u r.id leave
  match g.err with
  | some e => s2.strFault c u a.d.e e.strFault a.ag.pc sys
  | none =>
    match s2.nearStores c a.d ((leave a).landing r g.bytes) with
    | (some e, t) => t.strFault c u a.d.e e.strFault a.ag.pc (t.windowBase + cspOff c a.near)
    | (none, t) => t.strPump c

/-- A read's reply comes; it is served once no fill that it has joined or waits for is in flight (R285). -/
def State.readReply (s : State) (c : CoreId) (u : UnitId) (a : ActDesc) (r : FarReq) (rep : Reply) : State :=
  match s.cscWaits c.val (.str c u r.id) (s.readLines (s.farDev a.d) r) with
  | some t => t
  | none => s.readData c u a r rep

/-- What the target of a write answers; none while an RDU's post queue is full (R266, R390, R392). A write without ACK to an
isolated core expects no reply: it is discarded and counted (R18). -/
def State.writeReply (s : State) (c : CoreId) (dev : Nat) (ack : Bool) (r : FarReq) (rep : Reply) : Option Got :=
  match s.redWindow dev r with
  | some p =>
    if r.bytes.length = 64 then
      if !s.rduReady p || s.heldPosts.any fun x => x.1 == p then none
      else (s.rduPost p ((Vector.range 8).map fun k => BitVec.ofNat 64 (leNat (((r.bytes.map (·.2)).drop (8 * k)).take 8)))).map
        fun t => ⟨[], none, t⟩
    else some ⟨[], none, (s.rduErr p 1 6 0 0 0 r.lo).bumpRf (pgMp p) 0x540 32 32 1⟩
  | none =>
    let g := s.writeFar c dev r.bytes rep
    some (if g.err = some .isolated ∧ !ack then { g with err := none, s := g.s.bumpRf 0 0x170 0 32 1 } else g)

/-- Whether a write is complete before its target answers: without ACK, once the RQT has accepted it for an address beyond
the cluster (R254, R281). -/
def State.postedOut (s : State) (d : Desc) (r : FarReq) : Bool :=
  !d.ack && (match s.span (s.farDev d) r.lo r.span with
    | .ext => true
    | .away => true
    | _ => false)

/-- A write completes for its stream, or the task aborts (R281, R290). A posted write keeps its tag until its target answers
(R283). A write of an aborted task completes without more ado (R291). -/
def State.writeDone (s : State) (c : CoreId) (u : UnitId) (a : ActDesc) (r : FarReq) (rep : Reply) : State :=
  let dev := s.farDev a.d
  let user := TagUser.str c u r.id
  let posted := s.postedOut a.d r && replyErr rep == none && (s.rqt.ofUser user).isSome && !s.bondBad user
  match if s.bondBad user then some ⟨[], some .ue, s⟩ else s.writeReply c dev a.d.ack r rep with
  | none => s
  | some g =>
    let s1 := if posted then g.s else g.s.takeTag user
    let keep := fun (k : StrUnit) =>
      if posted then { k with posted := k.posted ++ [⟨r.id, a.d.e, a.ag.pc, 2 ^ 48 * dev + r.lo, false, a.dead⟩] } else k
    let s2 := (s1.updOut c u r.id fun x => { x with outs := x.outs.filter (·.id != r.id) }).updUnit c u keep
    if a.dead then s2.updUnit c u fun k => { k with acts := k.acts.filter fun x => !(x.dead && x.outs.isEmpty) }
    else match g.err with
      | some e => s2.strFault c u a.d.e e.strFault a.ag.pc (2 ^ 48 * dev + r.lo)
      | none => s2.strPump c

/-- A posted write of a unit. -/
def State.postedOf (s : State) (c : CoreId) (u : UnitId) (req : Nat) : Option Posted :=
  (s.unit c u).posted.find? fun p => p.id == req

/-- A posted write leaves its unit with its tag. -/
def State.postedEnds (s : State) (c : CoreId) (u : UnitId) (req : Nat) : State :=
  (s.updUnit c u fun k => { k with posted := k.posted.filter fun p => p.id != req }).freeUser (.str c u req)

/-- A posted write ends with a fault, which aborts the task that made it if it still runs (R290). -/
def State.postedFault (s : State) (c : CoreId) (u : UnitId) (p : Posted) (f : StrFault) : State :=
  let s1 := s.postedEnds c u p.id
  if p.dead || !s1.strLive c then s1 else (s1.strFault c u p.e f p.pc p.sys)

/-- The device acknowledgement of a posted write has come (R302). -/
def State.postedDev (s : State) (c : CoreId) (u : UnitId) (req : Nat) : State :=
  s.updUnit c u fun k => { k with posted := k.posted.map fun p => if p.id = req then { p with dev := true } else p }

/-- STREAM_REPLY: a reply or a write completion comes back to a stream unit (R282); for a posted write, which is complete
already, its last acknowledgement or an error (R290). -/
def execStreamReply (c : CoreId) (u : UnitId) (req : Nat) (r : Reply) (s : State) : Host.Outcome State Fault Refusal :=
  match (s.unit c u).acts.find? fun a => a.outs.any (·.id == req) with
  | none =>
    match s.postedOf c u req with
    | none => .next s
    | some p =>
      if s.memDead then .next s
      else match r with
        | .data _ => .next ((s.postedEnds c u req).strPump c)
        | .error _ => .next (s.postedFault c u p .remote)
  | some a =>
    match a.outs.find? (·.id == req) with
    | none => .next s
    | some q =>
      if s.memDead || !(if a.dead then s.alive c else s.strLive c) then .next s
      else if q.write then .next (s.writeDone c u a q r)
      else .next (s.readReply c u a q r)

/-- STREAM_ELEMENT_TMO: a request has had no reply, or no acknowledgement, for 2^STR.TMO cc; it gives its tag back (R283,
R290). One of an aborted task ends nothing. -/
def execStreamElementTmo (c : CoreId) (u : UnitId) (req : Nat) (s : State) : Host.Outcome State Fault Refusal :=
  match (s.unit c u).acts.find? fun a => a.outs.any (·.id == req) with
  | none =>
    match s.postedOf c u req with
    | none => .next s
    | some p => if s.alive c then .next (s.postedFault c u p .tmo) else .next s
  | some a =>
    match a.outs.find? (·.id == req) with
    | none => .next s
    | some q =>
      if !s.alive c || (!a.dead && !s.strLive c) then .next s
      else
        let s1 := (s.updOut c u req fun x => { x with outs := x.outs.filter (·.id != req) }).freeUser (.str c u req)
        if a.dead then .next (s1.updUnit c u fun k => { k with acts := k.acts.filter fun x => !(x.dead && x.outs.isEmpty) })
        else .next (s1.strFault c u a.d.e .tmo a.ag.pc (2 ^ 48 * s.farDev a.d + q.lo))

end Sys2Proof.Machine
end

