-- ==== Sys2Proof/Machine/Cache.lean ====
section
/-! DEFINITION. Cache operations of the LS queue (R305 to R311), the timeout of the window permission ranges (R320) and inbound
accesses to a CSP (R322). -/

namespace Sys2Proof.Machine

/-! ### Fields and errors (R308, R324) -/

/-- SCOPE. -/
def lsScope (b : BitVec 40) : Nat := fld b 17 3
/-- Range base A[a]. -/
def QEntry.rangeBase (e : QEntry) : Nat := e.a (fld e.bits 24 4)
/-- Range length A[l]. -/
def QEntry.rangeLen (e : QEntry) : Nat := e.a (fld e.bits 20 4)

/-- The opcode of a cache op with 16 × its SCOPE, as its write-backs carry it (R324). -/
def QEntry.opScope (e : QEntry) : Nat := op32 e.bits + 16 * lsScope e.bits

/-! ### Starting (R305 to R307, R309) -/

/-- Whether a line lies in a range widened to whole lines (R305). -/
def inRange (base len line : Nat) : Bool := decide (0 < len) && decide (base / 128 ≤ line) && decide (128 * line < base + len)

/-- Insert a line into a list in address order. -/
def lineIns (l : CchLine) : List CchLine → List CchLine
  | [] => [l]
  | x :: t => if l.line ≤ x.line then l :: x :: t else x :: lineIns l t

/-- Lines of the CCH in an op's range, in address order. -/
def State.rangeLines (s : State) (c : CoreId) (e : QEntry) : List CchLine :=
  ((s.core c).cch.lines.filter fun l => inRange e.rangeBase e.rangeLen l.line).foldr lineIns []

/-- What sweeping lines gives: lines written back beyond the cluster, and the state. -/
structure Swept where
  wbs : List Nat
  s   : State

/-- Mark a line clean. -/
def Cch.clean (k : Cch) (line : Nat) : Cch :=
  { k with lines := k.lines.map fun l => if l.line = line then { l with dirty := 0 } else l }

/-- Invalidate a line of the CCH; one that a CIV or INVALL invalidates is counted (R328). -/
def State.cchDrop (s : State) (c : CoreId) (line : Nat) (counted : Bool) : State :=
  let t := s.updCch c fun k => k.remove line
  if counted then t.pm (pgCch c) 0x04 1 else t

/-- Write back the dirty lines of a list for the op that word `cw` issued (`op` as `State.writeBack` takes it), cleaning each, or
with `inv` invalidating every line; a dirty line that holds an uncorrectable word is invalidated without a write-back (R305,
R306, R311). None when a write-back finds no tag. -/
def State.sweep (s : State) (c : CoreId) (inv counted : Bool) (cw op : Nat) : List CchLine → Option Swept
  | [] => some ⟨[], s⟩
  | l :: ls =>
    if l.dirty = 0 then (if inv then s.cchDrop c l.line counted else s).sweep c inv counted cw op ls
    else
      let w := s.writeBack c l cw op
      if w.busy then none
      else
        let t := if w.ue || inv then w.s.cchDrop c l.line counted else w.s.updCch c fun k => k.clean l.line
        ((t.writeBackFails c w cw op l.line).sweep c inv counted cw op ls).map fun r =>
          { r with wbs := if w.away then l.line :: r.wbs else r.wbs }

/-- Whether the CCH has accepted every row of the TLDs and TSTs in progress: a load row once its request is made, though its
fills may be in flight (R306), a store row once it is stored (R309). -/
def Core.rowsAccepted (k : Core) : Bool :=
  k.trf.ops.all fun o => if o.store then o.pend.isEmpty else o.pend.all fun r => !o.held.contains r

/-- The LS queue head, if it holds a cache op that may start: every earlier row is accepted or dropped and no op holds the queue
(R309). -/
def State.cacheHead (s : State) (c : CoreId) (op : Nat) : Option (QEntry × State) :=
  match (s.core c).seq.lsq with
  | [] => none
  | e :: rest =>
    if op32 e.bits = op && s.mayStart c 3 && !s.lsBlocked c && (s.core c).rowsAccepted && !(s.core c).cch.hostOp then
      some (e, s.updSeq c fun q => { q with lsq := rest })
    else none

/-- A swept op is in progress. -/
def State.cacheStart (c : CoreId) (e : QEntry) (r : Swept) : State := r.s.updCch c fun k => { k with op := some ⟨e, r.wbs⟩ }

/-- CFL: writes back the dirty lines of its range at CLUSTER scope or wider, invalidating the range with INV (R305). -/
def execCfl (c : CoreId) (s : State) : Host.Outcome State Fault Refusal :=
  match s.cacheHead c 8 with
  | none => .next s
  | some (e, t) =>
    let lines := if lsScope e.bits ≤ 1 then [] else t.rangeLines c e
    match t.sweep c (e.bits.getLsbD 16) false e.cw.toNat e.opScope lines with
    | none => .next s
    | some r => .next (State.cacheStart c e r)

/-- A fill of a TLD that is in flight during a CIV allocates no line of its range (R306). -/
def State.noFills (s : State) (c : CoreId) (e : QEntry) : State :=
  if e.rangeLen = 0 then s
  else s.updTrf c fun k => { k with ops := k.ops.map fun o =>
    if o.store then o else { o with noFill := (e.rangeBase / 128, (e.rangeBase + e.rangeLen + 127) / 128) :: o.noFill } }

/-- CIV: invalidates its range, writing dirty lines back first (R306). -/
def execCiv (c : CoreId) (s : State) : Host.Outcome State Fault Refusal :=
  match s.cacheHead c 9 with
  | none => .next s
  | some (e, t) => match t.sweep c true true e.cw.toNat e.opScope (t.rangeLines c e) with
    | none => .next s
    | some r => .next ((State.cacheStart c e r).noFills c e)

/-- Numbers of the far requests that a FENCE waits for, of those made when it starts: the stream units' writes, those without ACK
that the RQT has accepted among them, and with RD their reads (R307). -/
def State.fenceReqs (s : State) (c : CoreId) (rd : Bool) : List Nat :=
  (List.finRange 4).flatMap fun u =>
    ((s.unit c u).acts.flatMap fun a => (a.outs.filter fun r => r.write || rd).map (·.id)) ++ (s.unit c u).posted.map (·.id)

/-- FENCE: waits for earlier writes, and with RD for earlier reads (R307). -/
def execFence (c : CoreId) (s : State) : Host.Outcome State Fault Refusal :=
  match s.cacheHead c 10 with
  | none => .next s
  | some (e, t) =>
    let reqs := if lsScope e.bits ≤ 1 then [] else t.fenceReqs c (e.bits.getLsbD 16)
    .next (t.updCch c fun k => { k with op := some ⟨e, reqs⟩ })

/-! ### Completion -/

/-- Whether a message a core sent before word `n` is still on its way to its landing ring. -/
def State.msgBefore (s : State) (c : CoreId) (n : Nat) : Bool :=
  s.links.any fun x => x.1 == c && (match x.2.2 with
    | .msg m => (tget Binding.blank (s.core c).chn.binds m.ch.toNat).unacked.any fun y =>
        y.number == m.number && (match y.e with
          | some e => decide (e.num < n)
          | none => true)
    | _ => false)

/-- Whether a write without ACK is complete at a scope: at CLUSTER once the RQT has accepted it, at DEVICE once its device
acknowledgement has come, to another device only with the system acknowledgement, which ends it (R254, R302). -/
def Posted.doneAt (p : Posted) (ownDev scope : Nat) : Bool :=
  decide (scope ≤ 2) || (scope == 3 && p.dev && p.sys / 2 ^ 48 == ownDev)

/-- Requests of a core's stream units that are not complete at a scope, by number. -/
def State.openReqs (s : State) (c : CoreId) (scope : Nat) : List Nat :=
  (List.finRange 4).flatMap fun u =>
    ((s.unit c u).acts.flatMap fun a => a.outs.map (·.id))
      ++ ((s.unit c u).posted.filter fun p => !p.doneAt s.ownDev scope).map (·.id)

/-- Whether every read of an instruction before word `n` has returned: LDAs, loads of tiles, chains (R307). -/
def Core.readsBefore (k : Core) (n : Nat) : Bool :=
  k.seq.ldas.all (fun x => decide (n ≤ x.num)) && k.trf.ops.all (fun o => o.store || decide (n ≤ o.e.num) || o.pend.isEmpty)
    && k.vxe.acts.all fun a => decide (n ≤ a.e.num) || !a.reading

/-- Whether everything a FENCE at CLUSTER scope or wider waits for is done (R307). -/
def State.fenceDone (s : State) (c : CoreId) (o : CacheOp) : Bool :=
  let k := s.core c
  let scope := lsScope o.e.bits
  decide (scope ≤ 1)
    || (o.wbs.all (fun n => !(s.openReqs c scope).contains n) && k.seq.stas.all (fun x => decide (o.e.num ≤ x.num))
      && !s.msgBefore c o.e.num && (!o.e.bits.getLsbD 16 || k.readsBefore o.e.num))

/-- The CSC drops the lines of a CIV at DEVICE or SYSTEM scope that are neither pending nor committing (R306). -/
def State.civShared (s : State) (e : QEntry) : State :=
  let mine := s.csc.filter fun l =>
    inRange e.rangeBase e.rangeLen l.line && (s.txPending l.line).isNone && (s.txCommitting l.line).isNone
  mine.foldl (fun (t : State) l => t.cscDrop l.line) s

/-- Free the tags of an op's write-backs. -/
def State.freeBacks (s : State) (c : CoreId) (o : CacheOp) (lines : List Nat) : State :=
  lines.foldl (fun (t : State) l => t.freeUser (.cch c l o.e.cw.toNat o.e.opScope)) s

/-- The write-back that an error reply answers: the op's oldest without an acknowledgement (log entry 120). -/
def State.failedBack (s : State) (c : CoreId) (o : CacheOp) : Option Nat :=
  o.wbs.find? fun l => (s.rqt.ofUser (.cch c l o.e.cw.toNat o.e.opScope)).isSome

/-- An invalidation of the CSC sweeps sets `lo` to `hi - 1`: their lines that are neither pending nor committing go (R327). -/
def State.cscSweep (s : State) (lo hi : Nat) : State :=
  s.csc.foldl (fun (t : State) l =>
    let set := l.line % 1024
    if lo ≤ set ∧ set < hi ∧ (t.txPending l.line).isNone = true ∧ (t.txCommitting l.line).isNone = true then t.cscDrop l.line
    else t) s

/-- CACHE_OP_DONE: the op completes at its scope; `r` is what targets beyond the cluster answered its write-backs (R305 to
R307, R311). -/
def execCacheOpDone (c : CoreId) (r : Reply) (s : State) : Host.Outcome State Fault Refusal :=
  match (s.core c).cch.op with
  | none => .next s
  | some o =>
    let op := op32 o.e.bits
    let scope := lsScope o.e.bits
    if !s.strLive c || (s.memDead && decide (2 ≤ scope)) || (op == 10 && !s.fenceDone c o) then .next s
    else
      match if op = 10 ∨ replyErr r = none then none else s.failedBack c o with
      | some l => .next ((s.freeBacks c o [l]).lineFails c 9 3 0x13 o.e.cw.toNat o.e.opScope l)
      | none =>
        let s1 := if op ≠ 10 ∧ scope = 4 then s.freeBacks c o o.wbs else s
        let s2 := if op = 9 ∧ 3 ≤ scope then s1.civShared o.e else s1
        .next ((s2.updCch c fun k => { k with op := none }).done c o.e)

/-- CCH_OP_TMO: a cache op has not completed within 2^CCH.TMO cc (R311). -/
def execCchOpTmo (c : CoreId) (s : State) : Host.Outcome State Fault Refusal :=
  match (s.core c).cch.op with
  | none => .next s
  | some o =>
    if s.strLive c then
      .next ((s.cchErr c 3 1 o.e.cw.toNat (op32 o.e.bits) (lsScope o.e.bits) (if op32 o.e.bits = 10 then 0 else o.e.rangeBase)).cause c 0x03)
    else .next s

/-- WPR_CFG_TMO: a range is still inconsistent; the running task aborts with CFG_MISMATCH, its count stopped only while the core is
PAUSED (R320, R502). -/
def execWprCfgTmo (c : CoreId) (s : State) : Host.Outcome State Fault Refusal :=
  if s.wprBroken c && s.strLive c && (s.core c).seq.task.isSome && (s.core c).seq.st != .paused then
    let (cw, op, addr) := match (s.core c).trf.ops.find? fun o => !o.held.isEmpty with
      | some o => (o.e.cw.toNat, op32 o.e.bits, o.e.rowAddr (o.held.headD 0))
      | none => (0, 0, 0)
    .next ((s.cchErr c 10 4 cw op 0 addr).cause c 0x11)
  else .next s

/-- CSP_INBOUND: an access of another requester to a CSP; a read asks for as many bytes as `bytes` has (R26, R322). A posted
write to an isolated core is discarded and counted (R18). -/
def execCspInbound (c : CoreId) (who : Inbound) (write : Bool) (off : BitVec 19) (bytes : List Byte) (s : State) :
    Host.Outcome State Fault Refusal :=
  if cspSize < off.toNat + bytes.length ∨ bytes = [] then .next s
  else if write then
    let g := s.cspWrite c who (cellsAt off.toNat bytes)
    .next (match g.err with
      | some .isolated => g.s.bumpRf 0 0x170 0 32 1
      | _ => g.s)
  else .next (s.cspRead c who off.toNat bytes.length).s

end Sys2Proof.Machine
end

