-- ==== Sys2Proof/Machine/Seq.lean ====
section
/-! DEFINITION. The control core: issuing a control word (R201 to R207), the AG operations (R208 to R213), program flow
(R214 to R223) and breakpoints (R511). A word issues in one command; the AG and FLOW operations it holds then complete by
commands of their own, before the next word issues, on what the word read when it issued (R205). -/

namespace Sys2Proof.Machine

/-! ### Checks of the head word -/

/-- Why the head word aborts the task: ERR bit, cause code, slot and detail of R239 to R241. -/
structure Bad where
  bit    : Nat
  cause  : Nat
  slot   : Nat
  detail : Nat
  addr   : Nat
  deriving DecidableEq, Repr

/-- An ILLEGAL_CW of the SEQ (R241). -/
def badCw (slot detail : Nat) : Option Bad := some ⟨8, 0x0D, slot, detail, 0⟩
/-- A LOOP_DEPTH (R217, R221). -/
def badDepth : Option Bad := some ⟨9, 0x10, 7, 0, 0⟩

/-- The loop levels entered since the last CALL (R218). -/
def Seq.sinceCall (q : Seq) : List LoopLevel :=
  match q.rstk.getLast? with
  | none => q.loops
  | some r => q.loops.drop r.ldepth

/-- The loop count a LOOP reads (R216). -/
def loopCount (q : Seq) (f : BitVec 24) : BitVec 24 :=
  if fld f 7 1 = 1 then (f.extractLsb' 0 7).setWidth 24 else (vget 0 q.a (fld f 3 4)).setWidth 24

/-- END of a LOOP. -/
def loopEnd (f : BitVec 24) : CsIndex := f.extractLsb' 8 12
/-- TARGET of BR, BRP and CALL. -/
def flowTarget (f : BitVec 24) : CsIndex := f.extractLsb' 0 12

/-- Whether a conditional FLOW operation is taken now (R215). -/
def flowTaken (q : Seq) (v : Vxe) (f : BitVec 24) : Bool :=
  match op24 f with
  | 3 => condAf q (fld f 17 3)
  | 4 => condP v (fld f 16 4) == f.getLsbD 15
  | 7 => condAf q (fld f 17 3)
  | _ => true

/-- The checks of program flow under check 2 of R204 (R214 to R222): the target check of R220 and what depends on a
value that may change while the word is held are left to check 5. -/
def flowCheck (q : Seq) (haltEn : Bool) (f : BitVec 24) : Option Bad :=
  let i := q.pc
  let last := i == 4095
  match op24 f with
  | 0 => if last then badCw 7 9 else none
  | 1 =>
    if 4 ≤ q.loops.length then badDepth
    else if loopEnd f ≤ i then badCw 7 5
    else if q.sinceCall.any fun l => l.end_ ≤ loopEnd f then badCw 7 5
    else if fld f 7 1 = 1 ∧ loopCount q f = 0 ∧ loopEnd f = 4095 then badCw 7 9
    else none
  | 2 =>
    match q.sinceCall.getLast? with
    | none => badCw 7 6
    | some l => if l.end_ ≠ i then badCw 7 6 else if l.remain = 0 ∧ last then badCw 7 9 else none
  | 3 => if fld f 17 3 = 7 then badCw 7 2 else if !condAf q (fld f 17 3) && last then badCw 7 9 else none
  | 4 => if 12 ≤ fld f 16 4 then badCw 7 2 else none
  | 5 => if 8 ≤ q.rstk.length then badDepth else none
  | 6 =>
    match q.rstk.getLast? with
    | none => badCw 7 8
    | some r => if r.ldepth ≠ q.loops.length then badCw 7 8 else if r.ret = 0 then badCw 7 9 else none
  | 7 =>
    if fld f 17 3 = 7 then badCw 7 2
    else if !condAf q (fld f 17 3) then (if last then badCw 7 9 else none)
    else match q.sinceCall.getLast? with
      | none => badCw 7 6
      | some l => if l.end_ = 4095 then badCw 7 9 else none
  | 8 => if last then badCw 7 9 else none
  | 9 => none
  | 10 => if haltEn && last then badCw 7 9 else none
  | _ => badCw 7 2

/-- The checks of program flow under check 5 of R204: the target of a taken BR or BRP (R220), and flow past the last
index that only the issue cycle decides (R222). -/
def flowCheckIssue (q : Seq) (v : Vxe) (f : BitVec 24) : Option Bad :=
  let taken := flowTaken q v f
  let inBody := match q.sinceCall.getLast? with
    | none => true
    | some l => decide (l.start ≤ flowTarget f) && decide (flowTarget f ≤ l.end_)
  match op24 f with
  | 1 => if loopCount q f = 0 ∧ loopEnd f = 4095 then badCw 7 9 else none
  | 3 => if taken && !inBody then badCw 7 7 else none
  | 4 => if taken then (if inBody then none else badCw 7 7) else if q.pc = 4095 then badCw 7 9 else none
  | _ => none

/-- The checks of the AG slot under check 2 of R204 (R208, R209, R211); `table` is the word a SETI names. -/
def agCheck (b : BitVec 24) (table : Cw) : Option Bad :=
  if 14 ≤ op24 b then badCw 6 2
  else if op24 b = 7 ∧ b.getLsbD 15 then
    (if 4 < fld b 0 3 ∨ table.fmt ≠ 2 then badCw 6 3 else none)
  else if op24 b = 8 ∧ (fld b 14 2 = 3 ∨ (fld b 14 2 = 2 ∧ 9 ≤ fld b 10 4)) then badCw 6 4
  else none

/-- Address of an LDA or STA (R208). -/
def ldaAddr (q : Seq) (b : BitVec 24) : Addr := vget 0 q.a (fld b 12 4) + (b.extractLsb' 0 12).setWidth 48 * 8

/-- The address check of R212 under check 5 of R204. -/
def State.agCheckIssue (s : State) (c : CoreId) (b : BitVec 24) : Option Bad :=
  if op24 b = 12 ∨ op24 b = 13 then
    let a := (ldaAddr (s.core c).seq b).toNat
    if (s.ownCsp c a).isNone ∨ a % 8 ≠ 0 then some ⟨12, 0x09, 6, 0, a⟩ else none
  else none

/-- Check 2 of R204 on every field, slots in the order of their SLOT codes (R240). -/
def cwCheck (q : Seq) (haltEn : Bool) (w table : Cw) : Option Bad :=
  if mxIllegal w.mx then badCw 1 2
  else if vxIllegal w.vx then badCw 2 2
  else if stIllegal w.st then badCw 3 2
  else if lsIllegal w.ls then badCw 4 2
  else if chIllegal w.ch then badCw 5 2
  else match agCheck w.ag table with
    | some b => some b
    | none => match flowCheck q haltEn w.flow with
      | some b => some b
      | none => if w.cond0.illegal || w.cond1.illegal || w.sigIllegal then badCw 8 2 else none

/-- The stream unit an ST slot names (R293). -/
def stUnit (b : BitVec 40) : UnitId := Fin.ofNat 4 (fld b 26 2)

/-- Check 4 of R204: room in every addressed queue, and no outstanding LDA on a register the word names (R213). -/
def roomFor (q : Seq) (w : Cw) : Bool :=
  (op40 w.mx == 0 || decide (q.mxq.length < 8)) && (op40 w.vx == 0 || decide (q.vxq.length < 8))
    && (op32 w.st == 0 || decide ((q.stq[stUnit w.st]).length < 8)) && (op32 w.ls == 0 || decide (q.lsq.length < 8))
    && (op24 w.ch == 0 || decide (q.chq.length < 8))
    && w.regs.all fun r => q.ldas.all fun l => l.d.toNat != r

/-- Whether an armed breakpoint names the head word and has not fired for it (R511). -/
def State.brkArmed (s : State) (c : CoreId) : Bool :=
  s.rf 15 (0x180 + 8 * c.val) 12 1 == 1 && s.rf 15 (0x180 + 8 * c.val) 0 12 == (s.core c).seq.pc.toNat
    && !(s.core c).seq.brkPassed

/-- Whether the SEQ looks at its head word: in RUN, not paused, no word half done, no LAYER hold, no cause arrived. -/
def State.headReady (s : State) (c : CoreId) : Bool :=
  let q := (s.core c).seq
  q.st == .run && s.mayStart c 0 && q.ag.isNone && q.flow.isNone && !q.layer && q.draining.isNone

/-! ### Issue -/

/-- The special value a MOV of KIND 2 reads (R209). -/
def State.special (s : State) (c : CoreId) (n : Nat) : Addr :=
  let q := (s.core c).seq
  match n with
  | 0 => match q.task with
    | some t => t.id.setWidth 48
    | none => 0
  | 1 => BitVec.ofNat 48 c
  | 2 => (s.core c).cyc.setWidth 48
  | 3 => BitVec.ofNat 48 s.windowBase
  | 4 => BitVec.ofNat 48 s.ownDev
  | 5 => match q.loops[0]? with
    | some l => l.remain.setWidth 48
    | none => 0
  | 6 => match q.loops[1]? with
    | some l => l.remain.setWidth 48
    | none => 0
  | 7 => match q.loops[2]? with
    | some l => l.remain.setWidth 48
    | none => 0
  | 8 => match q.loops[3]? with
    | some l => l.remain.setWidth 48
    | none => 0
  | _ => 0

/-- The value a SETI or a MOV reads as its word issues (R209, R211). -/
def State.agValue (s : State) (c : CoreId) (b : BitVec 24) (table : Cw) : Addr :=
  let k := s.core c
  match op24 b with
  | 7 => if b.getLsbD 15 then table.imm (fld b 0 3) else (b.extractLsb' 0 15).signExtend 48
  | 8 =>
    match fld b 14 2 with
    | 0 => vget 0 k.seq.a (fld b 10 4)
    | 1 => (vget 0 k.vxe.vsum (fld b 10 3)).setWidth 48
    | _ => s.special c (fld b 10 4)
  | _ => 0

/-- Place the slot instructions of the word at the tails of their queues, each carrying the A registers and the signal
attached to it (R204, R206, R251). -/
def Seq.place (q : Seq) (w : Cw) : Seq :=
  let g := w.sig
  let ent := fun (b : BitVec 40) (trig : Nat) =>
    QEntry.mk b q.a q.pc q.words (if g.trig.toNat = trig then some g else none)
  { q with
    mxq := if op40 w.mx = 0 then q.mxq else q.mxq ++ [ent w.mx 2]
    vxq := if op40 w.vx = 0 then q.vxq else q.vxq ++ [ent w.vx 3]
    stq := if op32 w.st = 0 then q.stq else vmod q.stq (stUnit w.st) (· ++ [ent w.st 4])
    lsq := if op32 w.ls = 0 then q.lsq else q.lsq ++ [ent w.ls 5]
    chq := if op24 w.ch = 0 then q.chq else q.chq ++ [ent w.ch 6] }

/-- Issue the word: queues filled, TAKEs applied, AG and FLOW latched with what they read, the ISSUE signal fired
(R204, R205, R248, R251). A FLOW of NOP moves on to the next index at once. -/
def State.issueWord (s : State) (c : CoreId) (w table : Cw) : State :=
  let k := s.core c
  let q := k.seq
  let ag : Option AgLatch := if op24 w.ag = 0 then none else some ⟨w.ag, q.a, s.agValue c w.ag table, q.words, q.pc⟩
  let fl : Option FlowLatch :=
    if op24 w.flow = 0 then none else some ⟨w.flow, q.pc, loopCount q w.flow, flowTaken q k.vxe w.flow⟩
  let s1 := (s.applyTakes c w).updSeq c fun q =>
    { q.place w with
      ag := ag
      flow := fl
      pc := if op24 w.flow = 0 then q.pc + 1 else q.pc
      words := q.words + 1
      waitCnt := 0
      takeGrant := false
      brkPassed := false
      stepping := false }
  let s2 := s1.pm (pgSeq c) 0x01 1
  if w.sig.trig = 1 then s2.fire c w.sig q.words else s2

/-- Raise a failed check of the head word; a WAIT or SIG failure also captures the conditions. -/
def State.badWord (s : State) (c : CoreId) (w : Cw) (b : Bad) : State :=
  let c0 := if b.slot = 8 then w.cond0.id * 8 + w.cond0.code else 0
  let c1 := if b.slot = 8 then w.cond1.id * 8 + w.cond1.code else 0
  s.seqRaise c b.bit b.cause b.slot b.addr b.detail c0 c1

/-- The word a SETI of the head word names; a zero word when it names none. -/
def State.tableWord (s : State) (c : CoreId) (w : Cw) : Fetched :=
  if op24 w.ag = 7 ∧ w.ag.getLsbD 15 then s.fetchCw c (w.ag.extractLsb' 3 12) else ⟨0, false, s⟩

/-- Send the take request the WAIT needs to the CCU (R250). -/
def State.takeRequest (s : State) (c : CoreId) (w : Cw) (n : Option (BitVec 5) × Option (BitVec 5)) : State :=
  (s.tell c (.take n.1 n.2 w.waitAny)).updSeq c fun q => { q with takePend := true }

/-- Checks 3 to 5 of R204 on a word that decodes: held, a take request sent, aborted, or issued. -/
def State.tryIssue (s held : State) (c : CoreId) (w table : Cw) : State :=
  let q := (s.core c).seq
  if q.takePend then held
  else if !q.takeGrant && !s.waitHolds c w then held
  else match (if q.takeGrant then none else s.takeNeeds c w) with
    | some n => held.takeRequest c w n
    | none =>
      if !roomFor q w then held
      else match s.agCheckIssue c w.ag with
        | some b => s.badWord c w b
        | none => match flowCheckIssue q (s.core c).vxe w.flow with
          | some b => s.badWord c w b
          | none => s.issueWord c w table

/-- HEAD_WORD_ISSUE: the checks of R204 in their order; the first that fails decides. A word that is held leaves the
state as it was. An immediate-table word is left to IMMEDIATE_TABLE_WORD. -/
def execHeadWordIssue (c : CoreId) (s : State) : Host.Outcome State Fault Refusal :=
  if !s.headReady c || s.brkArmed c then .next s
  else
    let q := (s.core c).seq
    let f := s.fetchCw c q.pc
    if f.ue then .next (f.s.seqRaise c 11 0x08 10)
    else if f.word.fmt = 2 then .next s
    else if f.word.fmt ≠ 1 then .next (f.s.badWord c f.word ⟨8, 0x0D, 0, 1, 0⟩)
    else
      let t := f.s.tableWord c f.word
      if t.ue then .next (t.s.seqRaise c 11 0x08 10)
      else match cwCheck q (s.rf (pgSeq c) 0x100 0 1 == 1) f.word t.word with
        | some b => .next (t.s.badWord c f.word b)
        | none => .next (t.s.tryIssue s c f.word t.word)

/-- IMMEDIATE_TABLE_WORD: a word of FMT 0x02 takes one issue cycle and acts as a standard word of zeros (R203). -/
def execImmediateTableWord (c : CoreId) (s : State) : Host.Outcome State Fault Refusal :=
  if !s.headReady c || s.brkArmed c then .next s
  else
    let f := s.fetchCw c (s.core c).seq.pc
    if f.ue || f.word.fmt != 2 then .next s
    else if (s.core c).seq.pc = 4095 then .next (f.s.badWord c 0 ⟨8, 0x0D, 7, 9, 0⟩)
    else .next (f.s.issueWord c 0 0)

/-! ### AG operations (R208 to R213) -/

/-- Complete the AG operation of the issued word when it is operation `op` and the core's logic runs; `f` gives its effect. -/
def State.agDo (s : State) (c : CoreId) (op : Nat) (f : AgLatch → Seq → Seq) : State :=
  match (s.core c).seq.ag with
  | none => s
  | some l => if op24 l.bits = op ∧ vget false s.stopped c = false then s.updSeq c fun q => { f l q with ag := none } else s

/-- The destination register of an AG operation. -/
def AgLatch.d (l : AgLatch) : Nat := fld l.bits 16 4
/-- The first source as it stood before the word (R205). -/
def AgLatch.s1 (l : AgLatch) : Addr := vget 0 l.regs (fld l.bits 12 4)
/-- The second source as it stood before the word (R205). -/
def AgLatch.s2 (l : AgLatch) : Addr := vget 0 l.regs (fld l.bits 8 4)

/-- Write an A register. -/
def Seq.setA (q : Seq) (d : Nat) (v : Addr) : Seq := { q with a := vset q.a d v }

/-- ADDI: A[d] + (sext(imm14) << 4·SH) (R208). -/
def addiValue (l : AgLatch) : Addr :=
  vget 0 l.regs l.d + ((l.bits.extractLsb' 0 14).signExtend 48 <<< (4 * fld l.bits 14 2))

/-- AG_ADDI (R208). -/
def execAgAddi (c : CoreId) (s : State) : Host.Outcome State Fault Refusal :=
  .next (s.agDo c 1 fun l q => q.setA l.d (addiValue l))

/-- AG_ADD (R208). -/
def execAgAdd (c : CoreId) (s : State) : Host.Outcome State Fault Refusal :=
  .next (s.agDo c 2 fun l q => q.setA l.d (l.s1 + l.s2))

/-- AG_SUB (R208). -/
def execAgSub (c : CoreId) (s : State) : Host.Outcome State Fault Refusal :=
  .next (s.agDo c 3 fun l q => q.setA l.d (l.s1 - l.s2))

/-- AG_SHL; a shift of 48 or more gives 0 (R208). -/
def execAgShl (c : CoreId) (s : State) : Host.Outcome State Fault Refusal :=
  .next (s.agDo c 4 fun l q => q.setA l.d (l.s1 <<< fld l.bits 0 6))

/-- AG_SHR, logical; a shift of 48 or more gives 0 (R208). -/
def execAgShr (c : CoreId) (s : State) : Host.Outcome State Fault Refusal :=
  .next (s.agDo c 5 fun l q => q.setA l.d (l.s1 >>> fld l.bits 0 6))

/-- AG_AND (R208). -/
def execAgAnd (c : CoreId) (s : State) : Host.Outcome State Fault Refusal :=
  .next (s.agDo c 6 fun l q => q.setA l.d (l.s1 &&& l.s2))

/-- SETI: the immediate, or the entry of the immediate-table word read as the word issued (R211). -/
def execSeti (c : CoreId) (s : State) : Host.Outcome State Fault Refusal :=
  .next (s.agDo c 7 fun l q => q.setA l.d l.val)

/-- MOV: the source read as the word issued (R209). -/
def execMov (c : CoreId) (s : State) : Host.Outcome State Fault Refusal :=
  .next (s.agDo c 8 fun l q => q.setA l.d l.val)

/-- CMP sets Z, N and C and no register (R210). -/
def execCmp (c : CoreId) (s : State) : Host.Outcome State Fault Refusal :=
  .next (s.agDo c 9 fun l q =>
    let f := cmpFlags l.s1 l.s2
    { q with z := f.1, n := f.2.1, c := f.2.2 })

/-- AG_MIN, unsigned (R208). -/
def execAgMin (c : CoreId) (s : State) : Host.Outcome State Fault Refusal :=
  .next (s.agDo c 10 fun l q => q.setA l.d (if l.s1.ult l.s2 then l.s1 else l.s2))

/-- AG_MAX, unsigned (R208). -/
def execAgMax (c : CoreId) (s : State) : Host.Outcome State Fault Refusal :=
  .next (s.agDo c 11 fun l q => q.setA l.d (if l.s1.ult l.s2 then l.s2 else l.s1))

/-- The address an LDA or STA latched: A[s] + 8 × off. -/
def AgLatch.addr (l : AgLatch) : Addr := l.s1 + (l.bits.extractLsb' 0 12).setWidth 48 * 8

/-- LDA starts its load; A[d] stays outstanding until LDA_WRITE (R212, R213). -/
def execLda (c : CoreId) (s : State) : Host.Outcome State Fault Refusal :=
  .next (s.agDo c 12 fun l q => { q with ldas := q.ldas ++ [⟨l.bits.extractLsb' 16 4, l.addr, l.num, l.cw⟩] })

/-- STA records its store, made later by STA_MADE (R212, R213). -/
def execSta (c : CoreId) (s : State) : Host.Outcome State Fault Refusal :=
  .next (s.agDo c 13 fun l q => { q with stas := q.stas ++ [⟨l.addr, vget 0 l.regs l.d, l.num, l.cw⟩] })

/-- LDA_WRITE: the oldest outstanding LDA reads the CSP after every STA of an earlier word and writes A[d]; an
uncorrectable word aborts with ECC_UE (R212, R213). -/
def execLdaWrite (c : CoreId) (s : State) : Host.Outcome State Fault Refusal :=
  let q := (s.core c).seq
  match q.ldas with
  | [] => .next s
  | l :: rest =>
    if !s.alive c || q.stas.any (fun t => decide (t.num < l.num)) then .next s
    else
      match s.ownCsp c l.addr.toNat with
      | none => .next (s.updSeq c fun q => { q with ldas := rest })
      | some off =>
        let r := s.cspLoad c .ownCore off 8
        let s1 := r.s.updSeq c fun q => { q with ldas := rest }
        if r.bad.isEmpty then .next (s1.updSeq c fun q => q.setA l.d.toNat (BitVec.ofNat 48 (leNat r.bytes)))
        else .next (s1.seqRaise c 11 0x08 6 l.addr.toNat)

/-- STA_MADE: once every VX instruction of an earlier word has completed, the oldest recorded STA is written into the
CSP, zero-extended (R208, R213). -/
def execStaMade (c : CoreId) (s : State) : Host.Outcome State Fault Refusal :=
  let k := s.core c
  match k.seq.stas with
  | [] => .next s
  | t :: rest =>
    if !s.alive c || k.seq.vxq.any (fun e => decide (e.num < t.num)) || k.vxe.acts.any (fun a => decide (a.e.num < t.num))
    then .next s
    else
      match s.ownCsp c t.addr.toNat with
      | none => .next (s.updSeq c fun q => { q with stas := rest })
      | some off =>
        .next ((s.cspStore c .ownCore off (natLe 8 t.val.toNat)).s.updSeq c fun q => { q with stas := rest })

/-! ### Program flow (R214 to R223) -/

/-- Complete the FLOW operation of the issued word when it is operation `op` and the core's logic runs; `f` gives its
effect. -/
def State.flowDo (s : State) (c : CoreId) (op : Nat) (f : FlowLatch → Seq → Seq) : State :=
  match (s.core c).seq.flow with
  | none => s
  | some l => if op24 l.bits = op ∧ vget false s.stopped c = false then s.updSeq c fun q => { f l q with flow := none } else s

/-- LOOP: a zero count skips the body; else a level is pushed and the body begins (R217). -/
def execLoop (c : CoreId) (s : State) : Host.Outcome State Fault Refusal :=
  .next (s.flowDo c 1 fun l q =>
    if l.count = 0 then { q with pc := loopEnd l.bits + 1 }
    else { q with
      pc := l.index + 1
      loops := q.loops ++ [⟨l.count - 1, l.index + 1, loopEnd l.bits, q.rstk.length⟩] })

/-- ENDL: the next iteration, or the level is popped (R218). -/
def execEndl (c : CoreId) (s : State) : Host.Outcome State Fault Refusal :=
  let s1 := s.flowDo c 2 fun l q =>
    match q.loops.getLast? with
    | none => { q with pc := l.index + 1 }
    | some v =>
      if v.remain = 0 then { q with pc := l.index + 1, loops := q.loops.dropLast }
      else { q with pc := v.start, loops := q.loops.dropLast ++ [{ v with remain := v.remain - 1 }] }
  match (s.core c).seq.flow with
  | some l => if op24 l.bits = 2 ∧ vget false s.stopped c = false then .next (s1.pm (pgSeq c) 0x06 1) else .next s1
  | none => .next s1

/-- BR (R215, R220). -/
def execBr (c : CoreId) (s : State) : Host.Outcome State Fault Refusal :=
  .next (s.flowDo c 3 fun l q => { q with pc := if l.taken then flowTarget l.bits else l.index + 1 })

/-- BRP (R215, R220). -/
def execBrp (c : CoreId) (s : State) : Host.Outcome State Fault Refusal :=
  .next (s.flowDo c 4 fun l q => { q with pc := if l.taken then flowTarget l.bits else l.index + 1 })

/-- CALL pushes the return index and the loop depth (R221). -/
def execCall (c : CoreId) (s : State) : Host.Outcome State Fault Refusal :=
  .next (s.flowDo c 5 fun l q =>
    { q with pc := flowTarget l.bits, rstk := q.rstk ++ [⟨l.index + 1, q.loops.length⟩] })

/-- RET pops the return stack (R221). -/
def execRet (c : CoreId) (s : State) : Host.Outcome State Fault Refusal :=
  .next (s.flowDo c 6 fun l q =>
    match q.rstk.getLast? with
    | none => { q with pc := l.index + 1 }
    | some r => { q with pc := r.ret, rstk := q.rstk.dropLast })

/-- BREAK with a true condition leaves the innermost level; with a false one it has no effect (R219). -/
def execBrk (c : CoreId) (s : State) : Host.Outcome State Fault Refusal :=
  .next (s.flowDo c 7 fun l q =>
    match l.taken, q.loops.getLast? with
    | true, some v => { q with pc := v.end_ + 1, loops := q.loops.dropLast }
    | true, none => { q with pc := l.index + 1 }
    | false, _ => { q with pc := l.index + 1 })

/-- LAYER stops further issue until the layer barrier (R223). -/
def execLayer (c : CoreId) (s : State) : Host.Outcome State Fault Refusal :=
  .next (s.flowDo c 8 fun l q => { q with pc := l.index + 1, layer := true })

/-- TEND: STATE becomes DRAIN (R224). -/
def execTend (c : CoreId) (s : State) : Host.Outcome State Fault Refusal :=
  .next (s.flowDo c 9 fun _ q => { q with st := .drain, draining := some .tend })

/-- HALT: as TEND, or a drain into PAUSED when HALT_EN is 1 (R225). -/
def execHalt (c : CoreId) (s : State) : Host.Outcome State Fault Refusal :=
  let en := s.rf (pgSeq c) 0x100 0 1 = 1
  .next (s.flowDo c 10 fun l q =>
    if en then { q with pc := l.index + 1, st := .drain, draining := some .haltPause }
    else { q with st := .drain, draining := some .halt })

/-! ### Layer barrier, breakpoints, timeouts -/

/-- Whether an engine of the core has an instruction queued or in progress (R224, R288). A SEND is in progress until its
acknowledgement. -/
def State.enginesQuiet (s : State) (c : CoreId) : Bool :=
  let k := s.core c
  let q := k.seq
  q.mxq.isEmpty && q.vxq.isEmpty && q.lsq.isEmpty && q.chq.isEmpty && q.stq.toList.all List.isEmpty
    && k.mxe.run.isNone && k.mxe.op.isNone && k.mxe.drains.isEmpty && k.vxe.acts.isEmpty && k.trf.ops.isEmpty
    && k.cch.op.isNone && k.chn.binds.all (fun b => b.2.unacked.all fun u => u.e.isNone)
    && k.str.units.toList.all (fun u => u.dq.isEmpty && u.acts.isEmpty && u.ldpg.isNone)
    && s.txu.slots.toList.all fun t => t.tail.isNone || t.core != c || t.orphan

/-- LAYER_BARRIER_COMPLETE: with every condition of R288 true, CUR inverts, SWAPS increments and issue goes on (R289). -/
def execLayerBarrierComplete (c : CoreId) (s : State) : Host.Outcome State Fault Refusal :=
  let k := s.core c
  if k.seq.layer && s.enginesQuiet c && k.mxe.ftq.toList.all (fun t => !t.valid) && k.seq.causes.isEmpty && s.alive c then
    .next (s.updCore c fun k =>
      { k with
        seq := { k.seq with layer := false }
        str := { k.str with cur := !k.str.cur, swaps := k.str.swaps + 1 } })
  else .next s

/-- BRK_HIT: an armed breakpoint names the head word; the SEQ sets its own PAUSE and HIT, and ONCE disarms it (R511). -/
def execBrkHit (c : CoreId) (s : State) : Host.Outcome State Fault Refusal :=
  if s.headReady c && s.brkArmed c then
    let s1 := (s.setRf (pgSeq c) 0x10 1 1 1).modReg 15 (0x180 + 8 * c.val) fun v =>
      let v1 := setFld v 14 1 1
      if fld v 13 1 = 1 then setFld v1 12 1 0 else v1
    .next (s1.updSeq c fun q => { q with brkPassed := true })
  else .next s

/-- Whether the watchdog of the held task expires: its count has reached 2^WDOG in RUN or DRAIN, once for a task (R232). -/
def Seq.wdogDue (q : Seq) : Bool :=
  (match q.task with
    | some t => decide (2 ^ t.wdog.toNat ≤ q.wdogCnt.toNat)
    | none => false) && (q.st == .run || q.st == .drain) && !q.wdogHit

/-- WATCHDOG_EXPIRY: the task's count reaches 2^WDOG in RUN or DRAIN and the task aborts with WATCHDOG; in the drain of an
abort the cause is lost and counted (R232, R236). -/
def execWatchdogExpiry (c : CoreId) (s : State) : Host.Outcome State Fault Refusal :=
  if (s.core c).seq.wdogDue && !(vget false s.stopped c) then
    .next ((s.seqRaise c 10 0x0A 0).updSeq c fun q => { q with wdogHit := true })
  else .next s

/-- The value a condition's item has, as WAIT_SNAP shows it (R263). -/
def snapWord (q : Seq) (w : Cw) (h0 h1 : Bool) : Dword :=
  let v := fun (d : Cond) => if d.code = 0 then 0 else itemVal q d.id
  BitVec.ofNat 64 (v w.cond0 + 2 ^ 16 * v w.cond1 + 2 ^ 32 * bit h0 + 2 ^ 33 * bit h1 + 2 ^ 34 * bit q.takePend)

/-- What SEQ.WAIT_TMO counts now: the SLOT code of R240 for a LAYER hold (11) or for a head word that decodes and whose WAIT is
not satisfied (8), with the head word. STATE PAUSED stops the count, CTL.PAUSE alone does not (R223, R260). -/
def State.waitsOn (s : State) (c : CoreId) : Option (Nat × Cw) :=
  let q := (s.core c).seq
  if !(q.st == .run && q.causes.isEmpty && q.ag.isNone && q.flow.isNone && s.alive c) then none
  else
    let f := s.fetchCw c q.pc
    if q.layer then some (11, f.word)
    else
      let t := f.s.tableWord c f.word
      let decodes := !f.ue && f.word.fmt == 1 && !t.ue
        && (cwCheck q (s.rf (pgSeq c) 0x100 0 1 == 1) f.word t.word).isNone
      let waits := q.takePend || (!q.takeGrant && !s.waitHolds c f.word)
      if decodes && waits then some (8, f.word) else none

/-- The exponent of SEQ.WAIT_TMO (R263). -/
def State.waitExp (s : State) (c : CoreId) : Nat := max 10 (s.rf (pgSeq c) 0x198 0 5)

/-- WAIT_TMO_EXPIRY: what SEQ.WAIT_TMO counts has reached the limit; the task aborts with WAIT_TMO and the SEQ page captures
the head word and its conditions (R223, R260, R261). -/
def execWaitTmoExpiry (c : CoreId) (s : State) : Host.Outcome State Fault Refusal :=
  let q := (s.core c).seq
  match s.waitsOn c with
  | none => .next s
  | some (slot, w) =>
    if q.waitCnt < 2 ^ s.waitExp c then .next s
    else
      let captures := !bitAt (s.reg (pgSeq c) 0x28) 3 && fld (s.reg (pgSeq c) 0x20) 3 61 == 0
      let s1 := if captures then
          s.setReg (pgSeq c) 0x440 (snapWord q w (s.condHolds c w.cond0) (s.condHolds c w.cond1))
        else s
      .next (s1.seqRaise c 3 0x03 slot 0 0 (w.cond0.id * 8 + w.cond0.code) (w.cond1.id * 8 + w.cond1.code))

end Sys2Proof.Machine
end

