-- ==== Sys2Proof/Machine/TaskFlow.lean ====
section
/-! DEFINITION. Dispatch and end of tasks: claims, grants, descriptors, images, end reports (R30 to R34, R224 to R231),
and the course of an abort (R233 to R236). -/

namespace Sys2Proof.Machine

/-- Whether the CCU acts: its island's logic has not stopped (R471, R475). -/
def State.ccuAlive (s : State) : Bool := !(vget false s.stopped 9)

/-- Take the front of a core's crossing towards the CCU. -/
def State.popCcu (s : State) (c : CoreId) : State :=
  s.updCcu fun u => { u with toCcu := u.toCcu.set c u.toCcu[c].tail }

/-- Take the front of the CCU's crossing towards a core. -/
def State.popCore (s : State) (c : CoreId) : State :=
  s.updCcu fun u => { u with toCore := u.toCore.set c u.toCore[c].tail }

/-- A "none" answer at the front of the crossing is seen by the core, which counts TASK_POLL from then on (R30); a core that
is no longer IDLE lets it pass. -/
def State.seeNone (s : State) (c : CoreId) : State :=
  match s.ccu.toCore[c] with
  | .noTask :: _ =>
    if vget false s.stopped c.val then s
    else (s.popCore c).updSeq c fun q => { q with dispatch := if q.st = .idle then .polling else .none }
  | _ => s

/-! ### Claims (R30, R31, R229, R230, R366) -/

/-- Device-local address of a CM offset of the own cluster. -/
def State.cmAddr (s : State) (off : Nat) : Nat := s.windowBase + off

/-- System address of a CM offset of the own cluster. -/
def State.ownLoc (s : State) (off : Nat) : Nat := 2 ^ 48 * s.ownDev + s.cmAddr off

/-- TLIST_LOG2 as it reads (R510). -/
def State.tlistLog2 (s : State) : Nat := max 4 (min 12 (s.rf 0 0x180 18 4))
/-- CM offset of the list header (R510). -/
def State.tlistBase (s : State) : Nat := 64 * s.rf 0 0x180 0 18
/-- CM offset of descriptor j's entry (R229). -/
def State.entryAt (s : State) (j : Nat) : Nat := s.tlistBase + 64 + 64 * (j % 2 ^ s.tlistLog2)
/-- TLIST_CURSOR. -/
def State.cursor (s : State) : Nat := s.rf 0 0x188 0 32

/-- Write the mirror entry of a descriptor that is assigned (`who` the core) or skipped (`who` 0xFF) (R230). -/
def State.mirrorEntry (s : State) (j : Nat) (desc : List Byte) (who outcome : Nat) : State :=
  let bs := desc ++ natLe 8 j ++ natLe 1 who ++ natLe 1 outcome ++ List.replicate 6 0 ++ natLe 8 s.ccu.cyc.toNat
    ++ List.replicate 40 0
  s.updCcu fun u =>
    { u with mirror := tputs 0 u.mirror (128 * (j % 512)) bs, mirrorNext := BitVec.ofNat 32 (j + 1) }

/-- Evaluate the sequence word, read through a request tag (R13): the number of descriptors appended as the CCU takes it, or none while nothing is assigned: a
word too far from the cursor sets ERR.TLIST and ends assignment until the word is valid again, halves that disagree leave it
unchanged, and none counts before the first valid one (R31, R229, R528). -/
def State.readSeqWord (s : State) : Option Nat × State :=
  if !s.cmServed then (none, s)
  else match s.rqtPass 12 (s.ownLoc s.tlistBase) with
  | none => (none, s)
  | some p =>
    let r := p.load 12 s.tlistBase 8
    let v := leNat r.bytes
    let n := v % 2 ^ 32
    let huskOk := r.bad.isEmpty && v / 2 ^ 32 == 2 ^ 32 - 1 - n
    let beyond := fun (m : Nat) => decide (2 ^ s.tlistLog2 < (2 ^ 32 + m - s.cursor) % 2 ^ 32)
    if huskOk then
      if beyond n then
        (none, (r.s.err 0 8 (BitVec.ofNat 64 (2 * 2 ^ 20)) (BitVec.ofNat 64 v)).updCcu fun u => { u with seqOk := false })
      else (some n, r.s.updCcu fun u => { u with seqWord := BitVec.ofNat 32 n, seqOk := true })
    else
      let m := s.ccu.seqWord.toNat
      (if s.ccu.seqOk = true ∧ beyond m = false then some m else none, r.s)

/-- Serve one claim: skip masked descriptors, grant the first of an enabled class, or answer none (R30, R366). The first
argument bounds the descriptors examined; a list holds at most 2^TLIST_LOG2. -/
def State.serveClaim (s : State) (c : CoreId) (n : Nat) : Nat → State
  | 0 => s.answer c .noTask
  | k + 1 =>
    let j := s.cursor
    let left := (2 ^ 32 + n - j) % 2 ^ 32
    if left = 0 ∨ 2 ^ s.tlistLog2 < left then s.answer c .noTask
    else
      let r := ((s.rqtPass 12 (s.ownLoc (s.entryAt j))).getD s).load 12 (s.entryAt j) 64
      let (free, s1) := if r.bad.isEmpty then ((0 : Nat), r.s) else r.s.drawChoice 2
      let cls := if r.bad.isEmpty then leNat (r.bytes.take 8) / 2 ^ 13 % 2 else free
      let s2 := s1.setRf 0 0x188 0 32 (j + 1)
      if bitAt (s.reg 0 0x198) cls then
        ((s2.mirrorEntry j r.bytes c.val 0).answer c (.grant (BitVec.ofNat 32 j))).updCcu fun u =>
          { u with holds := u.holds.set c (some (BitVec.ofNat 32 j)), trains := u.trains.set c (cls == 1) }
      else
        let s3 := (s2.bumpRf 0 0x1A0 0 32 1).setRf 0 0x1A8 0 32 j
        (s3.mirrorEntry j r.bytes 0xFF 5).serveClaim c n k

/-- Whether the CCU is held by a full crossing towards a core that answers (R15). -/
def State.ccuHeld (s : State) : Bool :=
  (List.finRange 8).any fun c => s.reachable c && decide (crossDepth < s.ccu.toCore[c].length)

/-- The CCU cycle in which the claim at the front of a core's crossing was written. -/
def State.claimAt (s : State) (c : CoreId) : Option Dword :=
  match s.ccu.toCcu[c] with
  | .claim t :: _ => some t
  | _ => none

/-- Whether a claim of the same CCU cycle of a lower core must be served before core c's (R30). -/
def State.claimBehind (s : State) (c : CoreId) : Bool :=
  (List.finRange 8).any fun d => decide (d < c) && s.reachable d && s.claimAt d == s.claimAt c

/-- CLAIM: the CCU decides the claim at the front of the core's crossing, claims of one cycle in ascending core order; a
fenced core's claim is discarded (R30, R32). It waits while no request tag is free (R13). -/
def execClaim (c : CoreId) (s : State) : Host.Outcome State Fault Refusal :=
  match s.ccu.toCcu[c] with
  | .claim _ :: _ =>
    if !s.ccuAlive || s.memDead || s.ccu.st != .run || s.ccuHeld || s.claimBehind c || (s.rqtPass 12 0).isNone then .next s
    else
      let s1 := s.popCcu c
      if !s.reachable c then .next s1
      else match s1.readSeqWord with
        | (none, s2) => .next (s2.answer c .noTask)
        | (some n, s2) => .next (s2.serveClaim c n (2 ^ s.tlistLog2 + 1))
  | _ => .next s

/-- TASK_POLL_EXPIRY: TASK_POLL cc after a "none" answer, an IDLE core claims again (R30); a core paused meanwhile sends
no claim (R228). -/
def execTaskPollExpiry (c : CoreId) (s : State) : Host.Outcome State Fault Refusal :=
  let s1 := s.seeNone c
  if (s1.core c).seq.dispatch = .polling ∧ s1.alive c = true then
    if (s1.core c).seq.st = .idle then .next (s1.claimNow c)
    else .next (s1.updSeq c fun q => { q with dispatch := .none })
  else .next s1

/-- TASK_GRANT: the grant is visible in the core, which issues the read of the descriptor (R34). -/
def execTaskGrant (c : CoreId) (s : State) : Host.Outcome State Fault Refusal :=
  let s1 := s.seeNone c
  match s1.ccu.toCore[c] with
  | .grant j :: _ =>
    if !s1.alive c then .next s1
    else .next ((s1.popCore c).updSeq c fun q => { q with dispatch := .reading j })
  | _ => .next s1

/-! ### Descriptors and images (R227, R231) -/

/-- The task a descriptor's control word describes (R231). -/
def taskOf (num : Word32) (w seed : Nat) : Task where
  num := num
  id := BitVec.ofNat 16 (w / 2 ^ 16)
  train := w / 2 ^ 13 % 2 == 1
  checked := w / 2 ^ 14 % 2 == 1
  wdog :=
    let e := w / 2 ^ 32 % 32
    BitVec.ofNat 5 (if e = 0 then 31 else max 16 e)
  start := BitVec.ofNat 12 w
  seed := BitVec.ofNat 64 seed

/-- IMG of a descriptor. -/
def descImg (w : Nat) : Bool := w / 2 ^ 12 % 2 == 1
/-- CM offset of the image. -/
def descImgAt (w : Nat) : Nat := w / 2 ^ 37 % 2 ^ 16 * 256
/-- Words of the image. -/
def descImgLen (w : Nat) : Nat := (w / 2 ^ 53 % 2 ^ 9 + 1) * 8

/-- Whether the core rejects a descriptor (R231). -/
def descReject (w : Nat) : Bool :=
  w / 2 ^ 15 % 2 == 1 || w / 2 ^ 62 % 4 != 0
    || (descImg w && (w % 2 ^ 12 % 8 != 0 || decide (4096 < w % 2 ^ 12 + descImgLen w)
      || decide (cmSize < descImgAt w + 32 * descImgLen w)))

/-- Task start: registers, stacks, PC, watchdog and every engine's start state; STATE becomes RUN (R34, R231). -/
def State.startTask (s : State) (c : CoreId) (t : Task) (init : Vector Addr 16) : State :=
  (s.startEngines c).updSeq c fun q =>
    { q with
      st := .run
      task := some t
      dispatch := .none
      pc := t.start
      z := false
      n := false
      c := false
      a := init
      loops := []
      rstk := []
      wdogCnt := 0
      wdogHit := false
      waitCnt := 0 }

/-- A0 to A7 from the descriptor, A8 to A15 zero (R231). -/
def descRegs (bs : List Byte) : Vector Addr 16 :=
  Vector.ofFn fun i => if i.val < 8 then BitVec.ofNat 48 (leNat ((bs.drop (16 + 6 * i.val)).take 6)) else 0

/-- Record an abort in the ABORT register (R236). -/
def State.abortReg (s : State) (c : CoreId) (cause cause2 : Nat) (host : Bool) : State :=
  let q := (s.core c).seq
  let id := match q.task with
    | some t => t.id.toNat
    | none => 0
  s.modReg (pgSeq c) 0x1A0 fun v =>
    setFld v 0 48 (cause + 2 ^ 8 * cause2 + 2 ^ 16 * q.pc.toNat + 2 ^ 28 * id + 2 ^ 44 * bit host)

/-- The eight 64-bit words of a descriptor. -/
def descWords (bs : List Byte) : Vector Dword 8 := Vector.ofFn fun i => BitVec.ofNat 64 (leNat ((bs.drop (8 * i.val)).take 8))

/-- The bytes of a held descriptor. -/
def descBytes (d : Vector Dword 8) : List Byte := d.toList.flatMap fun w => natLe 8 w.toNat

/-- DESCRIPTOR_RECEIVED: the descriptor is rejected, which is an ILLEGAL_CW of the SEQ (R241), its image load begins, or the
task starts; an uncorrectable word aborts with ECC_UE (R227, R231). It waits while no request tag is free (R13). -/
def execDescriptorReceived (c : CoreId) (s : State) : Host.Outcome State Fault Refusal :=
  match (s.core c).seq.dispatch with
  | .reading j =>
    if !s.alive c || s.memDead || !(s.core c).seq.causes.isEmpty || (s.core c).seq.abortTask then .next s
    else
      let at_ := s.entryAt j.toNat
      match s.rqtPass c.val (s.ownLoc at_) with
      | none => .next s
      | some p =>
      let r := p.load c.val at_ 64
      if !s.cmServed || !r.bad.isEmpty then .next (r.s.seqRaise c 11 0x08 9 (s.cmAddr at_))
      else
        let w := leNat (r.bytes.take 8)
        let t := taskOf j w (leNat ((r.bytes.drop 8).take 8))
        if descReject w then
          let s1 := r.s.updSeq c fun q => { q with task := some t, pc := t.start }
          let s2 := ((s1.seqErr c 13 0x0D 9 0 0 (s.cmAddr at_) 10).seqErr c 8 0x0D 9 0 0 (s.cmAddr at_) 10).abortReg c 0x0D 0 false
          .next ((s2.endTask c .rejected 0x0D).becomeIdle c)
        else if descImg w then
          .next (r.s.updSeq c fun q => { q with dispatch := .loading j (descWords r.bytes), task := some t, pc := t.start })
        else .next (r.s.startTask c t (descRegs r.bytes))
  | .none => .next s
  | .sent => .next s
  | .polling => .next s
  | .loading _ _ => .next s

/-- Write the words of an image into the control store (R227). -/
def State.loadImage (s : State) (c : CoreId) (idx : Nat) (bs : List Byte) : Nat → State
  | 0 => s
  | n + 1 =>
    ((s.writeCw c (BitVec.ofNat 12 idx) (BitVec.ofNat 256 (leNat (bs.take 32)))).pm (pgSeq c) 0x0A 1).loadImage c (idx + 1)
      (bs.drop 32) n

/-- Write FMT 0x00 into every word of an image range (R227). -/
def State.voidImage (s : State) (c : CoreId) (idx : Nat) : Nat → State
  | 0 => s
  | n + 1 =>
    let w := tget 0 (s.core c).seq.cs (idx % 4096)
    (s.writeCw c (BitVec.ofNat 12 idx) (setFld w 248 8 0)).voidImage c (idx + 1) n

/-- IMAGE_LOAD_DONE: the image is in the control store and the task starts; a failed read voids the range and aborts
with ECC_UE, or with WINDOW for an error reply (R227). It waits while no request tag is free (R13). -/
def execImageLoadDone (c : CoreId) (s : State) : Host.Outcome State Fault Refusal :=
  match (s.core c).seq.dispatch, (s.core c).seq.task with
  | .loading _ d, some t =>
    if !s.alive c || s.memDead || !(s.core c).seq.causes.isEmpty || (s.core c).seq.abortTask then .next s
    else
      let w := (vget 0 d 0).toNat
      let n := descImgLen w
      if !s.cmServed then .next ((s.voidImage c t.start.toNat n).seqRaise c 12 0x09 9 (s.cmAddr (descImgAt w)))
      else match s.rqtPass c.val (s.ownLoc (descImgAt w)) with
      | none => .next s
      | some p =>
        let r := p.load c.val (descImgAt w) (32 * n)
        match r.bad with
        | [] => .next ((r.s.loadImage c t.start.toNat r.bytes n).startTask c t (descRegs (descBytes d)))
        | b :: _ => .next ((r.s.voidImage c t.start.toNat n).seqRaise c 11 0x08 9 (s.cmAddr b))
  | _, _ => .next s

/-! ### End reports (R230, R259, R513) -/

/-- Outcome byte of a mirror entry (R230). -/
def EndKind.outcome : EndKind → Nat
  | .tend => 1
  | .halt => 2
  | .aborted => 3
  | .rejected => 4

/-- The CCU records an end report: the mirror entry of the descriptor, the trace, barrier arrivals of an aborted task,
and an eviction that waits for it (R230, R259, R368, R513). -/
def State.takeReport (s : State) (c : CoreId) (r : EndReport) : State :=
  let at_ := 128 * (r.num.toNat % 512)
  let mine := leNat (tgets 0 s.ccu.mirror (at_ + 64) 8) == r.num.toNat
  let s1 := if mine then s.updCcu fun u =>
      { u with mirror := tputs 0 (tputs 0 u.mirror (at_ + 73) (natLe 1 r.kind.outcome ++ [r.cause])) (at_ + 88)
                (natLe 8 u.cyc.toNat) }
    else s
  let s2 := s1.updCcu fun u => { u with holds := u.holds.set c none }
  let s3 := if s.rf 15 0x100 1 1 = 1 then s2.updCcu fun u =>
      { u with
        trace := tput 0 (tput 0 u.trace (2 * u.traceWp.toNat)
            (BitVec.ofNat 64 (r.id.toNat + 2 ^ 16 * c.val + 2 ^ 19 * r.kind.code + 2 ^ 21 * r.cause.toNat)))
          (2 * u.traceWp.toNat + 1) u.cyc
        traceWp := u.traceWp + 1 }
    else s2
  let s4 := if r.kind = .aborted ∨ r.kind = .rejected then
      (List.range 32).foldl (fun (t : State) n =>
        t.setArrived (BitVec.ofNat 5 n) (setBit (t.arrived (BitVec.ofNat 5 n)) c false)) s3
    else s3
  { s4 with evx := { s4.evx with
      wait := s4.evx.wait.filter (· != c)
      aborted := if s4.evx.wait.contains c && r.kind == .aborted && r.cause == 0x0B
        then setBit s4.evx.aborted c true else s4.evx.aborted } }

/-- END_REPORT: the CCU receives the end report at the front of a core's crossing. -/
def execEndReport (c : CoreId) (s : State) : Host.Outcome State Fault Refusal :=
  match s.ccu.toCcu[c] with
  | .report r :: _ => if s.ccuAlive then .next ((s.popCcu c).takeReport c r) else .next s
  | _ => .next s

/-- TASK_END: after TEND or HALT the word's AG operation is done, every queue is empty and every write complete; the SEQ reports and becomes IDLE, or
PAUSED with the task held after a HALT with HALT_EN = 1 (R224, R225). -/
def execTaskEnd (c : CoreId) (s : State) : Host.Outcome State Fault Refusal :=
  let k := s.core c
  let q := k.seq
  if !(q.st == .drain && q.causes.isEmpty && q.ag.isNone && s.enginesQuiet c && k.writesDone && q.ldas.isEmpty && s.alive c) then .next s
  else match q.draining with
    | none => .next s
    | some .haltPause =>
      .next ((s.setRf (pgSeq c) 0x10 1 1 1).updSeq c fun q => { q with st := .paused, draining := none })
    | some .tend => .next (((s.setRf (pgSeq c) 0x1A0 0 16 0).endTask c .tend 0).becomeIdle c)
    | some .halt => .next (((s.setRf (pgSeq c) 0x1A0 0 16 0).endTask c .halt 0).becomeIdle c)

/-! ### Abort (R233 to R236) -/

/-- The lowest code of a list of causes. -/
def lowestCause (l : List Cause) : Option Cause :=
  l.foldl (fun b x => match b with
    | none => some x
    | some y => if x.code < y.code then some x else some y) none

/-- The abort takes effect: CAUSE is the lowest code that arrived, CAUSE2 the next lowest; every engine is signalled and
STATE becomes DRAIN (R234, R236). -/
def State.beginAbort (s : State) (c : CoreId) : State :=
  let q := (s.core c).seq
  match lowestCause q.causes with
  | none => s
  | some x =>
    let second := match lowestCause (q.causes.erase x) with
      | some y => y.code.toNat
      | none => 0
    let s1 := (s.abortReg c x.code.toNat second x.host).abortEngines c
    s1.updSeq c fun q => { q with st := .drain, causes := [], abortTask := true }

/-- A cause the CCU has sent reaches the core (R233). -/
def State.takeCauses (s : State) (c : CoreId) : State :=
  match s.ccu.toCore[c] with
  | .cause code :: _ => (s.popCore c).cause c code
  | _ => s

/-- ABORT: the causes that have reached the SEQ take effect (R234). -/
def execAbort (c : CoreId) (s : State) : Host.Outcome State Fault Refusal :=
  if !s.alive c then .next s
  else
    let s1 := (s.seeNone c).takeCauses c
    if (s1.core c).seq.abortTask then .next s1 else .next (s1.beginAbort c)

/-- ABORT_END: every issued write is complete; the SEQ reports the aborted task and becomes IDLE or PAUSED (R235). -/
def execAbortEnd (c : CoreId) (s : State) : Host.Outcome State Fault Refusal :=
  let k := s.core c
  if k.seq.abortTask && k.writesDone && s.alive c then
    .next ((s.endTask c .aborted (BitVec.ofNat 8 (s.rf (pgSeq c) 0x1A0 0 8))).becomeIdle c)
  else .next s

/-- ABORT_DRAIN_TMO: writes still incomplete after 2^TMO cc; ERR.DRAIN is set and the core enters FAULT (R235). -/
def execAbortDrainTmo (c : CoreId) (s : State) : Host.Outcome State Fault Refusal :=
  let k := s.core c
  if k.seq.abortTask && !k.writesDone && k.seq.st == .drain && s.alive c then
    .next ((s.seqErr c 14 (s.rf (pgSeq c) 0x1A0 0 8) 0 0 0 0 0).updSeq c fun q => { q with st := .fault })
  else .next s

end Sys2Proof.Machine
end

