-- ==== Sys2Proof/Machine/Txu.lean ====
section
/-! DEFINITION. Transactions (R351 to R366, R374 to R377) and the explicit copies of the privileged units (R230, R318,
R365, R477). -/

namespace Sys2Proof.Machine

/-! ### Slots -/

/-- Lines of a slot that are pending (`committing` false) or committing. -/
def Txu.linesOf (t : Txu) (i : SlotId) (committing : Bool) : List TxLine :=
  t.lines.filter fun l => l.slot == i && l.committing == committing

/-- Record an error of the TXU page (R374, R375). -/
def State.txErr (s : State) (b kind handle : Nat) (core : CoreId) (sys : Nat) : State :=
  s.err 3 b (BitVec.ofNat 64 (handle + 2 ^ 12 * core.val + 2 ^ 15 * kind)) (BitVec.ofNat 64 sys)

/-- System address of an own-device address. -/
def State.ownSys (s : State) (loc : Nat) : Nat := 2 ^ 48 * s.ownDev + loc

/-- The LS queue head, if it holds a transaction op that may start: TXC and TXA after every earlier TST row (R358), TXB once every
earlier row is requested (R320). -/
def State.txHead (s : State) (c : CoreId) (op : Nat) : Option (QEntry × State) :=
  match (s.core c).seq.lsq with
  | [] => none
  | e :: rest =>
    let quiet := (s.core c).trf.ops.all fun o => if op = 12 then o.held.isEmpty else !o.store
    if op32 e.bits = op && s.mayStart c 3 && !s.lsBlocked c && quiet && !s.memHalted then
      some (e, s.updSeq c fun q => { q with lsq := rest })
    else none

/-- Task ID of a core's task. -/
def State.taskId (s : State) (c : CoreId) : BitVec 16 :=
  match (s.core c).seq.task with
  | some t => t.id
  | none => 0

/-- The lowest FREE slot (R352). -/
def Txu.freeSlot (t : Txu) : Option SlotId := (List.finRange 64).find? fun i => t.slots[i].st == .free

/-- TXB: allocates the lowest FREE slot and enters transactional mode; it waits when none is FREE (R352). -/
def execTxb (c : CoreId) (s : State) : Host.Outcome State Fault Refusal :=
  match s.txHead c 12 with
  | none => .next s
  | some (e, t) =>
    match t.txu.heldBy c with
    | some i => .next ((t.txErr 8 4 (t.txu.handle i) c 0).cause c 0x0F)
    | none => match t.txu.freeSlot with
      | none => .next s
      | some i =>
        let id := t.taskId c
        let s1 := t.updSlot i fun k =>
          { st := .open_, gen := k.gen + 1, core := c, task := id, age := 0, reason := 0, holder := 0, lines := 0, dur := .none,
            tail := none, orphan := false }
        .next ((({ s1 with txu := { s1.txu with mode := s1.txu.mode.set c true } }).pm 3 0x01 1).done c e)

/-- TXB_SLOT_TMO: no slot has become FREE within 2^TXU.TMO memory-island cycles (R352); TMO and LIMIT are set (R374). -/
def execTxbSlotTmo (c : CoreId) (s : State) : Host.Outcome State Fault Refusal :=
  match s.txHead c 12 with
  | none => .next s
  | some _ =>
    if (s.txu.heldBy c).isNone && s.txu.freeSlot.isNone then .next (((s.txErr 3 1 0 c 0).txErr 8 1 0 c 0).cause c 0x0F)
    else .next s

/-! ### Transactional stores (R353 to R356) -/

/-- What merging a row, line by line, gives. -/
inductive Merged where
  | ok (s : State)
  | wait
  | limit (kind line : Nat) (s : State)

/-- Check bits of the words of a pending line as it is written: a word written for the first time, or whole, is encoded
afresh; a partial write keeps an uncorrectable word as it is. -/
def State.txEncode (s : State) (src line : Nat) (old : BitVec 128) (cs : List (Nat × Byte)) : State :=
  let words := (cs.map fun c => c.1 / 8).dedup
  words.foldl (fun (t : State) w =>
    let fresh := (old.extractLsb' (8 * w) 8 == 0) || decide (8 ≤ (cs.filter fun c => c.1 / 8 == w).length)
    (t.writeWord src (cscWord line w).1 (cscWord line w).2 fresh).s) s

/-- Merge bytes into a pending line's record. -/
def TxLine.merge (l : TxLine) (cs : List (Nat × Byte)) : TxLine :=
  { l with
    mask := cs.foldl (fun (m : BitVec 128) (x : Nat × Byte) => m ||| (1 <<< x.1)) l.mask, data := memPuts l.data cs }

/-- Merge the bytes of one line for transaction `i` (R353, R354, R356). -/
def State.txMerge (s : State) (c : CoreId) (i : SlotId) (line : Nat) (cs : List (Nat × Byte)) : Merged :=
  if s.txu.slots[i].st ≠ .open_ then .ok s
  else match s.txPending line with
    | some l =>
      if l.slot = i then
        let t := s.txEncode c line l.mask cs
        .ok { t with txu := { t.txu with
          lines := modFirst (fun x => x.line == line && !x.committing) (·.merge cs) t.txu.lines } }
      else .ok (s.txDoom i 2 s.txu.slots[l.slot].core.val)
    | none =>
      let set := s.txu.lines.filter fun l => l.line % 1024 == line % 1024
      if 32 ≤ (s.txu.linesOf i false).length then .limit 2 line s
      else if 8 ≤ (set.filter fun l => !l.committing).length then .limit 3 line s
      else if 8 ≤ set.length then .wait
      else
        let t := (s.cscRoom line).txEncode c line 0 cs
        let l : TxLine := (⟨line, i, 0, [], false⟩ : TxLine).merge cs
        let t1 := { t with txu := { t.txu with lines := t.txu.lines ++ [l] } }
        .ok ((t1.updSlot i fun k => { k with lines := k.lines + 1 }).pm 3 0x07 1)

/-- Merge a row, line by line. -/
def State.txMergeRow (s : State) (c : CoreId) (i : SlotId) (cells : List (Nat × Byte)) : List Nat → Merged
  | [] => .ok s
  | l :: ls => match s.txMerge c i l (lineCells l cells) with
    | .ok t => t.txMergeRow c i cells ls
    | .wait => .wait
    | .limit k n t => .limit k n t

/-- Write back and invalidate the CCH lines a transactional row covers (R353), for the word `cw` of its TST; none when a write-back
finds no tag. A line whose write-back fails aborts the task (R311). -/
def State.txEvictCch (s : State) (c : CoreId) (cw : Nat) : List Nat → Option State
  | [] => some s
  | l :: ls => match (s.core c).cch.find l with
    | none => s.txEvictCch c cw ls
    | some x =>
      if x.dirty = 0 then (s.updCch c fun k => k.remove l).txEvictCch c cw ls
      else
        let w := s.writeBack c x cw 2
        if w.busy then none else ((w.s.updCch c fun k => k.remove l).writeBackFails c w cw 2 l).txEvictCch c cw ls

/-- TX_STORE: a transactional TST row is merged into pending lines, dooms its transaction, is refused by a limit, or waits
for a committing line to be released (R353, R354, R356). -/
def execTxStore (c : CoreId) (row : Byte) (s : State) : Host.Outcome State Fault Refusal :=
  match (s.core c).storeRow row.toNat with
  | none => .next s
  | some (i, o) =>
    let n := row.toNat
    let loc := o.e.rowAddr n
    let bs := o.rowBytes n
    if !o.tx.contains n || !s.rowTurn c i true then .next s
    else match s.txEvictCch c o.e.cw.toNat (linesOf loc bs.length) with
      | none => .next s
      | some t => match t.txu.heldBy c with
        | none => .next (t.rowAccepted c o n)
        | some slot => match t.txMergeRow c slot (cellsAt loc bs) (linesOf loc bs.length) with
          | .ok t1 => .next (t1.rowAccepted c o n)
          | .wait => .next s
          | .limit kind line t1 =>
            .next ((((t1.txErr 8 kind (t1.txu.handle slot) c (t1.ownSys (128 * line))).txDiscard c).dropRow c o n).cause c 0x0F)

/-- TX_OVERWRITE: a non-transactional write meets a pending line (R356). The write itself comes about in the command that
makes it. -/
def execTxOverwrite (line : BitVec 41) (s : State) : Host.Outcome State Fault Refusal := .next (s.txOverwritten line.toNat)

/-- Whether a transaction is 2^TXU.TMO memory-island cycles old (R357). -/
def State.txAged (s : State) (slot : SlotId) : Bool := decide (2 ^ max 10 (s.rf 3 0x40 0 5) ≤ s.txu.slots[slot].age.toNat)

/-- TX_AGED: an OPEN transaction is 2^TXU.TMO memory-island cycles old (R357). -/
def execTxAged (slot : SlotId) (s : State) : Host.Outcome State Fault Refusal :=
  if s.memHalted || !s.txAged slot then .next s else .next (s.txDoom slot 4)

/-! ### Commit and abort (R358 to R362) -/

/-- The status address A[s]. -/
def QEntry.statusAddr (e : QEntry) : Nat := e.a (fld e.bits 13 4)
/-- The commit-word address A[w]. -/
def QEntry.commitAddr (e : QEntry) : Nat := e.a (fld e.bits 24 4)
/-- The commit value A[v][31:0]. -/
def QEntry.commitVal (e : QEntry) : Nat := e.a (fld e.bits 20 4) % 2 ^ 32
/-- SCOPE of a TXC. -/
def txScope (e : QEntry) : Nat := fld e.bits 17 3

/-- CSP offset of a status address, if it may hold a status word (R359). -/
def State.statusOff (s : State) (c : CoreId) (e : QEntry) : Option Nat :=
  match s.ownCsp c e.statusAddr with
  | none => none
  | some o => if e.statusAddr % 8 = 0 then some o else none

/-- Write a status word (R359), and the op completes. -/
def State.txStatus (s : State) (c : CoreId) (e : QEntry) (outcome handle lines holder value : Nat) : State :=
  let w := outcome + 2 ^ 4 * handle + 2 ^ 16 * lines + 2 ^ 22 * (if outcome = 2 then holder else 0) + 2 ^ 32 * value
  match s.statusOff c e with
  | none => s
  | some o => (s.cspStore c .ownCore o (natLe 8 w)).s.done c e

/-- Transactional mode ends. -/
def State.txLeave (s : State) (c : CoreId) : State := { s with txu := { s.txu with mode := s.txu.mode.set c false } }

/-- End a held transaction without commit: log, pending lines dropped, slot FREE, status word (R360). -/
def State.txEnd (s : State) (c : CoreId) (i : SlotId) (e : QEntry) (outcome scope : Nat) : State :=
  let k := s.txu.slots[i]
  let h := s.txu.handle i
  let lines := k.lines
  let s1 := (((s.txLog i outcome scope).dropLines i).updSlot i fun x =>
    { x with st := .free, lines := 0, age := 0, reason := 0, dur := .none, tail := none }).bumpRf 3 0x118 32 32 1
  (s1.txLeave c).txStatus c e outcome h lines k.holder.toNat 0

/-- A slot past its commit point becomes FREE once no line of it is committing and no durable sequence runs (R360). -/
def State.txFinish (s : State) (i : SlotId) : State :=
  let k := s.txu.slots[i]
  if k.st = .committing ∧ k.dur = .none ∧ (s.txu.linesOf i true).isEmpty then
    s.updSlot i fun x => { x with st := .free, lines := 0, age := 0, tail := none }
  else s

/-- The bytes of a masked line as cells at device-local addresses. -/
def TxLine.cells (l : TxLine) : List (Nat × Byte) :=
  (List.range 128).filterMap fun i => if l.mask.getLsbD i then some (128 * l.line + i, tget 0 l.data i) else none

/-- Commit one pending line of a slot: it becomes committing and its bytes leave for external memory. A line that is still
committing for an earlier transaction keeps its place behind the new one, which takes over its bytes for reads. A line
with an uncorrectable word is dropped and sets ERR.UE (R358, R374). None when no tag is free. -/
def State.commitLine (s : State) (c : CoreId) (i : SlotId) (l : TxLine) : Option State :=
  let words := (List.range 16).filter fun w => l.mask.extractLsb' (8 * w) 8 != 0
  let (ue, s1) := words.foldl (fun (a : Bool × State) w =>
    let r := a.2.readWord 13 (cscWord l.line w).1 (cscWord l.line w).2
    (a.1 || r.ue, r.s)) (false, s)
  let rest := fun (t : State) => t.txu.lines.filter fun x => !(x.line == l.line && x.slot == i && !x.committing)
  if ue then
    let s2 := s1.txErr 10 7 (s1.txu.handle i) c (s1.ownSys (128 * l.line))
    some { s2 with txu := { s2.txu with lines := rest s2 } }
  else
    let base : TxLine := match s1.txCommitting l.line with
      | some o => { l with mask := o.mask ||| l.mask, data := l.cells.foldl (fun d x => tput 0 d (x.1 % 128) x.2) o.data }
      | none => l
    let new : TxLine := { base with slot := i, committing := true }
    (s1.launch c.val (.txLine i s1.txu.slots[i].gen l.line) s1.ownDev (128 * l.line) fun tag =>
      [wrPacket (s1.srcWord 13) tag (128 * l.line) l.cells]).map fun t =>
        { t with txu := { t.txu with lines := new :: rest t } }

/-- Commit several lines. -/
def State.commitLines (s : State) (c : CoreId) (i : SlotId) : List TxLine → Option State
  | [] => some s
  | l :: ls => match s.commitLine c i l with
    | none => none
    | some t => t.commitLines c i ls

/-- Whether A[w] may hold the commit word of a transaction (R362). -/
def State.commitAddrOk (s : State) (i : SlotId) (e : QEntry) : Bool :=
  s.target s.ownDev e.commitAddr == .ext && e.commitAddr % 8 == 0
    && (s.txu.linesOf i false).all fun l => l.line != e.commitAddr / 128

/-- TXC: the commit point of an OPEN transaction, the reason of a DOOMED one, or NONE (R358 to R360, R362). -/
def execTxc (c : CoreId) (s : State) : Host.Outcome State Fault Refusal :=
  match s.txHead c 13 with
  | none => .next s
  | some (e, t) =>
    let scope := txScope e
    match t.statusOff c e with
    | none => .next (t.cause c 0x09)
    | some _ => match t.txu.heldBy c with
      | none => .next ((t.txLeave c).txStatus c e 0 0 0 0 0)
      | some i =>
        if t.txu.slots[i].st = .doomed then .next (t.txEnd c i e t.txu.slots[i].reason.toNat scope)
        else if scope ≠ 2 && !t.commitAddrOk i e then
          .next (((t.txErr 11 8 (t.txu.handle i) c (t.ownSys e.commitAddr)).txDiscard c).cause c 0x09)
        else match t.commitLines c i (t.txu.linesOf i false) with
          | none => .next s
          | some t1 =>
            let t2 := (t1.bumpRf 3 0x118 0 32 1).pm 3 0x02 1
            if scope = 2 then
              let t3 := ((t2.txLeave c).txLog i 1 2).updSlot i fun k => { k with st := .committing }
              .next ((t3.txStatus c e 1 (t3.txu.handle i) (t3.txu.slots[i]).lines 0 0).txFinish i)
            else .next (t2.updSlot i fun k => { k with st := .committing, dur := .lines (BitVec.ofNat 3 scope), tail := some e })

/-- TXA: discards an OPEN transaction or reports a DOOMED one's reason (R360). -/
def execTxa (c : CoreId) (s : State) : Host.Outcome State Fault Refusal :=
  match s.txHead c 14 with
  | none => .next s
  | some (e, t) => match t.statusOff c e with
    | none => .next (t.cause c 0x09)
    | some _ => match t.txu.heldBy c with
      | none => .next ((t.txLeave c).txStatus c e 0 0 0 0 0)
      | some i =>
        .next (t.txEnd c i e (if t.txu.slots[i].st = .doomed then t.txu.slots[i].reason.toNat else 5) 0)

/-- A durable sequence ends: log; the core that still waits leaves transactional mode, its status word is written and the TXC
completes (R353, R361, R362). -/
def State.durEnd (s : State) (i : SlotId) (outcome : Nat) : State :=
  let k := s.txu.slots[i]
  let scope := match k.dur with
    | .none => 0
    | .lines n => n.toNat
    | .word n => n.toNat
  let s1 := s.txLog i outcome scope
  let s2 := s1.updSlot i fun x => { x with dur := .none, tail := none }
  let s3 := match k.tail, k.orphan with
    | none, _ => s2
    | some _, true => s2
    | some e, false => (s2.txLeave k.core).txStatus k.core e outcome (s2.txu.handle i) k.lines 0 e.commitVal
  s3.txFinish i

/-- A durable sequence fails: ERR.DURABLE, DURABLE_FAIL (R362). -/
def State.durFail (s : State) (i : SlotId) (kind sys : Nat) : State :=
  (s.txErr 9 kind (s.txu.handle i) s.txu.slots[i].core sys).durEnd i 7

/-- The oldest committing record of a line, and the others. -/
def Txu.takeCommitting (t : Txu) (line : Nat) : Option (TxLine × List TxLine) :=
  (takeFirst (fun l => l.line == line && l.committing) t.lines.reverse).map fun r => (r.1, r.2.reverse)

/-- A committing line is released: it becomes a clean CSC line where all its bytes are known, and is newer than what a fill in
flight brings (R358). -/
def State.releaseLine (s : State) (l : TxLine) (rest : List TxLine) : State :=
  let n := l.line
  let cs := l.cells.map fun y => (y.1 % 128, y.2)
  let s1 := { s with
    txu := { s.txu with lines := rest }
    cscBuf := s.cscBuf.map fun (f : CscFill) => if f.line = n ∧ f.data = none then { f with wrote := f.wrote ++ cs } else f }
  if (s1.cscFind n).isSome then { s1 with csc := modFirst (·.line == n) (fun x => { x with data := memPuts x.data cs }) s1.csc }
  else if l.mask = BitVec.allOnes 128 then s1.cscAlloc 13 n (tgets 0 l.data 0 128)
  else s1

/-- The committing record of a line that a slot holds, and the others. -/
def Txu.takeLine (t : Txu) (i : SlotId) (line : Nat) : Option (TxLine × List TxLine) :=
  takeFirst (fun l => l.line == line && l.committing && l.slot == i) t.lines

/-- The write of a committed line fails (`kind` 6) or is reclaimed (5): a line still committing is released and ERR.DURABLE set; a
durable sequence that still waits for its acknowledgement stops (R358, R362). -/
def State.txLineFails (s : State) (i : SlotId) (gen : BitVec 6) (line kind : Nat) : State :=
  let sys := s.ownSys (128 * line)
  let k := s.txu.slots[i]
  let waits := k.gen == gen && (match k.dur with
    | .lines _ => true
    | .none => false
    | .word _ => false)
  match s.txu.takeLine i line with
  | some (l, rest) =>
    let s1 := s.releaseLine l rest
    if waits then s1.durFail i kind sys else (s1.txErr 9 kind (s1.txu.handle i) k.core sys).txFinish i
  | none => if waits then s.durFail i kind sys else s

/-- The slot and generation of a line's write that has a tag. -/
def State.txTag (s : State) (line : Nat) : Option (SlotId × BitVec 6) :=
  s.rqt.tags.findSome? fun e => match e.2 with
    | some g => (match g.user with
      | .txLine i gen n => if n = line then some (i, gen) else none
      | _ => none)
    | none => none

/-- COMMITTING_LINE_ACK: the write of a committing line is acknowledged at DEVICE scope, or fails; the line is released (R358). For
a line already released, whose write still has a tag, it is the acknowledgement at SYSTEM scope, or an error after the first. -/
def execCommittingLineAck (line : BitVec 41) (r : Reply) (s : State) : Host.Outcome State Fault Refusal :=
  let n := line.toNat
  if s.memHalted then .next s
  else match s.txu.takeCommitting n with
  | some (l, rest) => match r with
    | .data _ => .next ((s.releaseLine l rest).txFinish l.slot)
    | .error _ =>
      let gen := s.txu.slots[l.slot].gen
      .next ((s.freeUser (.txLine l.slot gen n)).txLineFails l.slot gen n 6)
  | none => match s.txTag n with
    | none => .next s
    | some (i, gen) => match r with
      | .data _ => .next (s.freeUser (.txLine i gen n))
      | .error _ => .next ((s.freeUser (.txLine i gen n)).txLineFails i gen n 6)

/-- The commit word of a durable TXC (R362). -/
def commitWord (e : QEntry) : List Byte := natLe 4 e.commitVal ++ natLe 4 (2 ^ 32 - 1 - e.commitVal)

/-- Lines of a durable commit that are not acknowledged at its scope: those still committing, and at SYSTEM scope those whose write
still has its tag (R302, R362). -/
def State.unackedLines (s : State) (i : SlotId) (scope : Nat) : List Nat :=
  let tagged := s.rqt.tags.filterMap fun e => match e.2 with
    | some g => (match g.user with
      | .txLine j gen n => if j = i ∧ gen = s.txu.slots[i].gen then some n else none
      | _ => none)
    | none => none
  ((s.txu.linesOf i true).map (·.line)) ++ (if scope = 4 then tagged else [])

/-- DURABLE_LINES_ACKED: every data line is acknowledged at the scope of the commit; the commit word is written (R362). -/
def execDurableLinesAcked (slot : SlotId) (s : State) : Host.Outcome State Fault Refusal :=
  let k := s.txu.slots[slot]
  match k.dur with
  | .lines sc =>
    if !(s.unackedLines slot sc.toNat).isEmpty || s.memHalted then .next s
    else match k.tail with
      | none => .next (s.durEnd slot 1)
      | some e => match s.launchWrite k.core.val 13 (.txWord slot) s.ownDev (cellsAt e.commitAddr (commitWord e)) with
        | none => .next s
        | some t => .next (t.updSlot slot fun x => { x with dur := .word sc })
  | .none => .next s
  | .word _ => .next s

/-- COMMIT_WORD_ACK: the commit word is acknowledged, or fails (R362). -/
def execCommitWordAck (slot : SlotId) (r : Reply) (s : State) : Host.Outcome State Fault Refusal :=
  let k := s.txu.slots[slot]
  match k.dur with
  | .word sc =>
    if s.memHalted then .next s
    else match r with
      | .data _ =>
        let s1 := if sc = 4 then s.freeUser (.txWord slot) else s
        .next ((s1.pm 3 0x08 1).durEnd slot 1)
      | .error _ =>
        let at_ := match k.tail with
          | some e => s.ownSys e.commitAddr
          | none => 0
        .next ((s.freeUser (.txWord slot)).durFail slot 6 at_)
  | .none => .next s
  | .lines _ => .next s

/-- DUR_TMO_EXPIRY: an acknowledgement of the durable sequence is missing, of a data line or of the commit word (R362, R375). -/
def execDurTmoExpiry (slot : SlotId) (s : State) : Host.Outcome State Fault Refusal :=
  match s.txu.slots[slot].dur with
  | .none => .next s
  | .lines sc =>
    (match s.unackedLines slot sc.toNat with
    | [] => .next s
    | l :: _ => if s.memHalted then .next s else .next (s.durFail slot 5 (s.ownSys (128 * l))))
  | .word _ =>
    let at_ := match s.txu.slots[slot].tail with
      | some e => s.ownSys e.commitAddr
      | none => 0
    if s.memHalted then .next s else .next (s.durFail slot 5 at_)

/-- TX_CMD_ABORT: a host write of TX_CMD with ABORT dooms the OPEN transaction whose handle matches (R376). -/
def execTxCmdAbort (handle : BitVec 12) (s : State) : Host.Outcome State Fault Refusal :=
  let s1 := s.setReg 3 0x108 (handle.setWidth 64)
  let i : SlotId := Fin.ofNat 64 handle.toNat
  if s1.txu.slots[i].gen = handle.extractLsb' 6 6 then .next (s1.txDoom i 6) else .next s1

/-! ### Explicit copies (R318) -/

/-- What a privileged unit's write gives. -/
inductive WroteOut where
  | done (s : State)
  | sent (s : State)
  | refused (s : State)
  | wait

/-- WR packets of up to 2,048 bytes. -/
def wrPackets (src : BitVec 32) (tag : BitVec 11) (loc : Nat) (bs : List Byte) : List (Nat × Packet) :=
  (List.range ((bs.length + 2047) / 2048)).map fun i =>
    wrPacket src tag (loc + 2048 * i) (cellsAt (loc + 2048 * i) ((bs.drop (2048 * i)).take 2048))

/-- Write bytes at a system address for a privileged unit of the given source code (12 CCU island, 13 memory island):
into the cluster at once, beyond it under one tag of the unit. -/
def State.writeOut (s : State) (unit : Nat) (user : TagUser) (sys : Nat) (bs : List Byte) : WroteOut :=
  let dev := sys / 2 ^ 48 % 2 ^ 16
  let loc := sys % 2 ^ 48
  let send := fun (t : State) =>
    match t.moreTag 12 user sys (wrPackets 0 0 loc bs).length with
    | none => none
    | some (tag, t1) => some ((wrPackets (t1.srcWord unit) tag loc bs).foldl
        (fun (x : State) p => x.sendRequest (2 ^ 48 * dev + p.1) p.2) t1)
  match s.span dev loc bs.length with
  | .cm off => if s.cmServed then .done (s.store unit off bs).s else .refused s
  | .csp d off => if s.reachable d then .done (s.cspStore d .privileged off bs).s else .refused s
  | .ext =>
    if !s.cmServed then .refused s
    else match send s with
      | none => .wait
      | some t => .sent ((linesOf loc bs.length).foldl (fun (x : State) l => x.cscWrite unit l (lineCells l (cellsAt loc bs))) t)
  | .away => match send s with
    | none => .wait
    | some t => .sent t
  | .dbg _ _ => .refused s
  | .refused => .refused s

/-- Whether a copy's destination is a 64 B-aligned CM or own-device external address for 64 KiB or less (R230, R365,
R477). -/
def State.copyDstOk (s : State) (loc n : Nat) : Bool :=
  loc % 64 == 0 && match s.span s.ownDev loc n with
    | .cm _ => true
    | .ext => true
    | _ => false

/-- Start a copy of a privileged space; a destination that may not hold it leaves everything unchanged. -/
def State.copyStart (s : State) (u : CopyUnit) (unit loc : Nat) (bs : List Byte) (mark : State → State) : State :=
  if !s.copyDstOk loc bs.length then s
  else match s.writeOut unit (.copy u) (s.ownSys loc) bs with
    | .done t => mark t
    | .sent t => mark t
    | .refused t => mark t
    | .wait => s

/-- TXU_LOG_COPY: LOG_CMD.COPY copies the 64 KiB transaction log to LOG_DST (R365). -/
def execTxuLogCopy (s : State) : Host.Outcome State Fault Refusal :=
  if s.txu.copying || s.memHalted then .next s
  else .next (s.copyStart .txuLog 13 (s.rf 3 0x120 0 48) (tgets 0 s.txu.log 0 65536) fun t =>
    { t with txu := { t.txu with copying := true } })

/-- MIRROR_COPY: MIRROR_CMD.COPY copies the 64 KiB task list mirror to MIRROR_DST (R230). -/
def execMirrorCopy (s : State) : Host.Outcome State Fault Refusal :=
  if s.ccu.mirroring || s.memHalted then .next s
  else .next (s.copyStart .mirror 12 (s.rf 0 0x1D0 0 48) (tgets 0 s.ccu.mirror 0 65536) fun t =>
    t.updCcu fun u => { u with mirroring := true })

/-- ECM_LOG_COPY: LOG_CMD.COPY copies the 16 KiB spare array with the error log to LOG_DST (R477). -/
def execEcmLogCopy (s : State) : Host.Outcome State Fault Refusal :=
  if s.ecm.copying || s.memHalted then .next s
  else .next (s.copyStart .ecmLog 12 (s.rf 6 0x168 0 48) (tgets 0 s.ecm.errlog 0 16384) fun t =>
    { t with ecm := { t.ecm with copying := true } })

/-- COPY_DONE: the copy is complete at CLUSTER scope; ACTIVE clears. -/
def execCopyDone (u : CopyUnit) (s : State) : Host.Outcome State Fault Refusal :=
  if s.memHalted then .next s
  else match u with
    | .mirror => .next ((s.freeUser (.copy u)).updCcu fun k => { k with mirroring := false })
    | .txuLog => .next { s.freeUser (.copy u) with txu := { s.txu with copying := false } }
    | .ecmLog => .next { s.freeUser (.copy u) with ecm := { s.ecm with copying := false } }

end Sys2Proof.Machine
end

