-- ==== Sys2Proof/Machine/Evx.lean ====
section
/-! DEFINITION. The evict engine (R367 to R373, R378 to R381): eviction, checkpoint and restore. -/

namespace Sys2Proof.Machine

/-! ### Fields -/

/-- EV_STS (R380). -/
def State.evSts (s : State) : Dword :=
  let p := match s.evx.phase with
    | .idle => 0
    | .stopping => 1
    | .flushing => 2
    | .writing => 3
    | .committing => 4
    | .restoring => 5
  BitVec.ofNat 64 (p + 2 ^ 3 * bit s.evx.acked + 2 ^ 4 * s.evx.result.toNat + 2 ^ 8 * s.evx.aborted.toNat
    + 2 ^ 16 * s.evx.faulted.toNat)

/-- TARGET (R380). -/
def State.evTarget (s : State) : Nat := s.regPair 4 0x120 0x128
/-- EV_CTL.CLASSES. -/
def State.evClasses (s : State) : Nat := s.rf 4 0x108 0 2

/-- A region of the table (R380): base, length in bytes, EN. -/
structure Region where
  loc : Nat
  len : Nat
  en  : Bool
  deriving DecidableEq, Repr

/-- REGION[n] (R380). -/
def State.region (s : State) (n : Nat) : Region :=
  let b := 0x140 + 0x18 * n
  ⟨s.rf 4 b 0 32 + 2 ^ 32 * s.rf 4 (b + 8) 0 16, 64 * s.rf 4 (b + 16) 0 20, s.rf 4 (b + 16) 20 1 == 1⟩

/-- Enabled regions in ascending index. -/
def State.regionsOn (s : State) : List (Nat × Region) :=
  ((List.range 16).map fun n => (n, s.region n)).filter fun r => r.2.en

/-- Record an error of the EVX page (R378, R379). -/
def State.evErr (s : State) (b kind region addr : Nat) : State :=
  let op := if s.evx.phase = .restoring then 2 else 1
  s.err 4 b (BitVec.ofNat 64 (region + 2 ^ 4 * kind + 2 ^ 8 * op)) (BitVec.ofNat 64 addr)

/-- The command ends with a RESULT: PHASE returns to IDLE, EV_TIME.DONE_CYC is set and host software is notified (R367,
R372, R507). -/
def State.evEnd (s : State) (result : Nat) : State :=
  let restore := s.evx.phase = .restoring
  let took := min (2 ^ 32 - 1) (s.ccu.cyc - s.evx.start).toNat
  let s1 := ({ s with evx := { s.evx with phase := .idle, result := BitVec.ofNat 4 result, flush := none, out := [] } }).setRf
    4 0x138 32 32 took
  if restore then s1.evt 4 s1.evSts
  else s1.evt 3 (s1.evSts ||| BitVec.ofNat 64 (2 ^ 32 * s1.rf 4 0x118 0 32))

/-- An EVICT or RESTORE fails (R371, R378). -/
def State.evFail (s : State) (b kind region addr : Nat) : State := (s.evErr b kind region addr).evEnd 2

/-- A write of the EVX beyond the cluster fails (R371, R378): a checkpoint's or a restored region's block. Which of those whose
acknowledgement is outstanding it was is a free choice where nothing names it. -/
def State.evWriteFails (s : State) (b kind : Nat) : State :=
  let (i, s1) := s.drawChoice s.evx.out.length
  match s1.evx.out[i]? with
  | some (n, a) => s1.evFail b kind n a
  | none => s1.evFail b kind 0 s1.evTarget

/-- An error reply names the address of the EVX's write by its packet: the block it lies in names the region (R379). -/
def State.evWriteRemote (s : State) (dev loc : Nat) : State :=
  match s.evx.out.reverse.find? fun x => decide (x.2 % 2 ^ 48 ≤ loc) && decide (loc < 4096 + x.2 % 2 ^ 48) with
  | some (n, a) => s.evFail 9 5 n (2 ^ 48 * (a / 2 ^ 48) + loc)
  | none => s.evFail 9 5 0 (2 ^ 48 * dev + loc)

/-! ### EVICT (R367, R368) -/

/-- Cores that hold a task of a class in CLASSES, the class being that by which it was assigned (R366). -/
def State.evicted (s : State) : List CoreId :=
  (List.finRange 8).filter fun c => s.ccu.holds[c].isSome && s.evClasses / 2 ^ bit s.ccu.trains[c] % 2 == 1

/-- EVICT: clears the evicted classes in CLASS_EN and aborts their tasks with EVICT; a RESTORE in progress is preempted, any
other phase refuses the command (R367, R373). -/
def execEvict (s : State) : Host.Outcome State Fault Refusal :=
  if !s.ccuAlive then .next s
  else if s.evx.phase ≠ .idle ∧ s.evx.phase ≠ .restoring then .next (s.errBit 4 2)
  else
    let s0 := if s.evx.phase = .restoring then (s.evEnd 7) else s
    let s1 := (s0.modReg 0 0x198 fun v => v &&& ~~~(BitVec.ofNat 64 s0.evClasses)).setReg 4 0x100 1
    let wait := s1.evicted
    let s2 := { s1 with evx := { s1.evx with
      phase := .stopping, acked := false, result := 0, aborted := 0, faulted := 0, wait := wait, op := 1, flush := none, out := []
      seqAt := BitVec.ofNat 32 (s1.rf 4 0x118 0 32), txd := 0, start := s1.ccu.cyc } }
    let s3 := (s2.setReg 4 0x300 0).pm 4 0x01 1
    .next (wait.foldl (fun (t : State) c => t.answer c (.cause 0x0B)) s3)

/-- Whether step 3 waits for a core no longer: it is in FAULT (a fenced core counts by its end report, R474). -/
def State.evGone (s : State) (c : CoreId) : Bool := (s.core c).seq.st == .fault

/-- Write back every CCH the flush covers; a line that fails sets its ERR bit and aborts nothing. What went beyond the cluster,
and the state; none when a write-back finds no tag. -/
def State.evSweep (s : State) : List CoreId → Option (List (CoreId × Nat) × State)
  | [] => some ([], s)
  | c :: cs =>
    if s.present c && !s.fenced c then
      match s.sweep c false false 0 0 (s.core c).cch.lines with
      | none => none
      | some r => (r.s.evSweep cs).map fun x => (r.wbs.map (fun l => (c, l)) ++ x.1, x.2)
    else s.evSweep cs

/-- Step 4 of an EVICT: once no transaction of an aborted core is COMMITTING, the CCHs are written back (R367); in SLEEP
the EVX holds here (R523). -/
def State.evFlush (s : State) : State :=
  let busy := (List.finRange 64).any fun i =>
    s.txu.slots[i].st == .committing && s.evx.aborted.getLsbD s.txu.slots[i].core.val
  if s.evx.phase ≠ .flushing ∨ s.evx.flush.isSome = true ∨ busy = true ∨ s.memDead = true ∨ s.ccu.power ≠ .on then s
  else match s.evSweep (List.finRange 8) with
    | none => s
    | some (l, t) => { t with evx := { t.evx with flush := some l } }

/-- Whether the write-backs of the flush are complete at DEVICE scope: each has its device acknowledgement, or has given its tag
back (R302, R367). -/
def State.evFlushed (s : State) : Bool :=
  match s.evx.flush with
  | none => false
  | some l => l.all fun x => match s.rqt.ofUser (.cch x.1 x.2 0 0) with
    | some g => g.dev
    | none => true

/-- EVICT_ACK: every evicted core has reported or is in FAULT; the EVX sets ACKED, records ABORTED and FAULTED and notifies, and
the flush begins (R367 steps 3 and 4). -/
def execEvictAck (s : State) : Host.Outcome State Fault Refusal :=
  if s.evx.phase = .stopping ∧ s.ccuAlive = true ∧ (s.evx.wait.all fun c => s.evGone c) = true then
    let s1 := { s with evx := { s.evx with
      acked := true
      faulted := maskOf 8 fun i => s.evGone (Fin.ofNat 8 i)
      wait := []
      cursor := BitVec.ofNat 32 s.cursor
      skip := (s.reg 0 0x1A0).setWidth 32 } }
    let s2 := s1.setRf 4 0x138 0 32 (s1.ccu.cyc - s1.evx.start).toNat
    let s3 := s2.evt 2 s2.evSts
    .next ({ s3 with evx := { s3.evx with phase := .flushing } }).evFlush
  else .next s

/-! ### Copies (R318, R368) -/

/-- Own-device external memory read through the CSC; `base` is the address the reply's bytes begin at. -/
def State.readExt (s : State) (unit loc n base : Nat) (rep : Reply) : Got :=
  let one := fun (g : Got) (l : Nat) =>
    let part := match rep with
      | .data bs => Reply.data (bs.drop (128 * l - base))
      | .error c => .error c
    let r := (g.s.extLine unit .evx l part (wordIn (loc - 128 * l) (min 128 (loc + n - 128 * l)))).1
    Got.mk (g.bytes ++ r.bytes) (match g.err with
      | some e => some e
      | none => if r.bad.isEmpty then r.err else some .ue) r.s
  let g := (linesOf loc n).foldl one ⟨[], none, s⟩
  { g with bytes := (g.bytes.drop (loc % 128)).take n }

/-- Read `n` bytes of memory for the EVX; the reply holds what targets beyond the cluster answered from the line of
`base` on. -/
def State.readOut (s : State) (dev loc n base : Nat) (rep : Reply) : Got :=
  let b := base / 128 * 128
  match s.span dev loc n with
  | .cm off => s.cmRead 12 off n
  | .csp d off => s.cspRead d .privileged off n
  | .ext => if !s.cmServed then ⟨[], some s.cmErr, s⟩ else s.readExt 12 loc n b rep
  | .away => ⟨takeBytes n ((replyBytes rep).drop (loc - b)), replyErr rep, s⟩
  | .dbg _ _ => ⟨[], some .refused, s⟩
  | .refused => ⟨[], some .refused, s⟩

/-- Put block `i` of a copy into the staging space of 64 blocks of 4 KiB (R28, R368). -/
def State.stage (s : State) (i : Nat) (bs : List Byte) : State :=
  { s with evx := { s.evx with staging := tputs 0 s.evx.staging (4096 * (i % 64)) bs } }

/-- Count bytes written to a checkpoint or restored (EV_BYTES, R380, R381). -/
def State.evCount (s : State) (n : Nat) : State :=
  (s.modReg 4 0x300 (· + BitVec.ofNat 64 n)).pm 4 (if s.evx.phase = .restoring then 4 else 3) (n / 64)

/-- A block of region `n` has gone beyond the cluster to a system address, as the EVX's latest writes. -/
def State.evSent (s : State) (n sys : Nat) : State := { s with evx := { s.evx with out := s.evx.out ++ [(n, sys)] } }

/-- How a copy of a region ends. -/
inductive Copied where
  | ok (crc : BitVec 32) (s : State)
  | fail (b kind addr : Nat) (s : State)
  | wait

/-- Copy `n` bytes of region `reg` from one place to another in blocks of 4 KiB through the staging space, folding them into the CRC
register. `base` and `rep` are the reply the source's bytes beyond the cluster come from. -/
def State.copyBlocks (s : State) (reg srcDev src dst n base : Nat) (rep : Reply) (crc : BitVec 32) (i : Nat) :
    Nat → Copied
  | 0 => .ok (~~~crc) s
  | k + 1 =>
    let m := min 4096 (n - 4096 * i)
    let a := src + 4096 * i
    let sysA := 2 ^ 48 * srcDev + a
    let g := s.readOut srcDev a m base rep
    match g.err with
    | some .ue => .fail 8 4 sysA g.s
    | some _ => .fail 9 5 sysA g.s
    | none =>
      let d := dst + 4096 * i
      match (g.s.stage i g.bytes).writeOut 12 .evx d g.bytes with
      | .wait => .wait
      | .refused t => .fail 9 5 d t
      | .done t => (t.evCount m).copyBlocks reg srcDev src dst n base rep (g.bytes.foldl crcByte crc) (i + 1) k
      | .sent t => ((t.evSent reg d).evCount m).copyBlocks reg srcDev src dst n base rep (g.bytes.foldl crcByte crc) (i + 1) k

/-- Copy region `reg`, of `n` bytes. -/
def State.copyRegion (s : State) (reg srcDev src dst n base : Nat) (rep : Reply) : Copied :=
  s.copyBlocks reg srcDev src dst n base rep 0xFFFFFFFF 0 ((n + 4095) / 4096)

/-! ### The checkpoint (R369 to R371) -/

/-- A list of 32-bit values as husked words. -/
def huskBytes (ws : List Nat) : List Byte := ws.flatMap fun w => natLe 8 (husked (BitVec.ofNat 32 w)).toNat

/-- Bytes of a checkpoint after its header. -/
def ckptBytes (rs : List (Nat × Region)) : Nat := (rs.map fun r => 64 + r.2.len).sum

/-- The header with W15 not yet written (R369). -/
def State.ckptHeader (s : State) : List Byte :=
  let rs := s.regionsOn
  let n := ckptBytes rs
  huskBytes [0x4B435141, 0x300, s.ownDev, s.ownDie + 2 ^ 5 * s.ownCluster, s.evx.seqAt.toNat, rs.length, n % 2 ^ 32,
    n / 2 ^ 32, s.evx.cursor.toNat, s.evx.skip.toNat, s.evx.aborted.toNat + 2 ^ 8 * s.evClasses, s.evx.txd.toNat, 0, 0, 0]
    ++ List.replicate 8 0

/-- A record header (R369). -/
def recordHeader (n : Nat) (r : Region) (crc : BitVec 32) : List Byte :=
  huskBytes [n, r.loc % 2 ^ 32, r.loc / 2 ^ 32, r.len / 64, crc.toNat, 0, 0, 0]

/-- The check of R371 before any write: the cause, KIND, region and address of what is wrong. -/
def State.ckptBad (s : State) : Option (Nat × Nat × Nat) :=
  let rs := s.regionsOn
  let bad := rs.find? fun r => r.2.loc % 64 != 0 || r.2.len == 0 || (match s.span s.ownDev r.2.loc r.2.len with
    | .cm _ => false
    | .csp _ _ => false
    | .ext => false
    | .dbg _ _ => true
    | .away => true
    | .refused => true)
  match bad with
  | some r => some (1, r.1, s.ownSys r.2.loc)
  | none =>
    if s.evTarget % 4096 ≠ 0 then some (2, 0, s.evTarget)
    else if 4096 * s.rf 4 0x130 0 32 < 128 + ckptBytes rs then some (3, 0, s.evTarget)
    else none

/-- Write the records of a checkpoint from position `pos` on: each record's data, then its header (R370). -/
def State.writeRecords (s : State) (ext : List (Nat × Reply)) (pos : Nat) : List (Nat × Region) → Option State
  | [] => some s
  | (n, r) :: rs =>
    let rep := ((ext.find? fun x => x.1 == n).map (·.2)).getD (.data [])
    let at_ := s.evTarget + pos
    match s.copyRegion n s.ownDev r.loc (at_ + 64) r.len r.loc rep with
    | .wait => none
    | .fail b kind addr t => some (t.evFail b kind n addr)
    | .ok crc t =>
      match t.writeOut 12 .evx at_ (recordHeader n r crc) with
      | .wait => none
      | .refused t1 => some (t1.evFail 9 5 n at_)
      | .done t1 => (t1.evCount 64).writeRecords ext (pos + 64 + r.len) rs
      | .sent t1 => ((t1.evSent n at_).evCount 64).writeRecords ext (pos + 64 + r.len) rs

/-- EVICT_FLUSH_DONE: the write-backs of the flush are complete at DEVICE scope; the regions and the target are checked and the
checkpoint is written. `ext` holds what external memory answered the reads of a region (R367 steps 4 to 6, R370, R371). A
flush that could not begin yet begins first. -/
def execEvictFlushDone (ext : List (Nat × Reply)) (s : State) : Host.Outcome State Fault Refusal :=
  let t := s.evFlush
  if t.evx.phase ≠ .flushing ∨ t.ccuAlive = false ∨ t.memDead = true ∨ t.ccu.power ≠ .on ∨ t.evFlushed = false then .next t
  else match t.ckptBad with
    | some (kind, n, addr) => .next (t.evFail 10 kind n addr)
    | none =>
      let t1 := { t with evx := { t.evx with phase := .writing } }
      let rs := t1.regionsOn
      let go := fun (u : State) => ((u.evCount 128).writeRecords ext 128 rs).getD t
      match t1.writeOut 12 .evx t1.evTarget t1.ckptHeader with
      | .wait => .next t
      | .refused u => .next (u.evFail 9 5 0 u.evTarget)
      | .done u => .next (go u)
      | .sent u => .next (go (u.evSent 0 u.evTarget))

/-- CKPT_WRITES_ACKED: every write of header, data and records is acknowledged at EV_CTL.SCOPE and W15 is written; an error
reply ends the EVICT (R367 step 7, R370, R371). -/
def execCkptWritesAcked (r : Reply) (s : State) : Host.Outcome State Fault Refusal :=
  if s.evx.phase ≠ .writing ∨ s.ccuAlive = false ∨ s.memDead = true then .next s
  else
    let s1 := s.freeUser .evx
    match r with
    | .error _ => .next (s1.evWriteFails 9 5)
    | .data _ =>
      let at_ := 120 + s1.evTarget
      let s2 := { s1 with evx := { s1.evx with phase := .committing, out := [] } }
      match s2.writeOut 12 .evx at_ (huskBytes [s2.evx.seqAt.toNat]) with
      | .wait => .next s
      | .refused t => .next (t.evFail 9 5 0 at_)
      | .done t => .next t
      | .sent t => .next (t.evSent 0 at_)

/-- CKPT_COMMIT_ACK: the commit word is acknowledged; RESULT becomes DONE and EV_SEQ is incremented (R367 step 8). -/
def execCkptCommitAck (r : Reply) (s : State) : Host.Outcome State Fault Refusal :=
  if s.evx.phase ≠ .committing ∨ s.ccuAlive = false ∨ s.memDead = true then .next s
  else
    let s1 := s.freeUser .evx
    match r with
    | .error _ => .next (s1.evFail 9 5 0 (s1.evTarget + 120))
    | .data _ => .next ((s1.bumpRf 4 0x118 0 32 1).evEnd 1)

/-- EVX_TMO_EXPIRY: an acknowledgement of a checkpoint write is missing (R371). -/
def execEvxTmoExpiry (s : State) : Host.Outcome State Fault Refusal :=
  if (s.evx.phase = .writing ∨ s.evx.phase = .committing) ∧ s.ccuAlive = true then .next (s.evWriteFails 3 6)
  else .next s

/-! ### RESTORE (R372, R373) -/

/-- Whether a TRAIN task is running. -/
def State.trainRuns (s : State) : Bool := (List.finRange 8).any fun c => s.ccu.holds[c].isSome && s.ccu.trains[c]

/-- The 64-bit words of a byte list. -/
def dwordsOf (bs : List Byte) (n : Nat) : List Dword :=
  (List.range n).map fun i => BitVec.ofNat 64 (leNat ((bs.drop (8 * i)).take 8))

/-- The value of word `i` of a list of husked words; 0 when its halves disagree. -/
def huskAt (ws : List Dword) (i : Nat) : Nat := ((huskValue (ws.getD i 0)).map (·.toNat)).getD 0

/-- Read part of the checkpoint at TARGET. -/
def State.readCkpt (s : State) (off n : Nat) (image : Reply) : Got :=
  let t := s.evTarget
  s.readOut (t / 2 ^ 48 % 2 ^ 16) (t % 2 ^ 48 + off) n (t % 2 ^ 48) image

/-- A record of a checkpoint as the record check finds it: its position, region and CRC. -/
structure CkptRecord where
  pos : Nat
  n   : Nat
  crc : BitVec 32

/-- The record check (R372 step 2): the records, or why there are none (an error reply or uncorrectable word, else
BADHDR). -/
def State.readRecords (s : State) (image : Reply) (pos : Nat) : Nat → (Option (List CkptRecord)) × Option MemErr × State
  | 0 => (some [], none, s)
  | k + 1 =>
    let g := s.readCkpt pos 64 image
    match g.err with
    | some e => (none, some e, g.s)
    | none =>
      let ws := dwordsOf g.bytes 8
      let n := huskAt ws 0
      let r := g.s.region n
      if ws.all (fun w => (huskValue w).isSome) && decide (n < 16) && r.en && r.len == 64 * huskAt ws 3 then
        let (t, e, s1) := g.s.readRecords image (pos + 64 + r.len) k
        (t.map fun l => ⟨pos, n, BitVec.ofNat 32 (huskAt ws 4)⟩ :: l, e, s1)
      else (none, none, g.s)

/-- A read of the checkpoint or a write of a region fails (R378). -/
def State.restoreErr (s : State) (e : MemErr) (n addr : Nat) : State :=
  match e with
  | .busy => s
  | .ue => s.evFail 8 4 n addr
  | .refused => s.evFail 9 5 n addr
  | .isolated => s.evFail 9 5 n addr
  | .perm => s.evFail 9 5 n addr
  | .remote _ => s.evFail 9 5 n addr

/-- Copy the records' data to the current regions (R372 step 3); none when no tag is free. -/
def State.restoreData (s : State) (image : Reply) : List CkptRecord → Option State
  | [] => some s
  | r :: rs =>
    let t := s.evTarget
    let g := s.region r.n
    let dev := t / 2 ^ 48 % 2 ^ 16
    match s.copyRegion r.n dev (t % 2 ^ 48 + r.pos + 64) (s.ownSys g.loc) g.len (t % 2 ^ 48) image with
    | .wait => none
    | .fail b kind addr u => some (u.evFail b kind r.n addr)
    | .ok crc u =>
      if crc = r.crc then u.restoreData image rs
      else some (((u.pm 4 0x05 1).evErr 11 7 r.n (u.ownSys g.loc)).evEnd 4)

/-- EV_CMD with OP 2 is accepted: the RESTORE begins, or ends as REFUSED (R372). `op` 3 marks that it has not read the
checkpoint yet. -/
def State.restoreBegin (s : State) : State :=
  let s1 := { s.setReg 4 0x100 2 with evx := { s.evx with
    phase := .restoring, result := 0, op := 3, start := s.ccu.cyc, out := [] } }
  let s2 := s1.setReg 4 0x300 0
  if s2.trainRuns || s2.rf 0 0x198 1 1 == 1 then s2.evEnd 6 else s2.pm 4 0x02 1

/-- The reads and writes of a RESTORE that has begun (R372 steps 1 to 3); none when no tag is free. -/
def State.restoreRun (s : State) (image : Reply) : Option State :=
  let s3 := { s with evx := { s.evx with op := 2 } }
  let t := s3.evTarget
  let g := s3.readCkpt 0 128 image
  match g.err with
  | some e => some (g.s.restoreErr e 0 t)
  | none =>
    let ws := dwordsOf g.bytes 16
    let head := (ws.take 15).all (fun w => (huskValue w).isSome) && huskAt ws 0 == 0x4B435141
      && huskAt ws 1 / 256 % 256 == 3
    let commit := (huskValue (ws.getD 15 0)).isSome && huskAt ws 15 == huskAt ws 4
    if !head then some ((g.s.evErr 13 9 0 t).evEnd 5)
    else if !commit then some ((g.s.evErr 12 8 0 (t + 120)).evEnd 3)
    else match g.s.readRecords image 128 (huskAt ws 5) with
      | (none, some e, u) => some (u.restoreErr e 0 t)
      | (none, none, u) => some ((u.evErr 13 9 0 t).evEnd 5)
      | (some rs, _, u) => u.restoreData image rs

/-- RESTORE: EV_CMD with OP 2, or the reads of one that a register write has begun: checks the checkpoint at TARGET and copies
its regions back; `image` holds its bytes where TARGET lies beyond the cluster (R372, R373). -/
def execRestore (image : Reply) (s : State) : Host.Outcome State Fault Refusal :=
  if !s.ccuAlive || s.memDead then .next s
  else if s.evx.phase ≠ .idle ∧ ¬(s.evx.phase = .restoring ∧ s.evx.op = 3) then .next (s.errBit 4 2)
  else
    let s1 := if s.evx.phase = .idle then s.restoreBegin else s
    if s1.evx.phase = .restoring then .next ((s1.restoreRun image).getD s1) else .next s1

/-- RESTORE_DONE: every write of the RESTORE is complete at DEVICE scope (R372 step 4). -/
def execRestoreDone (r : Reply) (s : State) : Host.Outcome State Fault Refusal :=
  if s.evx.phase ≠ .restoring ∨ s.evx.op = 3 ∨ s.ccuAlive = false ∨ s.memDead = true then .next s
  else
    let s1 := s.freeUser .evx
    match r with
    | .error _ => .next (s1.evWriteFails 9 5)
    | .data _ => .next (s1.evEnd 1)

end Sys2Proof.Machine
end

