-- ==== Sys2Proof/Machine/Ecm.lean ====
section
/-! DEFINITION. Error control and memory repair (R454, R455, R458 to R469, R477 to R483) and upsets of stored bits (R452,
R456). -/

namespace Sys2Proof.Machine

/-! ### The check code of a data word (R451) -/

/-- One step of division by g(x) = 0x547D: shift in a coefficient. -/
def bchShift (r : BitVec 15) (b : Bool) : BitVec 15 :=
  let s := (r <<< 1) ||| (if b then 1 else 0)
  if s.getLsbD 14 then s ^^^ 0x547D else s

/-- c[13:0]: the coefficients of x^14 d(x) mod g(x), highest coefficient of d first, then fourteen zeros. -/
def bchCheck (d : Dword) : BitVec 14 :=
  let r := (List.range 64).foldl (fun r i => bchShift r (d.getLsbD (63 - i))) 0
  ((List.range 14).foldl (fun r _ => bchShift r false) r).setWidth 14

/-- The difference of two code words of one index whose data differ by `d`: c[15] is the same for both. -/
def codeDiff (d : Dword) : BitVec 80 :=
  let m : BitVec 80 := (bchCheck d).setWidth 16 ++ d
  if oddParity m then m ||| (1 <<< 78) else m

/-! ### Words of a macro group (R461) -/

/-- Whether a macro group exists. -/
def groupExists (g : Nat) : Bool := decide (g < 52) || (decide (64 ≤ g) && decide (g < 96))

/-- Number of words of a macro group. -/
def groupWords (g : Nat) : Nat :=
  if g < 48 then 32768 else if g < 52 then 65536
  else match g % 4 with
    | 0 => 65536
    | 1 => 16384
    | 2 => 8192
    | _ => 16384

/-- The core of a core's macro group. -/
def groupCore (g : Nat) : CoreId := Fin.ofNat 8 ((g - 64) / 4)

/-- Eight bytes as a word. -/
def dwordOf (bs : List Byte) : Dword := BitVec.ofNat 64 (leNat bs)

/-- The data last written to a word of a macro group; a word of a cache line that is not held has a free value. -/
def State.wordData (s : State) (g i : Nat) : Dword × State :=
  let free := s.drawDword
  if g < 48 then (dwordOf (memRead s.mem (((i / 16) * 48 + g) * 128 + i % 16 * 8) 8), s)
  else if g < 52 then
    match s.csc.findSome? (fun l => ((List.range 16).find? fun w => cscWord l.line w == (g, i)).map fun w =>
        dwordOf (tgets 0 l.data (8 * w) 8)) with
    | some d => (d, s)
    | none => free
  else
    let c := groupCore g
    match g % 4 with
    | 0 => (dwordOf (memRead s.mem (cspOff c (8 * i)) 8), s)
    | 1 =>
      match (s.core c).cch.lines.find? (fun l => l.way.val == i / 2048 && l.line % 128 == i / 16 % 128) with
      | some l => (dwordOf (tgets 0 l.data (8 * (i % 16)) 8), s)
      | none => free
    | 2 => (dwordOf (tgets 0 (s.core c).trf.data (8 * i) 8), s)
    | _ => ((tget 0 (s.core c).seq.cs (i / 4)).extractLsb' (64 * (i % 4)) 64, s)

/-- Whether the island that holds a macro group runs. -/
def State.groupLive (s : State) (g : Nat) : Bool :=
  if g < 52 then !s.memHalted else !(vget false s.stopped (groupCore g).val)

/-! ### Remap entries (R462 to R467) -/

/-- A remap entry. -/
def State.remap (s : State) (g k : Nat) : Word32 := tget 0 s.ecm.remap (8 * g + k)

/-- The lowest entry of a group that is not VALID. -/
def State.freeEntry (s : State) (g : Nat) : Option Nat := (List.range 8).find? fun k => !remapValid (s.remap g k)

/-- Start a fill or release (R464, R467). -/
def State.remapStart (s : State) (op : RemapOp) : State := { s with ecm := { s.ecm with op := some op } }

/-- The ECM fills an entry for a word, or finds none free (R464, R467). -/
def State.fillFor (s : State) (g i : Nat) (byUe : Bool) : State :=
  match s.freeEntry g with
  | some k => s.remapStart ⟨g, k, i, true, false, byUe⟩
  | none => (s.logError g 4 12 0 i).ecmErr 9 g 4 12 false i

/-- Lay the spare word's data into the spare array (R477). -/
def State.spareShow (s : State) (g k : Nat) (d : Dword) : State :=
  { s with ecm := { s.ecm with errlog := tputs 0 s.ecm.errlog (8 * (8 * g + k)) (natLe 8 d.toNat) } }

/-- A fill takes effect: the spare word holds the corrected array word, or is POISON, and the entry is VALID (R464). -/
def State.fillNow (s : State) (o : RemapOp) : State :=
  let m := tget 0 s.ecm.upsets (wordKey o.group o.index)
  let entry := fun (poison : Bool) =>
    BitVec.ofNat 32 (o.index % 2 ^ 17 + 2 ^ 17 * bit poison + 2 ^ 18 * bit o.src + 2 ^ 19)
  let put := fun (t : State) (poison : Bool) (u : BitVec 80) =>
    { t with ecm := { t.ecm with
      remap := tput 0 t.ecm.remap (8 * o.group + o.entry) (entry poison)
      spareUpsets := tput 0 t.ecm.spareUpsets (8 * o.group + o.entry) u } }
  let copy := fun (d : Dword) =>
    let (x, s1) := s.wordData o.group o.index
    (put s1 false (codeDiff d)).spareShow o.group o.entry (x ^^^ d)
  let s1 := match eccOf m with
    | .ue _ => put s true 0
    | .clean => if o.poison then put s true 0 else copy (m.setWidth 64)
    | .ce fix => if o.poison then put s true 0 else copy ((m ^^^ fix).setWidth 64)
  (s1.logError o.group 3 12 (4 * bit o.src) o.index).pm 6 0x05 1

/-- A release takes effect: the spare word is copied back, corrected, unless it is POISON; the entry is no longer VALID
(R467). An uncorrectable spare word is copied as it stands. -/
def State.releaseNow (s : State) (o : RemapOp) : State :=
  let key := 8 * o.group + o.entry
  let v := s.remap o.group o.entry
  let m := tget 0 s.ecm.spareUpsets key
  let back := match eccOf m with
    | .clean => codeDiff (m.setWidth 64)
    | .ce fix => codeDiff ((m ^^^ fix).setWidth 64)
    | .ue _ => m
  let ups := if remapPoison v then s.ecm.upsets else tput 0 s.ecm.upsets (wordKey o.group (remapIndex v)) back
  { s with ecm := { s.ecm with
    upsets := ups, remap := tput 0 s.ecm.remap key (setBit v 19 false), spareUpsets := tput 0 s.ecm.spareUpsets key 0 } }

/-- Whether the fill of a word is due: the CE tracker holds it at the limit with AUTO, or a scrubber has asked for it (R460,
R466). -/
def State.fillDue (s : State) (g i : Nat) (byUe : Bool) : Bool :=
  let lim := max 1 (s.rf 6 0x100 0 4)
  if byUe then
    s.ecm.ueDue.contains (g, i)
  else s.rf 6 0x100 4 1 == 1 && s.ecm.tracker.any fun t => t.group == g && t.index == i && decide (lim ≤ t.count)

/-- A word leaves the CE tracker, or the words a scrubber has asked for. -/
def State.untrack (s : State) (g i : Nat) (byUe : Bool) : State :=
  if byUe then { s with ecm := { s.ecm with ueDue := s.ecm.ueDue.filter (· != (g, i)) } }
  else { s with ecm := { s.ecm with tracker := s.ecm.tracker.filter fun t => !(t.group == g && t.index == i) } }

/-- A scrub read that finds an uncorrectable word asks for its fill with UE_REMAP, unless the word is remapped already or its
error is a test (R460, R469). -/
def State.askFill (s : State) (g i : Nat) : State :=
  if s.rf 6 0x100 5 1 = 1 ∧ (s.remapOf g i).isNone = true ∧ s.ecm.tested.contains (wordKey g i) = false ∧
      s.ecm.ueDue.contains (g, i) = false then
    { s with ecm := { s.ecm with ueDue := s.ecm.ueDue ++ [(g, i)] } }
  else s

/-- Start the fill of a word that is due, when no fill or release is in progress. -/
def State.fillIfDue (s : State) (g i : Nat) (byUe : Bool) : State :=
  if s.ecm.op.isNone && s.fillDue g i byUe then (s.untrack g i byUe).fillFor g i byUe else s

/-! ### Reports (R454, R455, R466) -/

/-- Apply a CE report to the tracker, which is kept in the order of first CEs (R466). -/
def State.track (s : State) (g i : Nat) : State :=
  let now := s.ccu.cyc
  let win := s.rf 6 0x100 7 6
  match s.ecm.tracker.find? fun t => t.group == g && t.index == i with
  | some t =>
    let old := decide (2 ^ win < (now - t.first).toNat)
    let rest := s.ecm.tracker.filter fun x => !(x.group == g && x.index == i)
    let grown := s.ecm.tracker.map fun x => if x.group = g ∧ x.index = i then { x with count := x.count + 1 } else x
    { s with ecm := { s.ecm with tracker := if old then rest ++ [⟨g, i, 1, now⟩] else grown } }
  | none =>
    let keep := if 64 ≤ s.ecm.tracker.length then s.ecm.tracker.drop 1 else s.ecm.tracker
    { s with ecm := { s.ecm with tracker := keep ++ [⟨g, i, 1, now⟩] } }

/-- CE_REPORT: the ECM takes a correctable-error report (R454, R466, R469). -/
def execCeReport (s : State) : Host.Outcome State Fault Refusal :=
  match s.ecm.ceQ with
  | [] => .next s
  | r :: rest =>
    if !s.ccuAlive then .next s
    else
      let s1 := { s with ecm := { s.ecm with ceQ := rest } }
      let s2 := ((s1.bumpRf 6 0x118 0 32 1).pm 6 0x01 1).logError r.group 1 r.source (bit r.test) r.index
      .next (if r.test then s2 else (s2.track r.group r.index).fillIfDue r.group r.index false)

/-- UE_REPORT: the ECM logs an uncorrectable-error report and host software is told (R455, R507). -/
def execUeReport (s : State) : Host.Outcome State Fault Refusal :=
  match s.ecm.ueQ with
  | [] => .next s
  | r :: rest =>
    if !s.ccuAlive then .next s
    else
      let kind := if r.source = 15 then 12 else 2
      let s1 := { s with ecm := { s.ecm with ueQ := rest } }
      let s2 := ((s1.bumpRf 6 0x118 32 32 1).pm 6 0x02 1).logError r.group kind r.source (bit r.test + 2 * bit r.addr) r.index
      let s3 := s2.ecmErr 8 r.group kind r.source r.addr r.index
      .next (s3.evt 8 (BitVec.ofNat 64 (r.group % 128 + 2 ^ 7 * (r.index % 2 ^ 17) + 2 ^ 24 * r.source)))

/-! ### Fills and releases -/

/-- REMAP_FILL: the ECM fills an entry for a word whose fill is due (R460, R464, R466). -/
def execRemapFill (group : BitVec 7) (index : BitVec 17) (byUe : Bool) (s : State) : Host.Outcome State Fault Refusal :=
  if s.ccuAlive then .next (s.fillIfDue group.toNat index.toNat byUe) else .next s

/-- REMAP_FILL_DONE: the fill or release completes in its group's island (R464, R467). -/
def execRemapFillDone (s : State) : Host.Outcome State Fault Refusal :=
  match s.ecm.op with
  | none => .next s
  | some o =>
    if !s.ccuAlive || !s.groupLive o.group then .next s
    else
      let s1 := if o.fill then s.fillNow o else s.releaseNow o
      .next { s1 with ecm := { s1.ecm with op := none } }

/-- ECM_TMO_EXPIRY: a fill or release is past the ECM TMO; the entry is left as before (R481). -/
def execEcmTmoExpiry (s : State) : Host.Outcome State Fault Refusal :=
  match s.ecm.op with
  | none => .next s
  | some o =>
    if !s.ccuAlive then .next s
    else .next ({ s with ecm := { s.ecm with op := none } }.ecmErr 3 o.group 3 12 false o.index)

/-- What a host write of REMAP_DATA does (R467): the write outcome and the state. A group that does not exist, and a release
of an entry that is not VALID, change nothing. -/
def State.remapWrite (s : State) (v : Word32) : Nat × State :=
  let g := s.rf 6 0x128 0 7
  let k := s.rf 6 0x128 7 3
  if s.ecm.op.isSome then (1, s.errBit 6 2)
  else if !groupExists g then (0, s)
  else if remapValid v then (0, s.remapStart ⟨g, k, remapIndex v, true, true, false⟩)
  else if remapValid (s.remap g k) then (0, s.remapStart ⟨g, k, remapIndex (s.remap g k), false, true, false⟩)
  else (0, s)

/-! ### Scrubbing (R458 to R460) -/

/-- Words of the line a scrubber reads next: the CM's, or a core's CSP lines and then its control-store words. -/
def State.scrubWords (s : State) (who : Fin 9) : List (Nat × Nat) :=
  let n := s.ecm.scrub[who]
  if who.val = 8 then (List.range 16).map fun w => cmWord (128 * n + 8 * w)
  else if n < 4096 then (List.range 16).map fun w => (64 + 4 * who.val, 16 * n + w)
  else (List.range 4).map fun q => (67 + 4 * who.val, 4 * (n - 4096) + q)

/-- Lines of a scrubber's pass. -/
def scrubLines (who : Fin 9) : Nat := if who.val = 8 then 98304 else 8192

/-- Scrub one word (R460). -/
def State.scrubWord (s : State) (g i : Nat) : State :=
  if s.poisoned g i then s.reportUe g i 14 false
  else match eccOf (s.upsetOf g i) with
    | .clean => s
    | .ce fix =>
      let d := (s.upsetOf g i ^^^ fix).setWidth 64
      let s1 := (s.reportCe g i 14 fix).setUpset g i (codeDiff d)
      { s1 with ecm := { s1.ecm with tested := s1.ecm.tested.filter (· != wordKey g i) } }.pm 6 0x04 1
    | .ue a => ((s.reportUe g i 14 a).askFill g i).fillIfDue g i true

/-- Whether a scrubber runs: enabled, its island running and not in RETAIN, OFF or SLEEP (R458, R459). -/
def State.scrubs (s : State) (who : Fin 9) : Bool :=
  s.rf 6 0x100 6 1 == 1 && (if who.val = 8 then !s.memHalted && s.ccu.power == .on
    else s.present (Fin.ofNat 8 who.val) && (s.core (Fin.ofNat 8 who.val)).seq.st != .off && !(vget false s.stopped who.val))

/-- SCRUB_READ: a scrubber reads its next line (R458, R460). -/
def execScrubRead (who : Fin 9) (s : State) : Host.Outcome State Fault Refusal :=
  if !s.scrubs who then .next s
  else
    let s1 := ((s.scrubWords who).foldl (fun (t : State) w => t.scrubWord w.1 w.2) s).pm 6 0x03 1
    let n := s1.ecm.scrub[who] + 1
    if n < scrubLines who then .next { s1 with ecm := { s1.ecm with scrub := s1.ecm.scrub.set who n } }
    else
      let s2 := { s1 with ecm := { s1.ecm with scrub := s1.ecm.scrub.set who 0 } }
      .next (s2.bumpRf 6 0x110 (if who.val = 8 then 0 else 32) 32 1)

/-- SCRUB_LATE: a pass has overrun twice its period; the error is logged and the scrubber carries on (R459). -/
def execScrubLate (who : Fin 9) (s : State) : Host.Outcome State Fault Refusal :=
  if !s.scrubs who then .next s
  else match s.scrubWords who with
    | [] => .next s
    | w :: _ => .next ((s.logError w.1 9 14 0 w.2).ecmErr 10 w.1 9 14 false w.2)

/-! ### Flips (R468) -/

/-- What a write of FLIP_CTL does: ARM arms or disarms, DONE clears when written 1. -/
def State.flipWrite (s : State) (v : Dword) : State :=
  s.modReg 6 0x158 fun r =>
    let r1 := setFld r 1 1 (fld v 0 1)
    if bitAt v 2 then setFld r1 2 1 0 else r1

/-- FLIP_APPLY: a full write stores the armed word's data again; it is stored XOR the mask, ARMED clears and DONE is set.
Every other write applies the flip within its own command. -/
def execFlipApply (s : State) : Host.Outcome State Fault Refusal :=
  let g := s.rf 6 0x150 17 7
  let i := s.rf 6 0x150 0 17
  if s.rf 6 0x158 1 1 = 1 ∧ groupExists g = true ∧ i < groupWords g ∧ s.groupLive g = true then
    .next ((s.clearPoison g i).encodeWord g i)
  else .next s

/-! ### Upsets (R452, R456) -/

/-- Toggle membership of a value's number in a list of values whose parity disagrees. -/
def toggleBad (l : List Nat) (i : Nat) : List Nat := if l.contains i then l.filter (· != i) else i :: l

/-- Flip a bit of a 32-bit value of a table. -/
def flipVal (t : Tab Word32) (i : Nat) (b : Fin 32) : Tab Word32 := tmod 0 t i fun v => v ^^^ (1 <<< b.val)

/-- STORAGE_UPSET: a stored bit flips of itself (R452, R456). A word beyond its array is none. -/
def execStorageUpset (t : UpsetTarget) (s : State) : Host.Outcome State Fault Refusal :=
  match t with
  | .word group index b =>
    let g := group.toNat
    let i := index.toNat
    if groupExists g && decide (i < groupWords g) then
      .next { s with ecm := { s.ecm with upsets := tmod 0 s.ecm.upsets (wordKey g i) fun m => m ^^^ (1 <<< b.val) } }
    else .next s
  | .spare group entry b =>
    if groupExists group.toNat then
      .next { s with ecm := { s.ecm with
        spareUpsets := tmod 0 s.ecm.spareUpsets (8 * group.toNat + entry.val) fun m => m ^^^ (1 <<< b.val) } }
    else .next s
  | .acc c bank i b =>
    .next (s.updMxe c fun m =>
      { m with banks := vmod m.banks bank.val fun k =>
          { k with acc := flipVal k.acc i.toNat b, bad := toggleBad k.bad i.toNat } })
  | .ftq c slot i b =>
    .next (s.updMxe c fun m =>
      { m with ftq := vmod m.ftq slot.val fun k =>
          { k with data := flipVal k.data i.toNat b, bad := toggleBad k.bad i.toNat } })
  | .scale c entry i b =>
    .next (s.updMxe c fun m =>
      { m with sb := vmod m.sb entry.val fun k =>
          { k with val := flipVal k.val i.toNat b, bad := toggleBad k.bad i.toNat } })
  | .rss c row v b =>
    let n := row.toNat * 4 + v.val
    .next (s.updVxe c fun x => { x with rss := flipVal x.rss n b, rssBad := toggleBad x.rssBad n })

end Sys2Proof.Machine
end

