-- ==== Sys2Proof/Machine/Link.lean ====
section
/-! DEFINITION. Mesh links (R428 to R433, R439, R443, R444, R448): link control flits, replay, failure, route replacement,
the HELLO exchange and what COORD does to start-up (R527, R530). -/

namespace Sys2Proof.Machine

/-- Whether a port's island runs. -/
def State.portLive (s : State) (p : PortId) : Bool := !(vget false s.stopped (10 + p.val))

/-- Record an error of a port's page with the packet concerned (R446, R447). -/
def State.portErr (s : State) (p : PortId) (b kind code : Nat) (k : Packet) : State :=
  s.err (pgMp p) b
    (BitVec.ofNat 64 (k.type.toNat + 2 ^ 4 * k.tc.toNat + 2 ^ 6 * kind + 2 ^ 10 * k.seq.toNat + 2 ^ 26 * code))
    (k.src ++ k.dst)

/-- Host software is told that a port has FAILED or is UP again (R507). -/
def State.linkEvt (s : State) : State :=
  let up := maskOf 64 fun i => decide (i < 4) && (s.ports[Fin.ofNat 4 i]).link == .up
  let bad := maskOf 64 fun i => decide (i < 4) && (s.ports[Fin.ofNat 4 i]).link == .failed
  s.evt 0xA (up ||| (bad <<< 4))

/-- Send whatever a port may send now. -/
def State.pumpAll (s : State) (p : PortId) : State := s.pump p (s.ports[p]).waiting

/-! ### Failure and replay (R428, R429) -/

/-- The link becomes FAILED: everything queued for it is discarded and counted, and the CCU is informed (R429). -/
def State.linkFail (s : State) (p : PortId) : State :=
  let q := s.ports[p]
  let first := (q.replay.headD (Packet.blank 0 0 0))
  let n := q.replay.length + q.waiting
  let s1 := s.updPort p fun q =>
    { q with link := .failed, replay := [], txq := Vector.replicate 4 [], oldest := none, retries := 0, fell := true, news := true }
  let s2 := (s1.bumpRf (pgMp p) 0x130 0 32 1).bumpRf (pgMp p) 0x130 32 32 n
  s2.portErr p 9 3 0 first

/-- Replay from the oldest packet; at the 16th retry the link fails (R428, R429). -/
def State.replay (s : State) (p : PortId) : State :=
  let q := s.ports[p]
  match q.replay with
  | [] => s
  | k :: _ =>
    let n := if q.oldest = some k.seq then q.retries + 1 else q.retries
    let s1 := (s.bumpRf (pgMp p) 0x128 32 32 1).pm (pgMp p) 0x08 1
    let s2 := s1.updPort p fun q => { q with oldest := some k.seq, retries := n }
    if 16 ≤ n then s2.linkFail p else s2.pm (pgMp p) 0x01 ((q.replay.map Packet.flits).sum)

/-- LINK_REPLAY_TMO: the oldest packet is unacknowledged for 2^MP.TMO port-island cycles (R428). -/
def execLinkReplayTmo (p : PortId) (s : State) : Host.Outcome State Fault Refusal :=
  match s.ports[p].replay with
  | [] => .next s
  | k :: _ => if s.portLive p then .next ((s.portErr p 3 0 0 k).replay p) else .next s

/-! ### Link control flits (R428) -/

/-- Whether link control flits pass in this state. -/
def lcfPasses (l : LinkState) : Bool :=
  match l with
  | .up => true
  | .down => true
  | .hello => true
  | .failed => false
  | .disabled => false
  | .miswire => false

/-- A link control flit leaves a port: ACKSEQ, the credits to return and the NAK that is due. -/
def State.lcfOut (s : State) (p : PortId) : State :=
  let q := s.ports[p]
  let give := q.rxCred.map (min 255)
  let body := natLe 2 (0xF + 2 ^ 4 * bit q.nak) ++ natLe 2 q.rxSeq.toNat ++ natLe 4 0
    ++ give.toList.flatMap (natLe 1) ++ List.replicate 48 0
  (s.updPort p fun q =>
    { q with
      lcf := body ++ natLe 4 (crc32c body).toNat
      nak := false
      rxSince := 0
      rxCred := vmap (fun i n => n - vget 0 give i) q.rxCred }).pm (pgMp p) 0x01 1

/-- LCF_SEND: a port sends a link control flit. -/
def execLcfSend (p : PortId) (s : State) : Host.Outcome State Fault Refusal :=
  if !s.portLive p || !lcfPasses s.ports[p].link then .next s else .next (s.lcfOut p)

/-- Packets acknowledged by an ACKSEQ: none when the replay buffer does not hold it. -/
def ackCount (l : List Packet) (seq : BitVec 16) : Nat :=
  match l.findIdx? fun k => k.seq == seq with
  | some i => i + 1
  | none => 0

/-- Flits of each class's input buffer, the most a neighbour can return (R448). -/
def classFlits : Vector Nat 4 := #v[16, 128, 128, 128]

/-- LCF_RECEIVE: a link control flit acknowledges packets, returns credits and, with NAK, asks for a replay; one whose CRC
fails counts as a CRC failure. -/
def execLcfReceive (p : PortId) (flit : List Byte) (s : State) : Host.Outcome State Fault Refusal :=
  if !s.portLive p || !lcfPasses s.ports[p].link || flit.length ≠ 64 then .next s
  else if crc32c (flit.take 60) ≠ BitVec.ofNat 32 (leNat (flit.drop 60)) then
    let s1 := (((s.pm (pgMp p) 0x02 1).bumpRf (pgMp p) 0x128 0 32 1).pm (pgMp p) 0x07 1).portErr p 8 1 0 (Packet.blank 0xF 0 0)
    .next (s1.updPort p fun q => { q with nak := true })
  else if (flit.headD 0).toNat % 16 ≠ 0xF then .next s
  else
    let q := s.ports[p]
    let n := ackCount q.replay (BitVec.ofNat 16 (leNat ((flit.drop 2).take 2)))
    let s1 := (s.pm (pgMp p) 0x02 1).updPort p fun q =>
      { q with
        replay := q.replay.drop n
        oldest := if 0 < n then none else q.oldest
        retries := if 0 < n then 0 else q.retries
        credits := vmap (fun i c => min (vget 0 classFlits i) (c + (flit.getD (8 + i) 0).toNat)) q.credits }
    let s2 := if (flit.headD 0).getLsbD 4 then s1.replay p else s1
    .next (s2.pumpAll p)

/-- HOLD_TMO_DROP: the oldest packet of class TC1 to TC3 in a port's buffer has waited 2^HOLD_TMO cycles (R433). -/
def execHoldTmoDrop (p : PortId) (tc : BitVec 2) (s : State) : Host.Outcome State Fault Refusal :=
  match vget [] s.ports[p].txq tc.toNat with
  | [] => .next s
  | k :: rest =>
    if tc = 0 ∨ s.portLive p = false then .next s
    else
      let s1 := s.updPort p fun q => { q with txq := vset q.txq tc.toNat rest }
      .next (((s1.bumpRf (pgMp p) 0x138 0 32 1).pm (pgMp p) 0x0A 1).portErr p 13 6 0 k)

/-! ### Route replacement (R439) -/

/-- The side opposite a side. -/
def opposite (p : PortId) : PortId := p + 2

/-- A port that is UP. -/
def State.portUp (s : State) (p : PortId) : Bool := s.ports[p].link == .up

/-- The entry value that replaces a MODE 0 route whose first hop uses port `p`, AUTO set. -/
def State.detour (s : State) (p : PortId) : Nat :=
  let own := s.ownCluster
  let ew := p = 1 ∨ p = 3
  let first : PortId := if ew then (if own / 4 = 0 then 2 else 0) else (if own % 4 = 3 then 3 else 1)
  let mode := if ew then 1 else 2
  if s.portUp first then mode + 4 * first.val + 16
  else if s.portUp (opposite first) then mode + 4 * (opposite first).val + 16
  else 3 + 16

/-- Rewrite, for every other cluster of the own die whose MODE 0 first hop uses the port, its ROUTE entry, if it is in MODE 0 or
the CCU wrote it (R439). -/
def State.replaceRoutes (s : State) (p : PortId) : State :=
  let own := s.ownCluster
  let v := s.detour p
  (List.range 16).foldl (fun (t : State) d =>
    let e := t.rf 8 (0x180 + 8 * d) 0 5
    if d ≠ own ∧ (e % 4 = 0 ∨ 16 ≤ e) ∧ sideTowards own d false = p then
      t.setReg 8 (0x180 + 8 * d) (BitVec.ofNat 64 v)
    else t) s

/-- Restore MODE 0 in every entry whose AUTO bit is set. -/
def State.restoreRoutes (s : State) : State :=
  (List.range 16).foldl (fun (t : State) d =>
    if t.rf 8 (0x180 + 8 * d) 4 1 = 1 then t.setReg 8 (0x180 + 8 * d) 0 else t) s

/-- ROUTE_REPLACE: the CCU, informed of a port, rewrites the routes that used it when it is FAILED, or restores them when it is UP
again; then it tells host software (R439). -/
def execRouteReplace (p : PortId) (s : State) : Host.Outcome State Fault Refusal :=
  if vget false s.stopped 9 || !s.ports[p].news then .next s
  else
    let t := s.updPort p fun q => { q with news := false }
    match s.ports[p].link with
    | .failed => .next (t.replaceRoutes p).linkEvt
    | .up => .next t.restoreRoutes.linkEvt
    | .down => .next s
    | .hello => .next s
    | .disabled => .next s
    | .miswire => .next s

/-! ### HELLO (R443, R444, R448) -/

/-- Link numbering and credits start afresh. -/
def Port.renumber (q : Port) : Port :=
  { q with replay := [], oldest := none, retries := 0, nextSeq := 0, rxSeq := 0xFFFF, credits := classFlits,
           rxSince := 0, rxCred := Vector.replicate 4 0, nak := false }

/-- The link enters the HELLO exchange, or is DOWN while the cluster has no coordinates. A link that had FAILED numbers its
packets afresh. -/
def State.startHello (s : State) (p : PortId) : State :=
  let l : LinkState := if s.coordValid then .hello else .down
  s.updPort p fun q => { (if q.link = .failed then q.renumber else q) with link := l }

/-- Step 5 of start-up ends when every port is UP or DISABLED, or has stayed DOWN or FAILED past its limit (R527). -/
def State.endStep5 (s : State) : State :=
  let ended := s.ports.toList.all fun q => q.link == .up || q.link == .disabled || q.link == .down || q.link == .failed
  if s.ccu.step = 5 ∧ ended = true ∧ s.coordValid = true then s.updCcu fun u => { u with step := 6 } else s

/-- The four words of the HELLO a port sends (R444). -/
def State.helloWords (s : State) (p : PortId) : List Word32 :=
  [BitVec.ofNat 32 (s.rf 8 0x150 0 32), BitVec.ofNat 32 (p.val + 8), 0x300, 0]

/-- HELLO_SEND: with COORD VALID, a port whose link is not UP sends a HELLO (R444). -/
def execHelloSend (p : PortId) (s : State) : Host.Outcome State Fault Refusal :=
  let q := s.ports[p]
  if !s.portLive p || !s.coordValid || q.link == .up || q.link == .disabled then .next s
  else
    let k : Packet := { Packet.blank 0xB 0 0 with
      src := s.srcWord (8 + p.val), payload := (s.helloWords p).flatMap fun w => natLe 8 (husked w).toNat }
    .next (((s.updPort p fun q => { q with hello := some k.seal }).pm (pgMp p) 0x01 k.flits).pm (pgMp p) 0x03 1)

/-- The cluster adjacent on a side; none on a die edge. -/
def State.adjacent (s : State) (p : PortId) : Option Nat :=
  let c := s.ownCluster
  let x := c % 4
  let y := c / 4
  if p = 0 then (if y = 0 then none else some (c - 4))
  else if p = 1 then (if x = 3 then none else some (c + 1))
  else if p = 2 then (if y = 3 then none else some (c + 4))
  else (if x = 0 then none else some (c - 1))

/-- Whether a HELLO's values pass the checks of R444. -/
def State.helloOk (s : State) (p : PortId) (w : List Word32) : Bool :=
  let c := (w.getD 0 0).toNat
  let v := (w.getD 1 0).toNat
  let bridge := v / 4 % 2 == 1
  if bridge then (s.adjacent p).isNone
  else c % 2 ^ 16 == s.ownDev && c / 2 ^ 16 % 32 == s.ownDie
    && s.adjacent p == some (c / 2 ^ 21 % 16) && v % 4 == (opposite p).val

/-- HELLO: a received HELLO brings the link UP and is recorded in NBR, or puts it in MISWIRE (R444). The CCU is informed of a
port that is UP again after a failure (R439). -/
def execHello (p : PortId) (words : Vector Dword 4) (s : State) : Host.Outcome State Fault Refusal :=
  let q := s.ports[p]
  if !s.portLive p || !s.coordValid || q.link == .disabled then .next s
  else
    let vals := words.toList.mapM huskValue
    let ok := match vals with
      | some w => s.helloOk p w
      | none => false
    if ok then
      let w := vals.getD []
      let c := (w.getD 0 0).toNat
      let v := (w.getD 1 0).toNat
      let nbr := c % 2 ^ 25 + 2 ^ 25 * (v % 4) + 2 ^ 27 * (v / 4 % 2) + 2 ^ 28
      let s1 := (s.pm (pgMp p) 0x02 2).setReg (pgMp p) 0x110 (BitVec.ofNat 64 nbr)
      let s2 := s1.updPort p fun q => { (if q.link = .failed then q.renumber else q) with link := .up, fell := false, news := q.fell }
      .next ((s2.endStep5).pumpAll p)
    else
      let k : Packet := Packet.blank 0xB 0 0
      .next (((s.pm (pgMp p) 0x02 2).updPort p fun q => { q with link := .miswire }).portErr p 10 8 0 k)

/-- HELLO_TMO: no valid HELLO within 2^20 port-island cycles leaves the port DOWN (R444). -/
def execHelloTmo (p : PortId) (s : State) : Host.Outcome State Fault Refusal :=
  if s.portLive p && s.ports[p].link == .hello then
    .next (s.updPort p fun q => { q with link := .down }).endStep5
  else .next s

/-! ### Coordinates (R443, R527, R530) -/

/-- Every port starts its HELLO exchange. -/
def State.helloAll (s : State) : State :=
  (List.finRange 4).foldl (fun t p => if t.ports[p].link = .disabled then t else t.startHello p) s

/-- Steps 4 to 6 of start-up see a COORD write that has been applied; `same` says that its value was unchanged. -/
def State.coordStep (s : State) (same : Bool) : State :=
  if s.ccu.step = 4 then (if s.coordValid then (s.updCcu fun u => { u with step := 5 }).helloAll.endStep5 else s)
  else if (s.ccu.step = 5 ∨ s.ccu.step = 6) ∧ same = false then
    (s.updCcu fun u => { u with step := 5 }).helloAll.endStep5
  else if s.ccu.step = 6 ∧ same = true then
    ((List.finRange 4).foldl (fun t p => if t.portUp p then t else
      (t.replaceRoutes p).updPort p fun q => { q with fell := true }) s).updCcu fun u => { u with step := 7 }
  else s

/-- What a write of COORD does: refused after READY unless every port is DISABLED (R443); the write outcome and the state.
`page` is the port page addressed. -/
def State.coordWrite (s : State) (page : Nat) (v : Word32) : Nat × State :=
  let w : Dword := (v.extractLsb' 0 26).setWidth 64
  if s.ccu.readyS ∧ (s.ports.toList.all fun q => q.link == .disabled) = false then (1, s.errBit page 2)
  else if s.ccu.readyS ∨ s.ccu.st = .fault then (0, (s.setReg 8 0x150 w).helloAll)
  else (0, (s.setReg 8 0x150 w).coordStep (s.reg 8 0x150 == w))

/-! ### LINK_CTL (R448) -/

/-- What a write of LINK_CTL does: DISABLE stops the link, clearing it returns the link to the HELLO exchange, and RETRAIN
restarts that exchange. -/
def State.linkCtlWrite (s : State) (p : PortId) (v : Dword) : State :=
  let was := s.ports[p].link
  let s1 := s.setReg (pgMp p) 0x100 ((v.extractLsb' 0 13).setWidth 64 &&& 0x1FFD)
  if bitAt v 0 then
    if was = .disabled then s1 else (s1.updPort p fun q => { q with link := .disabled }).endStep5
  else if was = .disabled then s1.startHello p
  else if bitAt v 1 then s1.startHello p
  else s1

end Sys2Proof.Machine
end

