-- ==== Sys2Proof/Machine/Recovery.lean ====
section
/-! DEFINITION. Heartbeats, fencing, self-test and rejoin, and the failures that need a stop (R102, R457, R471 to R475,
R505). -/

namespace Sys2Proof.Machine

/-! ### Windows and reasons (R102, R457, R510) -/

/-- Change what the CCU records of a core. -/
def State.updWatch (s : State) (c : CoreId) (f : CoreWatch → CoreWatch) : State :=
  s.updCcu fun u => { u with watch := u.watch.set c (f u.watch[c]) }

/-- ABFT_WINDOW (0 reads 1). -/
def State.window (s : State) : Nat := max 1 (s.rf 0 0x150 0 40)

/-- How many of a list of CCU cycles lie within the window. -/
def State.recent (s : State) (l : List Nat) : Nat :=
  (l.filter fun t => decide (s.ccu.cyc.toNat < t + s.window)).length

/-- FENCE_REASON[c] (R510). -/
def State.fenceReason (s : State) (c : CoreId) : Dword :=
  let w := s.ccu.watch[c]
  BitVec.ofNat 64 (w.reason.toNat + 2 ^ 4 * min 15 (s.recent w.fences) + 2 ^ 8 * min 15 (s.recent w.abft)
    + 2 ^ 12 * min 15 (s.recent w.parity) + 2 ^ 16 * min 65535 w.total)

/-- CORE_FENCE as a value. -/
def State.fenceBits (s : State) : Nat := s.rf 0 0x108 0 8

/-- Record an error of the CCU page (R508, R509). -/
def State.ccuErr (s : State) (b kind island : Nat) (page off : Nat := 0) (detail : Dword := 0) : State :=
  s.err 0 b (BitVec.ofNat 64 (page + 2 ^ 8 * off + 2 ^ 20 * kind + 2 ^ 24 * island)) detail

/-! ### Failures that need a stop (R475) -/

/-- A cluster fault: STS.STATE FAULT, every task aborted with ECC_UE, host software notified. Code 1 memory heartbeat,
2 last bond group. -/
def State.clusterFault (s : State) (code : Nat) : State :=
  let s1 := s.updCcu fun u => { u with st := .fault }
  let s2 := (List.finRange 8).foldl (fun (t : State) c => if t.ccu.holds[c].isSome then t.answer c (.cause 0x08) else t) s1
  (s2.ccuErr 11 5 8 0 0 (BitVec.ofNat 64 code)).evt 0xB (BitVec.ofNat 64 code)

/-! ### Fencing (R473) -/

/-- Whether a core's logic can still act on its abort. -/
def State.coreActs (s : State) (c : CoreId) : Bool := !(vget false s.stopped c) && (s.core c).seq.st != .fault

/-- Step 2: the CCH is flushed while the core can act; dirty lines that stay behind are lost and logged. -/
def State.fenceFlush (s : State) (c : CoreId) : State :=
  let lost := fun (t : State) =>
    if (t.core c).cch.lines.any fun l => l.dirty != 0 then t.logEvent 11 c.val 0 none else t
  if s.coreActs c then
    match s.sweep c false false 0 0 (s.core c).cch.lines with
    | some r => r.s
    | none => lost s
  else lost s

/-- Steps 2 and 3: the task the core holds ends as aborted. A core that can act writes its held signals and its end report into the
crossing (R255), unless it has sent the report already; the CCU reports for one that cannot. -/
def State.fenceReport (s : State) (c : CoreId) : State :=
  let q := (s.core c).seq
  let sent := s.ccu.toCcu[c].any fun m => match m with
    | .report _ => true
    | _ => false
  match s.ccu.holds[c], sent with
  | some num, false =>
    let id : BitVec 16 := match q.task with
      | some t => t.id
      | none => 0
    let code : Byte := if q.abortTask then BitVec.ofNat 8 (s.rf (pgSeq c) 0x1A0 0 8)
      else match lowestCause q.causes with
        | some x => x.code
        | none => 0x0A
    let s1 := s.pm (pgSeq c) 0x09 1
    if s.coreActs c then (s1.flushHeld c).tell c (.report ⟨num, id, .aborted, code⟩)
    else s1.takeReport c ⟨num, id, .aborted, code⟩
  | _, _ => s

/-- Messages of a core's crossing that outlive its fencing: claims and take requests are discarded (R32, R473). -/
def keptMsg : CcuMsg → Bool
  | .claim _ => false
  | .take _ _ _ => false
  | .signal _ _ => true
  | .report _ => true
  | .abftMiss => true
  | .parityAbort => true

/-- Step 4: the core is reset and its self-test begins; its logic runs again. -/
def State.startTest (s : State) (c : CoreId) (manual : Bool) : State :=
  let s1 := s.coreReset c (s.paused (pgSeq c))
  let s2 := (s1.updSeq c fun q => { q with st := .fenced }).updCcu fun u => { u with toCore := u.toCore.set c [] }
  { s2 with stopped := vset s2.stopped c.val false }.updWatch c fun w => { w with test := .running, manual := manual, fenceReq := none }

/-- Fence a core (R472, R473). -/
def State.fenceCore (s : State) (c : CoreId) (reason : Nat) : State :=
  let now := s.ccu.cyc.toNat
  let s1 := s.setRf 0 0x108 c.val 1 1
  let s2 := s1.updWatch c fun w =>
    { w with reason := BitVec.ofNat 4 reason, fences := now :: w.fences, total := min 65535 (w.total + 1) }
  let s3 := (s2.ccuErr 9 4 c.val 0 0 (s2.fenceReason c)).logEvent 6 c.val 0 (some reason)
  let s4 := ((s3.err 6 12 (BitVec.ofNat 64 (2 ^ 7 * 6 + 2 ^ 11 * c.val)) 0).pm 6 0x07 1).evt 6
    (BitVec.ofNat 64 (s3.fenceBits + 2 ^ 8 * reason))
  let s5 := s4.updCcu fun u => { u with toCcu := u.toCcu.set c (u.toCcu[c].filter keptMsg) }
  let s6 := ((s5.fenceFlush c).txDiscard c).fenceReport c
  (s6.startTest c false).barriersRecompute

/-- Whether a core may be fenced: present, not fenced, and the CCU runs. -/
def State.mayFence (s : State) (c : CoreId) : Bool := s.ccuAlive && s.present c && !s.fenced c

/-- Whether an island's heartbeat counter has reached HB_LIMIT (R471). -/
def State.hbLate (s : State) (i : Fin 13) : Bool := decide (1024 * max 2048 (s.rf 0 0x160 0 16) ≤ s.ccu.hbCount[i])

/-- Whether a reason of R472 holds for a core: misses of which the last came after the last fence (R102, R457), a heartbeat
counter at its limit (R471), FAULT, or a failed self-test. HOST comes with the write that gives it. -/
def State.fenceDue (s : State) (c : CoreId) (reason : Nat) : Bool :=
  let w := s.ccu.watch[c]
  match reason with
  | 1 => decide (3 ≤ s.recent w.abft) && decide (w.fences.headD 0 < w.abft.headD 0)
  | 2 => decide (3 ≤ s.recent w.parity) && decide (w.fences.headD 0 < w.parity.headD 0)
  | 3 => s.hbLate (Fin.ofNat 13 c.val)
  | 4 => (s.core c).seq.st == .fault
  | 6 => w.test == .failed
  | _ => false

/-- CORE_FENCE: the CCU fences a core for a reason that holds, aborts its task, resets it and starts self-test. -/
def execCoreFence (c : CoreId) (reason : BitVec 4) (s : State) : Host.Outcome State Fault Refusal :=
  if s.mayFence c && s.fenceDue c reason.toNat then .next (s.fenceCore c reason.toNat) else .next s

/-! ### Misses and parity aborts (R102, R457) -/

/-- ABFT_MISS_REPORT: the CCU counts a core's checksum miss and fences the core at three within the window. -/
def execAbftMissReport (c : CoreId) (s : State) : Host.Outcome State Fault Refusal :=
  match s.ccu.toCcu[c] with
  | .abftMiss :: _ =>
    if !s.ccuAlive then .next s
    else
      let s1 := (s.popCcu c).updWatch c fun w => { w with abft := s.ccu.cyc.toNat :: w.abft }
      .next (if decide (3 ≤ s1.recent s1.ccu.watch[c].abft) && s1.mayFence c then s1.fenceCore c 1 else s1)
  | _ => .next s

/-- PARITY_ABORT_REPORT: the CCU counts a core's PARITY abort and fences the core at three within the window. -/
def execParityAbortReport (c : CoreId) (s : State) : Host.Outcome State Fault Refusal :=
  match s.ccu.toCcu[c] with
  | .parityAbort :: _ =>
    if !s.ccuAlive then .next s
    else
      let s1 := (s.popCcu c).updWatch c fun w => { w with parity := s.ccu.cyc.toNat :: w.parity }
      .next (if decide (3 ≤ s1.recent s1.ccu.watch[c].parity) && s1.mayFence c then s1.fenceCore c 2 else s1)
  | _ => .next s

/-! ### Rejoin (R473, R474) -/

/-- A core leaves CORE_FENCE and claims again, or is PAUSED; the CCU sends it the 32 flags first (R245). -/
def State.rejoin (s : State) (c : CoreId) : State :=
  let s1 := ((s.setRf 0 0x108 c.val 1 0).logEvent 7 c.val 0 none).answer c (.flags s.ccu.cf)
  ((s1.becomeIdle c).barriersRecompute).evt 7 (BitVec.ofNat 64 s1.fenceBits)

/-- Whether a passing self-test lets a fenced core rejoin by itself. -/
def State.autoRejoin (s : State) (c : CoreId) : Bool :=
  let w := s.ccu.watch[c]
  w.reason != 5 && w.reason != 6 && decide (s.recent w.fences < s.rf 0 0x158 0 4)

/-- A 1 written to a core's bit of CORE_FENCE while its self-test ran takes effect when the test has ended (R474). -/
def State.fenceAsked (s : State) (c : CoreId) (req : Option Bool) : State :=
  if req = some true ∧ s.mayFence c = true then s.fenceCore c 5 else s

/-- SELFTEST_DONE: a core's self-test ends; the core rejoins or stays FENCED. At start-up a failing core is fenced with
reason SELFTEST (R473, R474, R527). -/
def execSelftestDone (c : CoreId) (pass : Bool) (s : State) : Host.Outcome State Fault Refusal :=
  let w := s.ccu.watch[c]
  if w.test ≠ .running ∨ s.ccuAlive = false then .next s
  else if pass then
    let s1 := s.updWatch c fun x => { x with test := .passed, fenceReq := none, manual := false }
    if !s.fenced c then .next (s1.fenceAsked c w.fenceReq)
    else if w.manual || s1.autoRejoin c then .next ((s1.rejoin c).fenceAsked c w.fenceReq)
    else if w.fenceReq = some false then .next (s1.startTest c true)
    else .next s1
  else
    let s1 := (s.updWatch c fun x => { x with test := .failed, reason := 6, fenceReq := none, manual := false }).logEvent 8 c.val 0 none
    if s.fenced c then .next (if w.fenceReq = some false then s1.startTest c true else s1)
    else
      let s2 := (s1.setRf 0 0x108 c.val 1 1).updWatch c fun x =>
        { x with fences := s.ccu.cyc.toNat :: x.fences, total := min 65535 (x.total + 1) }
      let s3 := (s2.ccuErr 9 4 c.val 0 0 (s2.fenceReason c)).logEvent 6 c.val 0 (some 6)
      let s4 := ((s3.err 6 12 (BitVec.ofNat 64 (2 ^ 7 * 6 + 2 ^ 11 * c.val)) 0).pm 6 0x07 1).evt 6
        (BitVec.ofNat 64 (s3.fenceBits + 2 ^ 8 * 6))
      let s5 := (s4.updSeq c fun q => { q with st := .fenced }).barriersRecompute
      .next (if w.fenceReq = some false then s5.startTest c true else s5)

/-- What a write of CORE_FENCE does to one core (R474, R505). -/
def State.fenceBit (s : State) (c : CoreId) (v : Word32) : State :=
  if s.ccu.watch[c].test = .running then s.updWatch c fun w => { w with fenceReq := some (bitAt v c.val) }
  else if bitAt v c.val then (if s.mayFence c then s.fenceCore c 5 else s)
  else if s.fenced c then s.startTest c true
  else s

/-- What a write of CORE_FENCE does. -/
def State.fenceWrite (s : State) (v : Word32) : State := (List.finRange 8).foldl (fun t c => t.fenceBit c v) s

/-! ### Heartbeats (R471) -/

/-- Index of an island in `stopped`: 0 to 7 cores, 8 memory, then the ports. -/
def hbStopped (i : Fin 13) : Nat := if i.val ≤ 8 then i.val else i.val + 1

/-- Whether an island's heartbeat is expected (R471, R520). -/
def State.hbExpected (s : State) (i : Fin 13) : Bool :=
  if i.val < 8 then s.reachable (Fin.ofNat 8 i.val) else true

/-- HEARTBEAT_TOKEN: an island whose logic runs sends its token. -/
def execHeartbeatToken (island : Fin 13) (s : State) : Host.Outcome State Fault Refusal :=
  if s.hbExpected island && !(vget false s.stopped (hbStopped island)) then
    .next (s.updCcu fun u => { u with tokens := u.tokens.set island true })
  else .next s

/-- HEARTBEAT_RECEIVE: the CCU receives a token and restarts the island's counter. -/
def execHeartbeatReceive (island : Fin 13) (s : State) : Host.Outcome State Fault Refusal :=
  if s.ccu.tokens[island] && s.ccuAlive then
    .next (s.updCcu fun u => { u with tokens := u.tokens.set island false, hbCount := u.hbCount.set island 0 })
  else .next s

/-- HEARTBEAT_MISS: an island's counter reaches HB_LIMIT; a core is fenced, a port's link fails, the memory island's miss is a
cluster fault. -/
def execHeartbeatMiss (island : Fin 13) (s : State) : Host.Outcome State Fault Refusal :=
  if !s.ccuAlive || !s.hbExpected island || !s.hbLate island then .next s
  else
    let s1 := s.orReg 0 0x168 (1 <<< island.val)
    let s2 := (s1.ccuErr 10 3 island.val).updCcu fun u => { u with hbCount := u.hbCount.set island 0 }
    if island.val < 8 then
      let c : CoreId := Fin.ofNat 8 island.val
      .next (if s2.mayFence c then s2.fenceCore c 3 else s2)
    else if island.val = 8 then .next (if s2.ccu.st = .fault then s2 else s2.clusterFault 1)
    else
      let p : PortId := Fin.ofNat 4 (island.val - 9)
      .next (if s2.ports[p].link = .failed then s2 else s2.linkFail p)

/-- ISLAND_LOGIC_STOP: the logic of an island stops of itself. -/
def execIslandLogicStop (island : IslandId) (s : State) : Host.Outcome State Fault Refusal :=
  .next { s with stopped := s.stopped.set island true }

end Sys2Proof.Machine
end

