-- ==== Sys2Proof/Machine/Bond.lean ====
section
/-! DEFINITION. The face-bond port (R418 to R423) and the reclaim of request tags (R478, R483). -/

namespace Sys2Proof.Machine

/-! ### Lane groups (R418, R423) -/

/-- A lane group with its thirteen spares and nothing retired. -/
def BondGroup.fresh : BondGroup where
  spares := 13
  retired := false
  out := false
  last := 0
  lanes := []

/-- A lane group. -/
def State.bondGroup (s : State) (g : Nat) : BondGroup := tget BondGroup.fresh s.bond g

/-- Change a lane group. -/
def State.updBond (s : State) (g : Nat) (f : BondGroup → BondGroup) : State :=
  { s with bond := tmod BondGroup.fresh s.bond g f }

/-- First group and number of groups of the kind a group belongs to. -/
def bondKind (g : Nat) : Nat × Nat :=
  if g < 96 then (0, 96) else if g < 144 then (96, 48) else if g < 160 then (144, 16) else (160, 8)

/-- Usable groups of a kind: neither retired nor out for a switch-over. -/
def State.bondUsable (s : State) (k : Nat × Nat) : Nat :=
  ((List.range k.2).filter fun i => let b := s.bondGroup (k.1 + i); !b.retired && !b.out).length

/-- Groups of a kind that are not retired. -/
def State.bondLeft (s : State) (k : Nat × Nat) : Nat :=
  ((List.range k.2).filter fun i => !(s.bondGroup (k.1 + i)).retired).length

/-- BOND_STS (R423). -/
def State.bondSts (s : State) : Nat :=
  s.bondUsable (0, 96) + 2 ^ 7 * s.bondUsable (96, 48) + 2 ^ 13 * s.bondUsable (144, 16) + 2 ^ 18 * s.bondUsable (160, 8)
    + 2 ^ 22 * ((List.range 168).map fun g => 13 - (s.bondGroup g).spares).sum

/-- Host software is told of a retirement (R507). -/
def State.bondEvt (s : State) : State := s.evt 9 (BitVec.ofNat 64 s.bondSts)

/-- Retire a group: it leaves the pool until the next cold reset; the last of its kind is a cluster fault (R422). -/
def State.retireGroup (s : State) (g : Nat) : State :=
  let s1 := ((s.updBond g fun b => { b with retired := true, out := false }).err 1 10 0 0).bondEvt
  if s1.bondLeft (bondKind g) = 0 ∧ s1.ccu.st ≠ .fault then s1.clusterFault 2 else s1

/-- Retire a lane onto a spare of its group, or the group when it has none left (R421, R422). A group that does not exist or
is retired, and a lane already retired, are ignored. -/
def State.retireLane (s : State) (g lane : Nat) : State :=
  let b := s.bondGroup g
  if 168 ≤ g ∨ 642 ≤ lane ∨ b.retired = true ∨ b.lanes.contains lane = true then s
  else if b.spares = 0 then s.retireGroup g
  else
    let s1 := s.updBond g fun b =>
      { b with spares := b.spares - 1, out := true, last := BitVec.ofNat 10 lane, lanes := lane :: b.lanes }
    let s2 := { s1 with laneCe := tdel s1.laneCe (1024 * g + lane) }
    (s2.err 1 9 0 0).bondEvt

/-- What a write of BOND_CMD does (R423). -/
def State.bondCmd (s : State) (v : Word32) : State :=
  let g := fld v 0 8
  match fld v 18 2 with
  | 1 => s.retireLane g (fld v 8 10)
  | 2 => if g < 168 ∧ (s.bondGroup g).retired = false then s.retireGroup g else s
  | _ => s

/-! ### Beats (R419) -/

/-- A checked word of a beat, as its difference from what was sent: whether it is uncorrectable, and the lanes corrected.
Lane 80w + b carries bit b of word w. -/
def beatWord (w : Nat) (m : BitVec 80) : Bool × List Nat :=
  match eccOf m with
  | .clean => (false, [])
  | .ue _ => (true, [])
  | .ce fix => (false, (setBits fix).map (80 * w + ·))

/-- A transmission of a beat: whether a word is uncorrectable, and the words' corrected lanes. -/
def beatCheck (l : List (BitVec 80)) : Bool × List (List Nat) :=
  let r := (l.take 8).mapIdx beatWord
  (r.any (·.1), (r.map (·.2)).filter (!·.isEmpty))

/-- CE_LIM of BOND_CTL (0 reads 1). -/
def State.bondLimit (s : State) : Nat := max 1 (s.rf 1 0x108 0 8)

/-- The memory-island cycles of a lane's corrected words that lie within the last 2^20 (R421). -/
def State.laneHits (s : State) (g lane : Nat) : List Nat :=
  (tget [] s.laneCe (1024 * g + lane)).filter fun t => decide (s.memCyc.toNat ≤ 2 ^ 20 + t)

/-- Count a corrected word against a lane. -/
def State.laneCount (s : State) (g lane : Nat) : State :=
  { s with laneCe := tput [] s.laneCe (1024 * g + lane) (s.memCyc.toNat :: s.laneHits g lane) }

/-- Count the corrected words of a transmission. -/
def State.beatCount (s : State) (g : Nat) (r : List (List Nat)) : State :=
  r.foldl (fun (t : State) l => l.foldl (fun (u : State) lane => u.laneCount g lane) t) (s.bumpRf 1 0x128 0 32 r.length)

/-- The state a meaning answers; the state itself where it stops. -/
def State.after (s : State) (o : Host.Outcome State Fault Refusal) : State :=
  match o with
  | .next t => t
  | .fault _ => s
  | .refused _ => s

/-- The requester of a beat that failed twice receives an error reply, and a write is not applied: a copy of its line in the CSC is
dropped (R419, R455). One whose answer comes with a command of its own finds the error there; the others receive it now. -/
def State.beatLost (s : State) (tag : BitVec 11) : State :=
  match tget none s.rqt.tags tag.toNat with
  | none => s
  | some g =>
    let marked := { s with rqt := { s.rqt with tags := tput none s.rqt.tags tag.toNat (some { g with bondUe := true }) } }
    let freed := s.freeUser g.user
    match g.user with
    | .str c u req => match s.postedOf c u req with
      | some p => (s.cscDrop (p.sys % 2 ^ 48 / 128)).postedFault c u p MemErr.ue.strFault
      | none => marked
    | .cch c line cw op => (freed.cscDrop line).lineFails c 8 2 0x08 cw op line
    | .txLine slot gen line => (freed.cscDrop line).txLineFails slot gen line 6
    | .txWord slot => s.after (execCommitWordAck slot (.error 4) s)
    | .evx => if s.evx.phase = .idle then freed else freed.evWriteFails 9 5
    | .copy u => s.after (execCopyDone u s)
    | .tlu _ _ _ => marked
    | .image _ => marked
    | .port _ => marked
    | .plain _ => marked

/-- A beat that failed twice is not delivered: ERR.BOND_UE, a report with the bond as its source, and an error for the requester
(R419, R455). -/
def State.beatFail (s : State) (tag : BitVec 11) : State :=
  let (g, s1) := (s.err 1 8 0 0).drawByte
  let (i, s2) := s1.drawWord
  let report : EccReport := ⟨g.toNat % 128, i.toNat % 2 ^ 17, 15, false, false, 0⟩
  { s2 with ecm := { s2.ecm with ueQ := s2.ecm.ueQ ++ [report] } }.beatLost tag

/-- BOND_BEAT: a beat of a request crosses a group; `first` and `second` are the differences of its eight words from what
was sent, in the first transmission and in the one that follows a failure. -/
def execBondBeat (group : Byte) (tag : BitVec 11) (first second : List (BitVec 80)) (s : State) :
    Host.Outcome State Fault Refusal :=
  let g := group.toNat
  let b := s.bondGroup g
  if 168 ≤ g ∨ b.retired = true ∨ b.out = true ∨ s.memHalted = true then .next s
  else
    let (bad, r) := beatCheck first
    let s1 := s.beatCount g r
    if !bad then .next s1
    else
      let (bad2, r2) := beatCheck second
      let s2 := (s1.bumpRf 1 0x128 32 32 1).beatCount g r2
      .next (if bad2 then s2.beatFail tag else s2)

/-- Whether a lane has been the corrected bit in CE_LIM words within the window, with AUTO 1 (R421). -/
def State.laneDue (s : State) (g lane : Nat) : Bool :=
  s.rf 1 0x108 8 1 == 1 && decide (s.bondLimit ≤ (s.laneHits g lane).length)

/-- BOND_LANE_RETIRE: a lane that is due is retired onto a spare and its group leaves the pool (R421). -/
def execBondLaneRetire (group : Byte) (lane : BitVec 10) (s : State) : Host.Outcome State Fault Refusal :=
  if s.laneDue group.toNat lane.toNat && !s.memHalted then .next (s.retireLane group.toNat lane.toNat) else .next s

/-- BOND_GROUP_RETURN: the group returns to the pool 32 memory-island cycles after a retirement (R421). -/
def execBondGroupReturn (group : Byte) (s : State) : Host.Outcome State Fault Refusal :=
  let b := s.bondGroup group.toNat
  if b.out && !b.retired && !s.memHalted then .next (s.updBond group.toNat fun x => { x with out := false }) else .next s

/-- BOND_GROUP_RETIRE: a group with no spare left must retire a further lane and is itself retired (R422). -/
def execBondGroupRetire (group : Byte) (s : State) : Host.Outcome State Fault Refusal :=
  let g := group.toNat
  let b := s.bondGroup g
  let due := (List.range 640).any fun l => s.laneDue g l && !b.lanes.contains l
  if g < 168 ∧ b.retired = false ∧ b.spares = 0 ∧ due = true ∧ s.memHalted = false then .next (s.retireGroup g) else .next s

/-! ### Tags (R478, R483) -/

/-- The TLU operation a tag belongs to, by its place. -/
def State.tluOf (s : State) (c : CoreId) (num : Nat) : Option (Fin 2 × TluOp) :=
  match (s.core c).trf.ops with
  | a :: b :: _ => if a.e.num = num then some (0, a) else if b.e.num = num then some (1, b) else none
  | [a] => if a.e.num = num then some (0, a) else none
  | [] => none

/-- What a reclaim reply does to the requester: the timeout of that request (R478). -/
def State.reclaimed (s : State) (u : TagUser) : State :=
  match u with
  | .tlu c num row => match s.tluOf c num with
    | some (op, _) => s.after (execTldRowTmo c op (BitVec.ofNat 8 row) s)
    | none => s
  | .str c u req => s.after (execStreamElementTmo c u req s)
  | .cch c line cw op =>
    if (s.core c).cch.op.any fun o => op32 (o.e.bits) != 10 && o.wbs.contains line then s.after (execCchOpTmo c s)
    else s.lineFails c 3 1 0x03 cw op line
  | .image _ => s
  | .txLine slot gen line => s.txLineFails slot gen line 5
  | .txWord slot => s.after (execDurTmoExpiry slot s)
  | .evx => if s.evx.phase = .idle then s else s.evWriteFails 3 6
  | .copy u => s.after (execCopyDone u s)
  | .port _ => s
  | .plain _ => s

/-- TAG_RECLAIM: the RQT frees a tag held for 2^TAG_TMO memory-island cycles and its requester gets a reclaim reply. -/
def execTagReclaim (tag : BitVec 11) (s : State) : Host.Outcome State Fault Refusal :=
  match tget none s.rqt.tags tag.toNat with
  | none => .next s
  | some g =>
    if s.memHalted then .next s
    else
      let s1 := ({ s with rqt := { tags := tdel s.rqt.tags tag.toNat, late := (tag, g) :: s.rqt.late } }).leaveFills [g.user]
      let s2 := ((s1.bumpRf 5 0x110 0 32 1).pm 5 0x03 1).err 5 8 (BitVec.ofNat 64 (g.r + 2 ^ 4 * tag.toNat)) g.addr
      .next ((s2.logEvent 10 g.r 0 (some tag.toNat)).reclaimed g.user)

end Sys2Proof.Machine
end

