-- ==== Sys2Proof/Machine/Fabric.lean ====
section
/-! DEFINITION. Packets that arrive at the cluster: a port's checks and routing (R424 to R431, R433 to R435, R440, R442, R443),
the requests it serves (R24 to R26, R322) and the answers to its own requests (R343, R400, R441, R478). -/

namespace Sys2Proof.Machine

/-! ### ERR packets (R440) -/

/-- Whether a packet is a request: RD, WR, MSG or MGMT (R440). -/
def isRequest (k : Packet) : Bool := k.type == 0 || k.type == 1 || k.type == 5 || k.type == 8

/-- Whether a TYPE is reserved (R425, R426). -/
def typeReserved (k : Packet) : Bool := decide (0xC ≤ k.type.toNat) && decide (k.type.toNat ≤ 0xE)

/-- An ERR packet in answer to a request: same class, tag and address. The error to a MSG names the channel, as channel + 1, in
byte 25, which tells it from an answer of the same class to a tag of the RQT (log entry 62). -/
def errPacket (k : Packet) (src : BitVec 32) (code : Nat) : Packet :=
  { Packet.blank 4 k.tc.toNat (dstOfSrc k.src) with
    src := src, tag := k.tag, addr := k.addr
    spec := BitVec.ofNat 48 (code + if k.type = 5 then 256 * ((k.byte 24).toNat % 64 + 1) else 0) }

/-- Send an answer of the cluster; one without a route is discarded and counted (R440). -/
def State.sendAnswer (s : State) (k : Packet) : State :=
  match s.sendMesh k with
  | some t => t
  | none =>
    let (n, s1) := s.drawChoice 4
    s1.bumpRf (pgMp (Fin.ofNat 4 n)) 0x130 32 32 1

/-- A port itself answers a request with ERR and counts it in ERRSENT (R440, R448). -/
def State.portAnswers (s : State) (p : PortId) (k : Packet) (code : Nat) : State :=
  (s.bumpRf (pgMp p) 0x140 0 32 1).sendAnswer (errPacket k (s.srcWord (8 + p.val)) code)

/-! ### Receiving (R427, R428, R431) -/

/-- A packet that fails a check of the link: nothing of it is kept and a NAK is due. -/
def State.linkBad (s : State) (p : PortId) (kind : Nat) (k : Packet) : State :=
  let s1 := ((s.bumpRf (pgMp p) 0x128 0 32 1).pm (pgMp p) 0x07 1).portErr p 8 kind 0 k
  s1.updPort p fun q => { q with nak := true }

/-- The port accepts a packet: SEQ advances, and its flits are credits to return. The fourth packet since the last link control
flit makes it send one (R428). -/
def State.linkTakes (s : State) (p : PortId) (k : Packet) : State :=
  let t := s.updPort p fun q => { q with
    rxSeq := k.seq, rxSince := q.rxSince + 1, rxCred := vmod q.rxCred k.tc.toNat (· + k.flits) }
  if 4 ≤ t.ports[p].rxSince then t.lcfOut p else t

/-- Drop a packet and count it in LINKDROP. -/
def State.linkDrops (s : State) (p : PortId) : State := s.bumpRf (pgMp p) 0x130 32 32 1

/-- A source-routed packet (R443). -/
def State.sourceRouted (s : State) (p : PortId) (k : Packet) : State :=
  let k1 := { k with src := (k.src <<< 2) ||| BitVec.ofNat 32 p.val }
  if k.type ≠ 8 ∧ k.type ≠ 9 then s
  else if k.hops = 0 then (if k.type = 8 then s.deliver (some p) k1 else s)
  else
    let out : PortId := Fin.ofNat 4 (fld k.dst 0 2)
    (s.pm (pgMp p) 0x0C 1).enqueue out { k1 with dst := k.dst >>> 2, hops := k.hops - 1 }

/-- A packet that arrives with HOPS 0 and is not addressed to the cluster is discarded and counted (R433). -/
def State.hopDrops (s : State) (p : PortId) (k : Packet) : State :=
  ((s.bumpRf (pgMp p) 0x138 32 32 1).pm (pgMp p) 0x0A 1).portErr p 12 5 0 k

/-- A packet routed by its DST (R433, R435, R440). -/
def State.routed (s : State) (p : PortId) (k : Packet) : State :=
  match s.route k.dst k.mem k.yx with
  | .deliver => if takesIn k then s.deliver (some p) k else s
  | .out o yx =>
    if k.hops = 0 then s.hopDrops p k
    else
      let s1 := if s.detoured k then s.pm (pgMp p) 0x0B 1 else s
      (s1.pm (pgMp p) 0x0C 1).enqueue o { k with yx := yx, hops := k.hops - 1 }
  | .noroute =>
    if k.hops = 0 then s.hopDrops p k
    else if isRequest k then (s.noRoute p k).sendAnswer (errPacket k (s.srcWord (8 + p.val)) errNoRoute) else s.linkDrops p

/-- What becomes of an accepted packet (R425, R431, R442). -/
def State.packetIn (s : State) (p : PortId) (k : Packet) : State :=
  if typeReserved k || decide (2048 < k.payload.length) then s.linkDrops p
  else if k.tc = 0 ∧ 2 < k.flits then (s.bumpRf (pgMp p) 0x140 32 32 1).portErr p 14 7 0 k
  else if k.sr then s.sourceRouted p k
  else if !s.ccu.readyS then
    (if isRequest k && s.coordValid && s.route (k.src &&& 0x1FFFFFF) false false != .noroute then s.portAnswers p k 7 else s)
  else s.routed p k

/-- Whether an accepted packet goes into the cluster by a crossing of this port. -/
def State.entersBy (s : State) (k : Packet) : Bool :=
  !typeReserved k && decide (k.payload.length ≤ 2048) && (k.tc != 0 || decide (k.flits ≤ 2))
    && (if k.sr then k.type == 8 && k.hops == 0
      else s.ccu.readyS && takesIn k && s.route k.dst k.mem k.yx == .deliver)

/-- Whether an accepted packet passes through the cluster to another port (R430, R435, R443). -/
def State.transits (s : State) (k : Packet) : Bool :=
  if k.sr then k.hops != 0 && (k.type == 8 || k.type == 9)
  else s.ccu.readyS && (match s.route k.dst k.mem k.yx with
    | .out _ _ => k.hops != 0
    | .deliver => false
    | .noroute => false)

/-- Whether a port receives a packet in this state of its link: what the link carries, and until READY any request, so that it can
be answered (R442). -/
def State.linkReceives (s : State) (p : PortId) (k : Packet) : Bool :=
  match s.ports[p].link with
  | .up => true
  | .down => k.sr || !s.ccu.readyS
  | .hello => k.sr || !s.ccu.readyS
  | .failed => false
  | .disabled => false
  | .miswire => false

/-- PACKET_ROUTE: a port receives a packet, checks it, and routes or delivers it. One for a crossing that is full stays with its
link (R15), and so does one in transit while the memory island, which holds the transit stage, has stopped (R430). -/
def execPacketRoute (p : PortId) (pkt : Packet) (s : State) : Host.Outcome State Fault Refusal :=
  let q := s.ports[p]
  let t := s.pm (pgMp p) 0x02 pkt.flits
  if !s.portLive p || !s.linkReceives p pkt || pkt.type == 0xB || pkt.type == 0xF then .next s
  else if pkt.hchk ≠ pkt.headCheck then .next (t.linkBad p 2 pkt)
  else if pkt.crc ≠ pkt.bodyCheck then .next (t.linkBad p 1 pkt)
  else if pkt.seq ≠ q.rxSeq + 1 then
    .next (if (pkt.seq - q.rxSeq).toNat ≤ 32768 ∧ pkt.seq ≠ q.rxSeq then t.updPort p fun q => { q with nak := true } else t)
  else if (s.entersBy pkt && s.portFull p pkt) || (s.transits pkt && s.memHalted) then .next s
  else .next ((t.linkTakes p pkt).packetIn p pkt)

/-! ### Requests to this cluster (R24 to R26, R322, R426) -/

/-- Take a delivered packet of a type from the front of its crossing (R14), with the port that brought it. -/
def State.takeIn (s : State) (type : BitVec 4) (k : Packet) : Option (Option PortId × State) :=
  if k.type ≠ type then none else (s.takePacket (· == k)).map fun r => (r.1.1, r.2)

/-- The port that serves a packet: the one that brought it; of a request the cluster sent to itself, which no port brought, it
is left open. -/
def State.servedBy (s : State) : Option PortId → PortId × State
  | some p => (p, s)
  | none => let (n, t) := s.drawChoice 4; (Fin.ofNat 4 n, t)

/-- A mesh requester of a CSP; one of the own cluster by its SRC. -/
def State.meshWho (s : State) (k : Packet) : Inbound :=
  .port (fld k.src 0 16 == s.ownDev && fld k.src 16 5 == s.ownDie && fld k.src 21 4 == s.ownCluster)

/-- The ERR code of a failed access (R440). -/
def MemErr.code : MemErr → Nat
  | .ue => 4
  | .refused => 3
  | .isolated => 5
  | .perm => 3
  | .remote c => c.toNat
  | .busy => 3

/-- Answer a request: its packet with the own SRC, or ERR. -/
def State.answerTo (s : State) (k : Packet) (g : Option MemErr) (ok : Packet) : State :=
  match g with
  | some e => s.sendAnswer (errPacket k (s.srcWord 13) e.code)
  | none => s.sendAnswer { ok with dst := dstOfSrc k.src, src := s.srcWord 13, tag := k.tag, addr := k.addr }

/-- The read an RD asks for, by the port that brought it. -/
def State.serveRd (s : State) (p : PortId) (k : Packet) : Got :=
  let n := fld k.spec 0 16
  if n = 0 ∨ 2048 < n then ⟨[], some .refused, s⟩
  else match s.span s.ownDev k.addr.toNat n with
  | .cm off => s.cmRead (8 + p.val) off n
  | .csp c off => s.cspRead c (s.meshWho k) off n
  | .dbg c off => if s.reachable c then s.dbgLoad c (8 + p.val) off n else ⟨[], some .isolated, s⟩
  | .ext => ⟨[], some .refused, s⟩
  | .away => ⟨[], some .refused, s⟩
  | .refused => ⟨[], some .refused, s⟩

/-- RD: an RD request is served and answered by RSP or ERR; it waits while no request tag is free (R283, R426). -/
def execRd (pkt : Packet) (s : State) : Host.Outcome State Fault Refusal :=
  match s.takeIn 0 pkt with
  | none => .next s
  | some (from_, t) =>
    let (p, t1) := t.servedBy from_
    match t1.rqtPass (8 + p.val) pkt.addr.toNat with
    | none => .next s
    | some t2 =>
      if t2.memDead then .next s
      else
        let g := t2.serveRd p pkt
        .next (g.s.answerTo pkt g.err { Packet.blank 2 pkt.tc.toNat 0 with payload := g.bytes })

/-- The cells a WR writes, offsets from its address; none when a masked payload is not N data bytes and N / 8 mask bytes
(R426). -/
def wrCells (k : Packet) : Option (List (Nat × Byte)) :=
  if (k.byte 24).getLsbD 0 then
    (if k.payload.length % 9 ≠ 0 then none
    else
      let n := k.payload.length / 9 * 8
      let mask := k.payload.drop n
      some ((cellsAt 0 (k.payload.take n)).filter fun c => (mask.getD (c.1 / 8) 0).getLsbD (c.1 % 8)))
  else some (cellsAt 0 k.payload)

/-- Bytes of the range a WR names. -/
def wrLength (k : Packet) : Nat := if (k.byte 24).getLsbD 0 then k.payload.length / 9 * 8 else k.payload.length

/-- The write a WR asks for. -/
def State.serveWr (s : State) (p : PortId) (k : Packet) : Got :=
  match wrCells k with
  | none => ⟨[], some .refused, s⟩
  | some cs =>
    match s.span s.ownDev k.addr.toNat (max 1 (wrLength k)) with
    | .cm off =>
      if !s.cmServed then ⟨[], some s.cmErr, s⟩
      else
        let r := s.storeCells (8 + p.val) (cs.map fun c => (off + c.1, c.2))
        ⟨[], if r.refused then some .ue else none, r.s⟩
    | .csp c off => s.cspWrite c (s.meshWho k) (cs.map fun x => (off + x.1, x.2))
    | .dbg c _ => ⟨[], some (if s.reachable c then .refused else .isolated), s⟩
    | .ext => ⟨[], some .refused, s⟩
    | .away => ⟨[], some .refused, s⟩
    | .refused => ⟨[], some .refused, s⟩

/-- WR: a WR request is applied and acknowledged once at both levels, or answered by ERR (R426). -/
def execWr (pkt : Packet) (s : State) : Host.Outcome State Fault Refusal :=
  match s.takeIn 1 pkt with
  | none => .next s
  | some (from_, t) =>
    let (p, t1) := t.servedBy from_
    match t1.rqtPass (8 + p.val) pkt.addr.toNat with
    | none => .next s
    | some t2 =>
      if t2.memDead then .next s
      else
        let g := t2.serveWr p pkt
        .next (g.s.answerTo pkt g.err { Packet.blank 3 pkt.tc.toNat 0 with spec := 3 })

/-! ### Answers to own requests (R441, R478) -/

/-- Free a tag by number. -/
def State.dropTag (s : State) (tag : BitVec 11) : State := { s with rqt := { s.rqt with tags := tdel s.rqt.tags tag.toNat } }

/-- A reply for a tag the RQT has reclaimed is dropped and counted (R478, R483). -/
def State.lateReply (s : State) (tag : BitVec 11) : State :=
  match takeFirst (fun (e : BitVec 11 × Tag) => e.1 == tag) s.rqt.late with
  | none => s
  | some (e, rest) =>
    let s1 := { s with rqt := { s.rqt with late := rest } }
    ((s1.bumpRf 5 0x110 32 32 1).pm 5 0x04 1).err 5 9 (BitVec.ofNat 64 (e.2.r + 2 ^ 4 * tag.toNat)) e.2.addr

/-- A reply arrives: a tag reclaimed earlier takes it as late; else `f` says what becomes of the tag in use. -/
def State.replyFor (s : State) (tag : BitVec 11) (f : Tag → State) : State :=
  if s.rqt.late.any (fun e => e.1 == tag) then s.lateReply tag
  else match tget none s.rqt.tags tag.toNat with
  | none => s
  | some g => f g

/-- One packet of a tag is answered: the tag is free once the last is (R441). -/
def State.answered (s : State) (tag : BitVec 11) (g : Tag) : State :=
  if g.sent ≤ 1 then s.dropTag tag
  else { s with rqt := { s.rqt with tags := tput none s.rqt.tags tag.toNat (some { g with sent := g.sent - 1 }) } }

/-- Whether nobody waits for the reply to a tag any more (R234, R291). -/
def State.forgotten (s : State) (g : Tag) : Bool := (s.core (Fin.ofNat 8 g.r)).forgot (Fin.ofNat 8 g.r) g

/-- RSP: a reply to an own read frees its tag; the bytes reach the requester with its own command (R441), or, where nobody
waits for them any more, only the CSC (R285, R291). -/
def execRsp (pkt : Packet) (s : State) : Host.Outcome State Fault Refusal :=
  match s.takeIn 2 pkt with
  | none => .next s
  | some (_, t) =>
    if t.memDead then .next s
    else .next (t.replyFor pkt.tag fun g =>
      let u := if t.forgotten g then t.cscOrphan g.r g.user pkt.addr.toNat pkt.payload.length (.data pkt.payload) else t
      u.answered pkt.tag g)

/-- The device acknowledgement of a tag's write has come (R302). -/
def State.deviceAck (s : State) (tag : BitVec 11) (g : Tag) : State :=
  let t := { s with rqt := { s.rqt with tags := tput none s.rqt.tags tag.toNat (some { g with dev := true }) } }
  match g.user with
  | .str c u req => t.postedDev c u req
  | _ => t

/-- The system acknowledgement of a tag's write has come: with the last of them the tag is free, and a write without ACK leaves
its unit (R283, R302). -/
def State.systemAck (s : State) (tag : BitVec 11) (g : Tag) : State :=
  match g.user with
  | .str c u req => if 1 < g.sent then s.answered tag g else (s.postedEnds c u req).dropTag tag
  | _ => s.answered tag g

/-- ACK: an acknowledgement of an own write, of the device, of the system or of both; the system's frees its tag (R302, R426,
R441). -/
def execAck (pkt : Packet) (s : State) : Host.Outcome State Fault Refusal :=
  match s.takeIn 3 pkt with
  | none => .next s
  | some (_, t) =>
    if t.memDead then .next s
    else .next (t.replyFor pkt.tag fun g =>
      let u := if (pkt.byte 24).getLsbD 0 then t.deviceAck pkt.tag g else t
      if (pkt.byte 24).getLsbD 1 then u.systemAck pkt.tag { g with dev := g.dev || (pkt.byte 24).getLsbD 0 } else u)

/-- A cache op other than FENCE waits for a line's write-back no more. -/
def CacheOp.lost (o : CacheOp) (line : Nat) : CacheOp :=
  if op32 (o.e.bits) = 10 then o else { o with wbs := o.wbs.filter (· != line) }

/-- A write-back of a core's cache is refused by its target: the page records it, and the task that runs aborts unless a host
command wrote the line back; a cache op waits for it no more (R311, R324, R325, log entry 120). -/
def State.writeBackRemote (s : State) (c : CoreId) (line cw op : Nat) : State :=
  let s1 := s.updCch c fun k => { k with op := k.op.map (CacheOp.lost · line) }
  if s.strLive c then s1.lineFails c 9 3 0x13 cw op line else s1.cchErr c 9 3 cw (op % 16) (op / 16) (128 * line)

/-- Whether the error reply to a TLU row must wait: an earlier op of the other kind has rows to come. -/
def State.errWaits (s : State) (g : Tag) : Bool :=
  match g.user with
  | .tlu c num _ => match s.tluOf c num with
    | some (i, o) => s.alive c && !(if o.store then s.storeTurn c i.val else s.rowTurn c i.val false)
    | none => false
  | _ => false

/-- What an error does to the requester of a tag (R128, R290, R311, R362, R371, R441); `loc` is the address it names. -/
def State.remoteErr (s : State) (g : Tag) (loc : Nat) (code : Byte) : State :=
  match g.user with
  | .tlu c num row => match s.tluOf c num with
    | some (op, o) =>
      if o.store then s.after (execTstRowAccept c (BitVec.ofNat 8 row) (.error code) s)
      else s.after (execTldRowReturn c op (BitVec.ofNat 8 row) (.error code) s)
    | none => s
  | .str c u req => s.after (execStreamReply c u req (.error code) s)
  | .cch c line cw op => s.writeBackRemote c line cw op
  | .image _ => s
  | .txLine slot gen line => s.txLineFails slot gen line 6
  | .txWord slot => s.after (execCommitWordAck slot (.error code) s)
  | .evx => if s.evx.phase = .idle then s else s.evWriteRemote (g.addr.toNat / 2 ^ 48) loc
  | .copy u => s.after (execCopyDone u s)
  | .port _ => s
  | .plain _ => s

/-- An error response to a send of a reduction group's entry: RDU_ERR.REMOTE on the home port and a step-log record, of the open
instance or, once it has closed, of the last (R400, log entry 118). -/
def State.redRemote (s : State) (g : GroupId) (i : Nat) : State :=
  let key := match (s.group g).inst with
    | some k => postKeyOf k.post
    | none => (s.group g).key.getD 0
  let step := key.toNat / 2 ^ 16
  let partner := s.partnerAt g i
  (s.rduErr (s.home g) 6 12 g.val i step partner).stepLog g 8 i (s.gid g + 2 ^ 16 * (key.toNat % 2 ^ 16)) step partner 0 0

/-- Whether an ERR of class 3 answers a MSG: it names its channel, or no request of that class holds its tag (R426, R440). -/
def State.answersMsg (s : State) (k : Packet) : Bool :=
  let holds := match tget none s.rqt.tags k.tag.toNat with
    | some g => reqClass (g.addr.toNat % 2 ^ 48) == 3
    | none => false
  k.tc == 3 && (k.byte 25 != 0 || (!holds && !s.rqt.late.any fun e => e.1 == k.tag))

/-- ERR: an error response to an own request frees its tag and reaches its requester (R343, R400, R441). The TAG of one to a MSG
names core and channel, that of one to a reduction record its group and entry (log entries 62, 118). -/
def execErr (pkt : Packet) (s : State) : Host.Outcome State Fault Refusal :=
  match s.takeIn 4 pkt with
  | none => .next s
  | some (_, t) =>
    let n := pkt.tag.toNat
    if t.memDead then .next s
    else if t.answersMsg pkt then
      let c : CoreId := Fin.ofNat 8 (n / 64)
      .next (if t.alive c && (t.core c).seq.causes.isEmpty then t.chnRemote c (n % 64) else t)
    else if pkt.tc = 1 then .next (t.redRemote (Fin.ofNat 64 n) (n / 64))
    else match tget none t.rqt.tags n with
      | none => .next (t.replyFor pkt.tag fun _ => t)
      | some g =>
        if t.errWaits g then .next s
        else .next (t.replyFor pkt.tag fun _ =>
          let u := if t.forgotten g then t.cscOrphan g.r g.user (128 * (pkt.addr.toNat / 128)) (2 ^ 16) (.error (pkt.byte 24)) else t
          (u.dropTag pkt.tag).remoteErr g pkt.addr.toNat (pkt.byte 24))

end Sys2Proof.Machine
end

