-- ==== Sys2Proof/Machine/Pages.lean ====
section
/-! DEFINITION. What every register of the cluster reads as (R487, R490, R493, R514 and the page tables): the states of
blocks, the common layout, and each block's registers as views of the state. -/

namespace Sys2Proof.Machine

/-! ### States of blocks (R490) -/

/-- A state's code. -/
def CoreState.code : CoreState → Nat
  | .off => 0
  | .idle => 1
  | .run => 2
  | .paused => 3
  | .drain => 4
  | .fenced => 5
  | .fault => 6

/-- A SEND waits for its acknowledgement. -/
def Chn.sending (k : Chn) : Bool := k.binds.any fun b => b.2.unacked.any fun u => u.e.isSome

/-- Whether an instruction or operation of an engine is in progress, by page number b of its core. -/
def State.busy (s : State) (c : CoreId) (b : Nat) : Bool :=
  let k := s.core c
  match b with
  | 1 => k.mxe.run.isSome || k.mxe.op.isSome || !k.mxe.drains.isEmpty
  | 2 => !k.vxe.acts.isEmpty
  | 3 => !k.trf.ops.isEmpty
  | 4 => k.str.units.toList.any fun u => !u.acts.isEmpty || u.ldpg.isSome
  | 5 => k.cch.op.isSome || k.cch.hostOp
  | 7 => k.chn.sending
  | _ => false

/-- Whether an engine holds queued work. -/
def State.queued (s : State) (c : CoreId) (b : Nat) : Bool :=
  let q := (s.core c).seq
  match b with
  | 1 => !q.mxq.isEmpty
  | 2 => !q.vxq.isEmpty
  | 3 => !q.lsq.isEmpty
  | 4 => q.stq.toList.any (fun l => !l.isEmpty) || (s.core c).str.units.toList.any (fun u => !u.dq.isEmpty)
  | 7 => !q.chq.isEmpty
  | _ => false

/-- Whether any started instruction of the core is in progress (R500). -/
def State.coreBusy (s : State) (c : CoreId) : Bool :=
  ([1, 2, 3, 4, 5, 7].any fun b => s.busy c b) || s.txu.slots.toList.any (fun t => t.tail.isSome && t.core == c && !t.orphan)
    || !(s.core c).seq.ldas.isEmpty || !(s.core c).seq.stas.isEmpty

/-- Whether an engine holds on configuration (R103, R134, R158, R320, R502). -/
def State.cfgHold (s : State) (c : CoreId) (b : Nat) : Bool :=
  let k := s.core c
  match b with
  | 1 => s.mayExam c && (match k.mxExam with
    | .cfg _ => true
    | _ => false)
  | 2 => s.mayExam c && (match s.vxExam c with
    | .cfg _ => true
    | _ => false)
  | 3 => s.mayExam c && (match s.lsExam c with
    | .cfg _ => true
    | _ => false)
  | 5 => s.wprBroken c
  | _ => false

/-- Whether an engine's pause has been reached, as its page keeps it (R501). -/
def State.engPaused (s : State) (page : Nat) : Bool := s.rf page 0x18 0 1 == 1

/-- STS.STATE of a page of a core, for a core that answers (R490). -/
def State.coreState (s : State) (c : CoreId) (b : Nat) : CoreState :=
  let st := (s.core c).seq.st
  if b = 0 then st
  else if st = .off ∨ st = .fenced then st
  else if (s.paused (corePage c b) && s.engPaused (corePage c b)) || st == .paused || s.cfgHold c b then .paused
  else if s.busy c b || s.queued c b then (if st = .drain then .drain else .run)
  else .idle

/-- Whether a transaction slot is in use. -/
def Txu.inUse (t : Txu) : Bool := t.slots.toList.any fun k => k.st != .free

/-- Whether a port holds packets, posts or an open instance. -/
def State.portBusy (s : State) (p : PortId) : Bool :=
  !(s.ports[p]).replay.isEmpty || decide (0 < (s.ports[p]).waiting) || !(s.posts[p]).isEmpty
    || (List.finRange 64).any fun g => s.home g == p && (s.group g).inst.isSome

/-- Whether a cluster block holds work (R490). -/
def State.clusterBusy (s : State) (page : Nat) : Bool :=
  match blockOf page with
  | some .csc => s.cscOp.isSome || s.cscBuf.any fun f => f.data.isNone
  | some .txu => s.txu.inUse || s.txu.copying
  | some .evx => s.evx.phase != .idle
  | some .rqt => s.rqt.tags.any fun e => e.2.isSome
  | some .ecm => s.ecm.op.isSome || s.ecm.copying || !s.ecm.ceQ.isEmpty || !s.ecm.ueQ.isEmpty
  | some .mp => s.portBusy (Fin.ofNat 4 (page - 8))
  | some .dbg => s.rf 15 0x100 3 1 == 1
  | _ => false

/-- STS.STATE of any page (R490). -/
def State.pageState (s : State) (page : Nat) : CoreState :=
  if page = 0 then s.ccu.st
  else if 0x40 ≤ page then
    let c := pageCore page
    if !s.present c then .off else if s.fenced c && (s.core c).seq.st != .off then .fenced else s.coreState c (page % 16)
  else if s.clusterBusy page then .run
  else .idle

/-! ### The common layout (R487) -/

/-- PID (R5, R487, R514). -/
def pidOf (page : Nat) (b : Block) : Nat :=
  pidType b + 3 * 2 ^ 24 + pageInstance page * 2 ^ 32 + 0x0300 * 2 ^ 40

/-- CAPS of a block, as its chapter gives it. -/
def capsOf (page : Nat) : Block → Nat
  | .ccu => 8 + 32 * 2 ^ 8 + 14 * 2 ^ 14
  | .cmc => 0
  | .csc => 16384 + 16 * 2 ^ 15
  | .txu => 64 + 32 * 2 ^ 7 + 7 * 2 ^ 13
  | .evx => 16 + 2 ^ 5
  | .rqt => 2048 + 13 * 2 ^ 12
  | .ecm => 84 + 8 * 2 ^ 7 + 64 * 2 ^ 11
  | .mp => pageInstance page + 2 ^ 2 + 16 * 2 ^ 3 + 33 * 2 ^ 8
  | .dbg => 255 + 13 * 2 ^ 8 + 2 ^ 12
  | .seq => 4096 + 3 * 2 ^ 13 + 8 * 2 ^ 16 + 8 * 2 ^ 20 + 15 * 2 ^ 24
  | .mxe => 0xF + 2 ^ 4 + 2 ^ 5 + 2 ^ 6 + 16 * 2 ^ 8
  | .vxe => 64 + 2 ^ 7 + 7 * 2 ^ 8 + 15 * 2 ^ 12 + 15 * 2 ^ 16
  | .trf => 16 + 2 ^ 5 + 2 ^ 6 + 8 * 2 ^ 8
  | .str => 4 + 16 * 2 ^ 4 + 16 * 2 ^ 9 + 2 ^ 14 + 2 ^ 15 + 8 * 2 ^ 16
  | .cch => 1024 + 8 * 2 ^ 11 + 8 * 2 ^ 15
  | .csp => 16 + 512 * 2 ^ 5 + 2 * 2 ^ 15
  | .chn => 64 + 8 * 2 ^ 7 + 13 * 2 ^ 11 + 2 ^ 15

/-- CTL as it reads: EN, PAUSE, FENCE (R487). -/
def State.ctlView (s : State) (page : Nat) : Nat :=
  if 0x40 ≤ page then
    let c := pageCore page
    bit (s.present c && (s.core c).seq.st != .off) + 2 * bit (s.paused page) + 4 * bit (s.fenced c)
  else 1

/-- STS as it reads: STATE, ACTIVE, RET (R487, R500). -/
def State.stsView (s : State) (page : Nat) : Nat :=
  let st := s.pageState page
  if 0x40 ≤ page then
    let c := pageCore page
    let b := page % 16
    let held := s.paused (pgSeq c) || s.paused page
    let active := held && (if b = 0 then s.coreBusy c else s.busy c b)
    st.code + 2 ^ 8 * bit (active && st != .off) + 2 ^ 9 * bit (st == .off && s.present c && (s.core c).seq.ret)
  else st.code

/-- ERR as it reads: the causes recorded, and CFG_PENDING unless ERR_MASK keeps it from being set (R487, R502). -/
def State.errView (s : State) (page : Nat) : Dword :=
  if 0x40 ≤ page ∧ s.cfgHold (pageCore page) (page % 16) = true ∧ bitAt (s.reg page 0x28) 1 = false then s.reg page 0x20 ||| 2
  else s.reg page 0x20

/-- ERR_SUM[i] (R493): bit j is 1 while a W1C bit of page 64i + j reads 1. -/
def State.errSum (s : State) (i : Nat) : Dword := maskOf 64 fun j => s.reg (64 * i + j) 0x20 != 0

/-! ### Arrays of registers -/

/-- The index of an offset in an array of `n` registers at `base` with the given stride. -/
def arrayAt (base stride n off : Nat) : Option Nat :=
  if base ≤ off ∧ off < base + stride * n ∧ (off - base) % stride = 0 then some ((off - base) / stride) else none

/-- A husked register as it reads (R495). -/
def State.huskView (s : State) (page off : Nat) : Dword := husked ((s.reg page off).setWidth 32)

/-- A register field with a least value. -/
def State.atLeast (s : State) (page off lo w m : Nat) : Nat := max m (s.rf page off lo w)

/-! ### CCU and DBG (R264, R510, R513) -/

/-- Registers of the CCU page. -/
def State.ccuView (s : State) (off : Nat) : Dword :=
  if off = 0x100 then husked (s.fuses.present.setWidth 32)
  else if off = 0x108 ∨ off = 0x188 ∨ off = 0x210 ∨ off = 0x218 then s.huskView 0 off
  else if off = 0x150 then BitVec.ofNat 64 s.window
  else if off = 0x160 then BitVec.ofNat 64 (s.atLeast 0 0x160 0 16 2048)
  else if off = 0x180 then BitVec.ofNat 64 (s.rf 0 0x180 0 18 + 2 ^ 18 * s.tlistLog2)
  else if off = 0x190 then BitVec.ofNat 64 (s.atLeast 0 0x190 0 16 64)
  else if off = 0x1B8 then BitVec.ofNat 64 (s.ccu.step + 2 ^ 3 * bit s.ccu.readyS)
  else if off = 0x1C0 then s.ccu.cyc
  else if off = 0x1C8 then BitVec.ofNat 64 (2 * bit s.ccu.mirroring + 2 ^ 2 * (s.ccu.mirrorNext.toNat % 512))
  else if off = 0x400 then s.ccu.cf.setWidth 64
  else match arrayAt 0x110 8 8 off with
  | some c => s.fenceReason (Fin.ofNat 8 c)
  | none =>
    match arrayAt 0x240 8 4 off with
    | some i => s.errSum i
    | none => s.reg 0 off

/-- Registers of the DBG page. -/
def State.dbgView (s : State) (off : Nat) : Dword :=
  let e := 2 * s.rf 15 0x1C8 0 8
  if off = 0x1C8 then BitVec.ofNat 64 (s.rf 15 0x1C8 0 8 + 2 ^ 8 * s.ccu.traceWp.toNat)
  else if off = 0x1D0 then tget 0 s.ccu.trace e
  else if off = 0x1D8 then tget 0 s.ccu.trace (e + 1)
  else match arrayAt 0x108 8 14 off with
  | some i => (vget none s.snap i).getD 0
  | none => s.reg 15 off

/-! ### Memory-island and CCU-island blocks (R327, R376, R380, R423, R481, R483) -/

/-- Registers of the CMC page. -/
def State.cmcView (s : State) (off : Nat) : Dword :=
  if off = 0x100 then BitVec.ofNat 64 s.bondSts
  else if off = 0x108 then BitVec.ofNat 64 (s.bondLimit + 2 ^ 8 * s.rf 1 0x108 8 1)
  else if off = 0x110 then s.huskView 1 off
  else if off = 0x120 then
    let b := s.bondGroup (s.rf 1 0x118 0 8)
    BitVec.ofNat 64 (b.spares + 2 ^ 4 * bit b.retired + 2 ^ 5 * bit b.out + 2 ^ 6 * b.last.toNat)
  else s.reg 1 off

/-- Registers of the CSC page. -/
def State.cscView (s : State) (off : Nat) : Dword :=
  if off = 0x100 then BitVec.ofNat 64 (2 * bit s.cscOp.isSome)
  else if off = 0x108 then BitVec.ofNat 64 s.csc.length
  else s.reg 2 off

/-- STATE of a slot (R351). -/
def SlotState.code : SlotState → Nat
  | .free => 0
  | .open_ => 1
  | .doomed => 2
  | .committing => 3

/-- Slots in a state for which `p` holds. -/
def Txu.count (t : Txu) (p : SlotState → Bool) : Nat := (t.slots.toList.filter fun k => p k.st).length

/-- CORE_TX[c] (R376). -/
def State.coreTx (s : State) (c : CoreId) : Nat :=
  match s.txu.heldBy c with
  | none => 2 ^ 12 * bit s.txu.mode[c]
  | some i =>
    let k := s.txu.slots[i]
    s.txu.handle i + 2 ^ 12 * bit s.txu.mode[c] + 2 ^ 13 * bit (k.st == .doomed) + 2 ^ 14 * k.lines + 2 ^ 20 * k.reason.toNat

/-- SLOT[i] (R376). -/
def TxSlot.view (k : TxSlot) : Nat :=
  k.gen.toNat + 2 ^ 6 * k.st.code + 2 ^ 8 * k.core.val + 2 ^ 11 * k.lines + 2 ^ 32 * k.age.toNat

/-- Registers of the TXU page. -/
def State.txuView (s : State) (off : Nat) : Dword :=
  if off = 0x100 then
    BitVec.ofNat 64 (s.txu.count (fun x => x == .open_ || x == .doomed) + 2 ^ 7 * s.txu.count (· == .committing)
      + 2 ^ 14 * (s.txu.lines.filter (!·.committing)).length)
  else if off = 0x110 then BitVec.ofNat 64 (s.atLeast 3 0x110 0 5 10)
  else if off = 0x128 then BitVec.ofNat 64 (2 * bit s.txu.copying + 2 ^ 2 * s.rf 3 0x128 2 12)
  else match arrayAt 0x140 8 8 off with
  | some c => BitVec.ofNat 64 (s.coreTx (Fin.ofNat 8 c))
  | none =>
    match arrayAt 0x200 8 64 off with
    | some i => BitVec.ofNat 64 s.txu.slots[(Fin.ofNat 64 i : SlotId)].view
    | none => s.reg 3 off

/-- Registers of the EVX page. -/
def State.evxView (s : State) (off : Nat) : Dword :=
  if off = 0x100 ∨ off = 0x120 ∨ off = 0x128 ∨ off = 0x130 ∨ (0x140 ≤ off ∧ off < 0x2C0 ∧ off % 8 = 0) then s.huskView 4 off
  else if off = 0x108 then
    let sc := s.rf 4 0x108 2 3
    BitVec.ofNat 64 (s.evClasses + 2 ^ 2 * (if sc = 3 then 3 else 4))
  else if off = 0x110 then s.evSts
  else s.reg 4 off

/-- Registers of the RQT page. -/
def State.rqtView (s : State) (off : Nat) : Dword :=
  if off = 0x100 then BitVec.ofNat 64 (s.rqt.tags.length + 2 ^ 12 * s.rf 5 0x100 12 12)
  else if off = 0x108 then BitVec.ofNat 64 (s.atLeast 5 0x108 0 5 16)
  else match arrayAt 0x140 8 13 off with
  | some r => BitVec.ofNat 64 (s.rqt.used r + 2 ^ 12 * s.rf 5 off 12 12)
  | none => s.reg 5 off

/-- Registers of the ECM page. -/
def State.ecmView (s : State) (off : Nat) : Dword :=
  let g := s.rf 6 0x128 0 7
  if off = 0x100 then
    BitVec.ofNat 64 (s.atLeast 6 0x100 0 4 1 + 2 ^ 4 * s.rf 6 0x100 4 9)
  else if off = 0x108 then BitVec.ofNat 64 (s.atLeast 6 0x108 0 8 1 + 2 ^ 8 * s.atLeast 6 0x108 8 8 1)
  else if off = 0x130 then husked (s.remap g (s.rf 6 0x128 7 3))
  else if off = 0x138 then
    let used := fun (h : Nat) => ((List.range 8).filter fun k => remapValid (s.remap h k)).length
    BitVec.ofNat 64 (bit s.ecm.op.isSome + 2 * (8 - used g) + 2 ^ 5 * ((List.range 96).map used).sum)
  else if off = 0x150 then s.huskView 6 off
  else if off = 0x160 then BitVec.ofNat 64 (2 * bit s.ecm.copying + 2 ^ 2 * s.rf 6 0x160 2 9)
  else s.reg 6 off

/-! ### Mesh ports and RDUs (R415, R416, R448, R449) -/

/-- LINK_STS.STATE (R448). -/
def LinkState.code : LinkState → Nat
  | .down => 0
  | .hello => 1
  | .up => 2
  | .failed => 3
  | .disabled => 4
  | .miswire => 5

/-- GSTS of the group GSEL names on a page (R415). -/
def State.gsts (s : State) (g : GroupId) : Nat :=
  let x := s.group g
  match x.inst with
  | none => bit x.en
  | some k =>
    let st := match k.st with
      | .waitLead => 2
      | .adding _ _ _ => 2
      | .waitReq => 2
      | .waitResult => 3
      | .deliver => 4
    st + 2 ^ 3 * k.entry + 2 ^ 8 * (k.hdr.count % 2 ^ 24) + 2 ^ 32 * postStep k.post

/-- GSTS2 of a group (R415). -/
def State.gsts2 (s : State) (g : GroupId) : Nat :=
  let x := s.group g
  let b := match x.inst with
    | none => 0
    | some k => postBucket k.post
  b + 2 ^ 16 * bit x.req.isSome + 2 ^ 17 * bit x.kept.isSome

/-- Whether this RDU is adding a contribution that enters by its port (R383). -/
def State.adding (s : State) (p : PortId) : Bool := (List.finRange 64).any fun g => (match (s.group g).inst with
  | none => false
  | some k => match k.st with
    | .adding _ q _ => q == p
    | .waitLead => false
    | .waitReq => false
    | .waitResult => false
    | .deliver => false)

/-- Registers of a port's page. -/
def State.mpView (s : State) (p : PortId) (off : Nat) : Dword :=
  let pg := pgMp p
  let q := s.ports[p]
  let g : GroupId := Fin.ofNat 64 (s.rf pg 0x548 0 6)
  if off = 0x100 then
    BitVec.ofNat 64 (s.rf pg 0x100 0 1 + 2 ^ 2 * s.atLeast pg 0x100 2 5 10 + 2 ^ 7 * s.hoplim p)
  else if off = 0x108 then
    BitVec.ofNat 64 (q.link.code + 2 ^ 3 * s.rf pg 0x110 27 1 + 2 ^ 4 * q.replay.length + 2 ^ 9 * q.nextSeq.toNat
      + 2 ^ 25 * min 16 q.retries)
  else if off = 0x118 then BitVec.ofNat 64 (s.wrr p 0 + 2 ^ 8 * s.wrr p 1 + 2 ^ 16 * s.wrr p 2)
  else if off = 0x120 then
    BitVec.ofNat 64 (q.credits[0] % 32 + 2 ^ 5 * q.credits[1] + 2 ^ 13 * q.credits[2] + 2 ^ 21 * q.credits[3])
  else if off = 0x150 then s.huskView 8 off
  else if (arrayAt 0x180 8 16 off).isSome then s.huskView 8 off
  else if (arrayAt 0x300 8 64 off).isSome then
    let v := s.reg 8 off
    husked ((if !bitAt v 0 && decide (16 < fld v 17 5) then setFld v 17 5 16 else v).setWidth 32)
  else if (arrayAt 0x200 8 32 off).isSome then
    let v := s.reg 8 off
    husked ((if memwinOn v.toNat then v else setBit v 30 false).setWidth 32)
  else if off = 0x500 then BitVec.ofNat 64 (s.atLeast pg 0x500 0 5 10)
  else if off = 0x508 then
    BitVec.ofNat 64 ((s.posts[p]).length + 2 ^ 5 * ((List.finRange 64).filter fun g => s.home g == p && (s.group g).inst.isSome).length
      + 2 ^ 12 * bit (s.adding p))
  else if off = 0x510 then husked ((setBit (s.reg 8 0x510) 20 s.slogOn).setWidth 32)
  else if off = 0x518 then s.reg 8 off
  else if off = 0x550 then BitVec.ofNat 64 (s.gsts g)
  else if off = 0x558 then BitVec.ofNat 64 (s.gsts2 g)
  else if 0x5C0 ≤ off ∧ off < 0x600 then 0
  else match arrayAt 0x600 8 320 off with
  | none => s.reg pg off
  | some i =>
    if i % 5 = 0 then husked ((setBit (s.reg 8 off) 18 (s.group (Fin.ofNat 64 (i / 5))).en).setWidth 32) else s.huskView 8 off

/-! ### Pages of a core (R109, R138, R181, R198, R242, R263, R296, R325, R326, R349) -/

/-- Whether the task a core still holds is being aborted by CTL.SRST, whose first step has reset its status fields (R489). -/
def State.hostAbort (s : State) (c : CoreId) : Bool :=
  (s.core c).seq.causes.any (·.host) || ((s.core c).seq.abortTask && s.rf (pgSeq c) 0x1A0 44 1 == 1)

/-- TASK (R242). -/
def State.taskView (s : State) (c : CoreId) : Nat :=
  match (s.core c).seq.task with
  | none => 0
  | some t =>
    if s.hostAbort c then 0
    else t.id.toNat + 2 ^ 16 * bit t.train + 2 ^ 17 * bit t.checked + 2 ^ 18 * t.wdog.toNat + 2 ^ 23 * t.start.toNat

/-- SEED (R242). -/
def State.seedView (s : State) (c : CoreId) : Dword :=
  match (s.core c).seq.task with
  | none => 0
  | some t => if s.hostAbort c then 0 else t.seed

/-- Active loop level n, outermost first (R242). -/
def LoopLevel.view (l : LoopLevel) : Nat :=
  l.remain.toNat + 2 ^ 24 * l.start.toNat + 2 ^ 36 * l.end_.toNat + 2 ^ 48 * l.callD

/-- Registers of the SEQ page. -/
def State.seqView (s : State) (c : CoreId) (off : Nat) : Dword :=
  let pg := pgSeq c
  let q := (s.core c).seq
  if off = 0x108 then q.pc.setWidth 64
  else if off = 0x110 then BitVec.ofNat 64 (bit q.z + 2 * bit q.n + 4 * bit q.c)
  else if off = 0x118 then BitVec.ofNat 64 (q.loops.length + 2 ^ 3 * q.rstk.length)
  else if off = 0x180 then BitVec.ofNat 64 (s.taskView c)
  else if off = 0x188 then s.seedView c
  else if off = 0x190 then q.wdogCnt
  else if off = 0x198 then BitVec.ofNat 64 (s.atLeast pg 0x198 0 5 10)
  else if off = 0x300 then q.flags
  else if off = 0x318 then q.lf.setWidth 64
  else if off = 0x320 then q.shadow.setWidth 64
  else if off = 0x328 then
    setBit (setBit (s.reg pg off) 32 q.takePend) 33 (!q.held.isEmpty)
  else match arrayAt 0x120 8 4 off with
  | some n => BitVec.ofNat 64 ((q.loops[n]?.map LoopLevel.view).getD 0)
  | none =>
    match arrayAt 0x140 8 8 off with
    | some i => BitVec.ofNat 64 ((q.rstk[i]?.map fun r => r.ret.toNat + 2 ^ 12 * r.ldepth).getD 0)
    | none =>
      match arrayAt 0x200 8 16 off with
      | some i => (vget 0 q.a i).setWidth 64
      | none =>
        match arrayAt 0x340 8 16 off with
        | some n => (vget 0 q.cnt n).setWidth 64
        | none => s.reg pg off

/-- STATE of a bank (R109). -/
def BankState.code : BankState → Nat
  | .empty => 0
  | .busy => 1
  | .held => 2
  | .draining => 3

/-- FTQ_META (R109). -/
def FtqSlot.view (x : FtqSlot) : Nat :=
  x.tid.toNat + 2 ^ 6 * x.row0.toNat + 2 ^ 15 * x.col0.toNat + 2 ^ 24 * x.pass.toNat + 2 ^ 28 * bit x.lr
    + 2 ^ 29 * bit x.valid + 2 ^ 30 * bit x.int + 2 ^ 31 * bit x.chain + 2 ^ 32 * x.seq.toNat + 2 ^ 48 * x.shape.toNat

/-- Registers of the MXE page. -/
def State.mxeView (s : State) (c : CoreId) (off : Nat) : Dword :=
  let m := (s.core c).mxe
  if off = 0x100 then BitVec.ofNat 64 (m.shape.toNat + 2 ^ 32 * s.rf (pgMxe c) 0x100 32 32)
  else if off = 0x108 then
    BitVec.ofNat 64 (m.banks[0].st.code + 2 ^ 2 * m.banks[1].st.code + 2 ^ 4 * m.banks[0].pass.toNat
      + 2 ^ 8 * m.banks[1].pass.toNat)
  else if off = 0x110 then BitVec.ofNat 64 (bit m.chain + 2 * bit (s.checkedTask c) + 4 * bit m.held.valid)
  else if off = 0x128 then BitVec.ofNat 64 (bit m.sb[0].valid + 2 * bit m.sb[1].valid)
  else if off = 0x140 then
    BitVec.ofNat 64 ((m.ftq.toList.filter (·.valid)).length
      + 2 ^ 3 * (maskOf 4 fun i => (vget FtqSlot.empty m.ftq i).rsv).toNat + 2 ^ 16 * m.nextPush.toNat
      + 2 ^ 32 * m.nextPop.toNat)
  else match arrayAt 0x148 8 4 off with
  | some i => BitVec.ofNat 64 (vget FtqSlot.empty m.ftq i).view
  | none => s.reg (pgMxe c) off

/-- Registers of the VXE page. -/
def State.vxeView (s : State) (c : CoreId) (off : Nat) : Dword :=
  let pg := pgVxe c
  let v := (s.core c).vxe
  let table := s.rf pg 0x180 0 4
  let group := s.rf pg 0x180 4 5
  let row := s.rf pg 0x190 0 8
  let pair := fun (i : Nat) => tget 0 v.rss (4 * row + i + 1) ++ tget 0 v.rss (4 * row + i)
  if off = 0x100 then
    let act := match v.acts with
      | [] => 0
      | a :: _ => 2 ^ 4 + 2 ^ 8 * vxChain a.e.bits + 2 ^ 12 * (a.n - a.rd)
    BitVec.ofNat 64 ((s.core c).seq.vxq.length + act)
  else if off = 0x108 then BitVec.ofNat 64 (bit v.anyNan + 2 * bit v.anyInf + 4 * bit v.allZero + 8 * bit v.ovf)
  else if off = 0x110 then v.p.setWidth 64
  else if off = 0x188 then BitVec.ofNat 64 (leNat (tgets 0 v.pt (256 * table + 8 * group) 8))
  else if off = 0x198 then pair 0
  else if off = 0x1A0 then pair 2
  else match arrayAt 0x140 8 8 off with
  | some n => vget 0 v.vsum n
  | none => s.reg pg off

/-- Registers of the TRF page. -/
def State.trfView (s : State) (c : CoreId) (off : Nat) : Dword :=
  let k := (s.core c).trf
  if off = 0x200 then BitVec.ofNat 64 (s.atLeast (pgTrf c) 0x200 0 5 10)
  else if off = 0x208 then
    BitVec.ofNat 64 ((s.core c).seq.lsq.length + 2 ^ 4 * bit (!k.ops.isEmpty)
      + 2 ^ 8 * ((k.ops.map fun o => o.pend.length).sum % 256)
      + 2 ^ 16 * (maskOf 16 fun t => (vget TileCfg.zero k.tiles t).valid).toNat)
  else match arrayAt 0x100 8 16 off with
  | some t => BitVec.ofNat 64 (vget TileCfg.zero k.tiles t).bits
  | none =>
    match arrayAt 0x180 8 16 off with
    | some t => vget 0 k.poison t
    | none => s.reg (pgTrf c) off

/-- UNIT_STS (R296). -/
def StrUnit.view (u : StrUnit) : Nat :=
  let pc := match u.acts.getLast? with
    | none => 0
    | some a => a.ag.pc
  u.dq.length + 2 ^ 5 * bit (!u.acts.isEmpty) + 2 ^ 6 * (u.out % 256) + 2 ^ 14 * (pc % 16) + 2 ^ 32 * u.done.toNat

/-- Registers of the STR page. -/
def State.strView (s : State) (c : CoreId) (off : Nat) : Dword :=
  let pg := pgStr c
  let k := (s.core c).str
  if off = 0x120 then
    let t := match k.tbuf with
      | none => 0
      | some u => 2 ^ 10 + 2 ^ 11 * u.val
    BitVec.ofNat 64 (s.coreOut c + t)
  else if off = 0x128 then
    BitVec.ofNat 64 (s.rf pg 0x128 0 19 + 2 ^ 19 * bit (s.lbufOn c) + 2 ^ 20 * bit k.cur + 2 ^ 32 * k.swaps.toNat)
  else if off = 0x130 then BitVec.ofNat 64 (min 512 (s.rf pg 0x130 0 10))
  else match arrayAt 0x100 8 4 off with
  | some u => BitVec.ofNat 64 (k.units[(Fin.ofNat 4 u : UnitId)]).view
  | none => s.reg pg off

/-- Registers of the CCH page. -/
def State.cchView (s : State) (c : CoreId) (off : Nat) : Dword :=
  let k := (s.core c).cch
  if off = 0x100 then BitVec.ofNat 64 (4 * bit k.hostOp)
  else if off = 0x108 then BitVec.ofNat 64 (k.lines.length + 2 ^ 11 * (k.lines.filter fun l => l.dirty != 0).length)
  else if off = 0x110 ∨ (0x140 ≤ off ∧ off < 0x200 ∧ off % 8 = 0) then s.huskView (pgCch c) off
  else s.reg (pgCch c) off

/-- Registers of the CSP page. -/
def State.cspView (s : State) (c : CoreId) (off : Nat) : Dword :=
  let pg := pgCsp c
  if off = 0x100 then s.huskView pg off
  else match arrayAt 0x300 0x20 2 off with
  | some n => BitVec.ofNat 64 (s.rf pg off 0 19 + 2 ^ 19 * bit (s.ringOn c n))
  | none => s.reg pg off

/-- Messages of a channel that await acknowledgement. -/
def Binding.unackedNow (b : Binding) : Nat := (b.unacked.filter fun u => !u.pad).length

/-- Registers of the CHN page. -/
def State.chnView (s : State) (c : CoreId) (off : Nat) : Dword :=
  let pg := pgChn c
  let k := (s.core c).chn
  if off = 0x100 then BitVec.ofNat 64 (s.atLeast pg 0x100 0 5 10)
  else if off = 0x108 then
    BitVec.ofNat 64 ((s.core c).seq.chq.length + 2 ^ 4 * bit k.sending
      + 2 ^ 8 * ((k.binds.map fun b => b.2.unackedNow).sum % 256))
  else match arrayAt 0x140 0x20 8 off with
  | some p => let q := k.port p; BitVec.ofNat 64 (q.record.toNat + 2 ^ 32 * bit q.armed)
  | none =>
    match arrayAt 0x148 0x20 8 off with
    | some p =>
      let q := k.port p
      let held := q.log.filter fun r => !r.rel
      BitVec.ofNat 64 (held.length % 256 + 2 ^ 8 * ((held.map (·.units)).sum % 256) + 2 ^ 16 * s.rf pg off 16 32)
    | none =>
      match arrayAt 0x400 0x10 64 off with
      | some n => (k.bind n).record
      | none =>
        match arrayAt 0x408 0x10 64 off with
        | some n =>
          let b := k.bind n
          BitVec.ofNat 64 (b.credits % 256 + 2 ^ 8 * (b.wp % 128) + 2 ^ 15 * bit b.bound + 2 ^ 16 * bit b.stale
            + 2 ^ 17 * (b.unackedNow % 256))
        | none => s.reg pg off

/-! ### Any register -/

/-- A register beyond the common layout of a page (R514). -/
def State.blockView (s : State) (page off : Nat) : Block → Dword
  | .ccu => s.ccuView off
  | .cmc => s.cmcView off
  | .csc => s.cscView off
  | .txu => s.txuView off
  | .evx => s.evxView off
  | .rqt => s.rqtView off
  | .ecm => s.ecmView off
  | .mp => s.mpView (Fin.ofNat 4 (page - 8)) off
  | .dbg => s.dbgView off
  | .seq => s.seqView (pageCore page) off
  | .mxe => s.mxeView (pageCore page) off
  | .vxe => s.vxeView (pageCore page) off
  | .trf => s.trfView (pageCore page) off
  | .str => s.strView (pageCore page) off
  | .cch => s.cchView (pageCore page) off
  | .csp => s.cspView (pageCore page) off
  | .chn => s.chnView (pageCore page) off

/-- What the block reads at an offset of its page; an offset no map defines reads 0 (R486, R487). -/
def State.view (s : State) (page off : Nat) : Dword :=
  match blockOf page with
  | none => 0
  | some b =>
    if off % 8 ≠ 0 then 0
    else if off = 0 then BitVec.ofNat 64 (pidOf page b)
    else if off = 0x08 then BitVec.ofNat 64 (capsOf page b)
    else if off = 0x10 then BitVec.ofNat 64 (s.ctlView page)
    else if off = 0x18 then BitVec.ofNat 64 (s.stsView page)
    else if off = 0x20 then s.errView page
    else if off = 0x40 then BitVec.ofNat 64 (s.atLeast page 0x40 0 5 10)
    else if off < 0x100 then s.reg page off
    else s.blockView page off b

/-- What the page shell reads by itself (R499, R504): its copy of PID, CAPS, CTL and STS, and 0 elsewhere. -/
def State.shellView (s : State) (page off : Nat) : Dword :=
  match blockOf page with
  | none => 0
  | some b =>
    if off = 0 then BitVec.ofNat 64 (pidOf page b)
    else if off = 0x08 then BitVec.ofNat 64 (capsOf page b)
    else if off = 0x10 then BitVec.ofNat 64 (s.ctlView page)
    else if off = 0x18 then BitVec.ofNat 64 (s.stsView page)
    else 0

end Sys2Proof.Machine
end

