-- ==== Sys2Proof/Machine/SoftReset.lean ====
section
/-! DEFINITION. Pausing, soft reset and single stepping (R489, R494, R500, R501, R512). -/

namespace Sys2Proof.Machine

/-! ### Pausing (R500, R501, R512) -/

/-- A PAUSED core runs again: RUN or the drain it stood in with a task held, IDLE and claiming without (R225, R500). -/
def State.resume (s : State) (c : CoreId) : State :=
  let q := (s.core c).seq
  if q.st ≠ .paused then s
  else if q.task.isSome then
    s.updSeq c fun q => { q with st := if q.draining.isSome || q.abortTask then .drain else .run, stepping := false }
  else if q.dispatch = .none then s.becomeIdle c
  else s.updSeq c fun q => { q with st := .idle, stepping := false }

/-- A write of CTL.PAUSE on an SEQ page (R500): with no task held the core is PAUSED at once. -/
def State.pauseCore (s : State) (c : CoreId) (v : Bool) : State :=
  let s1 := s.setRf (pgSeq c) 0x10 1 1 (bit v)
  if v then
    (if (s1.core c).seq.st = .idle ∧ (s1.core c).seq.task = none then s1.updSeq c fun q => { q with st := .paused } else s1)
  else s1.resume c

/-- A write of CTL.PAUSE on another page of a core (R501): STATE becomes PAUSED once nothing is in progress. -/
def State.pauseEngine (s : State) (c : CoreId) (b : Nat) (v : Bool) : State :=
  let pg := corePage c b
  let s1 := s.setRf pg 0x10 1 1 (bit v)
  s1.setRf pg 0x18 0 1 (bit (v && !s1.busy c b))

/-- PAUSE_REACHED: the last started instruction of a paused core or engine has completed; its STATE becomes PAUSED (R500,
R501). -/
def execPauseReached (c : CoreId) (block : Fin 8) (s : State) : Host.Outcome State Fault Refusal :=
  let q := (s.core c).seq
  if !s.alive c then .next s
  else if block.val = 0 then
    if s.paused (pgSeq c) && !q.stepping && (q.st == .run || (q.st == .drain && !q.abortTask)) && q.causes.isEmpty
        && !s.coreBusy c then
      .next (s.updSeq c fun q => { q with st := .paused })
    else .next s
  else if s.paused (corePage c block.val) && !s.busy c block.val then .next (s.setRf (corePage c block.val) 0x18 0 1 1)
  else .next s

/-- STEP of one core (R512): a PAUSED core that holds a task runs until it has issued one word. -/
def State.stepCore (s : State) (c : CoreId) : State :=
  let q := (s.core c).seq
  if q.st = .paused ∧ q.task.isSome = true then
    s.updSeq c fun q => { q with st := if q.draining.isSome then .drain else .run, stepping := true }
  else s

/-- What a write of STEP does. -/
def State.stepCores (s : State) (v : Dword) : State :=
  (List.finRange 8).foldl (fun t c => if bitAt v c.val && !(vget false t.stopped c.val) then t.stepCore c else t) s

/-! ### Soft reset of a core's blocks (R489) -/

/-- Read-only status registers of a core's page that live in the register file. -/
def softOffsets : Nat → List Nat
  | 0 => [0x18, 0x1A0, 0x1A8, 0x1D8, 0x1E0, 0x1E8, 0x1F0, 0x440]
  | 1 => [0x18, 0x100, 0x120]
  | 2 => [0x18, 0x118, 0x1F8]
  | 3 => [0x18, 0x210]
  | 4 => [0x18, 0x140]
  | 5 => [0x18, 0x118, 0x120]
  | 6 => [0x18, 0x108, 0x110, 0x308, 0x310, 0x318, 0x328, 0x330, 0x338]
  | _ => [0x18]

/-- The SEQ page's soft reset (R489): the status fields are reset; a held task is aborted with WATCHDOG and HOST, which sets
ERR.WDOG (R239), and its held signals wait for its end report (R255). The shadow of the cluster flags stays, as R245 needs it. -/
def State.softSeq (s : State) (c : CoreId) : State :=
  let q := (s.core c).seq
  let s1 := (s.resetRegs (pgSeq c) (softOffsets 0).contains).updSeq c fun q =>
    { q with
      pc := 0
      z := false
      n := false
      c := false
      loops := []
      rstk := []
      wdogCnt := 0
      flags := 0
      lf := 0
      held := if q.holds then q.held else [] }
  if q.holds then
    if q.st = .fault then s1.updSeq c fun q => { q with st := .drain } else (s1.seqErr c 10 0x0A 0 0 0 0 0).cause c 0x0A true
  else if q.st = .fault ∨ (q.st = .paused ∧ s.paused (pgSeq c) = false) then s1.becomeIdle c
  else s1

/-- The soft reset of an engine's page (R489): queues and operations are discarded and read-only status returns to its reset
value; RW and RWH fields, W1C marks and the CHN's counters stay. -/
def State.softEngine (s : State) (c : CoreId) (b : Nat) : State :=
  let s1 : State := s.resetRegs (corePage c b) (softOffsets b).contains
  let s2 : State := match b with
    | 1 => s1.updCore c fun (k : Core) =>
        { k with
          mxe := { Mxe.reset with shape := k.mxe.shape, shapeSrc := k.mxe.shapeSrc }
          seq := { k.seq with mxq := [] } }
    | 2 => s1.updCore c fun (k : Core) => { k with vxe := { Vxe.reset with pt := k.vxe.pt }, seq := { k.seq with vxq := [] } }
    | 3 => s1.updCore c fun k =>
        { k with
          trf := { k.trf with
            tiles := k.trf.tiles.map fun x => { x with src := false }, poison := Vector.replicate 16 0, ops := [] }
          seq := { k.seq with lsq := [] } }
    | 4 => s1.updCore c fun k => { k with str := { Str.reset with reqs := k.str.reqs, units := k.str.units.map fun u => { StrUnit.reset with posted := u.posted } }, seq := { k.seq with stq := Vector.replicate 4 [] } }
    | 5 => s1.updCch c fun k => { Cch.reset with gen := k.gen }
    | 7 => s1.updCore c fun k =>
        { k with
          chn := { k.chn with
            ports := k.chn.ports.map fun p => { p with armed := false, record := 0, log := [] }
            binds := k.chn.binds.map fun e =>
              (e.1, { e.2 with record := 0, credits := 0, wp := 0, bound := false, unacked := [] }) }
          seq := { k.seq with chq := [] } }
    | _ => s1
  s2.sweepTags c

/-- Whether CTL.SRST is accepted on another page of a core (R489). -/
def State.softCoreOk (s : State) (c : CoreId) : Bool :=
  let q := (s.core c).seq
  q.st == .idle || q.st == .fenced || (q.st == .paused && !q.holds)

/-! ### Soft reset of a cluster block (R489) -/

/-- Read-only status registers of a cluster block's page that live in the register file; the RDU's among them. -/
def softCluster : Block → List Nat
  | .cmc => [0x128]
  | .csc => [0x110]
  | .txu => [0x118, 0x128]
  | .evx => [0x138, 0x300]
  | .rqt => 0x110 :: 0x100 :: (List.range 13).map (0x140 + 8 * ·)
  | .ecm => [0x110, 0x118, 0x120, 0x160]
  | .mp => [0x110, 0x128, 0x130, 0x138, 0x140, 0x528, 0x530, 0x538, 0x540]
  | _ => []

/-- A cluster block's soft reset: it holds no work, so what it discards is what no operation owns (R489). -/
def State.softBlock (s : State) (page : Nat) (b : Block) : State :=
  let s1 := s.resetRegs page (softCluster b).contains
  match b with
  | .csc => { s1 with csc := [] }
  | .txu => { s1 with txu := { s1.txu with slots := Vector.replicate 64 TxSlot.free } }
  | .evx => { s1 with evx := Evx.reset }
  | .rqt => { s1 with rqt := { s1.rqt with late := [] } }
  | .ecm => (s1.setRf 6 0x158 1 1 0)
  | .mp =>
    let p : PortId := Fin.ofNat 4 (page - 8)
    let s2 := s1.updPort p fun q => { Port.reset with link := if q.link = .disabled then .disabled else .down }
    if p = 0 then s2.setReg 8 0x518 0 else s2
  | .dbg => { (s1.setRf 15 0x100 3 1 0) with
      snap := Vector.replicate 14 none, ccu := { s1.ccu with trace := [], traceWp := 0 } }
  | _ => s1

/-- CTL.SRST on any page: the write outcome and the state (R489). -/
def State.softReset (s : State) (page : Nat) : Nat × State :=
  match blockOf page with
  | none => (3, s)
  | some b =>
    if page = 0 then (0, s)
    else if 0x40 ≤ page then
      let c := pageCore page
      if page % 16 = 0 then (0, s.softSeq c)
      else if s.softCoreOk c then (0, s.softEngine c (page % 16))
      else (1, s.errBit page 2)
    else if s.clusterBusy page then (1, s.errBit page 2)
    else (0, s.softBlock page b)

end Sys2Proof.Machine
end

