-- ==== Sys2Proof/Machine/Power.lean ====
section
/-! DEFINITION. Power states, resets, start-up and the test wrapper (R515 to R532). -/

namespace Sys2Proof.Machine

/-! ### Writing arrays with zero (R519, R527) -/

/-- Every word of a macro group holds zero with valid check bits: nothing in it is upset, and POISON of its remap entries is
clear (R465). -/
def State.clearGroup (s : State) (g : Nat) : State :=
  let keep := fun (lo n : Nat) (t : Tab (BitVec 80)) => t.filter fun e => !(decide (lo ≤ e.1) && decide (e.1 < lo + n))
  { s with ecm := { s.ecm with
    upsets := keep (wordKey g 0) (2 ^ 17) s.ecm.upsets
    spareUpsets := keep (8 * g) 8 s.ecm.spareUpsets
    tested := s.ecm.tested.filter fun k => k / 2 ^ 17 != g
    remap := (List.range 8).foldl (fun (t : Tab Word32) k => tmod 0 t (8 * g + k) fun v => setFld v 17 1 0) s.ecm.remap } }

/-- A core writes zero into every word of a macro group; a flip armed for one of them is applied (R468). -/
def State.zeroGroup (s : State) (g : Nat) : State :=
  let s1 := s.clearGroup g
  let i := s.rf 6 0x150 0 17
  if s.flipHits g i && decide (i < groupWords g) then s1.encodeWord g i else s1

/-- Zero the whole CSP and control store of a core. -/
def State.zeroCore (s : State) (c : CoreId) : State :=
  let inCsp := fun (a : Nat) => decide (cspOff c 0 ≤ a) && decide (a < cspOff c cspSize)
  let s1 := { s with mem := s.mem.filter fun e => !inCsp e.1 }
  ((s1.updSeq c fun q => { q with cs := [] }).zeroGroup (64 + 4 * c.val)).zeroGroup (67 + 4 * c.val)

/-! ### Core power states (R515 to R520) -/

/-- The CCU answers a core's power request. -/
def State.pwrAnswer (s : State) (c : CoreId) (granted : Bool) : State :=
  s.updCore c fun k => { k with pwrAck := granted, pwrDeny := !granted }

/-- Whether a core may enter RETAIN or OFF: it holds no task, and no self-test of it runs (R517, R518). -/
def State.mayPowerDown (s : State) (c : CoreId) : Bool :=
  let q := (s.core c).seq
  s.present c && (q.st == .idle || q.st == .paused || q.st == .fenced) && !q.holds && s.ccu.holds[c].isNone
    && s.ccu.watch[c].test != .running

/-- The core's entry into RETAIN or OFF: claims are discarded, dirty CCH bytes written back, and the island is isolated
(R518); on the way to OFF every register is lost but the CTL.PAUSE that the page shells keep (R504, R517). None while the
write-back finds no request tag. -/
def State.powerDown (s : State) (c : CoreId) (ret : Bool) : Option State :=
  let s1 := s.updCcu fun u => { u with toCcu := u.toCcu.set c (u.toCcu[c].filter keptMsg) }
  match s1.sweep c false false 0 0 (s1.core c).cch.lines with
  | none => none
  | some r =>
    let t := if ret then r.s
      else (List.range 8).foldl (fun (t : State) b => t.resetRegs (corePage c b) (· != 0x10)) r.s
    some ((t.updCore c fun k =>
      { k with
        iso := true
        cch := { Cch.reset with gen := k.cch.gen }
        seq := { k.seq with st := .off, ret := ret, dispatch := .none } }).pwrAnswer c true)

/-- A request for RETAIN or OFF: granted, denied, or pending while the write-back waits. -/
def State.pwrRequest (s : State) (c : CoreId) (code : BitVec 2) (ret : Bool) : State :=
  if !s.ccuAlive then s
  else
    let s1 := s.updCore c fun k => { k with pwrReq := code, pwrAck := false, pwrDeny := false }
    if !s1.mayPowerDown c then s1.pwrAnswer c false else (s1.powerDown c ret).getD s1


/-- Wake from RETAIN or OFF (R519): the core is reset; from OFF every register takes its reset value and the CSP and control
store are zero. CTL.PAUSE of each page, kept by its shell, is applied. The CCU sends the core the 32 flags before it claims (R245). -/
def State.wake (s : State) (c : CoreId) : State :=
  let q := (s.core c).seq
  let pauses := (List.range 8).map fun b => (b, s.rf (corePage c b) 0x10 1 1)
  let s1 := s.coreReset c false
  let s2 := if q.ret then s1
    else ((List.range 8).foldl (fun (t : State) b => t.resetRegs (corePage c b) fun _ => true) s1).zeroCore c
  let s3 := pauses.foldl (fun (t : State) p => t.setRf (corePage c p.1) 0x10 1 1 p.2) s2
  let s4 := s3.updCcu fun u => { u with
    toCore := u.toCore.set c [], hbCount := u.hbCount.set (Fin.ofNat 13 c.val) 0 }
  let s5 := s4.updCore c fun k => { k with iso := false }
  let s6 := if s.fenced c then s5.updSeq c fun q => { q with st := .fenced } else (s5.answer c (.flags s.ccu.cf)).becomeIdle c
  s6.pwrAnswer c true

/-- A request for ON: a core in RETAIN or OFF wakes, unless the cluster itself is not ON. -/
def State.pwrOn (s : State) (c : CoreId) : State :=
  if !s.ccuAlive then s
  else
    let s1 := s.updCore c fun k => { k with pwrReq := 0, pwrAck := false, pwrDeny := false }
    if !s.present c then s1.pwrAnswer c false
    else if (s.core c).seq.st ≠ .off then s1.pwrAnswer c true
    else if s.ccu.power = .on then s1.wake c
    else s1.pwrAnswer c false

/-- Serve a request for a power state: 0 ON, 1 RETAIN, 2 OFF (R515). -/
def State.pwrServe (s : State) (c : CoreId) (code : BitVec 2) : State :=
  if code = 1 then s.pwrRequest c 1 true else if code = 2 then s.pwrRequest c 2 false else s.pwrOn c

/-- Whether the answer to a core's request is still pending. -/
def Core.pwrPending (k : Core) : Bool := (k.pwrReq == 1 || k.pwrReq == 2) && !k.pwrAck && !k.pwrDeny

/-- A request for a power state; one that comes while an answer is pending is a new request once that has been answered (R516). -/
def State.pwrAsk (s : State) (c : CoreId) (code : BitVec 2) : State :=
  if (s.core c).pwrPending then s.updCore c fun k => { k with pwrNext := some code } else s.pwrServe c code

/-- A request for RETAIN or OFF that waits for its write-back tries again; once it is answered, one that came meanwhile is
served (R516). -/
def State.pwrPoll (s : State) (c : CoreId) : State :=
  let k := s.core c
  let t := if k.pwrPending then s.pwrServe c k.pwrReq else s
  match (t.core c).pwrPending, k.pwrNext with
  | false, some code => (t.updCore c fun k => { k with pwrNext := none }).pwrServe c code
  | _, _ => t

/-- PWR_REQ_RETAIN: a core is asked to enter RETAIN. -/
def execPwrReqRetain (c : CoreId) (s : State) : Host.Outcome State Fault Refusal := .next (s.pwrAsk c 1)

/-- PWR_REQ_OFF: a core is asked to turn OFF. -/
def execPwrReqOff (c : CoreId) (s : State) : Host.Outcome State Fault Refusal := .next (s.pwrAsk c 2)

/-- PWR_REQ_ON: a core is asked to be ON. -/
def execPwrReqOn (c : CoreId) (s : State) : Host.Outcome State Fault Refusal := .next (s.pwrAsk c 0)

/-- FREQ_CHANGE: a core's clock scales; codes 13 to 15 read as 12 (R515, R525). -/
def execFreqChange (c : CoreId) (code : BitVec 4) (s : State) : Host.Outcome State Fault Refusal :=
  .next (s.updCore c fun k => { k with freq := if 12 < code.toNat then 12 else code })

/-! ### Contents that nothing keeps -/

/-- What arrays and registers hold once functional clocks have stopped or supplies are off: left undefined (R521, R532). The
argument is the counter of free draws. -/
opaque wreckedState : Nat → State

/-- Every array and register undefined and every island stopped; fuses and the commands that wait are not the tile's to lose.
Memory and the register file are rebuilt in their canonical form. -/
def State.wreck (s : State) : State :=
  let w := wreckedState s.draws
  let s1 := { w with
    regs := []
    mem := memPuts [] w.mem
    fuses := s.fuses
    wir := s.wir
    clocksOff := s.clocksOff
    stopped := Vector.replicate 14 true
    draws := s.draws + 1
    pending := s.pending }
  w.regs.foldl (fun (t : State) e => t.setReg (e.1 / 4096) (e.1 % 4096) e.2) s1

/-! ### Cluster power states (R521 to R523) -/

/-- The CCU answers a cluster request. -/
def State.clAnswer (s : State) (granted : Bool) : State := s.updCcu fun u => { u with clAck := granted, clDeny := !granted }

/-- The conditions of R522. -/
def State.maySleep (s : State) : Bool :=
  ((List.finRange 8).all fun c => !s.present c || (s.core c).seq.st == .off)
    && s.view 3 0x100 == 0
    && (s.posts.toList.all List.isEmpty) && s.heldPosts.isEmpty
    && ((List.finRange 64).all fun g => (s.group g).inst.isNone)
    && s.evx.phase == .idle && s.ecm.op.isNone

/-- CL_REQ_SLEEP: granted under R522; the CSC loses its lines. -/
def execClReqSleep (s : State) : Host.Outcome State Fault Refusal :=
  if !s.ccuAlive then .next s
  else
    let s1 := s.updCcu fun u => { u with clReq := 1, clAck := false, clDeny := false }
    if s1.maySleep then
      .next (({ s1 with csc := [], cscOp := none }.updCcu fun u => { u with power := .sleep }).clAnswer true)
    else .next (s1.clAnswer false)

/-- CL_REQ_ON: the cluster wakes from SLEEP with every CSC line invalid (R523). -/
def execClReqOn (s : State) : Host.Outcome State Fault Refusal :=
  if !s.ccuAlive then .next s
  else
    let s1 := s.updCcu fun u => { u with clReq := 0, clAck := false, clDeny := false }
    if s.ccu.power = .sleep then .next (({ s1 with csc := [] }.updCcu fun u => { u with power := .on }).clAnswer true)
    else .next (s1.clAnswer true)

/-- CL_REQ_OFF: with the conditions of R522 the whole cluster loses its supplies and what it holds; else denied. -/
def execClReqOff (s : State) : Host.Outcome State Fault Refusal :=
  if !s.ccuAlive then .next s
  else
    let s1 := s.updCcu fun u => { u with clReq := 2, clAck := false, clDeny := false }
    if s1.maySleep then .next (s1.wreck.updCcu fun u => { u with power := .off, clReq := 2, clAck := true, clDeny := false })
    else .next (s1.clAnswer false)

/-! ### Resets (R526) -/

/-- RST_COLD: the whole cluster is as after power-on; the fuses, the FREQ pins and the commands that wait are kept, the wrapper
is in bypass. -/
def execRstCold (s : State) : Host.Outcome State Fault Refusal :=
  .next { State.reset with
    fuses := s.fuses
    draws := s.draws
    cores := s.cores.map fun k => { Core.reset with freq := k.freq }
    pending := s.pending }

/-- RST_WARM: keeps the CM, the remap entries and retired bond lanes and groups, and starts Sprout at step 1. It cannot wake a
cluster whose functional clocks or supplies are off, nor one whose start-up has failed (R529). -/
def execRstWarm (s : State) : Host.Outcome State Fault Refusal :=
  if s.clocksOff = true ∨ s.ccu.power = .off ∨ (s.ccu.st = .fault ∧ s.ccu.readyS = false) then .next s
  else
    let cm := fun (lo n : Nat) (t : Tab (BitVec 80)) => t.filter fun e => decide (e.1 < lo * n)
    .next { State.reset with
      mem := s.mem.filter fun e => decide (e.1 < cmSize)
      ecm := { Ecm.reset with
        remap := s.ecm.remap
        errlog := s.ecm.errlog.filter fun e => decide (e.1 < 8192)
        upsets := cm 48 (2 ^ 17) s.ecm.upsets
        spareUpsets := cm 48 8 s.ecm.spareUpsets
        tested := s.ecm.tested.filter fun k => decide (k < 48 * 2 ^ 17) }
      bond := s.bond.map fun e => (e.1, { e.2 with out := false })
      clockLane := s.clockLane
      fuses := s.fuses
      draws := s.draws
      cores := s.cores.map fun k => { Core.reset with freq := k.freq }
      pending := s.pending
      ccu := { Ccu.reset with warm := true } }

/-! ### Start-up (R527 to R530) -/

/-- Whether Sprout stands at a step and has not failed. -/
def State.atStep (s : State) (n : Nat) : Bool := s.ccuAlive && s.ccu.st == .idle && s.ccu.step == n

/-- A failing step of Sprout: STATE reads FAULT and STEP stays (R529). -/
def State.sproutFault (s : State) : State := s.updCcu fun u => { u with st := .fault }

/-- Retire a lane at start-up: onto a spare, or with none left the group (R421, R422, R527). -/
def State.startupRetire (s : State) (x : Nat) : State :=
  let g := x / 1024
  let lane := x % 1024
  let b := s.bondGroup g
  if 168 ≤ g ∨ 642 ≤ lane ∨ b.retired = true ∨ b.lanes.contains lane = true then s
  else if b.spares = 0 then s.updBond g fun b => { b with retired := true }
  else s.updBond g fun b => { b with spares := b.spares - 1, last := BitVec.ofNat 10 lane, lanes := lane :: b.lanes }

/-- FUSES_LATCHED: step 1 ends. Lanes retired by fuse take effect, every present core starts its self-test and zeroes its CSP
and control store; MBIST follows, or after a cluster warm reset the wait for COORD. A failing read is a FAULT. -/
def execFusesLatched (ok : Bool) (s : State) : Host.Outcome State Fault Refusal :=
  if !s.atStep 1 then .next s
  else if !ok then .next s.sproutFault
  else
    let s1 := s.fuses.lanes.foldl State.startupRetire s
    let s2 := (List.finRange 8).foldl (fun (t : State) c =>
      let u := t.zeroCore c
      if u.present c then u.updWatch c fun w => { w with test := .running } else u) s1
    if s.ccu.warm then .next ((s2.updCcu fun u => { u with step := 4 }).coordStep false)
    else .next (s2.updCcu fun u => { u with step := 2 })

/-- Failing words of a group. -/
def failsOf (fails : List (Nat × Nat)) (g : Nat) : List Nat :=
  ((fails.filter fun x => x.1 == g).map (·.2)).dedup

/-- Fill remap entries of a group, SRC 0, VALID, for failing words (R464, R527). -/
def State.mbistFill (s : State) (g : Nat) (words : List Nat) : State :=
  words.foldl (fun (t : State) i => match t.freeEntry g with
    | some k => t.fillNow ⟨g, k, i, true, false, false⟩
    | none => t) s

/-- MBIST leaves the CM and the CSC's arrays zero with valid check bits (R527). -/
def State.zeroMemTile (s : State) : State :=
  (List.range 52).foldl State.clearGroup { s with mem := s.mem.filter fun e => !decide (e.1 < cmSize), csc := [] }

/-- CM_MBIST_DONE: step 2 ends with the failing words of the CM and CSC arrays remapped; more than eight in a group are a
FAULT. -/
def execCmMbistDone (fails : List (Nat × Nat)) (s : State) : Host.Outcome State Fault Refusal :=
  if !s.atStep 2 then .next s
  else
    let real := fails.filter fun x => decide (x.1 < 52) && decide (x.2 < groupWords x.1)
    if (List.range 52).any fun g => decide (8 < (failsOf real g).length) then .next s.sproutFault
    else
      let s1 := (List.range 52).foldl (fun (t : State) g => t.mbistFill g (failsOf real g)) s.zeroMemTile
      .next (s1.updCcu fun u => { u with step := 3 })

/-- The clock lane of the bond: the first of the four that passes its check (R418); bit i of `clocks` says that lane i passed. -/
def firstClock (clocks : BitVec 4) : Option (Fin 4) := (List.finRange 4).find? fun i => clocks.getLsbD i.val

/-- BOND_CHECK_DONE: step 3 ends with failing lanes retired and the clock lane chosen; none usable, or a kind with no group
left, is a FAULT. A COORD accepted earlier ends step 4 as it begins (R530). -/
def execBondCheckDone (fails : List Nat) (clocks : BitVec 4) (s : State) : Host.Outcome State Fault Refusal :=
  if !s.atStep 3 then .next s
  else
    let s1 := { fails.foldl State.startupRetire s with clockLane := firstClock clocks }
    let gone := [0, 96, 144, 160].any fun g => s1.bondLeft (bondKind g) == 0
    if (firstClock clocks).isNone || gone then .next s1.sproutFault
    else .next ((s1.updCcu fun u => { u with step := 4 }).coordStep false)

/-- SPROUT_HELLO_TMO: 2^20 port-island cycles after step 4, step 5 ends whatever the ports' state; one without a valid HELLO
stays DOWN. -/
def execSproutHelloTmo (s : State) : Host.Outcome State Fault Refusal :=
  if !s.atStep 5 then .next s
  else
    let s1 := (List.finRange 4).foldl (fun (t : State) p =>
      if t.ports[p].link = .hello then t.updPort p fun q => { q with link := .down } else t) s
    .next (s1.updCcu fun u => { u with step := 6 })

/-- READY: step 7 ends once every present core's self-test has answered; the cluster runs, the READY event is sent and idle
cores claim (R527, R528). -/
def execReady (s : State) : Host.Outcome State Fault Refusal :=
  let waits := (List.finRange 8).any fun c => s.present c && s.ccu.watch[c].test == .running
  if !s.atStep 7 || s.ccu.readyS || waits then .next s
  else
    let s1 := (s.updCcu fun u => { u with readyS := true, st := .run }).evt 1 (BitVec.ofNat 64 (s.rf 8 0x150 0 32))
    .next ((List.finRange 8).foldl (fun (t : State) c =>
      if t.present c && !t.fenced c && (t.core c).seq.st == .idle then t.becomeIdle c else t) s1)

/-! ### Test wrapper (R532) -/

/-- Any instruction but bypass: functional clocks stop and every array and register is undefined until a cold reset. -/
def State.wrapper (s : State) (i : Wir) : State := { s with wir := i, clocksOff := true }.wreck

/-- WS_BYPASS: one-bit bypass; the tile works normally, if its clocks still run. -/
def execWsBypass (s : State) : Host.Outcome State Fault Refusal := .next { s with wir := .bypass }
/-- WS_EXTEST: boundary cells drive and capture the tile's edge. -/
def execWsExtest (s : State) : Host.Outcome State Fault Refusal := .next (s.wrapper .extest)
/-- WS_INTEST: boundary cells drive the tile's inputs. -/
def execWsIntest (s : State) : Host.Outcome State Fault Refusal := .next (s.wrapper .intest)
/-- WS_SCAN: internal scan chains are connected to the wrapper. -/
def execWsScan (s : State) : Host.Outcome State Fault Refusal := .next (s.wrapper .scan)
/-- WS_MBIST: MBIST of the tile's arrays. -/
def execWsMbist (s : State) : Host.Outcome State Fault Refusal := .next (s.wrapper .mbist)
/-- WS_BOND: lane test of the face-bond port. -/
def execWsBond (s : State) : Host.Outcome State Fault Refusal := .next (s.wrapper .bond)
/-- WS_FUSE: fuse contents are shifted out. -/
def execWsFuse (s : State) : Host.Outcome State Fault Refusal := .next (s.wrapper .fuse)

end Sys2Proof.Machine
end

