-- ==== Sys2Proof/Machine/Regs.lean ====
section
/-! DEFINITION. What a write to every register of the cluster does (R10, R486, R487, R495, R498, R502 and the page tables).
Every function answers the write outcome of R498 (0 applied, 1 refused with ERR.BUSY, 2 discarded by R495, 3 nothing
writable), with 4 for a write its block holds (R390), and the state. -/

namespace Sys2Proof.Machine

/-- A write outcome and the state after the write. -/
abbrev Wrote := Nat × State

/-! ### Kinds of write -/

/-- Store the writable bits of a register; reserved bits are ignored (R10). -/
def State.put (s : State) (page off : Nat) (mask v : Dword) : Wrote := (0, s.setReg page off (v &&& mask))

/-- Clear the W1C bits written as 1. -/
def State.w1c (s : State) (page off : Nat) (mask v : Dword) : Wrote := (0, s.modReg page off fun r => r &&& ~~~(v &&& mask))

/-- A write to an RWH register (R495). -/
def State.husk (s : State) (page : Nat) (v : Dword) (f : Word32 → Wrote) : Wrote :=
  match huskValue v with
  | none => (2, s.huskErr page)
  | some w => f w

/-- Store the writable bits of a husked register. -/
def State.putHusk (s : State) (page off : Nat) (mask v : Dword) : Wrote :=
  s.husk page v fun w => s.put page off mask (w.setWidth 64)

/-- A write that is refused with ERR.BUSY unless `ok`. -/
def State.guardW (s : State) (page : Nat) (ok : Bool) (w : Wrote) : Wrote := if ok then w else (1, s.errBit page 2)

/-- Nothing is writable at the offset. -/
def State.readOnly (s : State) : Wrote := (3, s)

/-- Whether the core is IDLE, PAUSED or FENCED, as the refusal guards ask (R134, R181, R198, R274, R296, R325). -/
def State.quiet (s : State) (c : CoreId) : Bool :=
  let st := (s.core c).seq.st
  st == .idle || st == .paused || st == .fenced

/-! ### The common layout (R487, R489, R500, R501) -/

/-- CTL: PAUSE on a page of a core, then SRST. -/
def State.ctlWrite (s : State) (page : Nat) (v : Dword) : Wrote :=
  if 0x40 ≤ page then
    let c := pageCore page
    let s1 := if page % 16 = 0 then s.pauseCore c (bitAt v 1) else s.pauseEngine c (page % 16) (bitAt v 1)
    if bitAt v 3 then s1.softReset page else (0, s1)
  else if page = 0 then s.readOnly
  else if bitAt v 3 then s.softReset page
  else (0, s)

/-- TMO (R487). The RQT's is the exponent that RQT_CTL shows, so both offsets hold one value. -/
def State.setTmo (s : State) (page : Nat) (v : Dword) : State :=
  let t := s.setReg page 0x40 (v &&& 0x1F)
  if page = 5 then t.setReg 5 0x108 (v &&& 0x1F) else t

/-- Registers below 0x100. -/
def State.commonWrite (s : State) (page off : Nat) (v : Dword) : Wrote :=
  if off = 0x10 then s.ctlWrite page v
  else if off = 0x20 then s.w1c page off (BitVec.allOnes 64) v
  else if off = 0x28 then s.put page off (BitVec.allOnes 64) v
  else if off = 0x40 then (0, s.setTmo page v)
  else match arrayAt 0x80 8 8 off with
  | some n =>
    let s1 := s.setReg page off (v &&& 0xFF)
    (0, if bitAt v 8 then s1.setReg page (0xC0 + 8 * n) 0 else s1)
  | none =>
    match arrayAt 0xC0 8 8 off with
    | some _ => s.put page off (BitVec.allOnes 64) v
    | none => s.readOnly

/-! ### Pages of a core -/

/-- CS_CMD (R228). -/
def State.csCommand (s : State) (c : CoreId) (v : Dword) : Wrote :=
  let pg := pgSeq c
  let st := (s.core c).seq.st
  if bitAt v 12 && !(st == .paused || st == .fenced) then (1, s.errBit pg 2)
  else
    let i : CsIndex := v.extractLsb' 0 12
    let s1 := s.setReg pg 0x1B0 (v &&& 0xFFF)
    let s2 := if bitAt v 12 then
        (s1.writeCw c i (s1.reg pg 0x1D0 ++ s1.reg pg 0x1C8 ++ s1.reg pg 0x1C0 ++ s1.reg pg 0x1B8)).pm pg 0x0A 1
      else s1
    if bitAt v 13 then
      let f := s2.fetchCw c i
      (0, (List.range 4).foldl (fun (t : State) j => t.setReg pg (0x1D8 + 8 * j) (f.word.extractLsb' (64 * j) 64)) f.s)
    else (0, s2)

/-- SEQ page (R242, R262, R263). -/
def State.seqWrite (s : State) (c : CoreId) (off : Nat) (v : Dword) : Wrote :=
  let pg := pgSeq c
  if off = 0x100 then s.put pg off 1 v
  else if off = 0x198 then s.put pg off 0x1F v
  else if off = 0x1B0 then s.csCommand c v
  else if off = 0x308 then (0, s.updSeq c fun q => { q with flags := q.flags ||| v })
  else if off = 0x310 then (0, s.updSeq c fun q => { q with flags := q.flags &&& ~~~v })
  else if off = 0x328 then s.w1c pg off 0x4FFFFFFFF v
  else if (arrayAt 0x1B8 8 4 off).isSome then s.put pg off (BitVec.allOnes 64) v
  else if (arrayAt 0x3C0 8 16 off).isSome then s.put pg off 0xFFFF v
  else match arrayAt 0x200 8 16 off with
  | some i =>
    s.guardW pg ((s.core c).seq.st == .paused) (0, s.updSeq c fun q => { q with a := vset q.a i (v.setWidth 48) })
  | none =>
    match arrayAt 0x340 8 16 off with
    | some n => (0, s.updSeq c fun q => { q with cnt := vset q.cnt n (v.setWidth 16) })
    | none => s.readOnly

/-- SHAPE written through the page (R68, R103, R109): refused unless the core is quiet, both banks are EMPTY and no
operation of the array is in progress; the shape in force takes effect at once, another after SHAPE_DONE. -/
def State.shapeWrite (s : State) (c : CoreId) (v : Dword) : Wrote :=
  let m := (s.core c).mxe
  let code : BitVec 2 := v.extractLsb' 0 2
  let ok := s.quiet c && m.banks.toList.all (fun b => b.st == .empty) && m.run.isNone && m.op.isNone && m.drains.isEmpty
  s.guardW (pgMxe c) ok (0, s.updMxe c fun m =>
    if code = m.shape then { m with shapeSrc := true } else { m with op := some (.shape none code) })

/-- MXE page (R109). -/
def State.mxeWrite (s : State) (c : CoreId) (off : Nat) (v : Dword) : Wrote :=
  if off = 0x100 then s.shapeWrite c v
  else if off = 0x118 then s.w1c (pgMxe c) off 3 v
  else s.readOnly

/-- A chain-table register (R181). -/
def State.chtWrite (s : State) (c : CoreId) (off : Nat) (v : Dword) : Wrote :=
  let pg := pgVxe c
  s.guardW pg (s.quiet c)
    (0, (s.setReg pg off (v &&& chtMask ((off - 0x200) % 0x88 / 8))).orReg pg 0x1F8 (1 <<< ((off - 0x200) / 0x88)))

/-- VXE page (R181). -/
def State.vxeWrite (s : State) (c : CoreId) (off : Nat) (v : Dword) : Wrote :=
  let pg := pgVxe c
  if off = 0x180 then s.put pg off 0x1FF v
  else if off = 0x188 then
    let at_ := 256 * s.rf pg 0x180 0 4 + 8 * s.rf pg 0x180 4 5
    s.guardW pg (s.quiet c) (0, s.updVxe c fun x => { x with pt := tputs 0 x.pt at_ (natLe 8 v.toNat) })
  else if off = 0x190 then s.put pg off 0xFF v
  else if 0x200 ≤ off ∧ off < 0xA80 ∧ off % 8 = 0 then s.chtWrite c off v
  else s.readOnly

/-- TRF page (R134, R138). -/
def State.trfWrite (s : State) (c : CoreId) (off : Nat) (v : Dword) : Wrote :=
  let pg := pgTrf c
  if off = 0x200 then s.put pg off 0x1F v
  else match arrayAt 0x100 8 16 off with
  | some t => s.guardW pg (s.quiet c) (0, s.updTrf c fun k => k.configure t (TileCfg.ofBits v.toNat true))
  | none => s.readOnly

/-- STR page (R274, R296). -/
def State.strWrite (s : State) (c : CoreId) (off : Nat) (v : Dword) : Wrote :=
  let pg := pgStr c
  if off = 0x128 then s.guardW pg (s.quiet c) (s.put pg off 0xFFFFF v)
  else if off = 0x130 then s.guardW pg (s.quiet c) (s.put pg off 0x3FF v)
  else if off = 0x138 then s.guardW pg (s.quiet c) (s.put pg off 1 v)
  else match arrayAt 0x400 8 256 off with
  | some i => s.guardW pg (s.quiet c) (0, (s.setReg pg off v).orReg pg 0x140 (1 <<< (i / 16)))
  | none => s.readOnly

/-- Sweep the CCH for a host command: bit 3 of the command's record says that the sweep still waits for request tags. A line
whose write-back fails sets its ERR bit and aborts nothing (R311, R325). -/
def State.hostSweep (s : State) (c : CoreId) : State :=
  let pg := pgCch c
  let inv := s.rf pg 0x100 0 1 == 1
  match s.sweep c inv inv 0 0 (s.core c).cch.lines with
  | none => s.setRf pg 0x100 3 1 1
  | some r => r.s.setRf pg 0x100 3 1 0

/-- CCH_CMD (R325); a command written while one is in progress is ignored. -/
def State.cchCommand (s : State) (c : CoreId) (v : Dword) : Wrote :=
  let pg := pgCch c
  if !s.quiet c then (1, s.errBit pg 2)
  else if (s.core c).cch.hostOp || fld v 0 2 == 0 then (0, s)
  else (0, ((s.setReg pg 0x100 (v &&& 3)).updCch c fun k => { k with hostOp := true }).hostSweep c)

/-- CCH page (R325). -/
def State.cchWrite (s : State) (c : CoreId) (off : Nat) (v : Dword) : Wrote :=
  let pg := pgCch c
  if off = 0x100 then s.cchCommand c v
  else if off = 0x110 then s.putHusk pg off 1 v
  else match arrayAt 0x140 8 24 off with
  | some i => s.putHusk pg off (if i % 3 = 2 then 0x3FFFFF else 0xFFFFFFFF) v
  | none => s.readOnly

/-- Whether a ring's own fields are valid (R198). -/
def ringFits (v : Dword) : Bool :=
  let base := 16 * fld v 0 15
  let log := fld v 15 4
  bitAt v 19 && base % 4096 == 0 && decide (12 ≤ log) && decide (log ≤ 18) && decide (base + 2 ^ log ≤ cspSize)

/-- Whether two rings share a byte. -/
def ringsMeet (v w : Dword) : Bool :=
  decide (16 * fld v 0 15 < 16 * fld w 0 15 + 2 ^ fld w 15 4) && decide (16 * fld w 0 15 < 16 * fld v 0 15 + 2 ^ fld v 15 4)

/-- Recompute the effective EN of both rings after ring `n` was written (R198): a ring that overlaps the other enabled ring
is the one that reads EN as 0 when it was written last. -/
def State.ringsSettle (s : State) (c : CoreId) (n : Nat) : State :=
  let pg := pgCsp c
  let mine := 0x300 + 0x20 * n
  let other := 0x320 - 0x20 * n
  let v := s.reg pg mine
  let w := s.reg pg other
  let fits := ringFits v && ringFits w
  let both := fits && ringsMeet v w
  let otherOn := ringFits w && (!both || bitAt w 20)
  let mineOn := ringFits v && !(both && otherOn)
  (s.setRf pg mine 20 1 (bit mineOn)).setRf pg other 20 1 (bit otherOn)

/-- SR_CFG[n] (R198). -/
def State.ringWrite (s : State) (c : CoreId) (n : Nat) (v : Dword) : Wrote :=
  let pg := pgCsp c
  s.guardW pg (s.quiet c) (0, (s.setReg pg (0x300 + 0x20 * n) (v &&& 0xFFFFF)).ringsSettle c n)

/-- CSP page (R198, R326). -/
def State.cspWritePage (s : State) (c : CoreId) (off : Nat) (v : Dword) : Wrote :=
  if off = 0x100 then s.putHusk (pgCsp c) off 3 v
  else if off = 0x300 then s.ringWrite c 0 v
  else if off = 0x320 then s.ringWrite c 1 v
  else s.readOnly

/-- CHN page (R349). -/
def State.chnWrite (s : State) (c : CoreId) (off : Nat) (v : Dword) : Wrote :=
  if off = 0x100 then s.put (pgChn c) off 0x1F v
  else match arrayAt 0x408 0x10 64 off with
  | some n =>
    (0, if bitAt v 16 && ((s.core c).chn.bind n).stale then
        s.updChn c fun k => { k with binds := tmod Binding.blank k.binds n fun b => { b with stale := false } }
      else s)
  | none => s.readOnly

/-! ### CCU, memory-island and debug pages -/

/-- CF_SET and CF_CLR: each flag of the mask takes the value (R262, R264). -/
def State.setCfs (s : State) (m : Dword) (v : Bool) : State :=
  (List.range 32).foldl (fun (t : State) n => if bitAt m n then t.setCf (BitVec.ofNat 5 n) v else t) s

/-- CF_BAR[n].MASK, with the recomputation of the required set (R258, R264). -/
def State.cfBarMask (s : State) (n : Nat) (v : Dword) : State :=
  (s.setRf 0 (0x440 + 8 * n) 0 8 (fld v 0 8)).barrierRecompute (BitVec.ofNat 5 n)

/-- CCU page (R264, R510). -/
def State.ccuWrite (s : State) (off : Nat) (v : Dword) : Wrote :=
  if off = 0x108 then s.husk 0 v fun w => (0, s.fenceWrite w)
  else if off = 0x150 then s.put 0 off 0xFFFFFFFFFF v
  else if off = 0x158 then s.put 0 off 0xF v
  else if off = 0x160 ∨ off = 0x190 then s.put 0 off 0xFFFF v
  else if off = 0x168 then s.w1c 0 off 0x1FFF v
  else if off = 0x180 then s.put 0 off 0x3FFFFF v
  else if off = 0x188 ∨ off = 0x210 ∨ off = 0x218 then s.putHusk 0 off 0xFFFFFFFF v
  else if off = 0x198 then s.put 0 off 3 v
  else if off = 0x1C8 then (0, if bitAt v 0 then s.after (execMirrorCopy s) else s)
  else if off = 0x1D0 then s.put 0 off 0xFFFFFFFFFFFF v
  else if off = 0x200 then s.put 0 off 1 v
  else if off = 0x208 then s.w1c 0 off 0x1FFE v
  else if off = 0x220 then s.put 0 off 0x17C0 v
  else if off = 0x408 then (0, s.setCfs v true)
  else if off = 0x410 then (0, s.setCfs v false)
  else match arrayAt 0x440 8 32 off with
  | some n => (0, s.cfBarMask n v)
  | none => s.readOnly

/-- CMC page (R423). -/
def State.cmcWrite (s : State) (off : Nat) (v : Dword) : Wrote :=
  if off = 0x108 then s.put 1 off 0x1FF v
  else if off = 0x110 then s.husk 1 v fun w => (0, (s.setReg 1 off (w.setWidth 64 &&& 0xFFFFF)).bondCmd w)
  else if off = 0x118 then s.put 1 off 0xFF v
  else s.readOnly

/-- CSC page (R327): INVALL begins its sweep at set 0. -/
def State.cscWritePage (s : State) (off : Nat) (v : Dword) : Wrote :=
  if off = 0x100 then (0, if bitAt v 0 then { s with cscOp := some 0 } else s)
  else s.readOnly

/-- TXU page (R376). -/
def State.txuWrite (s : State) (off : Nat) (v : Dword) : Wrote :=
  if off = 0x108 then
    let s1 := s.setReg 3 off (v &&& 0xFFF)
    (0, if bitAt v 12 then s1.after (execTxCmdAbort (v.extractLsb' 0 12) s1) else s1)
  else if off = 0x110 then s.put 3 off 0x1F v
  else if off = 0x120 then s.put 3 off 0xFFFFFFFFFFFF v
  else if off = 0x128 then (0, if bitAt v 0 then s.after (execTxuLogCopy s) else s)
  else s.readOnly

/-- EV_CMD (R367, R372, R373, R380). -/
def State.evCommand (s : State) (w : Word32) : Wrote :=
  let op := fld w 0 4
  let busy := s.evx.phase != .idle
  if busy && !(op == 1 && s.evx.phase == .restoring) then (1, s.errBit 4 2)
  else
    let s1 := s.setReg 4 0x100 (BitVec.ofNat 64 op)
    if op = 1 then (0, s1.after (execEvict s1)) else if op = 2 then (0, s1.restoreBegin) else (0, s1)

/-- EVX page (R373, R380). -/
def State.evxWrite (s : State) (off : Nat) (v : Dword) : Wrote :=
  let idle := s.evx.phase == .idle
  let guarded := fun (mask : Dword) => s.husk 4 v fun w => s.guardW 4 idle (s.put 4 off mask (w.setWidth 64))
  if off = 0x100 then s.husk 4 v fun w => s.evCommand w
  else if off = 0x108 then s.guardW 4 idle (s.put 4 off 0x1F v)
  else if off = 0x118 then s.put 4 off 0xFFFFFFFF v
  else if off = 0x120 ∨ off = 0x128 ∨ off = 0x130 then guarded 0xFFFFFFFF
  else match arrayAt 0x140 8 48 off with
  | some i => guarded (if i % 3 = 0 then 0xFFFFFFFF else if i % 3 = 1 then 0xFFFF else 0x1FFFFF)
  | none => s.readOnly

/-- RQT page (R483). -/
def State.rqtWrite (s : State) (off : Nat) (v : Dword) : Wrote := if off = 0x108 then (0, s.setTmo 5 v) else s.readOnly

/-- ECM page (R467, R468, R481). -/
def State.ecmWrite (s : State) (off : Nat) (v : Dword) : Wrote :=
  let disarmed := s.rf 6 0x158 1 1 == 0
  if off = 0x100 then s.put 6 off 0x1FFF v
  else if off = 0x108 then s.put 6 off 0xFFFF v
  else if off = 0x128 then s.put 6 off 0x3FF v
  else if off = 0x130 then s.husk 6 v fun w => s.remapWrite w
  else if off = 0x140 then s.guardW 6 disarmed (s.put 6 off (BitVec.allOnes 64) v)
  else if off = 0x148 then s.guardW 6 disarmed (s.put 6 off 0xFFFF v)
  else if off = 0x150 then s.husk 6 v fun w => s.guardW 6 disarmed (s.put 6 off 0xFFFFFF (w.setWidth 64))
  else if off = 0x158 then (0, s.flipWrite v)
  else if off = 0x160 then (0, if bitAt v 0 then s.after (execEcmLogCopy s) else s)
  else if off = 0x168 then s.put 6 off 0xFFFFFFFFFFFF v
  else s.readOnly

/-- Store a shared husked register of the ports (R416, R449): it lives on page 8, a discarded write is counted on the page
addressed. -/
def State.putShared (s : State) (page off : Nat) (mask v : Dword) : Wrote :=
  s.husk page v fun w => s.put 8 off mask (w.setWidth 64)

/-- A group register of slot `g`, register `k` of its five (R412, R413, R416). -/
def State.grpWrite (s : State) (p : PortId) (g : GroupId) (k off : Nat) (v : Dword) : Wrote :=
  let pg := pgMp p
  s.husk pg v fun w =>
    if k = 0 then
      s.guardW pg (!((s.group g).en && s.grpMoves g w))
        (0, s.after (if w.getLsbD 18 then execGroupEnable p g v s else execGroupDisable p g v s))
    else s.guardW pg (!(s.group g).en) (s.put 8 off (if k = 2 then 0xFFFFFF else 0xFFFFFFFF) (w.setWidth 64))

/-- RED_POST[k]: the eighth register submits the record; with a full queue, or behind a post that waits, the write waits (R390,
R392, R415). -/
def State.postWrite (s : State) (p : PortId) (k : Nat) (v : Dword) : Wrote :=
  let pg := pgMp p
  let s1 := s.setReg pg (0x5C0 + 8 * k) v
  if k < 7 then (0, s1)
  else if s.heldPosts.any fun x => x.1 == p then (4, s)
  else match s1.rduPost p (Vector.ofFn fun i => s1.reg pg (0x5C0 + 8 * i.val)) with
  | none => (4, s)
  | some t => (0, t)

/-- A port's page, with its RDU (R415, R416, R448, R449). -/
def State.mpWrite (s : State) (p : PortId) (off : Nat) (v : Dword) : Wrote :=
  let pg := pgMp p
  if off = 0x100 then (0, s.linkCtlWrite p v)
  else if off = 0x118 then (0, (s.setReg pg off (v &&& 0xFFFFFF)).pumpAll p)
  else if off = 0x150 then s.husk pg v fun w => s.coordWrite pg w
  else if (arrayAt 0x180 8 16 off).isSome then s.putShared pg off 0x1F v
  else if (arrayAt 0x200 8 32 off).isSome then s.putShared pg off 0x7FFFFFFF v
  else if (arrayAt 0x300 8 64 off).isSome then s.putShared pg off (if bitAt v 0 then 0x1FC007FF else 0x1FFFFFFF) v
  else if off = 0x500 then s.put pg off 0x1F v
  else if off = 0x510 then s.putShared pg off 0x1FFFFF v
  else if off = 0x520 then s.w1c pg off 0xFF v
  else if off = 0x548 then s.put pg off 0x3F v
  else match arrayAt 0x5C0 8 8 off with
  | some k => s.postWrite p k v
  | none =>
    match arrayAt 0x600 8 320 off with
    | some i => s.grpWrite p (Fin.ofNat 64 (i / 5)) (i % 5) off v
    | none => s.readOnly

/-- CYC of an island as SNAP latches it (R513); none while its logic has stopped. -/
def State.snapCyc (s : State) (i : Nat) : Option Dword :=
  if vget false s.stopped i then none
  else if i < 8 then
    let k := s.core (Fin.ofNat 8 i)
    some (if k.seq.st = .off then 0 else k.cyc)
  else if i = 8 then some s.memCyc
  else if i = 9 then some s.ccu.cyc
  else some (vget 0 s.portCyc (i - 10))

/-- SNAP: each island that answers latches its CYC; SNAP_BUSY stays while one does not answer (R513). -/
def State.takeSnap (s : State) : State :=
  let snap : Vector (Option Dword) 14 := Vector.ofFn fun i => s.snapCyc i.val
  ({ s with snap := snap }).setRf 15 0x100 3 1 (bit (snap.toList.any (·.isNone)))

/-- DBG page (R511 to R513). -/
def State.dbgWrite (s : State) (off : Nat) (v : Dword) : Wrote :=
  if off = 0x100 then
    let s1 := s.setRf 15 off 0 2 (fld v 0 2)
    (0, if bitAt v 2 then s1.takeSnap else s1)
  else if off = 0x1C0 then (0, s.stepCores v)
  else if off = 0x1C8 then s.put 15 off 0xFF v
  else match arrayAt 0x180 8 8 off with
  | some _ => (0, s.modReg 15 off fun r => (v &&& 0x3FFF) ||| (r &&& ~~~v &&& 0x4000))
  | none => s.readOnly

/-! ### Any register -/

/-- A write beyond the common layout of a page. -/
def State.blockWrite (s : State) (page off : Nat) (v : Dword) : Block → Wrote
  | .ccu => s.ccuWrite off v
  | .cmc => s.cmcWrite off v
  | .csc => s.cscWritePage off v
  | .txu => s.txuWrite off v
  | .evx => s.evxWrite off v
  | .rqt => s.rqtWrite off v
  | .ecm => s.ecmWrite off v
  | .mp => s.mpWrite (Fin.ofNat 4 (page - 8)) off v
  | .dbg => s.dbgWrite off v
  | .seq => s.seqWrite (pageCore page) off v
  | .mxe => s.mxeWrite (pageCore page) off v
  | .vxe => s.vxeWrite (pageCore page) off v
  | .trf => s.trfWrite (pageCore page) off v
  | .str => s.strWrite (pageCore page) off v
  | .cch => s.cchWrite (pageCore page) off v
  | .csp => s.cspWritePage (pageCore page) off v
  | .chn => s.chnWrite (pageCore page) off v

/-- What the block does with a write to an offset of its page (R486, R498). -/
def State.pageWrite (s : State) (page off : Nat) (v : Dword) : Wrote :=
  match blockOf page with
  | none => s.readOnly
  | some b => if off % 8 ≠ 0 then s.readOnly else if off < 0x100 then s.commonWrite page off v else s.blockWrite page off v b

end Sys2Proof.Machine
end

