-- ==== Sys2Proof/Machine/Router.lean ====
section
/-! DEFINITION. The register router (R485, R486, R497 to R499, R504, R537): who reaches a page and what is answered, the
sideband interface (R533), and the commands that write a register page. -/

namespace Sys2Proof.Machine

/-! ### Answers (R426, R443, R498, R533) -/

/-- Send a packet of the CCU island: with SR along the path in `dst`, else as its DST routes it. One without a route is
discarded and counted (R440, R443). How many sides a return path has is not carried, so HOPS of a source-routed answer is
free. -/
def State.ccuPut (s : State) (k : Packet) : State :=
  if k.sr then
    let (n, s1) := s.drawChoice 17
    let p : PortId := Fin.ofNat 4 (fld k.dst 0 2)
    s1.enqueue p { k with dst := k.dst >>> 2, hops := BitVec.ofNat 6 n }
  else match s.sendMesh { k with src := s.srcWord 12 } with
  | some t => t
  | none =>
    let (n, s1) := s.drawChoice 4
    s1.bumpRf (pgMp (Fin.ofNat 4 n)) 0x130 32 32 1

/-- The head of an answer to an MGMT packet: same class, tag and address, sent to where it came from. -/
def mgmtHead (k : Packet) (type : Nat) : Packet :=
  { Packet.blank type 0 (if k.sr then k.src else k.src.setWidth 25 |>.setWidth 32) with sr := k.sr, tag := k.tag, addr := k.addr }

/-- CRC-8 with polynomial 0x07 and initial value 0 (R533). -/
def crc8 (bs : List Byte) : Byte :=
  bs.foldl (fun c b => (List.range 8).foldl (fun (x : Byte) _ => if x.getLsbD 7 then (x <<< 1) ^^^ 0x07 else x <<< 1) (c ^^^ b)) 0

/-- A response frame of the sideband interface (R533). -/
def sidebandFrame (status : Byte) (data : List Byte) : List Byte :=
  let bs := 0xA5 :: status :: data
  bs ++ [crc8 bs]

/-- Answer an access: MRSP or ERR to an MGMT packet, a frame to the sideband interface, nothing to a command (R498). -/
def State.regReply (s : State) (page : Nat) (a : RegAccess) (r : RegAnswer) : State :=
  let s1 := s.updCcu fun u => { u with answer := { r with page := BitVec.ofNat 8 page, off := a.off } }
  let data := if a.write then [] else natLe 8 r.value.toNat
  let mark := bit r.shell + 2 * r.outcome.toNat
  match a.who with
  | .command => s1
  | .entered => s
  | .mgmt k =>
    if r.err = 0 then s1.ccuPut { mgmtHead k 9 with spec := BitVec.ofNat 48 mark, payload := data }
    else s1.ccuPut { mgmtHead k 4 with spec := r.err.setWidth 48 }
  | .sideband =>
    let f := if r.err = 0 then sidebandFrame (BitVec.ofNat 8 mark) data else sidebandFrame 0x80 []
    s1.updCcu fun u => { u with sideband := f }

/-- A value read. -/
def readAnswer (v : Dword) (shell : Bool) : RegAnswer := ⟨0, 0, v, shell, 0, 0⟩
/-- A write's outcome. -/
def writeAnswer (o : Nat) (shell : Bool) : RegAnswer := ⟨0, 0, 0, shell, BitVec.ofNat 3 o, 0⟩
/-- An access that is refused or isolated. -/
def errAnswer (code : Nat) : RegAnswer := ⟨0, 0, 0, false, 0, BitVec.ofNat 8 code⟩

/-! ### Reaching a block (R486, R499, R504) -/

/-- The island of a page (R513 numbering); CCU, EVX, ECM and DBG lie in the CCU island (R537). -/
def islandOf (page : Nat) : Nat :=
  if 0x40 ≤ page then (pageCore page).val
  else if page = 1 ∨ page = 2 ∨ page = 3 ∨ page = 5 then 8
  else if 8 ≤ page ∧ page ≤ 11 then 10 + (page - 8)
  else 9

/-- The island number of CCU.ERR_INFO0.ISLAND: 0 to 7 cores, 8 memory, 9 to 12 ports (R509). -/
def errIsland (page : Nat) : Nat := if islandOf page ≤ 8 then islandOf page else islandOf page - 1

/-- The block performs the access; none while it holds it. -/
def State.blockAccess (s : State) (page : Nat) (a : RegAccess) : Option State :=
  if vget false s.stopped (islandOf page) then none
  else if a.write then
    match s.pageWrite page a.off.toNat a.value with
    | (4, _) => none
    | (o, t) => some (t.regReply page a (writeAnswer o false))
  else some (s.regReply page a (readAnswer (s.view page a.off.toNat) false))

/-- The page shell of an isolated core answers: reads from its copy, writes ERR ISOLATED (R504). -/
def State.shellAccess (s : State) (page : Nat) (a : RegAccess) : State :=
  if a.write then s.regReply page a (errAnswer 5) else s.regReply page a (readAnswer (s.shellView page a.off.toNat) true)

/-- The answer to an access by the condition of the page's block; none while its block cannot decide it (R486, R504). -/
def State.tryAccess (s : State) (page : Nat) (a : RegAccess) : Option State :=
  match blockOf page with
  | none => some (s.regReply page a (errAnswer 3))
  | some _ =>
    if 0x40 ≤ page then
      let c := pageCore page
      if !s.present c then
        some ((if a.write then s.bumpRf 0 0x170 0 32 1 else s).shellAccess page a)
      else if (s.core c).seq.st = .off then
        if a.write && a.off == 0x10 then
          some ((s.setRf page 0x10 1 1 (fld a.value 1 1)).regReply page a (writeAnswer 0 true))
        else some (s.shellAccess page a)
      else if s.fenced c && s.ccu.watch[c].test == .running then some (s.shellAccess page a)
      else s.blockAccess page a
    else s.blockAccess page a

/-- Accesses of a page that wait for their block. -/
def State.waitingAt (s : State) (page : Nat) : List RegAccess := tget [] s.ccu.pend page

/-- Replace the waiting accesses of a page. -/
def State.setWaiting (s : State) (page : Nat) (l : List RegAccess) : State :=
  s.updCcu fun u => { u with pend := tput [] u.pend page l }

/-- Serve the waiting accesses of a page in their order, as far as its block decides them. -/
def State.serveWaiting (s : State) (page : Nat) : Nat → State
  | 0 => s
  | n + 1 => match s.waitingAt page with
    | [] => s
    | a :: rest => match (s.setWaiting page rest).tryAccess page a with
      | none => s
      | some t => t.serveWaiting page n

/-- The router takes an access: it is decided at once, or waits behind the earlier ones of its page (R498). -/
def State.access (s : State) (page : Nat) (a : RegAccess) : State :=
  if !s.ccuAlive then s
  else
    let s1 := s.setWaiting page (s.waitingAt page ++ [a])
    s1.serveWaiting page (s1.waitingAt page).length

/-- A register write that no packet carries. -/
def State.hostWrite (s : State) (page off : Nat) (v : Dword) : State :=
  s.access page ⟨BitVec.ofNat 12 off, true, v, .command⟩

/-! ### MGMT and the sideband interface (R426, R497, R533) -/

/-- First cluster offset of register space (R485). -/
def regSpace : Nat := 0x300000000

/-- The page and offset an MGMT packet names, when it names one whole register of register space (R497). The window bits of a
source-routed packet's address are not compared, since it may arrive before COORD is VALID. -/
def State.mgmtTarget (s : State) (k : Packet) : Option (Nat × Nat) :=
  let a := k.addr.toNat
  let x := a % 2 ^ 34
  let mine := k.sr || a - x == s.windowBase
  let n := if k.byte 24 &&& 1 = 1 then 8 else 0
  if mine && k.tc == 0 && decide (regSpace ≤ x) && decide (x < 2 ^ 20 + regSpace) && x % 8 == 0 && k.payload.length == n then
    some ((x - regSpace) / 4096, x % 4096)
  else none

/-- MGMT: the router takes an MGMT packet that a port has delivered and answers it with MRSP or ERR (R497, R498). -/
def execMgmt (pkt : Packet) (s : State) : Host.Outcome State Fault Refusal :=
  if !s.ccuAlive || pkt.type != 8 then .next s
  else match s.takePacket (· == pkt) with
  | none => .next s
  | some (_, s1) =>
    match s1.mgmtTarget pkt with
    | none => .next (s1.ccuPut { mgmtHead pkt 4 with spec := 3 })
    | some (page, off) =>
      .next (s1.access page ⟨BitVec.ofNat 12 off, (pkt.byte 24).getLsbD 0, BitVec.ofNat 64 (leNat pkt.payload), .mgmt pkt⟩)

/-- SIDEBAND_REQUEST: a request frame is checked and performs a register read or write (R533). -/
def execSidebandRequest (frame : List Byte) (s : State) : Host.Outcome State Fault Refusal :=
  if !s.ccuAlive || decide (frame.length < 2) then .next s
  else
    let body := frame.dropLast
    let answer := fun (f : List Byte) => s.updCcu fun u => { u with sideband := f }
    if frame.getLast? ≠ some (crc8 body) then .next (answer (sidebandFrame 0x40 []))
    else
      let cmd := (body.headD 0).toNat
      let at_ := leNat ((body.drop 1).take 3)
      let ok := (cmd == 1 && body.length == 4 || cmd == 2 && body.length == 12) && at_ % 8 == 0 && decide (at_ < 2 ^ 20)
      if !ok then .next (answer (sidebandFrame 0x80 []))
      else
        .next ((answer []).access (at_ / 4096)
          ⟨BitVec.ofNat 12 at_, cmd == 2, BitVec.ofNat 64 (leNat (body.drop 4)), .sideband⟩)

/-- REGISTER_WRITE: a write to a register is applied, refused, discarded or ignored (R498). -/
def execRegisterWrite (page : Byte) (off : BitVec 12) (value : Dword) (s : State) : Host.Outcome State Fault Refusal :=
  .next (s.hostWrite page.toNat off.toNat value)

/-- SHELL_READ_TMO: a page's block has not answered a read within 256 CCU-island cycles; the page shell answers (R499). -/
def execShellReadTmo (page : Byte) (s : State) : Host.Outcome State Fault Refusal :=
  match takeFirst (fun (a : RegAccess) => !a.write) (s.waitingAt page.toNat) with
  | none => .next s
  | some (a, rest) =>
    if !s.ccuAlive then .next s
    else
      let s1 := s.setWaiting page.toNat rest
      .next (s1.regReply page.toNat a (readAnswer (s1.shellView page.toNat a.off.toNat) true))

/-- REGISTER_WRITE_TMO: a write is undecided after 2^CCU.TMO cycles and is answered ERR ISOLATED. Whether it was still in the
shell, and is dropped, or had entered the block's crossing, and is applied later, is free (R499). -/
def execRegisterWriteTmo (page : Byte) (s : State) : Host.Outcome State Fault Refusal :=
  let p := page.toNat
  match takeFirst (fun (a : RegAccess) => a.write && a.who != .entered) (s.waitingAt p) with
  | none => .next s
  | some (a, rest) =>
    if !s.ccuAlive then .next s
    else
      let (n, s1) := s.drawChoice 2
      let s2 := if n = 0 then s1.setWaiting p rest
        else s1.setWaiting p (modFirst (fun (b : RegAccess) => b.write && b.who != .entered)
          (fun b => { b with who := .entered }) (s1.waitingAt p))
      .next ((s2.ccuErr 3 1 (errIsland p) p a.off.toNat a.value).regReply p a (errAnswer 5))

/-! ### Commands that write one register (R448, R467, R468, R489, R500, R505, R510 to R513) -/

/-- LINK_RETRAIN: LINK_CTL.RETRAIN restarts a port's HELLO exchange (R448). -/
def execLinkRetrain (p : PortId) (s : State) : Host.Outcome State Fault Refusal :=
  .next (s.hostWrite (pgMp p) 0x100 (s.reg (pgMp p) 0x100 ||| 2))

/-- LINK_CTL_DISABLE: a write of LINK_CTL.DISABLE (R448). -/
def execLinkCtlDisable (p : PortId) (v : Bool) (s : State) : Host.Outcome State Fault Refusal :=
  .next (s.hostWrite (pgMp p) 0x100 (setBit (s.reg (pgMp p) 0x100) 0 v))

/-- COORD_WRITE: the coordinates are assigned, and start-up advances or restarts (R443, R527, R530). -/
def execCoordWrite (value : Dword) (s : State) : Host.Outcome State Fault Refusal := .next (s.hostWrite 8 0x150 value)

/-- Write a husked register when its halves disagree, or agree on a value that the command stands for. -/
def State.hostHusk (s : State) (page off : Nat) (v : Dword) (p : Word32 → Bool) : State :=
  match huskValue v with
  | none => s.hostWrite page off v
  | some w => if p w then s.hostWrite page off v else s

/-- REMAP_RELEASE: a write of REMAP_DATA with VALID = 0 (R467). -/
def execRemapRelease (value : Dword) (s : State) : Host.Outcome State Fault Refusal :=
  .next (s.hostHusk 6 0x130 value fun w => !remapValid w)

/-- REMAP_HOST_FILL: a write of REMAP_DATA with VALID = 1 (R467). -/
def execRemapHostFill (value : Dword) (s : State) : Host.Outcome State Fault Refusal :=
  .next (s.hostHusk 6 0x130 value remapValid)

/-- FLIP_ARM: FLIP_CTL with ARM = 1 (R468). -/
def execFlipArm (s : State) : Host.Outcome State Fault Refusal := .next (s.hostWrite 6 0x158 1)

/-- FLIP_DISARM: FLIP_CTL with ARM = 0 (R468). -/
def execFlipDisarm (s : State) : Host.Outcome State Fault Refusal := .next (s.hostWrite 6 0x158 0)

/-- CORE_FENCE_WRITE: fences the cores whose bit it sets and sends to self-test those whose bit it clears (R505). -/
def execCoreFenceWrite (value : Dword) (s : State) : Host.Outcome State Fault Refusal := .next (s.hostWrite 0 0x108 value)

/-- SEQ_PAUSE: CTL.PAUSE of an SEQ page (R500). -/
def execSeqPause (c : CoreId) (v : Bool) (s : State) : Host.Outcome State Fault Refusal :=
  .next (s.hostWrite (pgSeq c) 0x10 (BitVec.ofNat 64 (2 * bit v)))

/-- ENGINE_PAUSE: CTL.PAUSE of another page of a core (R501). -/
def execEnginePause (c : CoreId) (block : Fin 8) (v : Bool) (s : State) : Host.Outcome State Fault Refusal :=
  if block = 0 then .next s else .next (s.hostWrite (corePage c block.val) 0x10 (BitVec.ofNat 64 (2 * bit v)))

/-- SRST: CTL.SRST of a page, its PAUSE unchanged (R489). -/
def execSrst (page : Byte) (s : State) : Host.Outcome State Fault Refusal :=
  .next (s.hostWrite page.toNat 0x10 (BitVec.ofNat 64 (8 + 2 * bit (s.paused page.toNat))))

/-- CS_CMD_WRITE: CS_CMD with WR = 1 (R228). -/
def execCsCmdWrite (c : CoreId) (index : CsIndex) (s : State) : Host.Outcome State Fault Refusal :=
  .next (s.hostWrite (pgSeq c) 0x1B0 (index.setWidth 64 ||| 0x1000))

/-- CS_CMD_READ: CS_CMD with RD = 1 (R228). -/
def execCsCmdRead (c : CoreId) (index : CsIndex) (s : State) : Host.Outcome State Fault Refusal :=
  .next (s.hostWrite (pgSeq c) 0x1B0 (index.setWidth 64 ||| 0x2000))

/-- TCFG_PAGE_WRITE: host software writes TCFG[t] (R134). -/
def execTcfgPageWrite (c : CoreId) (t : Fin 16) (value : Dword) (s : State) : Host.Outcome State Fault Refusal :=
  .next (s.hostWrite (pgTrf c) (0x100 + 8 * t.val) value)

/-- SHAPE_PAGE_WRITE: host software writes MXE.SHAPE (R103). -/
def execShapePageWrite (c : CoreId) (value : Dword) (s : State) : Host.Outcome State Fault Refusal :=
  .next (s.hostWrite (pgMxe c) 0x100 value)

/-- CHT_PAGE_WRITE: host software writes a chain-table register (R158, R181). -/
def execChtPageWrite (c : CoreId) (off : BitVec 12) (value : Dword) (s : State) : Host.Outcome State Fault Refusal :=
  if 0x200 ≤ off.toNat ∧ off.toNat < 0xA80 then .next (s.hostWrite (pgVxe c) off.toNat value) else .next s

/-- PGM_PAGE_WRITE: host software writes an AG instruction (R274). -/
def execPgmPageWrite (c : CoreId) (p i : Fin 16) (value : Dword) (s : State) : Host.Outcome State Fault Refusal :=
  .next (s.hostWrite (pgStr c) (0x400 + 0x80 * p.val + 8 * i.val) value)

/-- FLAG_SET: host software sets bits of FLAGS (R262). -/
def execFlagSet (c : CoreId) (value : Dword) (s : State) : Host.Outcome State Fault Refusal :=
  .next (s.hostWrite (pgSeq c) 0x308 value)

/-- FLAG_CLR: host software clears bits of FLAGS (R262). -/
def execFlagClr (c : CoreId) (value : Dword) (s : State) : Host.Outcome State Fault Refusal :=
  .next (s.hostWrite (pgSeq c) 0x310 value)

/-- CNT_WRITE: host software writes a counter (R262). -/
def execCntWrite (c : CoreId) (n : Fin 16) (value : Dword) (s : State) : Host.Outcome State Fault Refusal :=
  .next (s.hostWrite (pgSeq c) (0x340 + 8 * n.val) value)

/-- CTH_WRITE: host software writes a threshold (R262). -/
def execCthWrite (c : CoreId) (n : Fin 16) (value : Dword) (s : State) : Host.Outcome State Fault Refusal :=
  .next (s.hostWrite (pgSeq c) (0x3C0 + 8 * n.val) value)

/-- CF_SET: host software sets cluster flags (R262, R264). -/
def execCfSet (value : Dword) (s : State) : Host.Outcome State Fault Refusal := .next (s.hostWrite 0 0x408 value)

/-- CF_CLR: host software clears cluster flags (R262, R264). -/
def execCfClr (value : Dword) (s : State) : Host.Outcome State Fault Refusal := .next (s.hostWrite 0 0x410 value)

/-- CF_BAR_WRITE: host software writes a barrier's MASK (R258). -/
def execCfBarWrite (n : Fin 32) (value : Dword) (s : State) : Host.Outcome State Fault Refusal :=
  .next (s.hostWrite 0 (0x440 + 8 * n.val) value)

/-- CCH_INVALL: CCH_CMD.INVALL (R325). -/
def execCchInvall (c : CoreId) (s : State) : Host.Outcome State Fault Refusal := .next (s.hostWrite (pgCch c) 0x100 1)

/-- CCH_FLUSHALL: CCH_CMD.FLUSHALL (R325). -/
def execCchFlushall (c : CoreId) (s : State) : Host.Outcome State Fault Refusal := .next (s.hostWrite (pgCch c) 0x100 2)

/-- CSC_INVALL: CSC_CMD.INVALL (R327). -/
def execCscInvall (s : State) : Host.Outcome State Fault Refusal := .next (s.hostWrite 2 0x100 1)

/-- CACHE_CMD_DONE: the sweep of a CCH or CSC command is complete and ACTIVE clears (R325, R327). -/
def execCacheCmdDone (w : CacheCmd) (s : State) : Host.Outcome State Fault Refusal :=
  match w with
  | .cch c =>
    if !(s.core c).cch.hostOp || vget false s.stopped c then .next s
    else
      let s1 := if s.rf (pgCch c) 0x100 3 1 = 1 then s.hostSweep c else s
      if s1.rf (pgCch c) 0x100 3 1 = 1 then .next s1
      else .next ((s1.setReg (pgCch c) 0x100 0).updCch c fun k => { k with hostOp := false })
  | .csc =>
    match s.cscOp with
    | none => .next s
    | some n => if s.memHalted then .next s else .next { s.cscSweep n 1024 with cscOp := none }

/-- BOND_CMD_RETIRE_LANE: BOND_CMD with OP 1 (R421, R423). -/
def execBondCmdRetireLane (value : Dword) (s : State) : Host.Outcome State Fault Refusal :=
  .next (s.hostHusk 1 0x110 value fun w => fld w 18 2 == 1)

/-- BOND_CMD_RETIRE_GROUP: BOND_CMD with OP 2 (R422, R423). -/
def execBondCmdRetireGroup (value : Dword) (s : State) : Host.Outcome State Fault Refusal :=
  .next (s.hostHusk 1 0x110 value fun w => fld w 18 2 == 2)

/-- DBG_STEP: each paused core that is named issues one word (R512). -/
def execDbgStep (value : Dword) (s : State) : Host.Outcome State Fault Refusal := .next (s.hostWrite 15 0x1C0 value)

/-- SNAP: every island latches its CYC (R513). -/
def execSnap (s : State) : Host.Outcome State Fault Refusal := .next (s.hostWrite 15 0x100 (s.reg 15 0x100 &&& 3 ||| 4))

/-- PMFREEZE: freezes or releases every PMCNT (R488, R513). -/
def execPmfreeze (v : Bool) (s : State) : Host.Outcome State Fault Refusal :=
  .next (s.hostWrite 15 0x100 (setBit (s.reg 15 0x100 &&& 3) 0 v))

/-- PMCNT_CLR: PMSEL[n].CLR sets PMCNT[n] to 0 (R487). -/
def execPmcntClr (page : Byte) (n : Fin 8) (s : State) : Host.Outcome State Fault Refusal :=
  .next (s.hostWrite page.toNat (0x80 + 8 * n.val) (s.reg page.toNat (0x80 + 8 * n.val) &&& 0xFF ||| 0x100))

/-- DBG_SNAP_TMO: islands that have not answered a snapshot read 0, SNAP_BUSY clears and ERR.TMO is set (R513). -/
def execDbgSnapTmo (s : State) : Host.Outcome State Fault Refusal :=
  if s.rf 15 0x100 3 1 = 1 ∧ s.ccuAlive = true then .next ((s.setRf 15 0x100 3 1 0).err 15 3 0 0) else .next s

end Sys2Proof.Machine
end

