-- ==== Sys2Proof/Machine/Sync.lean ====
section
/-! DEFINITION. Flags and signals between a core and the CCU: release of held signals (R255), the CCU's cluster flags
and takes (R250, R257), the shadow (R245). -/

namespace Sys2Proof.Machine

/-- SIGNAL_RELEASE: the oldest held signal enters the crossing once its covered writes are complete at CLUSTER scope (R255). -/
def execSignalRelease (c : CoreId) (s : State) : Host.Outcome State Fault Refusal :=
  let k := s.core c
  if !s.alive c then .next s
  else match k.seq.held with
    | [] => .next s
    | h :: rest =>
      if s.covered c h.cover then .next ((s.tell c (.signal h.cf h.op)).updSeq c fun q => { q with held := rest }) else .next s

/-- CF_SIGNAL: the CCU applies the signal at the front of a core's crossing (R256, R257). -/
def execCfSignal (c : CoreId) (s : State) : Host.Outcome State Fault Refusal :=
  match s.ccu.toCcu[c] with
  | .signal n op :: _ => if s.ccuAlive && !s.ccuHeld then .next ((s.popCcu c).ccuSignal c n op) else .next s
  | _ => .next s

/-- Whether a take request is granted (R250). -/
def takeGranted (cf : Word32) (n1 n2 : Option (BitVec 5)) (any : Bool) : Bool :=
  let one := fun (n : Option (BitVec 5)) => match n with
    | some k => cf.getLsbD k.toNat
    | none => false
  match n2 with
  | none => one n1
  | some _ => if any then one n1 || one n2 else one n1 && one n2

/-- Clear a flag that a granted request names. -/
def State.clearTaken (s : State) (n : Option (BitVec 5)) : State :=
  match n with
  | some k => s.setCf k false
  | none => s

/-- CF_TAKE_REQUEST: the CCU grants and clears, or denies, the request at the front of a core's crossing (R250). -/
def execCfTakeRequest (c : CoreId) (s : State) : Host.Outcome State Fault Refusal :=
  match s.ccu.toCcu[c] with
  | .take n1 n2 any :: _ =>
    if !s.ccuAlive || s.ccuHeld then .next s
    else
      let s1 := s.popCcu c
      let g := takeGranted s.ccu.cf n1 n2 any
      let s2 := if g then (s1.clearTaken n1).clearTaken n2 else s1
      .next (if s.reachable c then s2.answer c (.takeReply g) else s2)
  | _ => .next s

/-- TAKE_REPLY: a grant lets the word issue, a denial has the WAIT evaluated again; a reply to a request of an aborted
task is discarded (R250). -/
def execTakeReply (c : CoreId) (s : State) : Host.Outcome State Fault Refusal :=
  let s1 := s.seeNone c
  match s1.ccu.toCore[c] with
  | .takeReply g :: _ =>
    if !s1.alive c then .next s1
    else .next ((s1.popCore c).updSeq c fun q =>
      if q.takeVoid ≠ 0 then { q with takeVoid := q.takeVoid - 1 }
      else { q with takePend := false, takeGrant := g })
  | _ => .next s1

/-- CF_SHADOW_UPDATE: a broadcast becomes visible in the core and updates its shadow (R245). -/
def execCfShadowUpdate (c : CoreId) (s : State) : Host.Outcome State Fault Refusal :=
  let s1 := s.seeNone c
  if vget false s.stopped c.val then .next s
  else match s1.ccu.toCore[c] with
  | .flag n v :: _ => .next ((s1.popCore c).updSeq c fun q => { q with shadow := setBit q.shadow n.toNat v })
  | .flags v :: _ => .next ((s1.popCore c).updSeq c fun q => { q with shadow := v })
  | _ => .next s1

end Sys2Proof.Machine
end

