-- ==== Sys2Proof/Machine/Dispatch.lean ====
section
/-! DEFINITION. What each command does: one arm per command, each one call of its meaning. -/

namespace Sys2Proof.Machine

/-- The effect of a command on everything but the queue of waiting commands. -/
def exec (i : Instr) (s : State) : Host.Outcome State Fault Refusal :=
  match i with
  | .taskPollExpiry c => Sys2Proof.Machine.execTaskPollExpiry c s
  | .claim c => Sys2Proof.Machine.execClaim c s
  | .taskGrant c => Sys2Proof.Machine.execTaskGrant c s
  | .descriptorReceived c => Sys2Proof.Machine.execDescriptorReceived c s
  | .imageLoadDone c => Sys2Proof.Machine.execImageLoadDone c s
  | .endReport c => Sys2Proof.Machine.execEndReport c s
  | .headWordIssue c => Sys2Proof.Machine.execHeadWordIssue c s
  | .immediateTableWord c => Sys2Proof.Machine.execImmediateTableWord c s
  | .agAddi c => Sys2Proof.Machine.execAgAddi c s
  | .agAdd c => Sys2Proof.Machine.execAgAdd c s
  | .agSub c => Sys2Proof.Machine.execAgSub c s
  | .agShl c => Sys2Proof.Machine.execAgShl c s
  | .agShr c => Sys2Proof.Machine.execAgShr c s
  | .agAnd c => Sys2Proof.Machine.execAgAnd c s
  | .seti c => Sys2Proof.Machine.execSeti c s
  | .mov c => Sys2Proof.Machine.execMov c s
  | .cmp c => Sys2Proof.Machine.execCmp c s
  | .agMin c => Sys2Proof.Machine.execAgMin c s
  | .agMax c => Sys2Proof.Machine.execAgMax c s
  | .lda c => Sys2Proof.Machine.execLda c s
  | .ldaWrite c => Sys2Proof.Machine.execLdaWrite c s
  | .sta c => Sys2Proof.Machine.execSta c s
  | .staMade c => Sys2Proof.Machine.execStaMade c s
  | .loop c => Sys2Proof.Machine.execLoop c s
  | .endl c => Sys2Proof.Machine.execEndl c s
  | .br c => Sys2Proof.Machine.execBr c s
  | .brp c => Sys2Proof.Machine.execBrp c s
  | .call c => Sys2Proof.Machine.execCall c s
  | .ret c => Sys2Proof.Machine.execRet c s
  | .brk c => Sys2Proof.Machine.execBrk c s
  | .layer c => Sys2Proof.Machine.execLayer c s
  | .layerBarrierComplete c => Sys2Proof.Machine.execLayerBarrierComplete c s
  | .tend c => Sys2Proof.Machine.execTend c s
  | .halt c => Sys2Proof.Machine.execHalt c s
  | .taskEnd c => Sys2Proof.Machine.execTaskEnd c s
  | .brkHit c => Sys2Proof.Machine.execBrkHit c s
  | .watchdogExpiry c => Sys2Proof.Machine.execWatchdogExpiry c s
  | .waitTmoExpiry c => Sys2Proof.Machine.execWaitTmoExpiry c s
  | .abort c => Sys2Proof.Machine.execAbort c s
  | .abortEnd c => Sys2Proof.Machine.execAbortEnd c s
  | .abortDrainTmo c => Sys2Proof.Machine.execAbortDrainTmo c s
  | .signalRelease c => Sys2Proof.Machine.execSignalRelease c s
  | .cfSignal c => Sys2Proof.Machine.execCfSignal c s
  | .cfTakeRequest c => Sys2Proof.Machine.execCfTakeRequest c s
  | .takeReply c => Sys2Proof.Machine.execTakeReply c s
  | .cfShadowUpdate c => Sys2Proof.Machine.execCfShadowUpdate c s
  | .mma c => Sys2Proof.Machine.execMma c s
  | .mmac c => Sys2Proof.Machine.execMmac c s
  | .hrld c => Sys2Proof.Machine.execHrld c s
  | .hrmm c => Sys2Proof.Machine.execHrmm c s
  | .shape c => Sys2Proof.Machine.execShape c s
  | .shapeDone c => Sys2Proof.Machine.execShapeDone c s
  | .drain c => Sys2Proof.Machine.execDrain c s
  | .ascl c => Sys2Proof.Machine.execAscl c s
  | .mode c => Sys2Proof.Machine.execMode c s
  | .passStart c => Sys2Proof.Machine.execPassStart c s
  | .bankDrainComplete c => Sys2Proof.Machine.execBankDrainComplete c s
  | .abftMissReport c => Sys2Proof.Machine.execAbftMissReport c s
  | .parityAbortReport c => Sys2Proof.Machine.execParityAbortReport c s
  | .mxeHoldTmo c => Sys2Proof.Machine.execMxeHoldTmo c s
  | .mxeCfgTmo c => Sys2Proof.Machine.execMxeCfgTmo c s
  | .tld c => Sys2Proof.Machine.execTld c s
  | .tldRowReturn c op row r => Sys2Proof.Machine.execTldRowReturn c op row r s
  | .tldRowTmo c op row => Sys2Proof.Machine.execTldRowTmo c op row s
  | .tst c => Sys2Proof.Machine.execTst c s
  | .tstRowAccept c row r => Sys2Proof.Machine.execTstRowAccept c row r s
  | .tcfg c => Sys2Proof.Machine.execTcfg c s
  | .tinv c => Sys2Proof.Machine.execTinv c s
  | .lsHoldTmo c => Sys2Proof.Machine.execLsHoldTmo c s
  | .tluCfgTmo c => Sys2Proof.Machine.execTluCfgTmo c s
  | .vrun c => Sys2Proof.Machine.execVrun c s
  | .vred c => Sys2Proof.Machine.execVred c s
  | .vstat c => Sys2Proof.Machine.execVstat c s
  | .vclrClear c => Sys2Proof.Machine.execVclrClear c s
  | .vclrLoadc c => Sys2Proof.Machine.execVclrLoadc c s
  | .vclrSetk c => Sys2Proof.Machine.execVclrSetk c s
  | .vclrLoadp c => Sys2Proof.Machine.execVclrLoadp c s
  | .ftqTileSelect c => Sys2Proof.Machine.execFtqTileSelect c s
  | .vxComplete c => Sys2Proof.Machine.execVxComplete c s
  | .vxeHoldTmo c => Sys2Proof.Machine.execVxeHoldTmo c s
  | .vxeCfgTmo c => Sys2Proof.Machine.execVxeCfgTmo c s
  | .stSub c u => Sys2Proof.Machine.execStSub c u s
  | .ldpg c u => Sys2Proof.Machine.execLdpg c u s
  | .descriptorStart c u => Sys2Proof.Machine.execDescriptorStart c u s
  | .tbufGrant c => Sys2Proof.Machine.execTbufGrant c s
  | .mergeTimeout c u => Sys2Proof.Machine.execMergeTimeout c u s
  | .nlStarve c u => Sys2Proof.Machine.execNlStarve c u s
  | .streamReply c u req r => Sys2Proof.Machine.execStreamReply c u req r s
  | .descriptorComplete c u => Sys2Proof.Machine.execDescriptorComplete c u s
  | .streamElementTmo c u req => Sys2Proof.Machine.execStreamElementTmo c u req s
  | .cfl c => Sys2Proof.Machine.execCfl c s
  | .civ c => Sys2Proof.Machine.execCiv c s
  | .fence c => Sys2Proof.Machine.execFence c s
  | .cacheOpDone c r => Sys2Proof.Machine.execCacheOpDone c r s
  | .cchOpTmo c => Sys2Proof.Machine.execCchOpTmo c s
  | .wprCfgTmo c => Sys2Proof.Machine.execWprCfgTmo c s
  | .cspInbound c who write off bytes => Sys2Proof.Machine.execCspInbound c who write off bytes s
  | .send c => Sys2Proof.Machine.execSend c s
  | .bind c => Sys2Proof.Machine.execBind c s
  | .unbind c => Sys2Proof.Machine.execUnbind c s
  | .port c => Sys2Proof.Machine.execPort c s
  | .epochSpacingDone c p => Sys2Proof.Machine.execEpochSpacingDone c p s
  | .crel c => Sys2Proof.Machine.execCrel c s
  | .disarm c => Sys2Proof.Machine.execDisarm c s
  | .msgArrival c a => Sys2Proof.Machine.execMsgArrival c a s
  | .landingDone c p => Sys2Proof.Machine.execLandingDone c p s
  | .msgCut c sender => Sys2Proof.Machine.execMsgCut c sender s
  | .cack c a => Sys2Proof.Machine.execCack c a s
  | .creditReturn c a => Sys2Proof.Machine.execCreditReturn c a s
  | .chCreditTmo c => Sys2Proof.Machine.execChCreditTmo c s
  | .chAckTmo c ch => Sys2Proof.Machine.execChAckTmo c ch s
  | .chnHoldTmo c => Sys2Proof.Machine.execChnHoldTmo c s
  | .txb c => Sys2Proof.Machine.execTxb c s
  | .txbSlotTmo c => Sys2Proof.Machine.execTxbSlotTmo c s
  | .txStore c row => Sys2Proof.Machine.execTxStore c row s
  | .txOverwrite line => Sys2Proof.Machine.execTxOverwrite line s
  | .txAged slot => Sys2Proof.Machine.execTxAged slot s
  | .txc c => Sys2Proof.Machine.execTxc c s
  | .txa c => Sys2Proof.Machine.execTxa c s
  | .committingLineAck line r => Sys2Proof.Machine.execCommittingLineAck line r s
  | .durableLinesAcked slot => Sys2Proof.Machine.execDurableLinesAcked slot s
  | .commitWordAck slot r => Sys2Proof.Machine.execCommitWordAck slot r s
  | .durTmoExpiry slot => Sys2Proof.Machine.execDurTmoExpiry slot s
  | .txCmdAbort handle => Sys2Proof.Machine.execTxCmdAbort handle s
  | .txuLogCopy => Sys2Proof.Machine.execTxuLogCopy s
  | .evict => Sys2Proof.Machine.execEvict s
  | .evictAck => Sys2Proof.Machine.execEvictAck s
  | .evictFlushDone ext => Sys2Proof.Machine.execEvictFlushDone ext s
  | .ckptWritesAcked r => Sys2Proof.Machine.execCkptWritesAcked r s
  | .ckptCommitAck r => Sys2Proof.Machine.execCkptCommitAck r s
  | .evxTmoExpiry => Sys2Proof.Machine.execEvxTmoExpiry s
  | .restore image => Sys2Proof.Machine.execRestore image s
  | .restoreDone r => Sys2Proof.Machine.execRestoreDone r s
  | .redPost p record => Sys2Proof.Machine.execRedPost p record s
  | .instanceOpen g => Sys2Proof.Machine.execInstanceOpen g s
  | .reqArrival p lead => Sys2Proof.Machine.execReqArrival p lead s
  | .leadArrival p lead => Sys2Proof.Machine.execLeadArrival p lead s
  | .contributionComplete g lanes tail => Sys2Proof.Machine.execContributionComplete g lanes tail s
  | .pairDeadline g => Sys2Proof.Machine.execPairDeadline g s
  | .xferTmoExpiry g => Sys2Proof.Machine.execXferTmoExpiry g s
  | .resultArrival p lead lanes tail => Sys2Proof.Machine.execResultArrival p lead lanes tail s
  | .resultTmo g => Sys2Proof.Machine.execResultTmo g s
  | .deliveryDone g => Sys2Proof.Machine.execDeliveryDone g s
  | .groupEnable p g value => Sys2Proof.Machine.execGroupEnable p g value s
  | .groupDisable p g value => Sys2Proof.Machine.execGroupDisable p g value s
  | .packetRoute p pkt => Sys2Proof.Machine.execPacketRoute p pkt s
  | .rd pkt => Sys2Proof.Machine.execRd pkt s
  | .wr pkt => Sys2Proof.Machine.execWr pkt s
  | .rsp pkt => Sys2Proof.Machine.execRsp pkt s
  | .ack pkt => Sys2Proof.Machine.execAck pkt s
  | .err pkt => Sys2Proof.Machine.execErr pkt s
  | .mgmt pkt => Sys2Proof.Machine.execMgmt pkt s
  | .registerWrite page off value => Sys2Proof.Machine.execRegisterWrite page off value s
  | .shellReadTmo page => Sys2Proof.Machine.execShellReadTmo page s
  | .registerWriteTmo page => Sys2Proof.Machine.execRegisterWriteTmo page s
  | .sidebandRequest frame => Sys2Proof.Machine.execSidebandRequest frame s
  | .lcfReceive p flit => Sys2Proof.Machine.execLcfReceive p flit s
  | .lcfSend p => Sys2Proof.Machine.execLcfSend p s
  | .linkReplayTmo p => Sys2Proof.Machine.execLinkReplayTmo p s
  | .routeReplace p => Sys2Proof.Machine.execRouteReplace p s
  | .holdTmoDrop p tc => Sys2Proof.Machine.execHoldTmoDrop p tc s
  | .helloSend p => Sys2Proof.Machine.execHelloSend p s
  | .hello p words => Sys2Proof.Machine.execHello p words s
  | .helloTmo p => Sys2Proof.Machine.execHelloTmo p s
  | .linkRetrain p => Sys2Proof.Machine.execLinkRetrain p s
  | .coordWrite value => Sys2Proof.Machine.execCoordWrite value s
  | .bondBeat group tag first second => Sys2Proof.Machine.execBondBeat group tag first second s
  | .bondLaneRetire group lane => Sys2Proof.Machine.execBondLaneRetire group lane s
  | .bondGroupReturn group => Sys2Proof.Machine.execBondGroupReturn group s
  | .bondGroupRetire group => Sys2Proof.Machine.execBondGroupRetire group s
  | .tagReclaim tag => Sys2Proof.Machine.execTagReclaim tag s
  | .ceReport => Sys2Proof.Machine.execCeReport s
  | .ueReport => Sys2Proof.Machine.execUeReport s
  | .remapFill group index byUe => Sys2Proof.Machine.execRemapFill group index byUe s
  | .remapFillDone => Sys2Proof.Machine.execRemapFillDone s
  | .remapRelease value => Sys2Proof.Machine.execRemapRelease value s
  | .remapHostFill value => Sys2Proof.Machine.execRemapHostFill value s
  | .ecmTmoExpiry => Sys2Proof.Machine.execEcmTmoExpiry s
  | .scrubRead who => Sys2Proof.Machine.execScrubRead who s
  | .scrubLate who => Sys2Proof.Machine.execScrubLate who s
  | .flipArm => Sys2Proof.Machine.execFlipArm s
  | .flipDisarm => Sys2Proof.Machine.execFlipDisarm s
  | .flipApply => Sys2Proof.Machine.execFlipApply s
  | .ecmLogCopy => Sys2Proof.Machine.execEcmLogCopy s
  | .heartbeatToken island => Sys2Proof.Machine.execHeartbeatToken island s
  | .heartbeatReceive island => Sys2Proof.Machine.execHeartbeatReceive island s
  | .heartbeatMiss island => Sys2Proof.Machine.execHeartbeatMiss island s
  | .coreFence c reason => Sys2Proof.Machine.execCoreFence c reason s
  | .selftestDone c pass => Sys2Proof.Machine.execSelftestDone c pass s
  | .coreFenceWrite value => Sys2Proof.Machine.execCoreFenceWrite value s
  | .seqPause c v => Sys2Proof.Machine.execSeqPause c v s
  | .enginePause c block v => Sys2Proof.Machine.execEnginePause c block v s
  | .pauseReached c block => Sys2Proof.Machine.execPauseReached c block s
  | .srst page => Sys2Proof.Machine.execSrst page s
  | .csCmdWrite c index => Sys2Proof.Machine.execCsCmdWrite c index s
  | .csCmdRead c index => Sys2Proof.Machine.execCsCmdRead c index s
  | .tcfgPageWrite c t value => Sys2Proof.Machine.execTcfgPageWrite c t value s
  | .shapePageWrite c value => Sys2Proof.Machine.execShapePageWrite c value s
  | .chtPageWrite c off value => Sys2Proof.Machine.execChtPageWrite c off value s
  | .pgmPageWrite c p k value => Sys2Proof.Machine.execPgmPageWrite c p k value s
  | .flagSet c value => Sys2Proof.Machine.execFlagSet c value s
  | .flagClr c value => Sys2Proof.Machine.execFlagClr c value s
  | .cntWrite c n value => Sys2Proof.Machine.execCntWrite c n value s
  | .cthWrite c n value => Sys2Proof.Machine.execCthWrite c n value s
  | .cfSet value => Sys2Proof.Machine.execCfSet value s
  | .cfClr value => Sys2Proof.Machine.execCfClr value s
  | .cfBarWrite n value => Sys2Proof.Machine.execCfBarWrite n value s
  | .mirrorCopy => Sys2Proof.Machine.execMirrorCopy s
  | .copyDone u => Sys2Proof.Machine.execCopyDone u s
  | .cchInvall c => Sys2Proof.Machine.execCchInvall c s
  | .cchFlushall c => Sys2Proof.Machine.execCchFlushall c s
  | .cscInvall => Sys2Proof.Machine.execCscInvall s
  | .cacheCmdDone w => Sys2Proof.Machine.execCacheCmdDone w s
  | .bondCmdRetireLane value => Sys2Proof.Machine.execBondCmdRetireLane value s
  | .bondCmdRetireGroup value => Sys2Proof.Machine.execBondCmdRetireGroup value s
  | .dbgStep value => Sys2Proof.Machine.execDbgStep value s
  | .snap => Sys2Proof.Machine.execSnap s
  | .pmfreeze v => Sys2Proof.Machine.execPmfreeze v s
  | .pmcntClr page n => Sys2Proof.Machine.execPmcntClr page n s
  | .pwrReqRetain c => Sys2Proof.Machine.execPwrReqRetain c s
  | .pwrReqOff c => Sys2Proof.Machine.execPwrReqOff c s
  | .pwrReqOn c => Sys2Proof.Machine.execPwrReqOn c s
  | .freqChange c code => Sys2Proof.Machine.execFreqChange c code s
  | .clReqSleep => Sys2Proof.Machine.execClReqSleep s
  | .clReqOn => Sys2Proof.Machine.execClReqOn s
  | .clReqOff => Sys2Proof.Machine.execClReqOff s
  | .rstCold => Sys2Proof.Machine.execRstCold s
  | .rstWarm => Sys2Proof.Machine.execRstWarm s
  | .cmMbistDone fails => Sys2Proof.Machine.execCmMbistDone fails s
  | .bondCheckDone fails clocks => Sys2Proof.Machine.execBondCheckDone fails clocks s
  | .sproutHelloTmo => Sys2Proof.Machine.execSproutHelloTmo s
  | .ready => Sys2Proof.Machine.execReady s
  | .wsBypass => Sys2Proof.Machine.execWsBypass s
  | .wsExtest => Sys2Proof.Machine.execWsExtest s
  | .wsIntest => Sys2Proof.Machine.execWsIntest s
  | .wsScan => Sys2Proof.Machine.execWsScan s
  | .wsMbist => Sys2Proof.Machine.execWsMbist s
  | .wsBond => Sys2Proof.Machine.execWsBond s
  | .wsFuse => Sys2Proof.Machine.execWsFuse s
  | .passEnd c => Sys2Proof.Machine.execPassEnd c s
  | .hrldDone c => Sys2Proof.Machine.execHrldDone c s
  | .asclDone c => Sys2Proof.Machine.execAsclDone c s
  | .ldpgDone c u => Sys2Proof.Machine.execLdpgDone c u s
  | .fusesLatched ok => Sys2Proof.Machine.execFusesLatched ok s
  | .islandLogicStop island => Sys2Proof.Machine.execIslandLogicStop island s
  | .storageUpset t => Sys2Proof.Machine.execStorageUpset t s
  | .linkCtlDisable p v => Sys2Proof.Machine.execLinkCtlDisable p v s
  | .dbgSnapTmo => Sys2Proof.Machine.execDbgSnapTmo s

end Sys2Proof.Machine
end

