-- ==== Sys2Proof/Machine/Tick.lean ====
section
/-! DEFINITION. What time alone does: one CCU-island cycle passes while no command waits. Counters count, a port's and a stream
unit's work goes on, and register accesses that waited for their block are served. Timeouts and completions come with commands
of their own (DESIGN CHOICE). -/

namespace Sys2Proof.Machine

/-- Core cycles in the next CCU-island cycle (600 MHz against 0.6 + 0.05 × FREQ GHz, R515), and the phase that is left. -/
def Core.cycles (k : Core) : Nat × Nat := ((k.phase + 12 + k.freq.toNat) / 12, (k.phase + 12 + k.freq.toNat) % 12)

/-- Whether a core's clock runs. -/
def State.coreClock (s : State) (c : CoreId) : Bool := s.present c && (s.core c).seq.st != .off && !(vget false s.stopped c.val)

/-- Count the cycles of each credit wait in STALL_CC of its channel, and those in which the CHN waits for credits or holds a CREL
(R343, R349, R350). -/
def State.countStall (s : State) (c : CoreId) (n : Nat) : State :=
  let chs := ((s.creditWaits c).map fun x => x.2.1).dedup
  let s1 := chs.foldl (fun (t : State) ch => t.bumpRf (pgChn c) (0x808 + 0x18 * ch) 0 64 n) s
  let s2 := if chs.isEmpty then s1 else s1.pm (pgChn c) 0x04 n
  if s.crelWaits c then s2.pm (pgChn c) 0x09 n else s2

/-! Events of R111, R140, R182, R243 and R297 that count cycles of a hold which the state shows. -/

/-- Count `n` cycles of an event when it goes on. -/
def State.pmIf (s : State) (b : Bool) (page code n : Nat) : State := if b then s.pm page code n else s

/-- The SEQ event whose cycles pass at its head word (R243): LAYER, WAIT, an outstanding LDA, or a full queue. -/
def State.seqHeldBy (s : State) (c : CoreId) : Option Nat :=
  let q := (s.core c).seq
  match s.waitsOn c with
  | some (slot, _) => some (if slot = 11 then 0x07 else 0x02)
  | none =>
    if !s.headReady c then none
    else
      let f := s.fetchCw c q.pc
      let t := f.s.tableWord c f.word
      if f.ue || f.word.fmt != 1 || t.ue || (cwCheck q (s.rf (pgSeq c) 0x100 0 1 == 1) f.word t.word).isSome then none
      else if !(f.word.regs.all fun r => q.ldas.all fun l => l.d.toNat != r) then some 0x04
      else if !roomFor q f.word then some 0x03
      else none

/-- The MXE event whose cycles pass (R111): tile, bank, FTQ slot, scale buffer, or the hold of R103. -/
def State.mxHeldBy (s : State) (c : CoreId) : Option Nat :=
  match s.mxHeld c with
  | some (cond, _, _) => some (cond + 1)
  | none => if s.cfgHold c 1 then some 0x06 else none

/-- The VXE event whose cycles pass (R182): tile, SB entry, FTQ slot, landing data, the hold of R158, or a predecessor. -/
def State.vxHeldBy (s : State) (c : CoreId) : Option Nat :=
  match s.vxHeld c with
  | some (_, cond, _) => if cond = 0 then none else if cond = 9 then some 0x09 else some (if cond = 1 then 0x02 else cond)
  | none => if s.cfgHold c 2 then some 0x08 else none

/-- Count the cycles of a core's holds. -/
def State.countHolds (s : State) (c : CoreId) (n : Nat) : State :=
  let at_ := fun (t : State) (page : Nat) (x : Option Nat) => match x with
    | some code => t.pm page code n
    | none => t
  let k := s.core c
  let s1 := at_ (at_ (at_ s (pgSeq c) (s.seqHeldBy c)) (pgMxe c) (s.mxHeldBy c)) (pgVxe c) (s.vxHeldBy c)
  let s2 := s1.pmIf (s.alive c && k.vxe.acts.any fun a => !a.sends.isEmpty) (pgVxe c) 0x06 n
  let s3 := s2.pmIf ((s.lsHeld c).any fun x => x.2.1 == 1) (pgTrf c) 0x08 n
  let s4 := s3.pmIf (s.strLive c && k.str.units.toList.any StrUnit.waitsT) (pgStr c) 0x09 n
  s4.pmIf (k.seq.layer && (s.busy c 4 || s.queued c 4)) (pgStr c) 0x0B n

/-- A core's counters and stream units in one CCU-island cycle (R232, R260, R513). -/
def State.coreTick (s : State) (c : CoreId) : State :=
  if !s.coreClock c then s
  else
    let (n, phase) := (s.core c).cycles
    let s1 := (s.countStall c n).countHolds c n
    let waits := (s.waitsOn c).isSome
    let s2 := s1.updCore c fun k =>
      let running := k.seq.st == .run || k.seq.st == .drain
      { k with
        cyc := k.cyc + BitVec.ofNat 64 n
        phase := phase
        seq := { k.seq with
          wdogCnt := if running then k.seq.wdogCnt + BitVec.ofNat 64 n else k.seq.wdogCnt
          waitCnt := if waits then k.seq.waitCnt + n else k.seq.waitCnt } }
    if s2.strLive c then s2.strPump c else s2

/-- An invalidation of the CSC sweeps a set of sixteen lines in two memory-island cycles (R327). -/
def State.cscTick (s : State) : State :=
  match s.cscOp with
  | none => s
  | some n => { s.cscSweep n (n + 1) with cscOp := if n < 1023 then some (n + 1) else none }

/-- Whether a TXB waits for a slot (R377). -/
def State.txbWaits (s : State) : Bool :=
  s.txu.freeSlot.isNone && (List.finRange 8).any fun c => (s.txHead c 12).isSome && (s.txu.heldBy c).isNone

/-- The memory island in one CCU-island cycle: two of its own, in which the ages of transactions advance, saturating
(R376), an invalidation of the CSC goes on, and cycles with every tag held, or with a TXB that waits, count (R377, R484). -/
def State.memTick (s : State) : State :=
  if s.memHalted then s
  else
    let older := fun (t : TxSlot) => if t.st = .free then t else { t with age := BitVec.ofNat 32 (min (2 ^ 32 - 1) (t.age.toNat + 2)) }
    let t := (s.cscTick.pmIf (decide (2048 ≤ s.rqt.tags.length)) 5 0x02 2).pmIf s.txbWaits 3 0x06 2
    { t with memCyc := s.memCyc + 2, txu := { t.txu with slots := t.txu.slots.map older } }

/-- Whether a packet is ready at a port and waits for credits (R450). -/
def Port.starved (q : Port) : Bool :=
  (List.range 4).any fun tc => match vget [] q.txq tc with
    | k :: _ => linkCarries q.link k && decide (vget 0 q.credits tc < k.flits)
    | [] => false

/-- A port island in one CCU-island cycle: two of its own. -/
def State.portTick (s : State) (p : PortId) : State :=
  if vget false s.stopped (10 + p.val) then s
  else
    let t := { s with portCyc := s.portCyc.set p (s.portCyc[p] + 2) }.pumpAll p
    (t.pmIf t.ports[p].starved (pgMp p) 0x09 2).pmIf (t.adding p) (pgMp p) 0x48 2

/-- Islands that a snapshot still waits for and that run again latch their CYC (R513). -/
def State.snapPoll (s : State) : State :=
  if s.rf 15 0x100 3 1 = 1 then
    let snap : Vector (Option Dword) 14 := Vector.ofFn fun i => match s.snap[i] with
      | some v => some v
      | none => s.snapCyc i.val
    ({ s with snap := snap }).setRf 15 0x100 3 1 (bit (snap.toList.any (·.isNone)))
  else s

/-- The CCU island in one cycle: CYC and the heartbeat counters count, waiting register accesses are served; the EVX's flush and
requests for RETAIN or OFF that wait for request tags go on. -/
def State.ccuTick (s : State) : State :=
  if !s.ccuAlive then s
  else
    let s1 := s.updCcu fun u => { u with
      cyc := u.cyc + 1
      hbCount := vmap (fun i n => if s.hbExpected (Fin.ofNat 13 i) then n + 1 else n) u.hbCount }
    let s2 := s1.snapPoll
    let s3 := s2.ccu.pend.foldl (fun (t : State) e => t.serveWaiting e.1 (t.waitingAt e.1).length) s2
    let s4 := s3.pmIf (s3.evx.phase == .writing || s3.evx.phase == .restoring) 4 0x06 1
    (List.finRange 8).foldl State.pwrPoll s4.evFlush

/-- One CCU-island cycle. -/
def State.tick (s : State) : State :=
  ((List.finRange 4).foldl State.portTick ((List.finRange 8).foldl State.coreTick s)).memTick.ccuTick

end Sys2Proof.Machine
end

