-- ==== Sys2Proof/Safety.lean ====
section
/-! DEFINITION. What counts as a safe run, and the terms in which claims are stated: the outcome type, one byte of memory, the
canonical form of memory, and which part of the state a command may have touched. -/

namespace Sys2Proof.Machine

/-- What a command or a step answers. -/
abbrev Ans := Host.Outcome State Fault Refusal

/-- The CM and the CSPs are held in canonical form: addresses strictly rising and no byte listed that reads 0. -/
def State.memWf (s : State) : Bool := tabWf 0 s.mem

/-- One byte of the CM or of a CSP, by its cluster offset (R24). -/
def State.byteAt (s : State) (a : Nat) : Byte := memByte s.mem a

/-- The logic of a core's island runs (R471). -/
abbrev State.coreRuns (s : State) (c : CoreId) : Prop := vget false s.stopped c.val = false

/-- `t` differs from `s` at most in the control core of core c. -/
def onlySeq (s t : State) (c : CoreId) : Prop := t = s.updSeq c fun _ => (t.core c).seq

/-- `t` differs from `s` at most in core c. -/
def onlyCore (s t : State) (c : CoreId) : Prop := t = s.updCore c fun _ => t.core c

/-- `t` is `s` after core c has raised an abort cause that bit `b` of a page records: the cause is the newest of the held
task's, the ERR bit is set unless it is masked, and memory is as it was (R233, R491). -/
def Raises (s t : State) (c : CoreId) (page b : Nat) (code : Byte) : Prop :=
  (t.core c).seq.causes = (s.core c).seq.causes ++ [⟨code, false⟩] ∧
    (bitAt (s.reg page 0x28) b = false → bitAt (t.reg page 0x20) b = true) ∧ t.mem = s.mem

/-- The router can hand an access to a page's block at once: the CCU and the page's island run, no earlier access of the page
waits, and the core of a core's page is present, powered and not in self-test (R486, R498, R504). -/
def State.regReady (s : State) (page : Nat) : Bool :=
  s.ccuAlive && !(vget false s.stopped (islandOf page)) && (s.waitingAt page).isEmpty
    && (decide (page < 0x40) || (s.present (pageCore page) && (s.core (pageCore page)).seq.st != .off
      && !(s.fenced (pageCore page) && s.ccu.watch[pageCore page].test == .running)))

/-- A run is safe when every step answers a next state: the spec gives every command of the cluster an outcome. -/
def SafeRun (n : Nat) (s : State) : Prop := ∃ t, Host.Core.run ⟨State, Fault, Refusal, step, State.reset⟩ n s = .next t

end Sys2Proof.Machine
end

