-- ==== Sys2Proof/Certificates/Slice0/Obligations.lean ====
section
/-! DEFINITION. The statements for the provers. Where a statement says `exec i s = .next t`, the command completes and `t` is all
that it leaves: what `t` does not change is unchanged. A title or text that says "model's choice" rests on the named entry of the
assumption log and not on a rule of the spec. -/

open Sys2Proof Sys2Proof.Machine


/-- A step runs the command at the front of the queue. For every command c and state s, the step of s with c put at the
front of its queue is exec c on s with the queue's rest: exec sees the other commands still waiting and nothing else
is added around it. -/
def Obligations.FrontCommandRunsWithTheRest : Prop :=
  ∀ (s : State) (c : Instr) (rest : List Instr),
    step { s with pending := c :: rest } = exec c { s with pending := rest }

/-- With no command waiting one CCU-island cycle passes. Model's choice (assumption 2): on an empty queue the step is the
tick, and right after reset the tick counts one CCU-island cycle and two memory-island cycles (R514). -/
def Obligations.EmptyQueueLetsACyclePass : Prop :=
  (∀ s : State, s.pending = [] → step s = .next s.tick) ∧
  (∀ f : Byte, let s : State := { State.reset with fuses := ⟨f, []⟩ }
    s.tick.ccu.cyc = 1 ∧ s.tick.memCyc = 2)

/-- ADDI, ADD, SUB, SHL, SHR, AND, MIN, MAX, SETI and MOV write A[d]. When the issued word's AG operation is the named one
and the core's logic runs, the command answers the state in which A[d] holds the value of R208 computed from the
registers as they stood before the word (R205), and nothing but A[d] and the latched operation has changed. SETI and
MOV write the value their word read when it issued (R205, R208, R209, R211). -/
def Obligations.AgOperationWritesItsDestination : Prop :=
  ∀ (s : State) (c : CoreId) (l : AgLatch), (s.core c).seq.ag = some l → s.coreRuns c →
    let a := fun (lo : Nat) => vget 0 l.regs (fld l.bits lo 4)
    let writes := fun (v : Addr) =>
      (Host.Outcome.next (s.updSeq c fun q => { q with a := vset q.a (fld l.bits 16 4) v, ag := none }) : Ans)
    (op24 l.bits = 1 →
      exec (.agAddi c) s = writes (a 16 + (l.bits.extractLsb' 0 14).signExtend 48 <<< (4 * fld l.bits 14 2))) ∧
    (op24 l.bits = 2 → exec (.agAdd c) s = writes (a 12 + a 8)) ∧
    (op24 l.bits = 3 → exec (.agSub c) s = writes (a 12 - a 8)) ∧
    (op24 l.bits = 4 → exec (.agShl c) s = writes (a 12 <<< fld l.bits 0 6)) ∧
    (op24 l.bits = 5 → exec (.agShr c) s = writes (a 12 >>> fld l.bits 0 6)) ∧
    (op24 l.bits = 6 → exec (.agAnd c) s = writes (a 12 &&& a 8)) ∧
    (op24 l.bits = 7 → exec (.seti c) s = writes l.val) ∧
    (op24 l.bits = 8 → exec (.mov c) s = writes l.val) ∧
    (op24 l.bits = 10 → exec (.agMin c) s = writes (if (a 12).toNat < (a 8).toNat then a 12 else a 8)) ∧
    (op24 l.bits = 11 → exec (.agMax c) s = writes (if (a 12).toNat < (a 8).toNat then a 8 else a 12))

/-- CMP sets Z, N and C from the two registers and writes no register. CMP sets Z when A[s1] equals A[s2], N when A[s1] is
less as signed and C when it is less as unsigned 48-bit values, on the registers as they stood before the word; no A
register and nothing else changes but the latched operation. A task starts with the three flags 0 (R205, R210). -/
def Obligations.CompareSetsZNC : Prop :=
  (∀ (s : State) (c : CoreId) (l : AgLatch), (s.core c).seq.ag = some l → s.coreRuns c → op24 l.bits = 9 →
    let x := vget 0 l.regs (fld l.bits 12 4)
    let y := vget 0 l.regs (fld l.bits 8 4)
    exec (.cmp c) s = .next (s.updSeq c fun q =>
      { q with z := decide (x = y), n := decide (x.toInt < y.toInt), c := decide (x.toNat < y.toNat), ag := none })) ∧
  (∀ (s : State) (c : CoreId) (t : Task) (r : Vector Addr 16),
    let q := ((s.startTask c t r).core c).seq
    q.z = false ∧ q.n = false ∧ q.c = false)

/-- LDA and STA are recorded when their word issues and then read and write the CSP. LDA records its load and STA its
store, with the address A[s] + 8 × off and the value A[d] as they stood before the word. LDA_WRITE, once no STA of an
earlier word is outstanding, writes the low 48 bits of the 8 bytes read into A[d]. STA_MADE, once no VX instruction of
an earlier word is queued or in progress, writes the 8 bytes of the zero-extended value through the CSP's write (R208,
R212, R213). -/
def Obligations.LdaAndStaGoThroughTheCsp : Prop :=
  ∀ (s : State) (c : CoreId),
    (∀ l : AgLatch, (s.core c).seq.ag = some l → s.coreRuns c →
      let at_ : Addr := vget 0 l.regs (fld l.bits 12 4) + (l.bits.extractLsb' 0 12).setWidth 48 * 8
      (op24 l.bits = 12 → exec (.lda c) s = .next (s.updSeq c fun q =>
        { q with ldas := q.ldas ++ [⟨l.bits.extractLsb' 16 4, at_, l.num, l.cw⟩], ag := none })) ∧
      (op24 l.bits = 13 → exec (.sta c) s = .next (s.updSeq c fun q =>
        { q with stas := q.stas ++ [⟨at_, vget 0 l.regs (fld l.bits 16 4), l.num, l.cw⟩], ag := none }))) ∧
    (∀ (l : LdaPend) (rest : List LdaPend) (off : Nat), (s.core c).seq.ldas = l :: rest → s.alive c = true →
      (∀ t ∈ (s.core c).seq.stas, l.num ≤ t.num) → s.ownCsp c l.addr.toNat = some off →
      let r := s.cspLoad c .ownCore off 8
      r.bad = [] →
      exec (.ldaWrite c) s = .next (r.s.updSeq c fun q =>
        { q with ldas := rest, a := vset q.a l.d.toNat (BitVec.ofNat 48 (leNat r.bytes)) })) ∧
    (∀ (t : StaPend) (rest : List StaPend) (off : Nat), (s.core c).seq.stas = t :: rest → s.alive c = true →
      (∀ e ∈ (s.core c).seq.vxq, t.num ≤ e.num) → (∀ a ∈ (s.core c).vxe.acts, t.num ≤ a.e.num) →
      s.ownCsp c t.addr.toNat = some off →
      exec (.staMade c) s = .next ((s.cspStore c .ownCore off (natLe 8 t.val.toNat)).s.updSeq c fun q =>
        { q with stas := rest }))

/-- Beats are checked and sent again once; lanes and groups are retired; tags are reclaimed. BOND_BEAT over a usable group
counts every word it corrects; a beat with an uncorrectable word is sent again and counted in RESENT, and one that
fails twice ends its request as uncorrectable. Retiring a lane takes a spare and takes the group out of the pool until
BOND_GROUP_RETURN; with no spare left the group is retired, by BOND_GROUP_RETIRE or by command. BOND_CMD acts as OP
says. TAG_RECLAIM frees the tag, remembers it and treats the request as timed out (R419, R421, R422, R423, R478). -/
def Obligations.BondChecksBeatsAndRetiresLanes : Prop :=
  ∀ (s : State) (group : Byte),
    let g := group.toNat
    (s.memHalted = false → g < 168 → (s.bondGroup g).retired = false → (s.bondGroup g).out = false →
      ∀ (tag : BitVec 11) (first second : List (BitVec 80)),
        let u := s.beatCount g (beatCheck first).2
        let v := (u.bumpRf 1 0x128 32 32 1).beatCount g (beatCheck second).2
        ((∀ m ∈ first.take 8, m = 0) → exec (.bondBeat group tag first second) s = .next (s.beatCount g [])) ∧
        ((beatCheck first).1 = false → exec (.bondBeat group tag first second) s = .next u) ∧
        ((beatCheck first).1 = true → (beatCheck second).1 = false → exec (.bondBeat group tag first second) s = .next v) ∧
        ((beatCheck first).1 = true → (beatCheck second).1 = true → exec (.bondBeat group tag first second) s = .next (v.beatFail tag))) ∧
    (∀ lane : BitVec 10, s.memHalted = false → s.laneDue g lane.toNat = true → g < 168 → lane.toNat < 642 →
      (s.bondGroup g).retired = false → (s.bondGroup g).lanes.contains lane.toNat = false → (s.bondGroup g).spares ≠ 0 →
      ∃ t, exec (.bondLaneRetire group lane) s = .next t ∧ (t.bondGroup g).spares = (s.bondGroup g).spares - 1 ∧
        (t.bondGroup g).out = true ∧ (t.bondGroup g).last = lane ∧ lane.toNat ∈ (t.bondGroup g).lanes ∧
        ∀ h, h ≠ g → t.bondGroup h = s.bondGroup h) ∧
    (s.memHalted = false → (s.bondGroup g).out = true → (s.bondGroup g).retired = false →
      ∃ t, exec (.bondGroupReturn group) s = .next t ∧ (t.bondGroup g).out = false ∧
        (t.bondGroup g).spares = (s.bondGroup g).spares ∧ ∀ h, h ≠ g → t.bondGroup h = s.bondGroup h) ∧
    (s.memHalted = false → g < 168 → (s.bondGroup g).retired = false → (s.bondGroup g).spares = 0 →
      (∃ l < 640, s.laneDue g l = true ∧ (s.bondGroup g).lanes.contains l = false) →
      ∃ t, exec (.bondGroupRetire group) s = .next t ∧ (t.bondGroup g).retired = true) ∧
    (s.regReady 1 = true → ∀ (v : Dword) (w : Word32), huskValue v = some w →
      (fld w 18 2 = 2 → fld w 0 8 < 168 → ∃ t, exec (.bondCmdRetireGroup v) s = .next t ∧ t.ccu.answer.outcome = 0 ∧
        (t.bondGroup (fld w 0 8)).retired = true) ∧
      (fld w 18 2 = 1 → fld w 0 8 < 168 → fld w 8 10 < 642 → (s.bondGroup (fld w 0 8)).retired = false →
        (s.bondGroup (fld w 0 8)).lanes.contains (fld w 8 10) = false →
        ∃ t, exec (.bondCmdRetireLane v) s = .next t ∧ t.ccu.answer.outcome = 0 ∧
          ((s.bondGroup (fld w 0 8)).spares = 0 → (t.bondGroup (fld w 0 8)).retired = true) ∧
          ((s.bondGroup (fld w 0 8)).spares ≠ 0 →
            (t.bondGroup (fld w 0 8)).spares = (s.bondGroup (fld w 0 8)).spares - 1))) ∧
    (∀ (tag : BitVec 11) (x : Tag), s.memHalted = false → tget none s.rqt.tags tag.toNat = some x → x.user = .plain 0 →
      ∃ t, exec (.tagReclaim tag) s = .next t ∧ tget none t.rqt.tags tag.toNat = none ∧ t.rqt.late = (tag, x) :: s.rqt.late ∧
        (bitAt (s.reg 5 0x28) 8 = false → bitAt (t.reg 5 0x20) 8 = true) ∧ ∀ c, t.core c = s.core c)

/-- Reports are counted, tracked and logged; fills and releases move a word to a spare and back. CE_REPORT counts in
CORRECTED; a word that no TEST flip marks is tracked, unless the report brings it to the limit and its fill is
attempted at once. UE_REPORT counts in UNCORR. A fill that is due takes the lowest entry not VALID, or with none free
sets ERR.REMAP_FULL; REMAP_FILL_DONE makes the entry VALID for the word. A host write with VALID = 1 fills the
selected entry, one with VALID = 0 releases it, and either is refused with BUSY while a fill or release is in
progress. ECM_TMO_EXPIRY ends it and leaves the entry (R454, R455, R464, R466, R467, R481). -/
def Obligations.ReportsAreLoggedAndWordsRemapped : Prop :=
  ∀ s : State, s.ccuAlive = true →
    (∀ (r : EccReport) (rest : List EccReport), s.ecm.ceQ = r :: rest →
      ∃ t, exec .ceReport s = .next t ∧ t.ecm.ceQ = rest ∧ (r.test = true → t.ecm.tracker = s.ecm.tracker) ∧
        (r.test = false → (∃ x ∈ t.ecm.tracker, x.group = r.group ∧ x.index = r.index) ∨
          (s.ecm.op = none ∧ (t.ecm.op ≠ none ∨ s.freeEntry r.group = none))) ∧
        t.rf 6 0x118 0 32 = (s.rf 6 0x118 0 32 + 1) % 2 ^ 32 ∧ ∀ a, t.byteAt a = s.byteAt a) ∧
    (∀ (r : EccReport) (rest : List EccReport), s.ecm.ueQ = r :: rest →
      ∃ t, exec .ueReport s = .next t ∧ t.ecm.ueQ = rest ∧ t.rf 6 0x118 32 32 = (s.rf 6 0x118 32 32 + 1) % 2 ^ 32 ∧
        (bitAt (s.reg 6 0x28) 8 = false → bitAt (t.reg 6 0x20) 8 = true) ∧ ∀ a, t.byteAt a = s.byteAt a) ∧
    (∀ (g : BitVec 7) (i : BitVec 17) (byUe : Bool), s.ecm.op = none → s.fillDue g.toNat i.toNat byUe = true →
      (∀ k, s.freeEntry g.toNat = some k →
        ∃ t, exec (.remapFill g i byUe) s = .next t ∧ t.ecm.op = some ⟨g.toNat, k, i.toNat, true, false, byUe⟩) ∧
      (s.freeEntry g.toNat = none → ∃ t, exec (.remapFill g i byUe) s = .next t ∧ t.ecm.op = none ∧
        (bitAt (s.reg 6 0x28) 9 = false → bitAt (t.reg 6 0x20) 9 = true))) ∧
    (∀ o : RemapOp, s.ecm.op = some o →
      (s.groupLive o.group = true → o.fill = true → o.index < 2 ^ 17 →
        ∃ t, exec .remapFillDone s = .next t ∧ t.ecm.op = none ∧ remapValid (t.remap o.group o.entry) = true ∧
          remapIndex (t.remap o.group o.entry) = o.index) ∧
      (s.groupLive o.group = true → o.fill = false →
        ∃ t, exec .remapFillDone s = .next t ∧ t.ecm.op = none ∧ remapValid (t.remap o.group o.entry) = false) ∧
      (∃ t, exec .ecmTmoExpiry s = .next t ∧ t.ecm.op = none ∧ t.ecm.remap = s.ecm.remap)) ∧
    (s.regReady 6 = true → ∀ (v : Dword) (w : Word32), huskValue v = some w →
      let g := s.rf 6 0x128 0 7
      let k := s.rf 6 0x128 7 3
      (remapValid w = true → s.ecm.op = none → groupExists g = true →
        ∃ t, exec (.remapHostFill v) s = .next t ∧ t.ecm.op = some ⟨g, k, remapIndex w, true, true, false⟩ ∧
          t.ccu.answer.outcome = 0) ∧
      (remapValid w = false → s.ecm.op = none → groupExists g = true → remapValid (s.remap g k) = true →
        ∃ t, exec (.remapRelease v) s = .next t ∧ t.ecm.op = some ⟨g, k, remapIndex (s.remap g k), false, true, false⟩ ∧
          t.ccu.answer.outcome = 0) ∧
      (s.ecm.op ≠ none → remapValid w = true →
        ∃ t, exec (.remapHostFill v) s = .next t ∧ t.ecm.op = s.ecm.op ∧ t.ccu.answer.outcome = 1))

/-- Scrubbers read their lines in order; a flip applies to the next write; an upset flips one bit. SCRUB_READ of a running
scrubber checks the words of its next line and moves to the next, counting a pass at the last line. SCRUB_LATE sets
ERR.SCRUB_LATE. FLIP_ARM and FLIP_DISARM set and clear ARMED. FLIP_APPLY stores the armed word XOR the mask, clears
ARMED and sets DONE. STORAGE_UPSET of a word flips that bit of the code word in its array and nothing else; of any
other target it leaves registers, memory and ports as they were (R452, R456, R458, R459, R460, R468, R469). -/
def Obligations.ScrubbersFlipsAndUpsets : Prop :=
  ∀ s : State,
    (∀ who : Fin 9, s.scrubs who = true →
      let u := ((s.scrubWords who).foldl (fun (t : State) w => t.scrubWord w.1 w.2) s).pm 6 0x03 1
      (u.ecm.scrub[who] + 1 < scrubLines who →
        exec (.scrubRead who) s = .next { u with ecm := { u.ecm with scrub := u.ecm.scrub.set who (u.ecm.scrub[who] + 1) } }) ∧
      (scrubLines who ≤ u.ecm.scrub[who] + 1 → ∃ t, exec (.scrubRead who) s = .next t ∧ t.ecm.scrub[who] = 0 ∧
        t.rf 6 0x110 (if who.val = 8 then 0 else 32) 32 = (u.rf 6 0x110 (if who.val = 8 then 0 else 32) 32 + 1) % 2 ^ 32) ∧
      (∃ t, exec (.scrubLate who) s = .next t ∧ (bitAt (s.reg 6 0x28) 10 = false → bitAt (t.reg 6 0x20) 10 = true) ∧
        t.ecm.scrub = s.ecm.scrub ∧ ∀ a, t.byteAt a = s.byteAt a)) ∧
    (s.regReady 6 = true →
      (∃ t, exec .flipArm s = .next t ∧ t.rf 6 0x158 1 1 = 1 ∧ t.ecm = s.ecm) ∧
      (∃ t, exec .flipDisarm s = .next t ∧ t.rf 6 0x158 1 1 = 0 ∧ t.ecm = s.ecm)) ∧
    (let g := s.rf 6 0x150 17 7
     let i := s.rf 6 0x150 0 17
     s.rf 6 0x158 1 1 = 1 → groupExists g = true → i < groupWords g → s.groupLive g = true →
      ∃ t, exec .flipApply s = .next t ∧ t.upsetOf g i = s.flipMask ∧ t.rf 6 0x158 1 1 = 0 ∧ t.rf 6 0x158 2 1 = 1 ∧
        t.poisoned g i = false ∧ wordKey g i ∈ t.ecm.tested ∧ ∀ a, t.byteAt a = s.byteAt a) ∧
    (∀ (g : BitVec 7) (i : BitVec 17) (b : Fin 80), groupExists g.toNat = true → i.toNat < groupWords g.toNat →
      ∃ t, exec (.storageUpset (.word g i b)) s = .next t ∧
        tget 0 t.ecm.upsets (wordKey g.toNat i.toNat) = tget 0 s.ecm.upsets (wordKey g.toNat i.toNat) ^^^ (1 <<< b.val) ∧
        (∀ n, n ≠ wordKey g.toNat i.toNat → tget 0 t.ecm.upsets n = tget 0 s.ecm.upsets n) ∧
        (∀ a, t.byteAt a = s.byteAt a) ∧ t.regs = s.regs ∧ t.cores = s.cores) ∧
    ∀ x : UpsetTarget, ∃ t, exec (.storageUpset x) s = .next t ∧ t.regs = s.regs ∧ t.mem = s.mem ∧ t.ports = s.ports

/-- A poisoned spare word gives a UE to reads, takes full writes and refuses partial ones. For every word served by a
poisoned spare: a read is uncorrectable; a full 64-bit write stores the new data and clears POISON; a partial write is
refused and leaves memory and POISON as they were (R465). -/
def Obligations.PoisonedSpareWord : Prop :=
  ∀ (s : State) (src w : Nat) (cs : List (Nat × Byte)),
    let g := (placeOf (8 * w)).1
    let i := (placeOf (8 * w)).2
    s.poisoned g i = true →
      (s.readWord src g i).ue = true ∧
      (8 ≤ cs.length → (s.storeWords src [(w, cs)]).refused = false ∧ (s.storeWords src [(w, cs)]).s.mem = memPuts s.mem cs ∧
        (s.storeWords src [(w, cs)]).s.poisoned g i = false) ∧
      (cs.length < 8 → (s.storeWords src [(w, cs)]).refused = true ∧ (s.storeWords src [(w, cs)]).s.mem = s.mem ∧
        (s.storeWords src [(w, cs)]).s.poisoned g i = true)

/-- PID.[55:40] reads 0x0300 on every page, fenced and fused-off cores' pages included. For every page that exists, in
every state: both the block's own read and the page shell's read of PID give 0x0300 in bits 55 to 40 (R5). -/
def Obligations.PagesAreIdentified : Prop :=
  ∀ (s : State) (page : Nat), blockOf page ≠ none →
    fld (s.view page 0) 40 16 = 0x0300 ∧ fld (s.shellView page 0) 40 16 = 0x0300

/-- Host writes of flags, counters, thresholds, cluster flags and barrier masks take effect. FLAG_SET and FLAG_CLR set and
clear the bits of the mask in the core's FLAGS; CNT_WRITE and CTH_WRITE write 16 bits of one counter or threshold;
CF_SET and CF_CLR set and clear the cluster flags of the mask; CF_BAR_WRITE writes MASK. Each is applied with outcome
0, whatever the core's state, and changes no other core and no memory (R258, R262, R263, R264). -/
def Obligations.FlagsAndCountersAreWritten : Prop :=
  ∀ s : State,
    (∀ (c : CoreId) (v : Dword) (n : Fin 16), s.regReady (pgSeq c) = true →
      let done := fun (t : State) => t.ccu.answer.outcome = 0 ∧ t.ccu.answer.err = 0 ∧ (∀ d, d ≠ c → t.core d = s.core d) ∧
        ∀ a, t.byteAt a = s.byteAt a
      (∃ t, exec (.flagSet c v) s = .next t ∧ done t ∧ (t.core c).seq = { (s.core c).seq with flags := (s.core c).seq.flags ||| v }) ∧
      (∃ t, exec (.flagClr c v) s = .next t ∧ done t ∧
        (t.core c).seq = { (s.core c).seq with flags := (s.core c).seq.flags &&& ~~~v }) ∧
      (∃ t, exec (.cntWrite c n v) s = .next t ∧ done t ∧
        (t.core c).seq = { (s.core c).seq with cnt := (s.core c).seq.cnt.set n (v.setWidth 16) }) ∧
      (∃ t, exec (.cthWrite c n v) s = .next t ∧ done t ∧ t.core c = s.core c ∧
        t.reg (pgSeq c) (0x3C0 + 8 * n.val) = v &&& 0xFFFF)) ∧
    (s.regReady 0 = true → ∀ (v : Dword) (n : Fin 32),
      let done := fun (t : State) => t.ccu.answer.outcome = 0 ∧ t.ccu.answer.err = 0 ∧ (∀ d, t.core d = s.core d) ∧
        ∀ a, t.byteAt a = s.byteAt a
      (∃ t, exec (.cfSet v) s = .next t ∧ done t ∧ t.ccu.cf = s.ccu.cf ||| v.setWidth 32) ∧
      (∃ t, exec (.cfClr v) s = .next t ∧ done t ∧ t.ccu.cf = s.ccu.cf &&& ~~~(v.setWidth 32)) ∧
      (∃ t, exec (.cfBarWrite n v) s = .next t ∧ done t ∧ fld (t.reg 0 (0x440 + 8 * n.val)) 0 8 = fld v 0 8))

/-- CTL.PAUSE pauses a core or one engine; CTL.SRST resets a block that may be reset. Pausing a core that is IDLE with no
task held makes it PAUSED at once, and clearing the pause ends PAUSED: the core runs again with a task held and is
IDLE without. A pause of an engine with nothing in progress is reached at once. PAUSE_REACHED makes a paused core that
has nothing in progress PAUSED. SRST on the CCU page changes nothing; on an SEQ page without a task it clears PC,
FLAGS and stacks; on an engine's page it is applied while the core is IDLE, FENCED or PAUSED without a task and else
refused with BUSY (R225, R489, R500, R501). -/
def Obligations.PausesAndSoftResets : Prop :=
  ∀ (s : State) (c : CoreId),
    (s.regReady (pgSeq c) = true →
      ((s.core c).seq.st = .idle → (s.core c).seq.task = none →
        ∃ t, exec (.seqPause c true) s = .next t ∧ (t.core c).seq.st = .paused ∧ t.paused (pgSeq c) = true) ∧
      ((s.core c).seq.st = .run →
        ∃ t, exec (.seqPause c true) s = .next t ∧ t.core c = s.core c ∧ t.paused (pgSeq c) = true) ∧
      ((s.core c).seq.st = .paused → (s.core c).seq.task ≠ none → (s.core c).seq.draining = none → (s.core c).seq.abortTask = false →
        ∃ t, exec (.seqPause c false) s = .next t ∧ (t.core c).seq.st = .run ∧ t.paused (pgSeq c) = false) ∧
      ((s.core c).seq.st = .paused → (s.core c).seq.task = none →
        ∃ t, exec (.seqPause c false) s = .next t ∧ (t.core c).seq.st = .idle) ∧
      ((s.core c).seq.st = .idle → (s.core c).seq.holds = false →
        ∃ t, exec (.srst (BitVec.ofNat 8 (pgSeq c))) s = .next t ∧ (t.core c).seq.pc = 0 ∧ (t.core c).seq.flags = 0 ∧
          (t.core c).seq.loops = [] ∧ (t.core c).seq.rstk = [] ∧ ∀ a, t.byteAt a = s.byteAt a)) ∧
    (∀ b : Fin 8, b ≠ 0 → s.regReady (corePage c b.val) = true →
      (∀ v, ∃ t, exec (.enginePause c b v) s = .next t ∧ t.paused (corePage c b.val) = v ∧ (∀ d, t.core d = s.core d) ∧
        (s.busy c b.val = false → t.engPaused (corePage c b.val) = v)) ∧
      (s.softCoreOk c = true →
        ∃ t, exec (.srst (BitVec.ofNat 8 (corePage c b.val))) s = .next t ∧ t.ccu.answer.outcome = 0 ∧ ∀ d, d ≠ c → t.core d = s.core d) ∧
      (s.softCoreOk c = false →
        ∃ t, exec (.srst (BitVec.ofNat 8 (corePage c b.val))) s = .next t ∧ t.ccu.answer.outcome = 1 ∧ ∀ d, t.core d = s.core d)) ∧
    (s.alive c = true →
      (s.paused (pgSeq c) = true → ((s.core c).seq.st = .run ∨ ((s.core c).seq.st = .drain ∧ (s.core c).seq.abortTask = false)) →
        (s.core c).seq.stepping = false → (s.core c).seq.causes = [] →
        s.coreBusy c = false →
        exec (.pauseReached c 0) s = .next (s.updSeq c fun q => { q with st := .paused })) ∧
      (∀ b : Fin 8, b ≠ 0 → s.paused (corePage c b.val) = true → s.busy c b.val = false →
        ∃ t, exec (.pauseReached c b) s = .next t ∧ t.engPaused (corePage c b.val) = true ∧ ∀ d, t.core d = s.core d)) ∧
    (s.regReady 0 = true → ∃ t, exec (.srst 0) s = .next t ∧ t.ccu.answer.outcome = 3 ∧ (∀ d, t.core d = s.core d) ∧ t.regs = s.regs)

/-- Control store, tiles, shape, chains and address programs are written through their pages. CS_CMD_WRITE of a PAUSED or
FENCED core writes the four CS_WDATA words at the index and in any other state is refused with BUSY; CS_CMD_READ
copies the word read into CS_RDATA. While the core is IDLE, PAUSED or FENCED, TCFG_PAGE_WRITE configures the tile with
SRC 1, SHAPE_PAGE_WRITE takes or starts the change with both banks EMPTY, CHT_PAGE_WRITE writes the fields of its
register, PGM_PAGE_WRITE its register, and each sets its SRC bit; in any other state each is refused with BUSY and
changes nothing (R103, R134, R181, R228, R274). -/
def Obligations.PageTablesAreWritten : Prop :=
  ∀ (s : State) (c : CoreId),
    let applied := fun (t : State) => t.ccu.answer.outcome = 0 ∧ t.ccu.answer.err = 0
    let refused := fun (t : State) (page : Nat) => t.ccu.answer.outcome = 1 ∧ (∀ d, t.core d = s.core d) ∧
      (∀ a, t.byteAt a = s.byteAt a) ∧ (bitAt (s.reg page 0x28) 2 = false → bitAt (t.reg page 0x20) 2 = true)
    (s.regReady (pgSeq c) = true → ∀ i : CsIndex,
      ((s.core c).seq.st = .paused ∨ (s.core c).seq.st = .fenced →
        ∃ t, exec (.csCmdWrite c i) s = .next t ∧ applied t ∧ tget 0 (t.core c).seq.cs i.toNat =
          s.reg (pgSeq c) 0x1D0 ++ s.reg (pgSeq c) 0x1C8 ++ s.reg (pgSeq c) 0x1C0 ++ s.reg (pgSeq c) 0x1B8) ∧
      ((s.core c).seq.st ≠ .paused → (s.core c).seq.st ≠ .fenced →
        ∃ t, exec (.csCmdWrite c i) s = .next t ∧ refused t (pgSeq c)) ∧
      (∃ t, exec (.csCmdRead c i) s = .next t ∧ applied t ∧ ∀ j < 4, t.reg (pgSeq c) (0x1D8 + 8 * j) =
        (s.fetchCw c i).word.extractLsb' (64 * j) 64)) ∧
    (s.quiet c = true →
      (∀ (t : Fin 16) (v : Dword), s.regReady (pgTrf c) = true →
        ∃ u, exec (.tcfgPageWrite c t v) s = .next u ∧ applied u ∧ (u.core c).trf.cfg t.val = TileCfg.ofBits v.toNat true) ∧
      (∀ v : Dword, s.regReady (pgMxe c) = true → (∀ b ∈ (s.core c).mxe.banks.toList, b.st = .empty) →
        (s.core c).mxe.run = none → (s.core c).mxe.op = none → (s.core c).mxe.drains = [] →
        (v.extractLsb' 0 2 = (s.core c).mxe.shape → ∃ u, exec (.shapePageWrite c v) s = .next u ∧ applied u ∧
          (u.core c).mxe.shapeSrc = true ∧ (u.core c).mxe.shape = (s.core c).mxe.shape) ∧
        (v.extractLsb' 0 2 ≠ (s.core c).mxe.shape → ∃ u, exec (.shapePageWrite c v) s = .next u ∧ applied u ∧
          (u.core c).mxe.op = some (.shape none (v.extractLsb' 0 2)))) ∧
      (∀ (off : BitVec 12) (v : Dword), s.regReady (pgVxe c) = true → 0x200 ≤ off.toNat → off.toNat < 0xA80 → off.toNat % 8 = 0 →
        ∃ u, exec (.chtPageWrite c off v) s = .next u ∧ applied u ∧
          u.reg (pgVxe c) off.toNat = v &&& chtMask ((off.toNat - 0x200) % 0x88 / 8) ∧
          bitAt (u.reg (pgVxe c) 0x1F8) ((off.toNat - 0x200) / 0x88) = true) ∧
      (∀ (p i : Fin 16) (v : Dword), s.regReady (pgStr c) = true →
        ∃ u, exec (.pgmPageWrite c p i v) s = .next u ∧ applied u ∧ u.reg (pgStr c) (0x400 + 0x80 * p.val + 8 * i.val) = v ∧
          bitAt (u.reg (pgStr c) 0x140) p.val = true)) ∧
    (s.quiet c = false →
      (∀ (t : Fin 16) (v : Dword), s.regReady (pgTrf c) = true → ∃ u, exec (.tcfgPageWrite c t v) s = .next u ∧ refused u (pgTrf c)) ∧
      (∀ v : Dword, s.regReady (pgMxe c) = true → ∃ u, exec (.shapePageWrite c v) s = .next u ∧ refused u (pgMxe c)) ∧
      (∀ (off : BitVec 12) (v : Dword), s.regReady (pgVxe c) = true → 0x200 ≤ off.toNat → off.toNat < 0xA80 → off.toNat % 8 = 0 →
        ∃ u, exec (.chtPageWrite c off v) s = .next u ∧ refused u (pgVxe c)) ∧
      (∀ (p i : Fin 16) (v : Dword), s.regReady (pgStr c) = true →
        ∃ u, exec (.pgmPageWrite c p i v) s = .next u ∧ refused u (pgStr c)))

/-- STEP, SNAP, PMFREEZE and the clearing of a counter take effect. DBG_STEP lets each named core that is PAUSED with a
task held issue one word. SNAP latches the CYC of every island that answers and leaves SNAP_BUSY while one does not;
DBG_SNAP_TMO clears SNAP_BUSY and sets ERR.TMO. PMFREEZE writes its bit. PMCNT_CLR sets the counter to 0 and keeps its
event code (R487, R512, R513). -/
def Obligations.DebugStepsSnapsAndFreezes : Prop :=
  ∀ s : State,
    (s.regReady 15 = true →
      (∀ (c : CoreId) (v : Dword), bitAt v c.val = true → s.coreRuns c → (s.core c).seq.st = .paused → (s.core c).seq.task ≠ none →
        ∃ t, exec (.dbgStep v) s = .next t ∧ (t.core c).seq.stepping = true ∧
          (t.core c).seq.st = (if (s.core c).seq.draining.isSome then .drain else .run)) ∧
      (∀ (c : CoreId) (v : Dword), bitAt v c.val = true → (s.core c).seq.st ≠ .paused ∨ (s.core c).seq.task = none →
        ∃ t, exec (.dbgStep v) s = .next t ∧ t.core c = s.core c) ∧
      (∃ t, exec .snap s = .next t ∧ (∀ i : Fin 14, t.snap[i] = s.snapCyc i.val) ∧ (∀ d, t.core d = s.core d) ∧
        (t.rf 15 0x100 3 1 = 1 ↔ ∃ i : Fin 14, s.snapCyc i.val = none)) ∧
      (∀ v, ∃ t, exec (.pmfreeze v) s = .next t ∧ bitAt (t.reg 15 0x100) 0 = v ∧
        bitAt (t.reg 15 0x100) 1 = bitAt (s.reg 15 0x100) 1 ∧ ∀ d, t.core d = s.core d)) ∧
    (s.ccuAlive = true → s.rf 15 0x100 3 1 = 1 →
      ∃ t, exec .dbgSnapTmo s = .next t ∧ t.rf 15 0x100 3 1 = 0 ∧ t.snap = s.snap ∧
        (bitAt (s.reg 15 0x28) 3 = false → bitAt (t.reg 15 0x20) 3 = true)) ∧
    (∀ (page : Byte) (n : Fin 8), s.regReady page.toNat = true → blockOf page.toNat ≠ none →
      ∃ t, exec (.pmcntClr page n) s = .next t ∧ t.reg page.toNat (0xC0 + 8 * n.val) = 0 ∧
        fld (t.reg page.toNat (0x80 + 8 * n.val)) 0 8 = fld (s.reg page.toNat (0x80 + 8 * n.val)) 0 8 ∧
        ∀ d, t.core d = s.core d)

/-- Host cache commands sweep the CCH or CSC; inbound CSP accesses pass the gate or are refused. CCH_INVALL and
CCH_FLUSHALL start a sweep while the core is IDLE, PAUSED or FENCED and none is in progress, and are refused with BUSY
in RUN. CSC_INVALL sets ACTIVE and begins its sweep at set 0; its CACHE_CMD_DONE leaves, of the sets still to sweep,
only lines that are pending or committing; a CCH's ends the command. CSP_INBOUND reaches the CSP when the core can be
reached and its gate is open; a write to an isolated core is discarded and counted in ISO_DROP. The own core passes no
gate (R18, R322, R325, R327). -/
def Obligations.CacheCommandsAndInboundAccesses : Prop :=
  ∀ s : State,
    (∀ c : CoreId, s.regReady (pgCch c) = true →
      (s.quiet c = true → (s.core c).cch.hostOp = false →
        (∃ t, exec (.cchInvall c) s = .next t ∧ (t.core c).cch.hostOp = true ∧ t.ccu.answer.outcome = 0) ∧
        (∃ t, exec (.cchFlushall c) s = .next t ∧ (t.core c).cch.hostOp = true ∧ t.ccu.answer.outcome = 0)) ∧
      ((s.core c).seq.st = .run →
        (∃ t, exec (.cchInvall c) s = .next t ∧ t.ccu.answer.outcome = 1 ∧ ∀ d, t.core d = s.core d) ∧
        (∃ t, exec (.cchFlushall c) s = .next t ∧ t.ccu.answer.outcome = 1 ∧ ∀ d, t.core d = s.core d))) ∧
    (∀ c : CoreId, (s.core c).cch.hostOp = true → s.coreRuns c → s.rf (pgCch c) 0x100 3 1 = 0 →
      exec (.cacheCmdDone (.cch c)) s = .next ((s.setReg (pgCch c) 0x100 0).updCch c fun k => { k with hostOp := false })) ∧
    (s.regReady 2 = true → ∃ t, exec .cscInvall s = .next t ∧ t.cscOp = some 0 ∧ t.csc = s.csc) ∧
    (∀ n : Nat, s.cscOp = some n → s.memHalted = false → ∃ t, exec (.cacheCmdDone .csc) s = .next t ∧ t.cscOp = none ∧
      (∀ l ∈ t.csc, l.line % 1024 < n ∨ (s.txPending l.line).isSome ∨ (s.txCommitting l.line).isSome) ∧
      (∀ l ∈ s.csc, l.line % 1024 < n ∨ (s.txPending l.line).isSome ∨ (s.txCommitting l.line).isSome → l ∈ t.csc) ∧
      ∀ a, t.byteAt a = s.byteAt a) ∧
    (∀ (c : CoreId) (write : Bool) (who : Inbound) (off : BitVec 19) (bytes : List Byte),
      bytes = [] ∨ cspSize < off.toNat + bytes.length → exec (.cspInbound c who write off bytes) s = .next s) ∧
    (∀ (c : CoreId) (off : BitVec 19) (bytes : List Byte), bytes ≠ [] → off.toNat + bytes.length ≤ cspSize →
      exec (.cspInbound c .ownCore true off bytes) s = .next (s.cspStore c .ownCore off.toNat bytes).s ∧
      exec (.cspInbound c .ownCore false off bytes) s = .next (s.cspLoad c .ownCore off.toNat bytes.length).s) ∧
    (∀ (c : CoreId) (who : Inbound) (off : BitVec 19) (bytes : List Byte), who ≠ .ownCore → bytes ≠ [] →
      off.toNat + bytes.length ≤ cspSize →
      (s.reachable c = false →
        (∃ t, exec (.cspInbound c who true off bytes) s = .next t ∧ t.rf 0 0x170 0 32 = (s.rf 0 0x170 0 32 + 1) % 2 ^ 32 ∧
          ∀ a, t.byteAt a = s.byteAt a) ∧
        exec (.cspInbound c who false off bytes) s = .next s) ∧
      (s.reachable c = true →
        let u := s.pm (pgCsp c) 0x03 1
        (u.gateOpen c who = false →
          ∃ t, exec (.cspInbound c who true off bytes) s = .next t ∧ t = u.gateRefuse c who off.toNat ∧
            (∀ d, t.core d = s.core d) ∧ ∀ a, t.byteAt a = s.byteAt a) ∧
        (u.gateOpen c who = true →
          exec (.cspInbound c who true off bytes) s = .next (u.cspStore c who off.toNat bytes).s ∧
          exec (.cspInbound c who false off bytes) s = .next (u.cspLoad c who off.toNat bytes.length).s)))

/-- RETAIN, OFF and ON requests are granted or denied, clocks scale, and the cluster sleeps and wakes. While no earlier
request of the core waits for its answer, a request for RETAIN or OFF of a core that holds a task or is not IDLE,
PAUSED or FENCED is denied and the core stays; granted with an empty CCH it turns the core OFF with its island
isolated, RETAIN keeping RET. ON of a core that is powered is acknowledged. FREQ codes above 12 count as 12. A request
that comes while one waits is kept and answered after it. SLEEP is granted exactly under the conditions of R522 and
drops the CSC's lines; waking is acknowledged with the CSC empty; OFF is denied otherwise (R515, R517, R518, R519,
R521, R522, R523). -/
def Obligations.PowerStatesFollowTheRequests : Prop :=
  ∀ s : State,
    (∀ (c : CoreId) (code : BitVec 4), ∃ t, exec (.freqChange c code) s = .next t ∧ (t.core c).freq.toNat = min 12 code.toNat ∧
      (∀ d, d ≠ c → t.core d = s.core d) ∧ ∀ a, t.byteAt a = s.byteAt a) ∧
    (∀ c : CoreId, s.ccuAlive = true → (s.core c).pwrPending = false →
      (s.mayPowerDown c = false →
        (∃ t, exec (.pwrReqRetain c) s = .next t ∧ (t.core c).pwrDeny = true ∧ (t.core c).pwrAck = false ∧
          (t.core c).seq = (s.core c).seq) ∧
        (∃ t, exec (.pwrReqOff c) s = .next t ∧ (t.core c).pwrDeny = true ∧ (t.core c).pwrAck = false ∧
          (t.core c).seq = (s.core c).seq)) ∧
      (s.mayPowerDown c = true → (s.core c).cch.lines = [] →
        (∃ t, exec (.pwrReqRetain c) s = .next t ∧ (t.core c).pwrAck = true ∧ (t.core c).iso = true ∧ (t.core c).seq.st = .off ∧
          (t.core c).seq.ret = true ∧ ∀ a, t.byteAt a = s.byteAt a) ∧
        (∃ t, exec (.pwrReqOff c) s = .next t ∧ (t.core c).pwrAck = true ∧ (t.core c).iso = true ∧ (t.core c).seq.st = .off ∧
          (t.core c).seq.ret = false)) ∧
      (s.present c = true → (s.core c).seq.st ≠ .off →
        ∃ t, exec (.pwrReqOn c) s = .next t ∧ (t.core c).pwrAck = true ∧ (t.core c).seq = (s.core c).seq) ∧
      (s.present c = true → (s.core c).seq.st = .off → s.ccu.power = .on → s.fenced c = false → s.paused (pgSeq c) = false →
        ∃ t, exec (.pwrReqOn c) s = .next t ∧ (t.core c).pwrAck = true ∧ (t.core c).iso = false ∧ (t.core c).seq.st = .idle)) ∧
    (∀ c : CoreId, (s.core c).pwrPending = true → ∀ x ∈ [(Instr.pwrReqRetain c, (1 : BitVec 2)), (.pwrReqOff c, 2), (.pwrReqOn c, 0)],
      exec x.1 s = .next (s.updCore c fun k => { k with pwrNext := some x.2 })) ∧
    (s.ccuAlive = true →
      (s.maySleep = true → ∃ t, exec .clReqSleep s = .next t ∧ t.ccu.clAck = true ∧ t.ccu.power = .sleep ∧ t.csc = [] ∧
        ∀ a, t.byteAt a = s.byteAt a) ∧
      (s.maySleep = false →
        (∃ t, exec .clReqSleep s = .next t ∧ t.ccu.clDeny = true ∧ t.ccu.power = s.ccu.power ∧ t.csc = s.csc) ∧
        (∃ t, exec .clReqOff s = .next t ∧ t.ccu.clDeny = true ∧ t.ccu.power = s.ccu.power ∧ ∀ d, t.core d = s.core d)) ∧
      (s.maySleep = true → ∃ t, exec .clReqOff s = .next t ∧ t.ccu.power = .off ∧ t.ccu.clAck = true ∧ t.fuses = s.fuses) ∧
      (s.ccu.power = .sleep → ∃ t, exec .clReqOn s = .next t ∧ t.ccu.power = .on ∧ t.ccu.clAck = true ∧ t.csc = []))

/-- A cold reset keeps only the fuses, a warm reset the CM and repairs; start-up steps end or fail; the wrapper stops the
tile. RST_COLD leaves every register at its reset value, memory with nothing listed, no transaction and Sprout at step
1, and keeps the fuses, the clock pins and the waiting commands. RST_WARM keeps the CM, the remap entries and the
retired lanes and groups, and changes nothing after a start-up that has failed. FUSES_LATCHED ends step 1 with every
present core's self-test running, CM_MBIST_DONE step 2 with the CM zero, BOND_CHECK_DONE step 3, SPROUT_HELLO_TMO step
5; a failing step is FAULT with STEP kept. READY ends step 7: the cluster is RUN and READY. WS_BYPASS changes nothing
but the wrapper's register; every other wrapper instruction stops the clocks of every island and keeps only the fuses
and the waiting commands, until a cold reset starts the clocks again (R526, R527, R528, R529, R530, R532). -/
def Obligations.ResetsStartUpAndTestWrapper : Prop :=
  ∀ s : State,
    (∃ t, exec .rstCold s = .next t ∧ t.regs = [] ∧ t.mem = [] ∧ t.csc = [] ∧ t.ccu = Ccu.reset ∧ t.txu = Txu.reset ∧
      t.ecm = Ecm.reset ∧ t.fuses = s.fuses ∧ t.pending = s.pending ∧
      ∀ c, t.core c = { Core.reset with freq := (s.core c).freq }) ∧
    (s.ccu.st = .fault → s.ccu.readyS = false → exec .rstWarm s = .next s) ∧
    (s.clocksOff = false → s.ccu.power ≠ .off → (s.ccu.st = .fault → s.ccu.readyS = true) →
      ∃ t, exec .rstWarm s = .next t ∧ (∀ a < cmSize, t.byteAt a = s.byteAt a) ∧ t.ecm.remap = s.ecm.remap ∧ t.regs = [] ∧
        t.fuses = s.fuses ∧ t.ccu.step = 1 ∧ t.ccu.warm = true ∧ t.txu = Txu.reset ∧
        ∀ c, t.core c = { Core.reset with freq := (s.core c).freq }) ∧
    (s.atStep 1 = true →
      (∃ t, exec (.fusesLatched false) s = .next t ∧ t.ccu.st = .fault ∧ t.ccu.step = 1) ∧
      (s.ccu.warm = false → ∃ t, exec (.fusesLatched true) s = .next t ∧ t.ccu.step = 2 ∧
        (∀ c, s.present c = true → t.ccu.watch[c].test = .running) ∧
        ∀ (c : CoreId) (o : Nat), o < cspSize → t.byteAt (cspOff c o) = 0)) ∧
    (s.atStep 2 = true →
      (∃ t, exec (.cmMbistDone []) s = .next t ∧ t.ccu.step = 3 ∧ t.ccu.st = .idle ∧ ∀ a < cmSize, t.byteAt a = 0) ∧
      (∀ fails : List (Nat × Nat), (∀ x ∈ fails, x.1 = 47 ∧ x.2 < 32768) → fails.Nodup → 8 < fails.length →
        ∃ t, exec (.cmMbistDone fails) s = .next t ∧ t.ccu.st = .fault ∧ t.ccu.step = 2)) ∧
    (s.atStep 3 = true →
      (∃ t, exec (.bondCheckDone [] 0) s = .next t ∧ t.ccu.st = .fault ∧ t.ccu.step = 3) ∧
      (∀ clocks : BitVec 4, clocks ≠ 0 → s.bond = [] → s.coordValid = false →
        ∃ t, exec (.bondCheckDone [] clocks) s = .next t ∧ t.ccu.step = 4 ∧
          ∃ l : Fin 4, t.clockLane = some l ∧ clocks.getLsbD l.val = true ∧ ∀ j : Fin 4, j < l → clocks.getLsbD j.val = false)) ∧
    (s.atStep 5 = true → ∃ t, exec .sproutHelloTmo s = .next t ∧ t.ccu.step = 6 ∧ ∀ p : PortId, t.ports[p].link ≠ .hello) ∧
    (s.atStep 7 = true → s.ccu.readyS = false → (∀ c, s.present c = true → s.ccu.watch[c].test ≠ .running) →
      ∃ t, exec .ready s = .next t ∧ t.ccu.readyS = true ∧ t.ccu.st = .run ∧ ∀ a, t.byteAt a = s.byteAt a) ∧
    exec .wsBypass s = .next { s with wir := .bypass } ∧
    (∀ x ∈ [(Instr.wsExtest, Wir.extest), (.wsIntest, .intest), (.wsScan, .scan), (.wsMbist, .mbist), (.wsBond, .bond), (.wsFuse, .fuse)],
      ∃ t, exec x.1 s = .next t ∧ t.wir = x.2 ∧ t.clocksOff = true ∧ (∀ i : IslandId, t.stopped[i] = true) ∧
        t.fuses = s.fuses ∧ t.pending = s.pending ∧
        ∃ u, exec .rstCold t = .next u ∧ u.clocksOff = false ∧ u.wir = .bypass ∧ ∀ i : IslandId, u.stopped[i] = false)

/-- Every step keeps memory in its canonical form. In every state whose memory is in canonical form (addresses strictly
rising, no byte listed that reads 0, which is what an unlisted byte reads as), whatever command stands at the front of
the queue and also on an empty queue, the step answers a next state whose memory is in canonical form, and so does
every command: no command of the table ever stops the machine, and equal memories stay equal data (R24, R527). -/
def Obligations.MemoryStaysCanonical : Prop :=
  ∀ s : State, s.memWf = true →
    (∃ t, step s = .next t ∧ t.memWf = true) ∧ ∀ i : Instr, ∃ t, exec i s = .next t ∧ t.memWf = true

/-- After reset memory is canonical with every byte 0, and registers read their reset values. State.reset meets the
invariant of MemoryStaysCanonical. Every byte of the CM and of the CSPs reads 0, which R527 gives for the end of
start-up and the model takes from reset on (assumption 6). Sprout stands at step 1, no core holds a task, no queue
holds anything, the cluster flags are 0, and every block register reads its reset value: the timeouts of R514 and the
CCU's ABFT_WINDOW, REJOIN_MAX and HB_LIMIT are named (R510, R514, R526, R527). -/
def Obligations.ResetIsCanonicalAndAsTheSpecSays : Prop :=
  State.reset.memWf = true ∧ (∀ a, State.reset.byteAt a = 0) ∧ State.reset.pending = [] ∧ State.reset.ccu.step = 1 ∧
  State.reset.ccu.cf = 0 ∧ State.reset.ccu.readyS = false ∧
  (∀ c : CoreId, (State.reset.core c).seq.task = none ∧ (State.reset.core c).seq.st = .idle ∧ (State.reset.core c).seq.pc = 0 ∧
    (State.reset.core c).seq.flags = 0 ∧ (State.reset.core c).seq.lsq = [] ∧ (State.reset.core c).cch.lines = []) ∧
  (∀ (page : Nat) (b : Block), blockOf page = some b → State.reset.view page 0x40 = BitVec.ofNat 64 (tmoReset b)) ∧
  State.reset.view 0 0x150 = 0x40000000 ∧ State.reset.view 0 0x158 = 3 ∧ State.reset.view 0 0x160 = 5860

/-- LOOP with count 0 skips its body, else pushes a level; ENDL repeats or pops. LOOP with a latched count of zero
continues at END + 1 and takes no level; with another count it pushes the level (its count less the iteration begun,
START = i + 1, END) and continues at START. ENDL with iterations left continues at START with one fewer; with none
left it pops the level and continues at the next index. The loop-iteration event is counted once (R216, R217, R218). -/
def Obligations.LoopAndEndlFollowTheCount : Prop :=
  ∀ (s : State) (c : CoreId) (l : FlowLatch), (s.core c).seq.flow = some l → s.coreRuns c →
    let end_ : CsIndex := l.bits.extractLsb' 8 12
    (op24 l.bits = 1 → l.count = 0 → exec (.loop c) s = .next (s.updSeq c fun q => { q with pc := end_ + 1, flow := none })) ∧
    (op24 l.bits = 1 → l.count ≠ 0 → exec (.loop c) s = .next (s.updSeq c fun q =>
      { q with pc := l.index + 1, loops := q.loops ++ [⟨l.count - 1, l.index + 1, end_, q.rstk.length⟩], flow := none })) ∧
    (∀ (outer : List LoopLevel) (v : LoopLevel), op24 l.bits = 2 → (s.core c).seq.loops = outer ++ [v] →
      (v.remain = 0 → exec (.endl c) s = .next ((s.updSeq c fun q =>
        { q with pc := l.index + 1, loops := outer, flow := none }).pm (pgSeq c) 0x06 1)) ∧
      (v.remain ≠ 0 → exec (.endl c) s = .next ((s.updSeq c fun q =>
        { q with pc := v.start, loops := outer ++ [{ v with remain := v.remain - 1 }], flow := none }).pm (pgSeq c) 0x06 1)))

/-- BR, BRP, CALL, RET and BREAK continue where the spec says. A taken BR or BRP continues at its target, an untaken one
at the next index. CALL pushes the return index i + 1 with the number of active levels and continues at TARGET; RET
pops the stack and continues at the return index. BREAK with a true condition pops the innermost level and continues
at its END + 1; with a false condition it only goes on (R215, R219, R220, R221). -/
def Obligations.BranchesCallsAndBreakMoveThePc : Prop :=
  ∀ (s : State) (c : CoreId) (l : FlowLatch), (s.core c).seq.flow = some l → s.coreRuns c →
    let target : CsIndex := l.bits.extractLsb' 0 12
    let goes := fun (pc : CsIndex) => (Host.Outcome.next (s.updSeq c fun q => { q with pc := pc, flow := none }) : Ans)
    (op24 l.bits = 3 → exec (.br c) s = goes (if l.taken then target else l.index + 1)) ∧
    (op24 l.bits = 4 → exec (.brp c) s = goes (if l.taken then target else l.index + 1)) ∧
    (op24 l.bits = 5 → exec (.call c) s = .next (s.updSeq c fun q =>
      { q with pc := target, rstk := q.rstk ++ [⟨l.index + 1, q.loops.length⟩], flow := none })) ∧
    (∀ (below : List RetEntry) (r : RetEntry), op24 l.bits = 6 → (s.core c).seq.rstk = below ++ [r] →
      exec (.ret c) s = .next (s.updSeq c fun q => { q with pc := r.ret, rstk := below, flow := none })) ∧
    (op24 l.bits = 7 → l.taken = false → exec (.brk c) s = goes (l.index + 1)) ∧
    (∀ (outer : List LoopLevel) (v : LoopLevel), op24 l.bits = 7 → l.taken = true → (s.core c).seq.loops = outer ++ [v] →
      exec (.brk c) s = .next (s.updSeq c fun q => { q with pc := v.end_ + 1, loops := outer, flow := none }))

/-- LAYER, TEND and HALT stop issue; the layer barrier and the end of the drain end the stop. LAYER moves on and issues
nothing further until the layer barrier, which with every engine quiet and no valid FTQ slot inverts CUR, increments
SWAPS and lets issue go on. TEND and HALT set STATE to DRAIN; HALT with HALT_EN = 1 drains into PAUSED with the task
held. With the word's AG operation, queues, instructions and writes done, the drained task's end report enters the
crossing: the core then holds no task and is IDLE, or PAUSED while CTL.PAUSE is 1 (R223, R224, R225, R288, R289). -/
def Obligations.LayerTendAndHaltStopIssue : Prop :=
  ∀ (s : State) (c : CoreId),
    (∀ l : FlowLatch, (s.core c).seq.flow = some l → s.coreRuns c →
      (op24 l.bits = 8 → exec (.layer c) s = .next (s.updSeq c fun q =>
        { q with pc := l.index + 1, layer := true, flow := none })) ∧
      (op24 l.bits = 9 → exec (.tend c) s = .next (s.updSeq c fun q =>
        { q with st := .drain, draining := some .tend, flow := none })) ∧
      (op24 l.bits = 10 → s.rf (pgSeq c) 0x100 0 1 = 0 → exec (.halt c) s = .next (s.updSeq c fun q =>
        { q with st := .drain, draining := some .halt, flow := none })) ∧
      (op24 l.bits = 10 → s.rf (pgSeq c) 0x100 0 1 = 1 → exec (.halt c) s = .next (s.updSeq c fun q =>
        { q with pc := l.index + 1, st := .drain, draining := some .haltPause, flow := none }))) ∧
    ((s.core c).seq.layer = true → s.enginesQuiet c = true → (∀ t ∈ (s.core c).mxe.ftq.toList, t.valid = false) →
      (s.core c).seq.causes = [] → s.alive c = true →
      exec (.layerBarrierComplete c) s = .next (s.updCore c fun k =>
        { k with
          seq := { k.seq with layer := false }
          str := { k.str with cur := !k.str.cur, swaps := k.str.swaps + 1 } })) ∧
    ((s.core c).seq.st = .drain → (s.core c).seq.causes = [] → s.enginesQuiet c = true → (s.core c).writesDone = true →
      (s.core c).seq.ldas = [] → (s.core c).seq.ag = none → s.alive c = true →
      ((s.core c).seq.draining = some .haltPause → ∃ t, exec (.taskEnd c) s = .next t ∧
        (t.core c).seq.st = .paused ∧ (t.core c).seq.task = (s.core c).seq.task ∧ t.rf (pgSeq c) 0x10 1 1 = 1) ∧
      (∀ kind, (s.core c).seq.draining = some (if kind = EndKind.tend then .tend else .halt) →
        (kind = .tend ∨ kind = .halt) → (s.core c).seq.held = [] →
        ∃ t, exec (.taskEnd c) s = .next t ∧ (t.core c).seq.task = none ∧
          (if s.paused (pgSeq c) then (t.core c).seq.st = .paused else (t.core c).seq.st = .idle) ∧
          (∃ id, CcuMsg.report ⟨(s.core c).seq.descNum, id, kind, 0⟩ ∈ t.ccu.toCcu[c])))

/-- A control word that passes every check issues: its slots enter their queues and its AG and FLOW operations are
latched. When the SEQ looks at its head word, no breakpoint stops it, the word reads cleanly with FMT 0x01, its fields
pass the checks, no take request is outstanding, its WAIT holds without one (or one has been granted), every addressed
queue has room and the address and target checks pass, HEAD_WORD_ISSUE answers a state in which the core has issued
one more word; each engine queue, and each unit's ST queue, holds what it held and behind it the word's slot, where
that is no NOP, with the A registers, the index and the number of the word and the done signal that names the slot;
the AG and FLOW fields are latched with the A registers and the index as they stood before, a FLOW with whether it is
taken and its loop count; a word without FLOW moves the PC on. No A register and no byte of memory changes. An
immediate-table word at the head takes one issue cycle: the PC moves on, one more word is issued and counted, and
nothing is latched or queued (R203, R204, R205, R206, R248, R251). -/
def Obligations.HeadWordIssuesItsSlots : Prop :=
  ∀ (s : State) (c : CoreId), s.headReady c = true → s.brkArmed c = false →
    let q := (s.core c).seq
    let f := s.fetchCw c q.pc
    f.ue = false →
    (f.word.fmt = 1 →
      let t := f.s.tableWord c f.word
      t.ue = false → cwCheck q (s.rf (pgSeq c) 0x100 0 1 == 1) f.word t.word = none → q.takePend = false →
      (q.takeGrant = true ∨ (t.s.waitHolds c f.word = true ∧ t.s.takeNeeds c f.word = none)) →
      roomFor q f.word = true → t.s.agCheckIssue c f.word.ag = none →
      flowCheckIssue q (s.core c).vxe f.word.flow = none →
      let entry := fun (bits : BitVec 40) (trig : Nat) =>
        QEntry.mk bits q.a q.pc q.words (if f.word.sig.trig.toNat = trig then some f.word.sig else none)
      ∃ u, exec (.headWordIssue c) s = .next u ∧
        let r := (u.core c).seq
        r.words = q.words + 1 ∧ r.waitCnt = 0 ∧ r.a = q.a ∧
        (op24 f.word.ag = 0 → r.ag = none) ∧
        (op24 f.word.ag ≠ 0 → ∃ l, r.ag = some l ∧ l.bits = f.word.ag ∧ l.regs = q.a ∧ l.num = q.words ∧ l.cw = q.pc) ∧
        (op24 f.word.flow = 0 → r.flow = none ∧ r.pc = q.pc + 1) ∧
        (op24 f.word.flow ≠ 0 → r.pc = q.pc ∧
          r.flow = some ⟨f.word.flow, q.pc, loopCount q f.word.flow, flowTaken q (s.core c).vxe f.word.flow⟩) ∧
        r.mxq = q.mxq ++ (if op40 f.word.mx = 0 then [] else [entry f.word.mx 2]) ∧
        r.vxq = q.vxq ++ (if op40 f.word.vx = 0 then [] else [entry f.word.vx 3]) ∧
        (∀ n : UnitId, r.stq[n] = q.stq[n] ++
          (if op32 f.word.st ≠ 0 ∧ n = stUnit f.word.st then [entry f.word.st 4] else [])) ∧
        r.lsq = q.lsq ++ (if op32 f.word.ls = 0 then [] else [entry f.word.ls 5]) ∧
        r.chq = q.chq ++ (if op24 f.word.ch = 0 then [] else [entry f.word.ch 6]) ∧
        ∀ a, u.byteAt a = s.byteAt a) ∧
    (f.word.fmt = 2 → q.pc ≠ 4095 →
      exec (.immediateTableWord c) s = .next ((f.s.updSeq c fun q => { q with
        ag := none, flow := none, pc := q.pc + 1, words := q.words + 1, waitCnt := 0, takeGrant := false, brkPassed := false,
        stepping := false }).pm (pgSeq c) 0x01 1))

/-- The watchdog and the WAIT limit abort the task; a breakpoint pauses the SEQ. WATCHDOG_EXPIRY, when the count of a task
in RUN or DRAIN has reached 2^WDOG, records the cause WATCHDOG (0x0A), or counts it as lost when the task is aborting
already, and does so once. WAIT_TMO_EXPIRY, when the WAIT count has reached the limit, records WAIT_TMO (0x03) for a
LAYER hold and for a head word that decodes and whose WAIT is not satisfied or whose take request is unanswered; a
task that is only asked to pause is not spared. BRK_HIT sets the SEQ's own PAUSE and HIT, clears EN when ONCE is set,
and lets the word issue later without firing again. No byte of memory changes (R223, R232, R260, R511). -/
def Obligations.SeqTimeoutsAndBreakpointsTakeEffect : Prop :=
  ∀ (s : State) (c : CoreId), s.alive c = true →
    let q := (s.core c).seq
    let raises := fun (i : Instr) (code : Byte) =>
      ∃ t, exec i s = .next t ∧ (t.core c).seq.causes = q.causes ++ [⟨code, false⟩] ∧ ∀ a, t.byteAt a = s.byteAt a
    (∀ k : Task, q.task = some k → (q.st = .run ∨ q.st = .drain) → 2 ^ k.wdog.toNat ≤ q.wdogCnt.toNat → q.wdogHit = false →
      (q.abortTask = false → raises (.watchdogExpiry c) 0x0A) ∧
      (q.abortTask = true → ∃ t, exec (.watchdogExpiry c) s = .next t ∧ (t.core c).seq.causes = q.causes ∧
        t.rf (pgSeq c) 0x1A0 48 16 = min 65535 (s.rf (pgSeq c) 0x1A0 48 16 + 1)) ∧
      (∃ t, exec (.watchdogExpiry c) s = .next t ∧ (t.core c).seq.wdogHit = true)) ∧
    (q.task.isSome = true → q.st = .run → q.abortTask = false → q.causes = [] → q.ag = none → q.flow = none →
      2 ^ max 10 (s.rf (pgSeq c) 0x198 0 5) ≤ q.waitCnt →
      (q.layer = true → raises (.waitTmoExpiry c) 0x03) ∧
      (let f := s.fetchCw c q.pc
       let t := f.s.tableWord c f.word
       q.layer = false → f.ue = false → f.word.fmt = 1 → t.ue = false →
       cwCheck q (s.rf (pgSeq c) 0x100 0 1 == 1) f.word t.word = none →
       (q.takePend = true ∨ (q.takeGrant = false ∧ s.waitHolds c f.word = false)) → raises (.waitTmoExpiry c) 0x03)) ∧
    (s.headReady c = true → s.brkArmed c = true →
      ∃ t, exec (.brkHit c) s = .next t ∧ t.rf (pgSeq c) 0x10 1 1 = 1 ∧ t.rf 15 (0x180 + 8 * c.val) 14 1 = 1 ∧
        (s.rf 15 (0x180 + 8 * c.val) 13 1 = 1 → t.rf 15 (0x180 + 8 * c.val) 12 1 = 0) ∧
        (t.core c).seq = { q with brkPassed := true } ∧ ∀ a, t.byteAt a = s.byteAt a)

/-- An abort empties the core, reports the lowest cause and ends the task. When causes have arrived, ABORT sets STATE to
DRAIN, takes the lowest code as ABORT.CAUSE, clears the queues, loops, flags and accumulators of the core, and the
task is aborting. With every issued write complete ABORT_END puts an end report that says aborted with that cause into
the crossing, and the core holds no task and is IDLE, or PAUSED while CTL.PAUSE is 1. Writes still incomplete at the
drain limit leave the core in FAULT with ERR.DRAIN set unless masked (R105, R234, R235, R236, R245). -/
def Obligations.AbortDrainsAndReports : Prop :=
  ∀ (s : State) (c : CoreId), s.alive c = true →
    let q := (s.core c).seq
    (∀ x ∈ q.causes, (∀ y ∈ q.causes, x.code ≤ y.code) → q.abortTask = false → s.ccu.toCore[c] = [] →
      ∃ t, exec (.abort c) s = .next t ∧
        let r := (t.core c).seq
        r.st = .drain ∧ r.causes = [] ∧ r.abortTask = true ∧ r.task = q.task ∧ t.rf (pgSeq c) 0x1A0 0 8 = x.code.toNat ∧
        r.mxq = [] ∧ r.vxq = [] ∧ r.lsq = [] ∧ r.chq = [] ∧ r.stq = Vector.replicate 4 [] ∧ r.loops = [] ∧ r.rstk = [] ∧
        r.flags = 0 ∧ r.cnt = Vector.replicate 16 0 ∧ r.lf = 0 ∧ (∀ b : BankId, (t.core c).mxe.banks[b].st = .empty) ∧
        (t.core c).mxe.shape = (s.core c).mxe.shape ∧ ∀ a, t.byteAt a = s.byteAt a) ∧
    (q.abortTask = true → (s.core c).writesDone = true →
      ∃ t, exec (.abortEnd c) s = .next t ∧ (t.core c).seq.task = none ∧ (t.core c).seq.abortTask = false ∧
        (t.core c).seq.st = (if s.paused (pgSeq c) then .paused else .idle) ∧
        (∃ id, CcuMsg.report ⟨q.descNum, id, .aborted, BitVec.ofNat 8 (s.rf (pgSeq c) 0x1A0 0 8)⟩ ∈ t.ccu.toCcu[c]) ∧
        ∀ a, t.byteAt a = s.byteAt a) ∧
    (q.abortTask = true → (s.core c).writesDone = false → q.st = .drain →
      ∃ t, exec (.abortDrainTmo c) s = .next t ∧ (t.core c).seq.st = .fault ∧
        (bitAt (s.reg (pgSeq c) 0x28) 14 = false → bitAt (t.reg (pgSeq c) 0x20) 14 = true) ∧ ∀ a, t.byteAt a = s.byteAt a)

/-- An IDLE core claims; the CCU grants the listed descriptor at the cursor; the core reads it. TASK_POLL cc after a
'none' answer an IDLE core writes a claim. The CCU, no crossing of its own full and no lower core's claim of the same
cycle waiting, takes the claim at the front of the core's crossing: when the sequence word lists the descriptor at the
cursor and its class is enabled, it answers a grant of that descriptor, advances the cursor and records who holds it.
A grant at the front of the core's crossing makes the core read the descriptor (R30, R32, R34, R229, R366). -/
def Obligations.TasksAreClaimedAndGranted : Prop :=
  ∀ (s : State) (c : CoreId),
    ((s.core c).seq.dispatch = .polling → (s.core c).seq.st = .idle → s.coreRuns c → s.ccu.toCore[c] = [] →
      exec (.taskPollExpiry c) s = .next ((s.tell c (.claim s.ccu.cyc)).updSeq c fun q => { q with dispatch := .sent })) ∧
    (∀ (at_ : Dword) (rest : List CcuMsg) (n : Nat) (u : State), s.ccu.toCcu[c] = .claim at_ :: rest → s.ccuAlive = true → s.memDead = false →
      s.ccu.st = .run → s.ccuHeld = false → (∀ d : CoreId, d < c → s.reachable d = true → s.claimAt d ≠ some at_) →
      (s.rqtPass 12 0).isSome = true → s.reachable c = true → (s.popCcu c).readSeqWord = (some n, u) →
      let left := (n + 2 ^ 32 - u.cursor) % 2 ^ 32
      0 < left → left ≤ 2 ^ u.tlistLog2 →
      let r := ((u.rqtPass 12 (u.ownLoc (u.entryAt u.cursor))).getD u).load 12 (u.entryAt u.cursor) 64
      r.bad = [] → bitAt (u.reg 0 0x198) (leNat (r.bytes.take 8) / 2 ^ 13 % 2) = true →
      ∃ t, exec (.claim c) s = .next t ∧ t.cursor = (u.cursor + 1) % 2 ^ 32 ∧
        t.ccu.toCore[c] = r.s.ccu.toCore[c] ++ [.grant (BitVec.ofNat 32 u.cursor)] ∧
        t.ccu.holds[c] = some (BitVec.ofNat 32 u.cursor)) ∧
    (∀ (j : Word32) (rest : List CoreMsg), s.ccu.toCore[c] = .grant j :: rest → s.alive c = true →
      ∃ t, exec (.taskGrant c) s = .next t ∧ t.ccu.toCore[c] = rest ∧
        (t.core c).seq = { (s.core c).seq with dispatch := .reading j } ∧ ∀ a, t.byteAt a = s.byteAt a)

/-- A descriptor read starts the task, begins its image load, or is rejected; an image load ends in the start. With a
request tag free, a cleanly read descriptor that is valid and names no image starts the task: STATE is RUN, the PC is
START, A0 to A7 come from the descriptor and A8 to A15 are 0, flags and queues start clear and the MXE is in TALL with
both banks EMPTY. With IMG set the image load begins. A descriptor that breaks a check of R231 is reported as rejected
with ILLEGAL_CW (0x0D), sets ERR.DESC and ERR.ILLEGAL unless masked, and the core holds no task. When the image has
been read cleanly its words stand in the control store from START on and the task starts (R34, R70, R227, R231, R239,
R245). -/
def Obligations.DescriptorsStartTasks : Prop :=
  ∀ (s : State) (c : CoreId), s.alive c = true → s.memDead = false → (s.core c).seq.causes = [] →
    (s.core c).seq.abortTask = false → s.cmServed = true →
    let started := fun (t : State) (num : Word32) (start : CsIndex) (bs : List Byte) =>
      let q := (t.core c).seq
      q.st = .run ∧ q.dispatch = .none ∧ q.pc = start ∧ (∃ k, q.task = some k ∧ k.num = num ∧ k.start = start) ∧
        (∀ i, i < 8 → vget 0 q.a i = BitVec.ofNat 48 (leNat ((bs.drop (16 + 6 * i)).take 6))) ∧
        (∀ i, 8 ≤ i → i < 16 → vget 0 q.a i = 0) ∧ q.z = false ∧ q.n = false ∧ q.c = false ∧ q.loops = [] ∧ q.rstk = [] ∧
        q.wdogCnt = 0 ∧ q.flags = 0 ∧ q.lf = 0 ∧ (t.core c).mxe.shape = 0 ∧ (t.core c).mxe.chain = false ∧
        (∀ b : BankId, (t.core c).mxe.banks[b].st = .empty) ∧ (t.core c).mxe.held.valid = false
    (∀ j : Word32, (s.core c).seq.dispatch = .reading j →
      ∀ p, s.rqtPass c.val (s.ownLoc (s.entryAt j.toNat)) = some p →
      let r := p.load c.val (s.entryAt j.toNat) 64
      let w := leNat (r.bytes.take 8)
      r.bad = [] →
      (descReject w = true → ∃ t, exec (.descriptorReceived c) s = .next t ∧ (t.core c).seq.task = none ∧
        (∃ id, CcuMsg.report ⟨j, id, .rejected, 0x0D⟩ ∈ t.ccu.toCcu[c]) ∧
        (bitAt (s.reg (pgSeq c) 0x28) 13 = false → bitAt (t.reg (pgSeq c) 0x20) 13 = true) ∧
        (bitAt (s.reg (pgSeq c) 0x28) 8 = false → bitAt (t.reg (pgSeq c) 0x20) 8 = true)) ∧
      (descReject w = false → descImg w = true → ∃ t, exec (.descriptorReceived c) s = .next t ∧
        (t.core c).seq.dispatch = .loading j (descWords r.bytes)) ∧
      (descReject w = false → descImg w = false → ∃ t, exec (.descriptorReceived c) s = .next t ∧
        started t j (BitVec.ofNat 12 w) r.bytes)) ∧
    (∀ (j : Word32) (d : Vector Dword 8) (k : Task), (s.core c).seq.dispatch = .loading j d → (s.core c).seq.task = some k →
      let n := descImgLen (vget 0 d 0).toNat
      ∀ p, s.rqtPass c.val (s.ownLoc (descImgAt (vget 0 d 0).toNat)) = some p →
      let r := p.load c.val (descImgAt (vget 0 d 0).toNat) (32 * n)
      r.bad = [] → k.start.toNat + n ≤ 4096 →
      ∃ t, exec (.imageLoadDone c) s = .next t ∧ started t k.num k.start (descBytes d) ∧
        ∀ i, i < n → tget 0 (t.core c).seq.cs (k.start.toNat + i) = BitVec.ofNat 256 (leNat ((r.bytes.drop (32 * i)).take 32)))

/-- The CCU takes an end report: the core holds no descriptor and an aborted task's arrivals are withdrawn. END_REPORT
takes the report at the front of the core's crossing: the CCU records that the core holds no descriptor, an eviction
no longer waits for it, and for an aborted or rejected task the core's arrival is removed from every barrier flag. No
byte of memory changes (R230, R259, R368). -/
def Obligations.EndReportsReachTheCcu : Prop :=
  ∀ (s : State) (c : CoreId) (r : EndReport) (rest : List CcuMsg), s.ccu.toCcu[c] = .report r :: rest → s.ccuAlive = true →
    ∃ t, exec (.endReport c) s = .next t ∧ t.ccu.toCcu[c] = rest ∧ t.ccu.holds[c] = none ∧ c ∉ t.evx.wait ∧
      (r.kind = .aborted ∨ r.kind = .rejected → ∀ n : BitVec 5, (t.arrived n).getLsbD c.val = false) ∧
      (∀ d, t.core d = s.core d) ∧ ∀ a, t.byteAt a = s.byteAt a

/-- INC and DEC of a barrier flag record arrivals; the complete set inverts the flag; SET and CLEAR write it. A signal at
the front of a core's crossing is applied by the CCU, unless a full crossing towards a core holds it. SET and CLEAR
write CFn and leave ARRIVED as it is. For a flag whose MASK is zero INC sets and DEC clears it. For a barrier flag an
INC or DEC from outside the required set (MASK and CORE_PRESENT, fenced cores removed) is ignored; inside it an INC
records the core, a DEC removes it, and when the arrivals then equal the required set the flag inverts, ARRIVED is
cleared and ROUNDS increments (R257). -/
def Obligations.ClusterFlagSignalsFollowTheBarrierRules : Prop :=
  ∀ (s : State) (c : CoreId) (n : BitVec 5) (op : BitVec 2) (rest : List CcuMsg),
    s.ccu.toCcu[c] = .signal n op :: rest → s.ccuAlive = true → s.ccuHeld = false →
    let at_ := 0x440 + 8 * n.toNat
    let mask : Byte := (s.reg 0 at_).setWidth 8
    let arrived : Byte := (s.reg 0 at_).extractLsb' 8 8
    let rounds := fld (s.reg 0 at_) 16 32
    let required : Byte := mask &&& s.fuses.present &&& ~~~((s.reg 0 0x108).setWidth 8)
    let withC : Byte := arrived ||| (1 <<< c.val)
    ∃ t, exec (.cfSignal c) s = .next t ∧ t.ccu.toCcu[c] = rest ∧ (∀ d, t.core d = s.core d) ∧ (∀ a, t.byteAt a = s.byteAt a) ∧
      (let cfIs := fun (v : Bool) => t.ccu.cf.getLsbD n.toNat = v
       let keeps := t.reg 0 at_ = s.reg 0 at_
       (op = 0 → cfIs true ∧ keeps) ∧
       (op = 1 → cfIs false ∧ keeps) ∧
       (op = 2 → mask = 0 → cfIs true ∧ keeps) ∧
       (op = 3 → mask = 0 → cfIs false ∧ keeps) ∧
       ((op = 2 ∨ op = 3) → mask ≠ 0 → required.getLsbD c.val = false → t.ccu.cf = s.ccu.cf ∧ keeps) ∧
       (op = 2 → mask ≠ 0 → required.getLsbD c.val = true →
         fld (t.reg 0 at_) 0 8 = mask.toNat ∧
         (withC ≠ required → t.ccu.cf = s.ccu.cf ∧ fld (t.reg 0 at_) 8 8 = withC.toNat ∧ fld (t.reg 0 at_) 16 32 = rounds) ∧
         (withC = required → cfIs (!s.ccu.cf.getLsbD n.toNat) ∧ fld (t.reg 0 at_) 8 8 = 0 ∧
           fld (t.reg 0 at_) 16 32 = (rounds + 1) % 2 ^ 32)) ∧
       (op = 3 → mask ≠ 0 → required.getLsbD c.val = true →
         t.ccu.cf = s.ccu.cf ∧ fld (t.reg 0 at_) 0 8 = mask.toNat ∧
           fld (t.reg 0 at_) 8 8 = (arrived &&& ~~~((1 : Byte) <<< c.val)).toNat ∧ fld (t.reg 0 at_) 16 32 = rounds))

/-- Held signals, take requests, their replies and flag broadcasts pass the crossings. SIGNAL_RELEASE writes the oldest
held signal, once the writes it covers are complete, into the crossing. CF_TAKE_REQUEST grants a request for one flag
exactly when it is 1 and for two flags when both are 1, or either with ANY, clears the flags named and answers a
reachable core. TAKE_REPLY ends the outstanding request and lets the word issue when granted; a reply to a request of
an aborted task is only counted off. CF_SHADOW_UPDATE writes the broadcast value into the shadow (R245, R250, R255). -/
def Obligations.FlagCrossingsDeliverInOrder : Prop :=
  ∀ (s : State) (c : CoreId),
    (∀ (h : HeldSig) (rest : List HeldSig), (s.core c).seq.held = h :: rest → s.alive c = true → s.covered c h.cover = true →
      exec (.signalRelease c) s = .next ((s.tell c (.signal h.cf h.op)).updSeq c fun q => { q with held := rest })) ∧
    (∀ (n1 : BitVec 5) (n2 : Option (BitVec 5)) (any : Bool) (rest : List CcuMsg),
      s.ccu.toCcu[c] = .take (some n1) n2 any :: rest → s.ccuAlive = true → s.ccuHeld = false →
      let on := fun (n : BitVec 5) => s.ccu.cf.getLsbD n.toNat
      let granted : Bool := match n2 with
        | none => on n1
        | some m => if any then on n1 || on m else on n1 && on m
      ∃ t, exec (.cfTakeRequest c) s = .next t ∧ t.ccu.toCcu[c] = rest ∧
        (granted = false → t.ccu.cf = s.ccu.cf) ∧
        (granted = true → t.ccu.cf.getLsbD n1.toNat = false ∧ (∀ m, n2 = some m → t.ccu.cf.getLsbD m.toNat = false)) ∧
        (s.reachable c = true → t.ccu.toCore[c].getLast? = some (.takeReply granted)) ∧
        (∀ d, t.core d = s.core d)) ∧
    (∀ (g : Bool) (rest : List CoreMsg), s.ccu.toCore[c] = .takeReply g :: rest → s.alive c = true →
      ∃ t, exec (.takeReply c) s = .next t ∧ t.ccu.toCore[c] = rest ∧
        (t.core c).seq = (if (s.core c).seq.takeVoid ≠ 0
          then { (s.core c).seq with takeVoid := (s.core c).seq.takeVoid - 1 }
          else { (s.core c).seq with takePend := false, takeGrant := g })) ∧
    (∀ (n : BitVec 5) (v : Bool) (rest : List CoreMsg), s.ccu.toCore[c] = .flag n v :: rest → s.coreRuns c →
      ∃ t, exec (.cfShadowUpdate c) s = .next t ∧ t.ccu.toCore[c] = rest ∧
        (t.core c).seq = { (s.core c).seq with shadow := setBit (s.core c).seq.shadow n.toNat v }) ∧
    (∀ (v : Word32) (rest : List CoreMsg), s.ccu.toCore[c] = .flags v :: rest → s.coreRuns c →
      ∃ t, exec (.cfShadowUpdate c) s = .next t ∧ t.ccu.toCore[c] = rest ∧
        (t.core c).seq = { (s.core c).seq with shadow := v })

/-- MMA, MMAC and HRMM issue from the queue head and their passes take the banks. An MX queue head whose examination holds
nothing back (R87, R86) leaves the queue and its first pass, or with PAIR its first two, starts: each pass's bank is
BUSY with the pass number, the other bank is untouched, and for D = 1 each pass has reserved an FTQ slot. A later pass
or pair starts in the same way at PASS_START once its banks and slots allow (R76, R77, R78, R86, R87). -/
def Obligations.MatrixInstructionsStartTheirPasses : Prop :=
  (∀ (s : State) (c : CoreId) (e : QEntry) (rest : List QEntry),
    (s.core c).seq.mxq = e :: rest → s.mayStart c 1 = true → (s.core c).mxExam = .go →
    let starts := fun (ps : List Nat) =>
      (Host.Outcome.next ((s.updSeq c fun q => { q with mxq := rest }).updMxe c fun m => m.startPasses e ps) : Ans)
    (op40 e.bits = 1 → exec (.mma c) s = starts (mxGroup e.bits 0)) ∧
    (op40 e.bits = 2 → exec (.mmac c) s = starts (mxGroup e.bits 0)) ∧
    (op40 e.bits = 4 → exec (.hrmm c) s = starts [0])) ∧
  (∀ (s : State) (c : CoreId) (r : MxRun), (s.core c).mxe.run = some r → r.now = [] → r.next < r.total → s.alive c = true →
    (s.core c).mxe.passHold r.e.bits (mxGroup r.e.bits r.next) = .go →
    exec (.passStart c) s = .next (s.updMxe c fun m => m.startPasses r.e (mxGroup r.e.bits r.next))) ∧
  (∀ (m : Mxe) (e : QEntry) (p : Nat), p < 16 →
    let ps := mxGroup e.bits p
    let t := m.startPasses e ps
    t.run = some ⟨e, ps, p + ps.length, mxTotal e.bits⟩ ∧
    (∀ q ∈ ps, t.banks[mxPassBank e.bits q].st = .busy ∧ t.banks[mxPassBank e.bits q].pass = BitVec.ofNat 4 q) ∧
    (∀ b : BankId, (∀ q ∈ ps, mxPassBank e.bits q ≠ b) → t.banks[b] = m.banks[b]) ∧
    (mxD e.bits = false → t.ftq = m.ftq) ∧
    (mxD e.bits = true → ps.length ≤ m.freeSlots.length → t.freeSlots.length + ps.length = m.freeSlots.length) ∧
    { t with run := m.run, banks := m.banks, ftq := m.ftq } = m)

/-- PASS_END leaves what the pass accumulated in its bank and drains it or holds it. When the one running pass ends and no
value it reads is bad, its bank holds the accumulators the pass computed from the tiles over the bank's start (+0 for
an MMA), with the overflow bits recorded. With D = 0 the bank is HELD, and with the last pass the instruction
completes and fires its done signal. With D = 1 the drain into the slot reserved for it is queued. A pair of passes
ends in the same way, the first pass and then the second, which takes the edge they share from the first's latch (A
where FN is at least 2, else B) (R76, R79, R80, R82, R251). -/
def Obligations.PassesLeaveTheirResultInTheBank : Prop :=
  (∀ (s : State) (c : CoreId) (r : MxRun) (p : Nat),
    (s.core c).mxe.run = some r → r.now = [p] → s.alive c = true → (s.core c).seq.causes = [] →
    let b := r.e.bits
    let m := (s.core c).mxe
    let x := mxPassBank b p
    let hr := op40 b == 4
    let fresh := op40 b == 1 || (hr && !mxPair b)
    let checked := s.checkedTask c
    let p0 := m.banks[x].begin m.rows m.cols fresh
    let o := if hr then s.hrPass c b checked p0 else s.mmaPass c b checked p none p0
    (fresh = true ∨ m.banks[x].bad = []) → o.bad = [] →
    let org := passOrigin m (s.core c).trf b checked p
    let kept := fun (u : State) => u.updMxe c fun y =>
      { y with banks := vmod y.banks x.val fun k => k.finish o.acc org fresh checked o.k }
    let ovf := fun (u : State) => if o.acc.ovf then u.orReg (pgMxe c) 0x118 (1 <<< x.val) else u
    (mxD b = false → r.next < r.total →
      exec (.passEnd c) s = .next (((ovf (kept o.s)).pm (pgMxe c) 0x08 1).updMxe c fun y => { y with run := some { r with now := [] } })) ∧
    (mxD b = false → r.total ≤ r.next →
      exec (.passEnd c) s = .next ((((ovf (kept o.s)).pm (pgMxe c) 0x08 1).updMxe c fun y => { y with run := none }).done c r.e)) ∧
    (mxD b = true →
      exec (.passEnd c) s = .next (((ovf ((kept o.s).updMxe c fun y => y.queueDrain x org.lr org.tid r.e (p + 1 == r.total))).pm
        (pgMxe c) 0x08 1).updMxe c fun y => { y with run := if r.next < r.total then some { r with now := [] } else none })) ∧
    (∀ (k : Bank) (n : Nat), (k.finish o.acc org fresh checked n).acc = accTab o.acc.rows ∧
      (k.finish o.acc org fresh checked n).st = .held)) ∧
  (∀ (s : State) (c : CoreId) (r : MxRun) (p q : Nat),
    (s.core c).mxe.run = some r → r.now = [p, q] → s.alive c = true → (s.core c).seq.causes = [] →
    let one := s.endPass c r none p
    let two := one.2.endPass c r one.1 q
    (two.2.core c).seq.causes = [] →
    (r.next < r.total → exec (.passEnd c) s = .next (two.2.updMxe c fun y => { y with run := some { r with now := [] } })) ∧
    (r.total ≤ r.next → exec (.passEnd c) s = .next (
      let u := two.2.updMxe c fun y => { y with run := none }
      if mxD r.e.bits then u else u.done c r.e))) ∧
  (∀ (s : State) (c : CoreId) (b : BitVec 40) (checked : Bool) (p : Nat) (p0 : PassAcc) (l : EdgeLatch),
    ∃ f : EdgeLatch, (s.mmaPass c b checked p none p0).latch = some f ∧ f.edgeA = decide (2 ≤ mxFn b) ∧
      f.block = (if 2 ≤ mxFn b then p / mxFn b else p % mxFn b) ∧
      (s.edgeRead c (some l) l.edgeA l.block 1 []).bytes = l.bytes)

/-- A drain that passes its checks fills its FTQ slot and empties its bank; DRAIN and DISCARD do what R84 says.
BANK_DRAIN_COMPLETE of the drain at the head of the drain path, when no value's parity disagrees and (in a checked
task) no check misses: the slot is valid with the bank's tile, tile ID, origin, LR, pass, shape, CHAIN and the next
push number; the bank is EMPTY; the next queued drain begins; the instruction's last drain fires its done signal.
DRAIN of a HELD bank reserves the lowest free slot and queues its drain, with DISCARD it empties the bank, and of an
EMPTY bank it only completes (R79, R81, R84, R101). -/
def Obligations.DrainsFillTheFtqInOrder : Prop :=
  (∀ (s : State) (c : CoreId) (d : Draining) (rest : List Draining),
    (s.core c).mxe.drains = d :: rest → s.alive c = true → (s.core c).seq.causes = [] →
    let m := (s.core c).mxe
    let b := m.banks[d.bank]
    let a : AbftResult := if b.checked then b.abft m.rows m.cols else ⟨0, none⟩
    b.bad = [] → a.miss = none →
    exec (.bankDrainComplete c) s =
      .next (let u := (s.satRf (pgMxe c) 0x120 16 16 a.skips).updMxe c fun y => y.finishDrain d
        if d.last then u.done c d.e else u)) ∧
  (∀ (m : Mxe) (d : Draining) (rest : List Draining), m.drains = d :: rest →
    let b := m.banks[d.bank]
    let t := m.finishDrain d
    t.ftq[d.slot] = ⟨true, false, d.tid, b.org.row0, b.org.col0, b.pass, d.lr, b.org.int, m.chain, m.nextPush, m.shape,
      b.tile m.rows m.cols, []⟩ ∧
    (b.checked = false → b.tile m.rows m.cols = b.acc) ∧ t.nextPush = m.nextPush + 1 ∧ t.drains = rest ∧
    (∀ f : Fin 4, f ≠ d.slot → t.ftq[f] = m.ftq[f]) ∧
    (rest = [] → t.banks[d.bank] = Bank.empty) ∧
    (∀ (n : Draining) (r : List Draining), rest = n :: r → n.bank ≠ d.bank →
      t.banks[d.bank] = Bank.empty ∧ t.banks[n.bank].st = .draining)) ∧
  (∀ (s : State) (c : CoreId) (e : QEntry) (rest : List QEntry),
    (s.core c).seq.mxq = e :: rest → s.mayStart c 1 = true → (s.core c).mxExam = .go → op40 e.bits = 6 →
    let s1 := s.updSeq c fun q => { q with mxq := rest }
    let x := mxBank e.bits
    let st := (s.core c).mxe.banks[x].st
    (st = .empty → exec (.drain c) s = .next (s1.done c e)) ∧
    (st ≠ .empty → mxD e.bits = true →
      exec (.drain c) s = .next ((s1.updMxe c fun m => { m with banks := m.banks.set x Bank.empty }).done c e)) ∧
    (st ≠ .empty → mxD e.bits = false →
      exec (.drain c) s = .next (s1.updMxe c fun m => m.reserve.queueDrain x (mxLr e.bits) (mxTid e.bits) e true)))

/-- HRLD, SHAPE, ASCL and MODE begin and complete as the spec says. HRLD begins its load with no held row valid; HRLD_DONE
makes the R held rows, read from the tile group in row order, valid with the tile's format. SHAPE of the shape in
force completes at once; another shape begins the change, and SHAPE_DONE puts it in force, makes held rows invalid and
counts in CHANGES. ASCL begins; ASCL_DONE multiplies row i of an FP32 bank by factor i (an INT32 bank holds free words
instead, the model's choice of assumption 32) and makes the entry invalid. MODE writes CHAIN with CW = 1 and clears
OVF with OVFCLR = 1 (R68, R69, R94, R95, R97, R98, R109). -/
def Obligations.HeldRowsShapeScaleAndMode : Prop :=
  ∀ (s : State) (c : CoreId),
    (∀ (e : QEntry) (rest : List QEntry), (s.core c).seq.mxq = e :: rest → s.mayStart c 1 = true → (s.core c).mxExam = .go →
      let s1 := s.updSeq c fun q => { q with mxq := rest }
      let code : BitVec 2 := e.bits.extractLsb' 34 2
      (op40 e.bits = 3 →
        exec (.hrld c) s = .next (s1.updMxe c fun m => { m with op := some (.hrld e), held := ⟨false, [], 0⟩ })) ∧
      (op40 e.bits = 5 → code = (s.core c).mxe.shape →
        exec (.shape c) s = .next ((s1.updMxe c fun m => { m with shapeSrc := false }).done c e)) ∧
      (op40 e.bits = 5 → code ≠ (s.core c).mxe.shape →
        exec (.shape c) s = .next (s1.updMxe c fun m => { m with op := some (.shape (some e) code) })) ∧
      (op40 e.bits = 7 → exec (.ascl c) s = .next (s1.updMxe c fun m => { m with op := some (.ascl e) })) ∧
      (op40 e.bits = 8 → exec (.mode c) s = .next (
        (let u := if e.bits.getLsbD 34 then s1.updMxe c fun m => { m with chain := e.bits.getLsbD 35 } else s1
         if e.bits.getLsbD 33 then u.setReg (pgMxe c) 0x118 0 else u).done c e))) ∧
    (∀ (e : Option QEntry) (code : BitVec 2), (s.core c).mxe.op = some (.shape e code) → s.coreRuns c →
      let u := ((s.updMxe c fun m =>
        { m with shape := code, shapeSrc := e.isNone, held := ⟨false, [], 0⟩, op := none }).bumpRf (pgMxe c) 0x100 32 32 1).pm
          (pgMxe c) 0x07 1
      exec (.shapeDone c) s = .next (match e with
        | some q => u.done c q
        | none => u)) ∧
    (∀ e : QEntry, (s.core c).mxe.op = some (.hrld e) → s.alive c = true → (s.core c).seq.causes = [] →
      let l := s.tileRows c ((groupTiles (mxTa e.bits) (mxNa e.bits)).map fun t => (t, ((s.core c).trf.cfg t).nRows))
      let x := (s.core c).trf.cfg (mxTa e.bits)
      l.bad = [] →
      exec (.hrldDone c) s = .next ((l.s.updMxe c fun m =>
        { m with op := none, held := ⟨true, (chunks x.rb l.bytes).take m.rows, x.fmt⟩ }).done c e)) ∧
    (∀ e : QEntry, (s.core c).mxe.op = some (.ascl e) → s.alive c = true → (s.core c).seq.causes = [] →
      let m := (s.core c).mxe
      let x := mxBank e.bits
      let n := fld e.bits 34 1
      let sb := vget ⟨false, [], []⟩ m.sb n
      m.banks[x].bad = [] → sb.bad.any (· < m.rows) = false →
      let f := if m.banks[x].org.int then Config.asclInt else asclValue
      exec (.asclDone c) s = .next ((s.updMxe c fun y => { y with
        op := none
        sb := vset y.sb n ⟨false, [], []⟩
        banks := y.banks.set x { m.banks[x] with
          acc := accTab ((accRows m.banks[x].acc m.rows m.cols).mapIdx fun i row => row.map fun v => f v (tget 0 sb.val i))
          scaled := true } }).done c e))

/-- An expiry of a core's timeout aborts the task with the cause the spec names. While the condition that is timed still
holds, the expiry raises its abort cause for the held task and the ERR bit of the block's page: WAIT_TMO (0x03) for a
held MX, LS, VX or CH queue head, the held next pass of a folded MX instruction, a beat stall of a VX chain and a
cache op; CFG_MISMATCH (0x11) for an MX, LS or VX instruction held for what host software wrote and for a WPR range
that is inconsistent; CH_DEAD (0x05) for a send without credits and for a message without acknowledgement; STREAM
(0x04) for a stream request without reply and for a posted write without acknowledgement. A pause of the engine holds
the expiry of a queue head's hold but not that of a CFG_MISMATCH. No byte of memory changes (R88, R103, R126, R134,
R158, R174, R233, R290, R309, R320, R343). -/
def Obligations.EngineTimeoutsAbortTheTask : Prop :=
  ∀ (s : State) (c : CoreId), (s.core c).seq.abortTask = false → (s.core c).seq.holds = true →
    let k := s.core c
    let aborts := fun (i : Instr) (page b : Nat) (code : Byte) => ∃ t, exec i s = .next t ∧ Raises s t c page b code
    (∀ x, k.mxe.laterHold = some x → s.mayExam c = true → aborts (.mxeHoldTmo c) (pgMxe c) 3 0x03) ∧
    (∀ (e : QEntry) (rest : List QEntry), k.seq.mxq = e :: rest →
      (∀ cond tile bank, k.mxExam = .hold cond tile bank → s.unpaused c 1 = true → aborts (.mxeHoldTmo c) (pgMxe c) 3 0x03) ∧
      (∀ tile, k.mxExam = .cfg tile → s.mayExam c = true → k.seq.st ≠ .paused → aborts (.mxeCfgTmo c) (pgMxe c) 12 0x11)) ∧
    (∀ (e : QEntry) (rest : List QEntry), k.seq.lsq = e :: rest →
      (∀ cond tile, s.lsExam c = .hold cond tile → s.unpaused c 3 = true → aborts (.lsHoldTmo c) (pgTrf c) 3 0x03) ∧
      (∀ tile, s.lsExam c = .cfg tile → s.mayExam c = true → k.seq.st ≠ .paused →
        aborts (.tluCfgTmo c) (pgTrf c) 12 0x11)) ∧
    (∀ (e : QEntry) (rest : List QEntry), k.seq.vxq = e :: rest →
      (∀ cond a, s.vxStall c = none → s.vxExam c = .hold cond a → cond ≠ 9 → s.unpaused c 2 = true →
        aborts (.vxeHoldTmo c) (pgVxe c) 3 0x03) ∧
      (∀ stage, s.vxExam c = .cfg stage → s.mayExam c = true → k.seq.st ≠ .paused →
        aborts (.vxeCfgTmo c) (pgVxe c) 14 0x11)) ∧
    (∀ x, s.vxStall c = some x → s.alive c = true → k.seq.causes = [] → aborts (.vxeHoldTmo c) (pgVxe c) 3 0x03) ∧
    (∀ o, k.cch.op = some o → s.strLive c = true → aborts (.cchOpTmo c) (pgCch c) 3 0x03) ∧
    (s.wprBroken c = true → s.strLive c = true → k.seq.task.isSome = true → k.seq.st ≠ .paused → aborts (.wprCfgTmo c) (pgCch c) 10 0x11) ∧
    (s.creditWaits c ≠ [] → s.alive c = true → k.seq.causes = [] → aborts (.chCreditTmo c) (pgChn c) 8 0x05) ∧
    (∀ (ch : ChanId) (u : Unacked), u ∈ (k.chn.bind ch.val).unacked → u.pad = false → s.alive c = true → k.seq.causes = [] →
      aborts (.chAckTmo c ch) (pgChn c) 8 0x05) ∧
    (∀ (e : QEntry) (rest : List QEntry), k.seq.chq = e :: rest → s.mayStart c 7 = true →
      (op24 e.bits = 5 → vxePort (chPort e.bits) = false → k.crelHeld e = true → aborts (.chnHoldTmo c) (pgChn c) 3 0x03) ∧
      (∀ v t, op24 e.bits = 4 → s.chRecord c e 0 (chPort e.bits) = .ok v t → portCase (chPort e.bits) v = 0 →
        (k.chn.port (chPort e.bits)).portHeld v = true → aborts (.chnHoldTmo c) (pgChn c) 3 0x03)) ∧
    (∀ (u : UnitId) (a : ActDesc) (q : FarReq), a ∈ (s.unit c u).acts → q ∈ a.outs → s.strLive c = true →
      (∀ x ∈ (s.unit c u).acts, x.dead = false) → aborts (.streamElementTmo c u q.id) (pgStr c) 3 0x04) ∧
    (∀ (u : UnitId) (p : Posted), p ∈ (s.unit c u).posted → (∀ a ∈ (s.unit c u).acts, a.outs = []) →
      (∀ x ∈ (s.unit c u).posted, x.dead = false) → s.strLive c = true → aborts (.streamElementTmo c u p.id) (pgStr c) 3 0x04)

/-- TLD clears its tile and requests its rows; TST reads its rows and requests their stores; TCFG and TINV act at once. An
LS queue head that nothing holds back leaves the queue. TLD clears VALID and TPOISON of its tile, has every row
outstanding and requests each, once the requests find tags. TST counts its poisoned rows as skipped, and in order
reads each other row from the TRF, has it outstanding and requests its store; with every row poisoned it completes at
once. TCFG writes the tile's configuration from A[a]; TINV clears VALID and TPOISON of the tiles in its mask and of no
other; both complete (R114, R123, R124, R127, R131, R136, R538, R539). -/
def Obligations.TileLoadsAndStoresStart : Prop :=
  (∀ (s : State) (c : CoreId) (e : QEntry) (rest : List QEntry),
    (s.core c).seq.lsq = e :: rest → s.mayStart c 3 = true → s.lsExam c = .go →
    let s1 := s.updSeq c fun q => { q with lsq := rest }
    let b := e.bits
    let tile := lsTile b
    let x := (s.core c).trf.cfg tile
    (op32 b = 1 →
      let rows := List.range (tluRows false b x)
      let s2 := s1.updTrf c fun k => { (k.setValid tile false) with
        poison := vset k.poison tile 0
        ops := k.ops ++ [TluOp.start e false tile x rows] }
      ∀ u, requestAll (fun v i => v.tldRequest c e (tluLen false b x) i) rows s2 = some u → exec (.tld c) s = .next u) ∧
    (op32 b = 2 →
      let rows := (List.range x.nRows).filter fun r => !(vget 0 (s.core c).trf.poison tile).getLsbD r
      let s2 := (s1.satRf (pgTrf c) 0x210 16 16 (x.nRows - rows.length)).updTrf c fun k =>
        { k with ops := k.ops ++ [TluOp.start e true tile x []] }
      (∀ u, s2.tstRows c e tile x rows = some u → exec (.tst c) s = .next (u.tstFinish c e.num)) ∧
      (rows = [] → (∀ o ∈ (s.core c).trf.ops, o.e.num ≠ e.num) →
        ∃ v : State, exec (.tst c) s = .next (v.done c e) ∧ (v.core c).trf = (s.core c).trf ∧ (v.core c).seq.lsq = rest ∧
          v.mem = s.mem)) ∧
    (op32 b = 3 → exec (.tcfg c) s = .next
      ((s1.updTrf c fun k => k.configure tile (TileCfg.ofBits (e.a (fld b 20 4)) false)).done c e)) ∧
    (op32 b = 4 → exec (.tinv c) s = .next ((s1.updTrf c fun k =>
      { k with
        tiles := vmap (fun i y => if b.getLsbD (12 + i) then { y with valid := false } else y) k.tiles
        poison := vmap (fun i p => if b.getLsbD (12 + i) then 0 else p) k.poison }).done c e))) ∧
  (∀ (s : State) (c : CoreId) (e : QEntry) (tile : Nat) (x : TileCfg) (r : Nat) (rs : List Nat),
    let l := s.trfLoad c c.val (x.at_ + r * x.rb) x.rb
    l.bad = [] → ∀ u,
    (l.s.updOp c e.num fun o => { o with pend := o.pend ++ [r], gather := tputs 0 o.gather (256 * r) l.bytes }).tstRequest
      c e l.bytes r = some u →
    s.tstRows c e tile x (r :: rs) = u.tstRows c e tile x rs) ∧
  (∀ (s : State) (c : CoreId) (e : QEntry) (tile : Nat) (x : TileCfg), s.tstRows c e tile x [] = some s)

/-- A returned TLD row is written or poisoned, an accepted TST row leaves, a row timeout poisons or aborts. TLD_ROW_RETURN
of an outstanding row whose turn it is and that waits for no fill: with data, the row's bytes (converted under CV) are
written to the TRF, or gathered under TRANS, and the row is no longer outstanding; with the last row the tile is VALID
and the TLD is over. A row whose read fails is poisoned with its contents kept, and one outside every window aborts.
TLD_ROW_TMO counts the row and poisons it, or aborts a TST with WAIT_TMO. TST_ROW_ACCEPT of a row that its target
takes removes it, the last completes the TST, and a row that faults aborts (R123, R127, R128, R129, R130, R131). -/
def Obligations.TileRowsReturnAndAreAccepted : Prop :=
  ∀ (s : State) (c : CoreId),
    (∀ (op : Fin 2) (row : Byte) (r : Reply) (o : TluOp), (s.core c).trf.ops[op.val]? = some o → o.store = false →
      o.pend.contains row.toNat = true → o.held.contains row.toNat = false → s.rowTurn c op.val false = true →
      (s.core c).seq.causes = [] →
      let i := row.toNat
      let n := tluLen false o.e.bits o.cfg
      let user := TagUser.tlu c o.e.num i
      s.cscWaits c user (if o.denied.contains i then [] else s.rowLines c (o.e.rowAddr i) n (linesOf (o.e.rowAddr i) n)) = none →
      s.bondBad user = false →
      let g := s.tldRead c o i n r
      (g.err = none → exec (.tldRowReturn c op row r) s = .next ((g.s.takeTag user).landRow c o i g.bytes)) ∧
      (∀ x, g.err = some x → x ≠ .busy → x.kind ≠ 5 →
        exec (.tldRowReturn c op row r) s = .next ((g.s.takeTag user).poisonRow c o i x.kind)) ∧
      (∀ x, g.err = some x → x.kind = 5 → exec (.tldRowReturn c op row r) s = .next
        ((g.s.takeTag user).tluAbort c 13 0x09 (tluInfo o.e o.tile.toNat i 4) (o.e.rowAddr i + 2 ^ 48 * 5)))) ∧
    (∀ (op : Fin 2) (row : Byte) (o : TluOp), (s.core c).trf.ops[op.val]? = some o →
      o.pend.contains row.toNat = true → o.held.contains row.toNat = false → s.alive c = true → (s.core c).seq.causes = [] →
      let s1 := s.satRf (pgTrf c) 0x210 32 16 1
      let user := TagUser.tlu c o.e.num row.toNat
      (o.store = false → exec (.tldRowTmo c op row) s = .next ((s1.poisonRow c o row.toNat 3).freeUser user)) ∧
      (o.store = true → exec (.tldRowTmo c op row) s = .next ((s1.tstFault c o row.toNat 3 0x03).freeUser user))) ∧
    (∀ (row : Byte) (r : Reply) (i : Nat) (o : TluOp), (s.core c).storeRow row.toNat = some (i, o) → s.storeTurn c i = true →
      let n := row.toNat
      o.tx.contains n = false → o.held.contains n = false →
      let bs := o.rowBytes n
      let user := TagUser.tlu c o.e.num n
      let loc := o.e.rowAddr n
      s.cscWaits c user (if o.denied.contains n then [] else s.rowLines c loc bs.length (partialLines loc bs.length)) = none →
      s.bondBad user = false →
      let g := s.tstWrite c o n bs r
      (g.err = none → exec (.tstRowAccept c row r) s = .next ((g.s.takeTag user).rowAccepted c o n)) ∧
      (∀ x, g.err = some x → x ≠ .busy →
        exec (.tstRowAccept c row r) s = .next ((g.s.takeTag user).tstFault c o n x.kind x.tstCause))) ∧
    (∀ (o : TluOp) (row : Nat) (bs : List Byte), (s.core c).trf.ops = [o] → o.pend = [row] → o.e.sig = none →
      let p := s.poisonRow c o row 2
      let l := s.landRow c o row bs
      let w := (s.trfStore c c.val (cellsAt (o.cfg.at_ + row * o.cfg.rb)
        (if tldCv o.e.bits then cvRow o.e o.cfg (s.seed c) row bs else bs))).s
      (tldTrans o.e.bits = false →
        (((p.core c).trf.cfg o.tile.toNat).valid = true ∧ (p.core c).trf.ops = [] ∧
          bitAt (vget 0 (p.core c).trf.poison o.tile.toNat) row = decide (row < 64) ∧
          (p.core c).trf.data = (s.core c).trf.data) ∧
        (((l.core c).trf.cfg o.tile.toNat).valid = true ∧ (l.core c).trf.ops = [] ∧
          (l.core c).trf.data = (w.core c).trf.data)) ∧
      (o.store = true → ((s.rowAccepted c o row).core c).trf.ops = [])) ∧
    (∀ (o : TluOp) (row next : Nat) (bs : List Byte), (s.core c).trf.ops = [o] → o.pend = [row, next] → row ≠ next →
      tldTrans o.e.bits = true →
      ((s.landRow c o row bs).core c).trf.ops = [{ o with pend := [next], gather := scatter o.cfg row o.gather bs }])

/-- VRUN, VRED and VSTAT issue; FTQ tiles feed them in order; VX_COMPLETE runs them to their end and writes their results.
A VX queue head that nothing holds back leaves the queue and starts; with N = 0 it is in progress and reads nothing.
FTQ_TILE_SELECT of a slot that passes the format, order and shape checks gives it to the stream that waits for a tile,
and aborts with FTQ_ORDER when the order check fails; a slot read to its end is popped and FTQ_LAST names it. A beat
that meets no fault makes its output and its sticky conditions. VX_COMPLETE lets the chains go on as far as they can;
a front one whose beats have all left then leaves its reduction in VSUM and P or in the RSS, makes its output tile or
scale-buffer entry valid, and fires its done signal; with N = 0 it writes nothing (R147, R148, R149, R150, R161, R164,
R168, R171, R189). -/
def Obligations.ChainsIssueReadTilesAndComplete : Prop :=
  ∀ (s : State) (c : CoreId),
    (∀ (e : QEntry) (rest : List QEntry), (s.core c).seq.vxq = e :: rest → s.mayStart c 2 = true → s.vxExam c = .go →
      let s1 := s.updSeq c fun q => { q with vxq := rest }
      let h := s.chain c (vxChain e.bits)
      (op40 e.bits = 1 → exec (.vrun c) s = .next (s1.vxStart c e)) ∧
      (op40 e.bits = 2 → exec (.vred c) s = .next (s1.vxStart c e)) ∧
      (op40 e.bits = 3 → exec (.vstat c) s = .next (s1.vxStart c e)) ∧
      (op40 e.bits ≠ 4 → e.beats = 0 → h.in0k ≠ 1 → h.in1k ≠ 1 → h.outk ≠ 1 →
        ∃ a, s1.vxStart c e = (s1.updVxe c fun v => { v with acts := v.acts ++ [a] }) ∧ a.e = e ∧ a.n = 0 ∧ a.reading = false)) ∧
    (∀ (a : VxAct) (i : Fin 4), (s.core c).wantsTile = some a → s.alive c = true → (s.core c).seq.causes = [] →
      (s.core c).mxe.select (a.chain.in0 a.e).a = some i →
      let x := (s.core c).mxe.ftq[i]
      let np := (s.core c).mxe.nextPop
      let inOrder := (a.chain.ord = true → x.seq = np) ∧ (a.chain.ord = false → x.chain = false)
      a.chain.in0f = (if x.int then 8 else 0) →
      (inOrder → a.chain.rowsBad a.e x = false → exec (.ftqTileSelect c) s = .next ((s.updReading c fun y =>
        { y with slot := some i, tiles := y.tiles ++ [(y.rd * a.chain.epb, x.shape)] }).vxPump c)) ∧
      (¬ inOrder → exec (.ftqTileSelect c) s =
        .next (s.vxAbort c a.e 15 0x12 0 7 (i.val + 2 ^ 16 * np.toNat + 2 ^ 48 * x.seq.toNat)))) ∧
    (∀ (a : VxAct) (i : Fin 4), a.slot = some i →
      let x := (s.core c).mxe.ftq[i]
      let p := a.slotPos
      let n := a.chain.epb
      x.bad = [] → 4096 ≤ p + n → ∃ t : State, s.vxReadFtq c a = .got (x.bytes p n) t ∧ (t.core c).mxe.ftq[i] = FtqSlot.empty ∧
        t.mem = s.mem) ∧
    (∀ a : VxAct, (a.rssReads a.chain).any (s.core c).vxe.rssBad.contains = false →
      let h := a.chain
      let mask := if h.maskk = 1 then a.maskOf h else []
      let y := s.runBeat c h (s.beatIn c h a) mask
      y.fault = none →
      let live := h.live mask y.outs
      let els := y.outs.getLastD []
      let s1 := (y.s.pm (pgVxe c) 0x0B (h.transStages * els.length)).pm (pgVxe c) 0x0C (live.filter (! ·)).length
      s.vxBeat c a = (s1.updVxe c fun v =>
        v.sticky h (anyLive y.ovf live) (anyLive y.nan live) (List.zip els live)).vxOut c h a (els, live)) ∧
    (s.alive c = true → (s.core c).seq.causes = [] →
      let t := s.vxPump c
      ((s.core c).vxe.acts.find? VxAct.reading = none → t = s) ∧
      ∀ (a : VxAct) (rest : List VxAct), (t.core c).vxe.acts = a :: rest → a.reading = false → (t.core c).seq.causes = [] →
        (a.n = 0 → exec (.vxComplete c) s = .next ((t.updVxe c fun v => { v with acts := rest }).done c a.e)) ∧
        (a.n ≠ 0 → (a.accReads a.chain).any (t.core c).vxe.rssBad.contains = false →
          ∃ u : State, exec (.vxComplete c) s = .next ((u.updVxe c fun v => { v with acts := rest }).done c a.e) ∧ u.mem = t.mem ∧
            (let v := ((if op40 a.e.bits = 2 then t.vxSum c a.chain a else if op40 a.e.bits = 3 then t.vxRss c a.chain a else t).core c).vxe
             (u.core c).vxe.vsum = v.vsum ∧ (u.core c).vxe.p = v.p ∧ (u.core c).vxe.rss = v.rss) ∧
            (a.chain.outk = 2 → ((u.core c).trf.cfg ((a.chain.out a.e).a % 16)).valid = true) ∧
            (a.chain.outk = 4 → (vget ⟨false, [], []⟩ (u.core c).mxe.sb ((a.chain.out a.e).a % 2)).valid = true)))

/-- VCLR clears what its masks name, or loads a chain entry, a constant or a permutation table. VCLR at the queue head
with every earlier VX instruction complete: CLEAR zeroes the VSUM entries of its mask, resets the sticky conditions
with STK and P with PCLR, and writes INIT into the RSS values that k names of the A[a][8:0] rows from RSSB (all rows
for a count above 256); LOADC loads CHT[n] from 136 B of the own CSP, SETK writes constant k of CHT[n] from A[a][31:0]
and LOADP loads permutation table k from 256 B; LOADC and SETK clear bit n of CHT_SRC. Each completes. A LOADC or
LOADP whose address is outside the own CSP or not aligned aborts with WINDOW. No byte of memory changes (R178). -/
def Obligations.VclrLoadsAndClears : Prop :=
  ∀ (s : State) (c : CoreId) (e : QEntry) (rest : List QEntry),
    (s.core c).seq.vxq = e :: rest → s.mayStart c 2 = true → (s.core c).vxe.acts = [] → op40 e.bits = 4 →
    let s1 := s.updSeq c fun q => { q with vxq := rest }
    let b := e.bits
    let n := vxChain b
    let v := (s.core c).vxe
    let count := min 256 (e.va 28 % 512)
    let init : Word32 := if fld b 2 2 = 0 then 0 else if fld b 2 2 = 1 then 0xFF800000 else 0x7F800000
    (fld b 20 4 = 0 → ∃ t : State, exec (.vclrClear c) s = .next (t.done c e) ∧ (∀ a, t.byteAt a = s.byteAt a) ∧
      (t.core c).seq = { (s.core c).seq with vxq := rest } ∧
      (let w := (t.core c).vxe
       (∀ i, i < 8 → vget 0 w.vsum i = if b.getLsbD (12 + i) then 0 else vget 0 v.vsum i) ∧
       w.p = (if b.getLsbD 0 then 0 else v.p) ∧
       (w.anyNan, w.anyInf, w.ovf, w.allZero) =
         (if b.getLsbD 1 then (false, false, false, true) else (v.anyNan, v.anyInf, v.ovf, v.allZero)) ∧
       ∀ row i, row < 256 → i < 4 → tget 0 w.rss (4 * row + i) =
         if b.getLsbD (24 + i) && (List.range count).any (fun j => (vxRssb b + j) % 256 == row) then init
         else tget 0 v.rss (4 * row + i))) ∧
    (fld b 20 4 = 2 → exec (.vclrSetk c) s = .next
      (((s1.setRf (pgVxe c) (chtAt n + 0x48 + 8 * (fld b 24 4 / 2)) (32 * (fld b 24 4 % 2)) 32 (e.va 28)).setRf
        (pgVxe c) 0x1F8 n 1 0).done c e)) ∧
    (∀ off, s.ownCsp c (e.va 28) = some off →
      (fld b 20 4 = 1 → e.va 28 % 8 = 0 → off + 136 ≤ cspSize →
        let r := s1.cspLoad c .ownCore off 136
        r.bad = [] →
        exec (.vclrLoadc c) s = .next ((((List.range 17).foldl (fun (t : State) i =>
          t.setReg (pgVxe c) (chtAt n + 8 * i) (BitVec.ofNat 64 (leNat ((r.bytes.drop (8 * i)).take 8)) &&& chtMask i)) r.s).setRf
            (pgVxe c) 0x1F8 n 1 0).done c e)) ∧
      (fld b 20 4 = 3 → e.va 28 % 16 = 0 → off + 256 ≤ cspSize →
        let r := s1.cspLoad c .ownCore off 256
        r.bad = [] →
        exec (.vclrLoadp c) s = .next ((r.s.updVxe c fun v =>
          { v with pt := tputs 0 v.pt (256 * fld b 24 4) r.bytes }).done c e))) ∧
    (s.ownCsp c (e.va 28) = none ∨ e.va 28 % 8 ≠ 0 →
      (fld b 20 4 = 1 → exec (.vclrLoadc c) s = .next (s1.vxAbort c e 11 0x09 0 8 (e.va 28)))) ∧
    (s.ownCsp c (e.va 28) = none ∨ e.va 28 % 16 ≠ 0 →
      (fld b 20 4 = 3 → exec (.vclrLoadp c) s = .next (s1.vxAbort c e 11 0x09 0 8 (e.va 28)))) ∧
    (∀ i ∈ [Instr.vclrClear c, .vclrLoadc c, .vclrSetk c, .vclrLoadp c], ∀ t, exec i s = .next t → t.mem = s.mem)

/-- CFL, CIV and FENCE start at the queue head and complete at their scope. A cache op at the LS queue head whose earlier
rows are all accepted leaves the queue. CFL at CLUSTER scope or wider writes back the dirty lines of its range and
with INV invalidates the range; at CORE scope it does nothing. CIV writes back and invalidates its range, and a fill
in flight allocates no line of it. FENCE notes the requests it waits for. CACHE_OP_DONE with data completes the op (a
CIV at DEVICE or SYSTEM drops the CSC lines of its range), a FENCE only when what it waits for is done; an error reply
to a write-back aborts with REMOTE_ERR. Sweeping a range with no line in the CCH changes nothing (R305, R306, R307,
R309, R311). -/
def Obligations.CacheOpsStartAndComplete : Prop :=
  ∀ (s : State) (c : CoreId),
    (∀ (e : QEntry) (t : State),
      (s.cacheHead c 8 = some (e, t) → lsScope e.bits ≤ 1 →
        exec (.cfl c) s = .next (t.updCch c fun k => { k with op := some ⟨e, []⟩ })) ∧
      (s.cacheHead c 8 = some (e, t) → 2 ≤ lsScope e.bits → ∀ r,
        t.sweep c (e.bits.getLsbD 16) false e.cw.toNat e.opScope (t.rangeLines c e) = some r →
        exec (.cfl c) s = .next (r.s.updCch c fun k => { k with op := some ⟨e, r.wbs⟩ })) ∧
      (s.cacheHead c 9 = some (e, t) → ∀ r, t.sweep c true true e.cw.toNat e.opScope (t.rangeLines c e) = some r →
        exec (.civ c) s = .next ((r.s.updCch c fun k => { k with op := some ⟨e, r.wbs⟩ }).noFills c e)) ∧
      (s.cacheHead c 10 = some (e, t) →
        exec (.fence c) s = .next (t.updCch c fun k => { k with
          op := some ⟨e, if lsScope e.bits ≤ 1 then [] else t.fenceReqs c (e.bits.getLsbD 16)⟩ })) ∧
      (∀ op, s.cacheHead c op = some (e, t) → op32 e.bits = op ∧ ∃ rest, (s.core c).seq.lsq = e :: rest ∧
        t = s.updSeq c fun q => { q with lsq := rest })) ∧
    (∀ (inv counted : Bool) (cw op : Nat), s.sweep c inv counted cw op [] = some ⟨[], s⟩) ∧
    (∀ (inv counted : Bool) (cw op : Nat) (l : CchLine) (ls : List CchLine), l.dirty = 0 →
      s.sweep c inv counted cw op (l :: ls) = (if inv then s.cchDrop c l.line counted else s).sweep c inv counted cw op ls) ∧
    (∀ (inv counted : Bool) (cw op : Nat) (l : CchLine) (ls : List CchLine), l.dirty ≠ 0 →
      let w := s.writeBack c l cw op
      w.busy = false → w.ue = false → w.away = false → ∀ r,
      ((if inv then w.s.cchDrop c l.line counted else w.s.updCch c fun k => k.clean l.line).writeBackFails c w cw op l.line).sweep
        c inv counted cw op ls = some r →
      s.sweep c inv counted cw op (l :: ls) = some r) ∧
    (∀ (o : CacheOp), (s.core c).cch.op = some o → s.strLive c = true → s.memDead = false →
      (∀ bs, (op32 o.e.bits = 10 → s.fenceDone c o = true) →
        let s1 := if op32 o.e.bits ≠ 10 ∧ lsScope o.e.bits = 4 then s.freeBacks c o o.wbs else s
        let s2 := if op32 o.e.bits = 9 ∧ 3 ≤ lsScope o.e.bits then s1.civShared o.e else s1
        exec (.cacheOpDone c (.data bs)) s = .next ((s2.updCch c fun k => { k with op := none }).done c o.e)) ∧
      (∀ code l, op32 o.e.bits ≠ 10 → s.failedBack c o = some l → exec (.cacheOpDone c (.error code)) s =
        .next ((s.freeBacks c o [l]).lineFails c 9 3 0x13 o.e.cw.toNat o.e.opScope l)))

/-- ST_SUB queues a descriptor with the slot's overrides; LDPG loads a program and completes. At the head of a unit's ST
queue: ST_SUB with room in the descriptor queue reads the 64 B descriptor at a multiple of 64 in the own CSP and
queues it with FAR[47:0] and NEAR[47:0] replaced where the slot's override bits say so. LDPG, when no earlier
submission or descriptor makes it wait, copies 16 words of the own CSP into PGM[p], clears that program's SRC bit and
is done at LDPG_DONE (R267, R274, R280, R296). -/
def Obligations.StreamOpsSubmitAndLoadPrograms : Prop :=
  ∀ (s : State) (c : CoreId) (u : UnitId),
    (∀ (e : QEntry) (t : State) (o : Nat), s.stHead c u 1 = some (e, t) → (s.unit c u).dq.length < 16 →
      s.ownCsp c e.descAddr = some o → e.descAddr % 64 = 0 →
      let r := t.cspLoad c .ownCore o 64
      r.bad = [] →
      let word := fun (k n : Nat) => leNat ((r.bytes.drop k).take n)
      let far : Dword := BitVec.ofNat 64 (word 8 8)
      let near : Dword := BitVec.ofNat 64 (word 16 8)
      exec (.stSub c u) s = .next (r.s.updUnit c u fun k => { k with dq := k.dq ++ [
        { ctrl := BitVec.ofNat 64 (word 0 8)
          far := if bitAt e.bits 17 then setFld far 0 48 (e.a (fld e.bits 18 4)) else far
          near := if bitAt e.bits 12 then setFld near 0 48 (e.a (fld e.bits 13 4)) else near
          nbytes := word 24 4
          idx := BitVec.ofNat 64 (word 32 8)
          rsvOk := descRsvOk r.bytes
          e := e }] })) ∧
    (∀ (e : QEntry) (t : State) (o : Nat), s.stHead c u 2 = some (e, t) → (s.unit c u).ldpg = none → s.ldpgWaits c e = false →
      s.ownCsp c e.descAddr = some o → e.descAddr % 8 = 0 → o + 128 ≤ cspSize →
      let r := t.cspLoad c .ownCore o 128
      r.bad = [] →
      let put := fun (x : State) (i : Nat) => x.setReg (pgStr c) (0x400 + 0x80 * ldpgIndex e + 8 * i)
        (BitVec.ofNat 64 (leNat ((r.bytes.drop (8 * i)).take 8)))
      exec (.ldpg c u) s = .next ((((List.range 16).foldl put r.s).modReg (pgStr c) 0x140 fun v =>
        setBit v (ldpgIndex e) false).updUnit c u fun k => { k with ldpg := some e })) ∧
    (∀ e : QEntry, (s.unit c u).ldpg = some e → s.strLive c = true →
      exec (.ldpgDone c u) s = .next ((s.updUnit c u fun k => { k with ldpg := none }).done c e))

/-- A descriptor starts, requests and completes; the transpose buffer and held-back requests follow. DESCRIPTOR_START of a
descriptor that passes its checks makes it active at its resolved near offset and lets the units go on; a transposing
one takes the free transpose buffer unless another waits for it. TBUF_GRANT gives the free buffer to the lowest
waiting unit. MERGE_TIMEOUT issues the open request as it stands, NL_STARVE that of an NL descriptor. STREAM_REPLY
serves the outstanding request it answers, or ends the posted write it answers, which aborts with REMOTE_ERR on an
error. DESCRIPTOR_COMPLETE of one that has moved everything counts it, frees the transpose buffer it held and fires
its done signal (R268, R277, R279, R281, R282, R284). -/
def Obligations.StreamDescriptorsStartRequestAndComplete : Prop :=
  ∀ (s : State) (c : CoreId) (u : UnitId),
    (∀ (d : Desc) (rest : List Desc) (near : Nat), (s.unit c u).dq = d :: rest → s.mayStart c 4 = true →
      (s.unit c u).turn d = true → s.pgmWaits c d = false → s.descCheck c d = .inr near →
      let s1 := s.updUnit c u fun k => { k with dq := rest }
      let act := fun (a : ActDesc) => a.d = d ∧ a.near = near ∧ a.outs = [] ∧ a.dead = false ∧ a.issued = (d.nbytes == 0) ∧
        a.waitT = (d.trans && ((s.core c).str.tbuf.isSome || (List.finRange 4).any fun v => (s.unit c v).waitsT)) ∧
        (d.pgen = false → d.nbytes ≠ 0 → a.emit = some ⟨d.farLoc.toNat, 0, d.nbytes⟩) ∧
        (d.pgen = true → d.nbytes ≠ 0 → a.ag = AgRun.start (s.pgm c d.pgm) d.farLoc)
      ∃ a, act a ∧ exec (.descriptorStart c u) s = .next (
        (let s2 := s1.updUnit c u fun k => { k with acts := k.acts ++ [a] }
         if d.trans && !a.waitT then s2.updStr c fun k => { k with tbuf := some u } else s2).strPump c)) ∧
    (s.strLive c = true → (s.core c).str.tbuf = none → (s.unit c u).waitsT = true →
      (∀ v : UnitId, v < u → (s.unit c v).waitsT = false) →
      exec (.tbufGrant c) s = .next (((s.updStr c fun k => { k with tbuf := some u }).updUnit c u fun k =>
        { k with acts := k.acts.map fun a => { a with waitT := false } }).strPump c)) ∧
    (∀ (a : ActDesc) (r : FarReq), (s.unit c u).last = some a → (s.unit c u).issuing = true → s.strLive c = true →
      a.open_ = some r →
      (∀ t, s.strIssue c u a r false = some t → exec (.mergeTimeout c u) s = .next (t.strPump c)) ∧
      (∀ t, a.d.nl = true → s.strIssue c u a r true = some t → exec (.nlStarve c u) s = .next (t.strPump c))) ∧
    (∀ (pre post : List ActDesc) (a : ActDesc) (q : FarReq) (r : Reply), (s.unit c u).acts = pre ++ a :: post → a.outs = [q] →
      (∀ x ∈ pre, x.outs.all (·.id != q.id) = true) → s.memDead = false → s.strLive c = true → a.dead = false →
      exec (.streamReply c u q.id r) s = .next (if q.write then s.writeDone c u a q r else s.readReply c u a q r)) ∧
    (∀ p : Posted, (s.unit c u).posted = [p] → (∀ x ∈ (s.unit c u).acts, x.outs = []) → s.memDead = false →
      (∀ bs, exec (.streamReply c u p.id (.data bs)) s = .next (((s.updUnit c u fun k => { k with posted := [] }).freeUser
        (.str c u p.id)).strPump c)) ∧
      (∀ code, p.dead = false → s.strLive c = true →
        ∃ t, exec (.streamReply c u p.id (.error code)) s = .next t ∧ (t.unit c u).posted = [] ∧ t.mem = s.mem ∧
          ((s.core c).seq.holds = true → (t.core c).seq.causes = [⟨0x13, false⟩]))) ∧
    (∀ (pre post : List ActDesc) (a : ActDesc), (s.unit c u).acts = pre ++ a :: post → (∀ x ∈ pre, x.dead = true) →
      a.finished = true → s.strLive c = true →
      let s1 := s.updUnit c u fun k => { k with acts := pre ++ post, done := k.done + 1 }
      exec (.descriptorComplete c u) s = .next
        ((((if a.d.trans then s1.updStr c fun k => { k with tbuf := none } else s1)).pm (pgStr c) 0x01 1).done c a.d.e))

/-- An AG program's instructions move base, levels and place as R272 says. One step of a valid AG program: BASE sets the
base to FAR + OFF; LOOP with a count opens a level at iteration 0, LOOP with count 0 goes past its matching ENDL; ENDL
starts the next iteration while one is left and else closes the innermost level; EMIT and GATHER give their lengths
and leave the place; END stops. The address of an emit is the base plus, for every active level, its iteration times
its stride (R271, R272, R273). -/
def Obligations.AddressGeneratorFollowsItsProgram : Prop :=
  ∀ (r : AgRun) (far : Addr), r.ran = false →
    let i := r.prog.getD r.pc 0
    let op := fld i 60 4
    (op = 0 → r.step far = .stop { r with done := true }) ∧
    (op = 1 → r.step far = .go { r with pc := r.pc + 1, base := far + i.setWidth 48 }) ∧
    (op = 2 → fld i 32 24 ≠ 0 → r.step far = .go { r with
      pc := r.pc + 1, levels := (0, fld i 32 24, (i.setWidth 32).signExtend 48, r.pc + 1) :: r.levels }) ∧
    (op = 3 → ∀ k n st body outer, r.levels = (k, n, st, body) :: outer →
      r.step far = .go (if k + 1 < n then { r with pc := body, levels := (k + 1, n, st, body) :: outer }
        else { r with pc := r.pc + 1, levels := outer })) ∧
    (op = 4 → r.step far = .emit { r with ran := true } (fld i 0 24)) ∧
    (op = 5 → r.step far = .gather { r with ran := true } (fld i 24 6) (fld i 0 24)) ∧
    (∀ (k n : Nat) (st : Addr) (body : Nat) (outer : List (Nat × Nat × Addr × Nat)),
      ({ r with levels := (k, n, st, body) :: outer } : AgRun).cur = ({ r with levels := outer } : AgRun).cur + BitVec.ofNat 48 k * st) ∧
    (∀ (body tail : List Dword), agWalk 0 (body ++ [0]) = true → (∀ x ∈ body, fld x 60 4 ≠ 0) →
      (op = 2 → fld i 32 24 = 0 → r.prog.drop (r.pc + 1) = body ++ (3 <<< 60 : Dword) :: tail →
        r.step far = .go { r with pc := r.pc + 1 + body.length + 1 }))

/-- SEND, BIND, UNBIND, PORT, CREL and DISARM do what their slot says once nothing holds them. At the head of the CH
queue, no full link holding the CHN: BIND of a channel with every message acknowledged takes a valid record with CR
credits and a new binding number; UNBIND ends the binding. PORT with a valid record that nothing holds arms the port,
its old log abandoned; EPOCH_SPACING_DONE ends the spacing of R342, and a PORT that waits for it applies its record.
SEND with its credits sends the record of LEN bytes read from the own CSP and stays unacknowledged; of a channel that
is not bound it aborts with CH_DEAD. CREL releases the n oldest message records; DISARM unarms the port (R331, R332,
R333, R338, R340, R341, R342, R343). -/
def Obligations.ChannelOpsBindPortSendAndRelease : Prop :=
  ∀ (s : State) (c : CoreId),
    (∀ (e : QEntry) (rest : List QEntry), (s.core c).seq.chq = e :: rest → s.mayStart c 7 = true → s.chnHeld c = false →
      let n := chChan e.bits
      let p := chPort e.bits
      let b := (s.core c).chn.bind n
      (∀ v t, op24 e.bits = 2 → b.waiting = false → s.chRecord c e n 0 = .ok v t → fld v 61 3 = 0 → fld v 53 8 ≤ 127 →
        exec (.bind c) s = .next (((t.chLeave c).updBind c n fun b =>
          { b with record := v, credits := fld v 53 8 + 1, wp := 0, bound := true, number := b.number + 1, unacked := [] }).done c e)) ∧
      (op24 e.bits = 3 → b.waiting = false →
        exec (.unbind c) s = .next (((s.chLeave c).updBind c n fun b =>
          { b with bound := false, credits := 0, wp := 0, unacked := [] }).done c e)) ∧
      (∀ v t, op24 e.bits = 4 → s.chRecord c e 0 p = .ok v t → portCase p v = 0 → ((t.core c).chn.port p).portHeld v = false →
        let u := ((t.chLeave c).updPortOf c p fun q =>
          ⟨true, v.setWidth 32, v.extractLsb' 24 8, q.spaced && v.extractLsb' 24 8 == q.epoch, []⟩).done c e
        exec (.port c) s = .next u) ∧
      (op24 e.bits = 5 → vxePort p = false → (s.core c).crelHeld e = false →
        chCount e.bits ≤ ((((s.core c).chn.port p).held).filter fun r => !r.pad).length →
        exec (.crel c) s = .next (((s.chLeave c).releaseOldest c p (chCount e.bits)).done c e)) ∧
      (op24 e.bits = 6 → exec (.disarm c) s = .next (((s.chLeave c).updPortOf c p fun q =>
        { q with armed := false, log := [] }).done c e)) ∧
      (∀ off t, op24 e.bits = 1 → b.bound = true → chLen e.bits ≤ b.cr →
        s.sendSource c e = some off → s.trySend c n (chLen e.bits) e.cw = .ready t →
        let r := (t.chLeave c).cspLoad c .ownCore off (64 * chLen e.bits)
        r.bad = [] → exec (.send c) s = .next (r.s.emit c n (chLen e.bits) false r.bytes e.cw (some e))) ∧
      (op24 e.bits = 1 → b.bound = false → exec (.send c) s = .next (s.chnAbort c 8 0x05 e.chWho 8 (ch := n)
        (port := b.port.toNat) (need := chLen e.bits) (credits := b.credits)))) ∧
    (∀ p : LandId, let s1 := s.updPortOf c p.val fun q => { q with spaced := true }
      ((∀ (e : QEntry) (rest : List QEntry), (s.core c).seq.chq = e :: rest → chPort e.bits ≠ p.val) →
        exec (.epochSpacingDone c p) s = .next s1) ∧
      (∀ (e : QEntry) (rest : List QEntry), (s.core c).seq.chq = e :: rest → chPort e.bits = p.val →
        exec (.epochSpacingDone c p) s = exec (.port c) s1)) ∧
    (∀ (n units : Nat) (bs : List Byte) (cw : CsIndex) (e : Option QEntry),
      let b := (s.core c).chn.bind n
      let t := s.emit c n units false bs cw e
      b.dev s.ownDev = s.ownDev → b.place = s.ownDie + 32 * s.ownCluster → s.reachable b.core = true →
      bs.length = 64 * units →
      ((t.core c).chn.bind n).unacked = b.unacked ++ [⟨b.next, units, false, e, cw⟩] ∧
        ((t.core c).chn.bind n).credits = b.credits - units ∧
        t.links = s.links ++ [(c, b.core,
          .msg ⟨BitVec.ofNat 6 n, b.rch, b.port, b.epoch, b.next, b.srofs + b.wp, units, false, b.number, bs⟩)]) ∧
    (∀ (p : Nat) (v : Dword), portCase p v = 0 ↔
      fld v 32 32 = 0 ∧ (p = 2 ∨ p = 3 → fld v 12 3 = 0) ∧ 9 ≤ fld v 15 4 ∧ fld v 15 4 ≤ 13 ∧
        (let start := 16 * (if p = 2 ∨ p = 3 then fld v 0 12 else fld v 0 15)
         start % 2 ^ fld v 15 4 = 0 ∧
          (if p = 2 ∨ p = 3 then start / 32768 = (start + 2 ^ fld v 15 4 - 1) / 32768
           else start + 2 ^ fld v 15 4 ≤ 524288)))

/-- A message lands in its ring, is logged, acknowledged and credited; a cut or stale one is not. MSG_ARRIVAL of the
message at the head of a link, or of the one the mesh has delivered: an unarmed port drops and counts the message, a
port of another epoch counts it stale and acknowledges it as stale, one with too small a ring counts it, else it is
logged and its bytes are written into the ring, and a PAD is acknowledged at once. LANDING_DONE of the oldest complete
landing message ends its landing, sets the landing flag the port names, and acknowledges it. MSG_CUT removes the
message's log entry. CACK removes the record from those unacknowledged; CREDIT_RETURN adds credits up to CR to the
binding they belong to (R333, R334, R335, R336, R337, R341, R342). -/
def Obligations.MessagesLandAndAreAcknowledged : Prop :=
  (∀ (s : State) (c : CoreId) (x : Msg) (sender : Option CoreId) (src : BitVec 32) (tag : BitVec 11),
    let p := x.port.toNat
    let q := (s.core c).chn.port p
    let r := logRecOf x sender src tag
    let arrived := s.arrive c sender src tag x
    let logged := s.updPortOf c p fun y => { y with log := y.log ++ [r] }
    (q.armed = false → arrived = (s.bumpRf (pgChn c) (cnt0 x.rch + 0x10) 32 32 1).pm (pgChn c) 0x07 1) ∧
    (q.armed = true → x.epoch ≠ q.epoch →
      arrived = ((s.bumpRf (pgChn c) (cnt0 x.rch + 0x10) 0 32 1).pm (pgChn c) 0x06 1).ackBack c r true) ∧
    (q.armed = true → x.epoch = q.epoch → q.units < x.pos + x.units → arrived = s.satRf (pgChn c) (portSts p) 16 16 1) ∧
    (q.armed = true → x.epoch = q.epoch → x.pos + x.units ≤ q.units → x.pad = false →
      arrived = (logged.landBytes c p x).vxPump c) ∧
    (q.armed = true → x.epoch = q.epoch → x.pos + x.units ≤ q.units → x.pad = true →
      arrived = (logged.ackBack c r false).releasePads c p)) ∧
  (∀ (s : State) (c d : CoreId) (m : LinkMsg) (t : State), s.linkTake d c = some (m, t) → s.chnUp c = true →
    (∀ x : Msg, m = .msg x → s.chnHeld c = false → s.landingHeld c x = false →
      exec (.msgArrival c (.link d)) s = .next (t.arrive c (some d) (s.srcWord d) 0 x)) ∧
    (∀ ch port, m = .cut ch port → (((t.core c).chn.port port.toNat).log.any fun r => r.sender == some d && r.ch == ch && !r.whole) = true →
      exec (.msgCut c d) s = .next ((t.updPortOf c port.toNat fun q =>
        { q with log := q.log.filter fun r => !(r.sender == some d && r.ch == ch && !r.whole) }).satRf (pgChn c)
          (portSts port.toNat) 32 16 1)) ∧
    (∀ ch number stale bind, m = .ack ch number stale bind → ((s.core c).chn.bind ch.toNat).number = bind →
      exec (.cack c (.link d)) s = .next (t.acked c ch.toNat number stale)) ∧
    (∀ ch bind units, m = .credit ch bind units →
      exec (.creditReturn c (.link d)) s = .next (((t.pm (pgChn c) 0x08 1).updBind c ch.toNat fun b =>
        if b.bound ∧ b.number = bind then { b with credits := min b.cr (b.credits + units) } else b).vxPump c))) ∧
  (∀ (s : State) (c : CoreId), s.chnUp c = true →
    (∀ (src : BitVec 32) (x : Msg) (tag : BitVec 11) (t : State), s.takeMesh c src x = some (tag, t) → s.chnHeld c = false →
      s.landingHeld c x = false → (s.core c).chn.expected src x.ch x.number = true → msgCut x = false →
      exec (.msgArrival c (.mesh src x)) s = .next ((t.updChn c fun k => { k with
        expect := (src, x.ch, x.number + 1) :: k.expect.filter fun y => !(y.1 == src && y.2.1 == x.ch) }).arrive c none src tag x)) ∧
    (∀ (ch : BitVec 6) (number : Byte) (stale : Bool) (t : State),
      s.takeCack c (ch.toNat + 2 ^ 8 * number.toNat + 2 ^ 16 * bit stale) = some t →
      exec (.cack c (.mesh ch number stale)) s = .next (t.acked c ch.toNat number stale)) ∧
    (∀ (ch : BitVec 6) (bind units : Nat) (k : Option PortId × Packet) (t : State),
      (s.takePacket fun k => k.type == 6 && k.island == c.val && k.byte 24 == ch.setWidth 8 && k.byte 26 == 2
        && (k.byte 27).toNat == units && k.spec.toNat / 2 ^ 32 == bind) = some (k, t) →
      let now := ((s.core c).chn.bind ch.toNat).number
      exec (.creditReturn c (.mesh ch bind units)) s =
        .next ((t.credited c ch.toNat (if now % 2 ^ 16 = bind then now else now + 1) units).vxPump c)) ∧
    (∀ (p : LandId) (pre post : List LogRec) (r : LogRec), ((s.core c).chn.port p.val).log = pre ++ r :: post →
      (∀ x ∈ pre, (x.landing && x.whole) = false) → r.landing = true → r.whole = true → s.chnHeld c = false →
      ∃ u, exec (.landingDone c p) s = .next u ∧ (∀ a, u.byteAt a = s.byteAt a) ∧
        (((s.core c).chn.port p.val).record.getLsbD 23 = true →
          (u.core c).seq.lf.getLsbD (fld ((s.core c).chn.port p.val).record 19 4) = true) ∧
        (∀ x ∈ ((u.core c).chn.port p.val).log, x ≠ r) ∧
        (∀ e, r.sender = some e → s.reachable e = true → u.links = s.links ++ [(c, e, .ack r.ch r.number false r.bind)])))

/-- TXB opens a slot, TX_STORE merges rows, TXC commits or reports, TXA aborts, and the dooming events doom. TXB takes the
lowest FREE slot with the next generation and enters transactional mode. TX_STORE merges a row into pending lines and
accepts it, or aborts with TX_LIMIT at a limit. TXC of an OPEN transaction commits its lines: with SCOPE 2 it logs and
reports COMMITTED, with another scope it is COMMITTING and its durable sequence begins; of a DOOMED one it ends with
its reason, without a transaction it reports NONE; TXA ends an OPEN one as ABORTED. A line pending for another
transaction, an overwrite, age and a matching TX_CMD.ABORT make an OPEN transaction DOOMED with reasons 2, 3, 4 and 6;
no free slot in time is a TX_LIMIT abort (R352, R353, R354, R356, R357, R358, R359, R360, R362, R376). -/
def Obligations.TransactionsOpenStoreAndEnd : Prop :=
  (∀ (s : State) (c : CoreId) (e : QEntry) (t : State),
    (∀ i, s.txHead c 12 = some (e, t) → t.txu.heldBy c = none → t.txu.freeSlot = some i →
      let s1 := t.updSlot i fun k => ⟨.open_, k.gen + 1, c, t.taskId c, 0, 0, 0, 0, .none, none, false⟩
      exec (.txb c) s = .next ((({ s1 with txu := { s1.txu with mode := s1.txu.mode.set c true } }).pm 3 0x01 1).done c e)) ∧
    (s.txHead c 12 = some (e, t) → s.txu.heldBy c = none → s.txu.freeSlot = none →
      exec (.txbSlotTmo c) s = .next (((s.txErr 3 1 0 c 0).txErr 8 1 0 c 0).cause c 0x0F)) ∧
    (∀ o, s.txHead c 13 = some (e, t) → t.statusOff c e = some o →
      (t.txu.heldBy c = none → exec (.txc c) s = .next ((t.txLeave c).txStatus c e 0 0 0 0 0)) ∧
      (∀ i, t.txu.heldBy c = some i → t.txu.slots[i].st = .doomed →
        exec (.txc c) s = .next (t.txEnd c i e t.txu.slots[i].reason.toNat (txScope e))) ∧
      (∀ i u, t.txu.heldBy c = some i → t.txu.slots[i].st = .open_ → txScope e = 2 →
        t.commitLines c i (t.txu.linesOf i false) = some u →
        let v := ((((u.bumpRf 3 0x118 0 32 1).pm 3 0x02 1).txLeave c).txLog i 1 2).updSlot i fun k => { k with st := .committing }
        exec (.txc c) s = .next ((v.txStatus c e 1 (v.txu.handle i) (v.txu.slots[i]).lines 0 0).txFinish i)) ∧
      (∀ i u, t.txu.heldBy c = some i → t.txu.slots[i].st = .open_ → txScope e ≠ 2 → t.commitAddrOk i e = true →
        t.commitLines c i (t.txu.linesOf i false) = some u →
        exec (.txc c) s = .next (((u.bumpRf 3 0x118 0 32 1).pm 3 0x02 1).updSlot i fun k =>
          { k with st := .committing, dur := .lines (BitVec.ofNat 3 (txScope e)), tail := some e }))) ∧
    (∀ o i, s.txHead c 14 = some (e, t) → t.statusOff c e = some o → t.txu.heldBy c = some i → t.txu.slots[i].st = .open_ →
      exec (.txa c) s = .next (t.txEnd c i e 5 0)) ∧
    (∀ (row : Byte) (k : Nat) (o : TluOp) (i : SlotId) (u : State), (s.core c).storeRow row.toNat = some (k, o) →
      let n := row.toNat
      let bs := o.rowBytes n
      let loc := o.e.rowAddr n
      o.tx.contains n = true → s.rowTurn c k true = true →
      s.txEvictCch c o.e.cw.toNat (linesOf loc bs.length) = some u → u.txu.heldBy c = some i →
      (∀ v, u.txMergeRow c i (cellsAt loc bs) (linesOf loc bs.length) = .ok v →
        exec (.txStore c row) s = .next (v.rowAccepted c o n)) ∧
      (∀ kind line v, u.txMergeRow c i (cellsAt loc bs) (linesOf loc bs.length) = .limit kind line v →
        exec (.txStore c row) s = .next ((((v.txErr 8 kind (v.txu.handle i) c (v.ownSys (128 * line))).txDiscard c).dropRow c o n).cause
          c 0x0F)))) ∧
  (∀ (s : State) (c : CoreId) (i : SlotId) (line : Nat) (cs : List (Nat × Byte)) (l : TxLine),
    s.txu.slots[i].st = .open_ → s.txPending line = some l → l.slot ≠ i →
    s.txMerge c i line cs = .ok (s.txDoom i 2 s.txu.slots[l.slot].core.val)) ∧
  (∀ (s : State) (i : SlotId) (reason holder : Nat), s.txu.slots[i].st = .open_ →
    let k := (s.txDoom i reason holder).txu.slots[i]
    k.st = .doomed ∧ k.reason = BitVec.ofNat 4 reason ∧ k.holder = BitVec.ofNat 3 holder ∧
      (s.txDoom i reason holder).txu.linesOf i false = []) ∧
  (∀ (s : State) (line : BitVec 41) (l : TxLine), s.txPending line.toNat = some l →
    exec (.txOverwrite line) s = .next (s.txDoom l.slot 3)) ∧
  (∀ (s : State) (i : SlotId), s.memHalted = false → s.txAged i = true → exec (.txAged i) s = .next (s.txDoom i 4)) ∧
  (∀ (s : State) (h : BitVec 12), s.txu.slots[(Fin.ofNat 64 h.toNat : SlotId)].gen = h.extractLsb' 6 6 →
    exec (.txCmdAbort h) s = .next ((s.setReg 3 0x108 (h.setWidth 64)).txDoom (Fin.ofNat 64 h.toNat) 6))

/-- Committing lines, durable sequences and the privileged copies come to their end. COMMITTING_LINE_ACK releases the
oldest committing record of the line, its slot FREE when nothing else holds it, and a later error of its write reaches
the durable sequence that still waits for it. DURABLE_LINES_ACKED with every line acknowledged at the commit's scope
writes the commit word (value and complement). COMMIT_WORD_ACK ends the durable sequence as COMMITTED, an error and
DUR_TMO_EXPIRY end it as DURABLE_FAIL. A copy of the mirror, the transaction log or the spare array starts towards an
allowed destination while none is active and changes nothing for another destination; COPY_DONE ends it (R230, R318,
R358, R360, R362, R365, R477). -/
def Obligations.DurableCommitsAndCopiesComplete : Prop :=
  ∀ s : State, s.memHalted = false →
    (∀ (line : BitVec 41) (bs : List Byte) (l : TxLine) (rest : List TxLine),
      s.txu.takeCommitting line.toNat = some (l, rest) →
      exec (.committingLineAck line (.data bs)) s = .next ((s.releaseLine l rest).txFinish l.slot) ∧
      (s.releaseLine l rest).txu = { s.txu with lines := rest }) ∧
    (∀ (line : BitVec 41) (code : Byte) (i : SlotId) (gen : BitVec 6), s.txu.takeCommitting line.toNat = none →
      s.txTag line.toNat = some (i, gen) → exec (.committingLineAck line (.error code)) s =
        .next ((s.freeUser (.txLine i gen line.toNat)).txLineFails i gen line.toNat 6)) ∧
    (∀ (i : SlotId) (sc : BitVec 3) (e : QEntry) (t : State), s.txu.slots[i].dur = .lines sc → s.txu.slots[i].tail = some e →
      s.unackedLines i sc.toNat = [] →
      s.launchWrite s.txu.slots[i].core.val 13 (.txWord i) s.ownDev (cellsAt e.commitAddr (natLe 4 e.commitVal ++
        natLe 4 (2 ^ 32 - 1 - e.commitVal))) = some t →
      exec (.durableLinesAcked i) s = .next (t.updSlot i fun x => { x with dur := .word sc })) ∧
    (∀ (i : SlotId) (sc : BitVec 3) (e : QEntry), s.txu.slots[i].dur = .word sc → s.txu.slots[i].tail = some e →
      let fails := fun (u : State) (kind : Nat) =>
        (u.txErr 9 kind (u.txu.handle i) u.txu.slots[i].core (s.ownSys e.commitAddr)).durEnd i 7
      (∀ bs, exec (.commitWordAck i (.data bs)) s =
        .next (((if sc = 4 then s.freeUser (.txWord i) else s).pm 3 0x08 1).durEnd i 1)) ∧
      (∀ code, exec (.commitWordAck i (.error code)) s = .next (fails (s.freeUser (.txWord i)) 6)) ∧
      exec (.durTmoExpiry i) s = .next (fails s 5)) ∧
    (∀ (i : SlotId) (sc : BitVec 3) (l : Nat) (ls : List Nat), s.txu.slots[i].dur = .lines sc → s.unackedLines i sc.toNat = l :: ls →
      exec (.durTmoExpiry i) s =
        .next ((s.txErr 9 5 (s.txu.handle i) s.txu.slots[i].core (s.ownSys (128 * l))).durEnd i 7)) ∧
    (∀ i : SlotId, s.txu.slots[i].st = .committing → s.txu.slots[i].dur = .none → s.txu.linesOf i true = [] →
      (s.txFinish i).txu.slots[i].st = .free) ∧
    (∀ t, s.txu.copying = false → s.copyDstOk (s.rf 3 0x120 0 48) 65536 = true →
      s.writeOut 13 (.copy .txuLog) (s.ownSys (s.rf 3 0x120 0 48)) (tgets 0 s.txu.log 0 65536) = .done t →
      exec .txuLogCopy s = .next { t with txu := { t.txu with copying := true } }) ∧
    (∀ t, s.ccu.mirroring = false → s.copyDstOk (s.rf 0 0x1D0 0 48) 65536 = true →
      s.writeOut 12 (.copy .mirror) (s.ownSys (s.rf 0 0x1D0 0 48)) (tgets 0 s.ccu.mirror 0 65536) = .done t →
      exec .mirrorCopy s = .next (t.updCcu fun u => { u with mirroring := true })) ∧
    (∀ t, s.ecm.copying = false → s.copyDstOk (s.rf 6 0x168 0 48) 16384 = true →
      s.writeOut 12 (.copy .ecmLog) (s.ownSys (s.rf 6 0x168 0 48)) (tgets 0 s.ecm.errlog 0 16384) = .done t →
      exec .ecmLogCopy s = .next { t with ecm := { t.ecm with copying := true } }) ∧
    (s.copyDstOk (s.rf 3 0x120 0 48) 65536 = false → exec .txuLogCopy s = .next s) ∧
    (s.copyDstOk (s.rf 0 0x1D0 0 48) 65536 = false → exec .mirrorCopy s = .next s) ∧
    (s.copyDstOk (s.rf 6 0x168 0 48) 16384 = false → exec .ecmLogCopy s = .next s) ∧
    (exec (.copyDone .mirror) s = .next ((s.freeUser (.copy .mirror)).updCcu fun k => { k with mirroring := false })) ∧
    (exec (.copyDone .txuLog) s = .next { s.freeUser (.copy .txuLog) with txu := { s.txu with copying := false } }) ∧
    (exec (.copyDone .ecmLog) s = .next { s.freeUser (.copy .ecmLog) with ecm := { s.ecm with copying := false } })

/-- EVICT aborts the classes it evicts; ACK, FLUSH and COMMIT follow; an expiry ends it. EVICT with the engine idle clears
the evicted classes in CLASS_EN, sends EVICT to every core that holds such a task and waits in STOPPING; in a phase
other than RESTORING it is refused and sets ERR.BUSY. EVICT_ACK, once every such core has reported or is in FAULT,
sets ACKED, records the cores in FAULT and goes to FLUSHING. EVICT_FLUSH_DONE, once the flush's write-backs are
complete, refuses a region table or target that R371 refuses, else writes the header and the records in phase WRITING.
CKPT_WRITES_ACKED writes W15 and CKPT_COMMIT_ACK ends with DONE and the next EV_SEQ. A missing acknowledgement ends
the command with FAILED (R367, R369, R370, R371). -/
def Obligations.EvictionRunsToItsCheckpoint : Prop :=
  ∀ s : State, s.ccuAlive = true →
    (s.evx.phase = .idle →
      let s1 := (s.modReg 0 0x198 fun v => v &&& ~~~(BitVec.ofNat 64 s.evClasses)).setReg 4 0x100 1
      ∃ t, exec .evict s = .next t ∧ t.evx.phase = .stopping ∧ t.evx.wait = s1.evicted ∧ t.evx.acked = false ∧
        t.evx.seqAt = BitVec.ofNat 32 (s1.rf 4 0x118 0 32) ∧ t.reg 0 0x198 = s.reg 0 0x198 &&& ~~~(BitVec.ofNat 64 s.evClasses) ∧
        (∀ c ∈ s1.evicted, t.ccu.toCore[c].getLast? = some (.cause 0x0B)) ∧
        (∀ c, t.core c = s.core c) ∧ ∀ a, t.byteAt a = s.byteAt a) ∧
    (s.evx.phase ≠ .idle → s.evx.phase ≠ .restoring → exec .evict s = .next (s.errBit 4 2)) ∧
    (s.evx.phase = .stopping → (∀ c ∈ s.evx.wait, (s.core c).seq.st = .fault) →
      ∃ t, exec .evictAck s = .next t ∧ t.evx.phase = .flushing ∧ t.evx.acked = true ∧ t.evx.wait = [] ∧
        t.evx.cursor = BitVec.ofNat 32 s.cursor ∧
        (∀ i : CoreId, t.evx.faulted.getLsbD i.val = decide ((s.core i).seq.st = .fault))) ∧
    (∀ (ext : List (Nat × Reply)), let t := s.evFlush
      t.evx.phase = .flushing → t.ccuAlive = true → t.memDead = false → t.ccu.power = .on → t.evFlushed = true →
      (∀ kind n addr, t.ckptBad = some (kind, n, addr) → exec (.evictFlushDone ext) s = .next (t.evFail 10 kind n addr)) ∧
      (t.ckptBad = none →
        let t1 : State := { t with evx := { t.evx with phase := .writing } }
        ∀ u v, t1.writeOut 12 .evx t1.evTarget t1.ckptHeader = .done u → (u.evCount 128).writeRecords ext 128 t1.regionsOn = some v →
          exec (.evictFlushDone ext) s = .next v)) ∧
    (∀ (ext : List (Nat × Reply)) (u : State) (pos : Nat), u.writeRecords ext pos [] = some u) ∧
    (∀ (bs : List Byte) (t : State), s.evx.phase = .writing → s.memDead = false →
      let s2 : State := { s.freeUser .evx with evx := { s.evx with phase := .committing, out := [] } }
      s2.writeOut 12 .evx (120 + s2.evTarget) (huskBytes [s.evx.seqAt.toNat]) = .done t →
      exec (.ckptWritesAcked (.data bs)) s = .next t) ∧
    (∀ bs : List Byte, s.evx.phase = .committing → s.memDead = false →
      exec (.ckptCommitAck (.data bs)) s = .next (((s.freeUser .evx).bumpRf 4 0x118 0 32 1).evEnd 1)) ∧
    (∀ (u : State) (r : Nat), r < 16 → (u.evEnd r).evx.phase = .idle ∧ (u.evEnd r).evx.result = BitVec.ofNat 4 r) ∧
    (s.evx.phase = .writing ∨ s.evx.phase = .committing →
      ∃ t, exec .evxTmoExpiry s = .next t ∧ t.evx.phase = .idle ∧ t.evx.result = 2)

/-- RESTORE refuses while TRAIN runs, checks header and commit word, copies the regions back and ends. RESTORE with the
engine idle: with a TRAIN task running or CLASS_EN.TRAIN set it ends with REFUSED and reads nothing. Otherwise it
reads the checkpoint's header at TARGET: a header that breaks R369 ends it with BADHDR, a W15 that is not W4 with
NOCOMMIT; else it reads the records, with BADHDR for one that fails its check, and copies their data to the regions.
RESTORE_DONE of a restore whose regions are written ends it with DONE (R369, R372, R373, R378). -/
def Obligations.RestoreReadsTheCheckpointBack : Prop :=
  ∀ (s : State) (image : Reply), s.ccuAlive = true → s.memDead = false →
    (s.evx.phase = .idle → (s.trainRuns = true ∨ s.rf 0 0x198 1 1 = 1) →
      ∃ t, exec (.restore image) s = .next t ∧ t.evx.phase = .idle ∧ t.evx.result = 6 ∧ ∀ a, t.byteAt a = s.byteAt a) ∧
    (s.evx.phase = .idle → s.trainRuns = false → s.rf 0 0x198 1 1 = 0 → ∀ t, s.restoreBegin.restoreRun image = some t →
      exec (.restore image) s = .next t) ∧
    (s.evx.phase = .restoring → s.evx.op = 3 → ∀ t, s.restoreRun image = some t → exec (.restore image) s = .next t) ∧
    (s.evx.phase = .restoring →
      let s1 : State := { s with evx := { s.evx with op := 2 } }
      let g := s1.readCkpt 0 128 image
      let ws := dwordsOf g.bytes 16
      let head := (ws.take 15).all (fun w => (huskValue w).isSome) && huskAt ws 0 == 0x4B435141 && huskAt ws 1 / 256 % 256 == 3
      let commit := (huskValue (ws.getD 15 0)).isSome && huskAt ws 15 == huskAt ws 4
      let records := g.s.readRecords image 128 (huskAt ws 5)
      g.err = none →
      (head = false → ∃ t, s.restoreRun image = some t ∧ t.evx.phase = .idle ∧ t.evx.result = 5) ∧
      (head = true → commit = false → ∃ t, s.restoreRun image = some t ∧ t.evx.phase = .idle ∧ t.evx.result = 3) ∧
      (head = true → commit = true → records.1.isNone = true → records.2.1 = none →
        ∃ t, s.restoreRun image = some t ∧ t.evx.phase = .idle ∧ t.evx.result = 5) ∧
      (head = true → commit = true → ∀ rs, records.1 = some rs → s.restoreRun image = records.2.2.restoreData image rs)) ∧
    (∀ bs : List Byte, s.evx.phase = .restoring → s.evx.op ≠ 3 →
      ∃ t, exec (.restoreDone (.data bs)) s = .next t ∧ t.evx.phase = .idle ∧ t.evx.result = 1)

/-- Misses, parity aborts, heartbeats and the reasons of R472 fence a core. A report counts with the CCU's cycle; with
three or more in the window the core is fenced, else nothing follows. CORE_FENCE with a reason that holds fences. A
fenced core is FENCED with its self-test running. A token is kept until it is received, and its receipt restarts the
island's counter. A heartbeat missed up to HB_LIMIT sets its bit of HB_STS and fences a core, fails a port's link, or
is a cluster fault for the memory island. ISLAND_LOGIC_STOP stops the island (R102, R457, R471, R472, R473, R475). -/
def Obligations.MissesAndHeartbeatsFenceACore : Prop :=
  (∀ (s : State) (c : CoreId), s.ccuAlive = true →
    (∀ rest, s.ccu.toCcu[c] = .abftMiss :: rest →
      let u := (s.popCcu c).updWatch c fun w => { w with abft := s.ccu.cyc.toNat :: w.abft }
      let due := decide (3 ≤ u.recent u.ccu.watch[c].abft) && u.mayFence c
      (due = false → exec (.abftMissReport c) s = .next u) ∧
      (due = true → ∃ t, exec (.abftMissReport c) s = .next t ∧ t = u.fenceCore c 1 ∧ (t.core c).seq.st = .fenced)) ∧
    (∀ rest, s.ccu.toCcu[c] = .parityAbort :: rest →
      let u := (s.popCcu c).updWatch c fun w => { w with parity := s.ccu.cyc.toNat :: w.parity }
      let due := decide (3 ≤ u.recent u.ccu.watch[c].parity) && u.mayFence c
      (due = false → exec (.parityAbortReport c) s = .next u) ∧
      (due = true → ∃ t, exec (.parityAbortReport c) s = .next t ∧ t = u.fenceCore c 2 ∧ (t.core c).seq.st = .fenced)) ∧
    (∀ r : BitVec 4, s.mayFence c = true → s.fenceDue c r.toNat = true →
      ∃ t, exec (.coreFence c r) s = .next t ∧ t = s.fenceCore c r.toNat ∧ (t.core c).seq.st = .fenced ∧
        t.ccu.watch[c].test = .running)) ∧
  (∀ (s : State) (i : Fin 13), s.hbExpected i = true →
    (vget false s.stopped (hbStopped i) = false →
      ∃ t, exec (.heartbeatToken i) s = .next t ∧ t.ccu.tokens[i] = true ∧ (∀ c, t.core c = s.core c) ∧
        ∀ a, t.byteAt a = s.byteAt a) ∧
    (s.ccu.tokens[i] = true → s.ccuAlive = true →
      ∃ t, exec (.heartbeatReceive i) s = .next t ∧ t.ccu.tokens[i] = false ∧ t.ccu.hbCount[i] = 0) ∧
    (s.ccuAlive = true → s.hbLate i = true →
      let u := ((s.orReg 0 0x168 (1 <<< i.val)).ccuErr 10 3 i.val).updCcu fun x => { x with hbCount := x.hbCount.set i 0 }
      (i.val < 8 → u.mayFence (Fin.ofNat 8 i.val) = true →
        exec (.heartbeatMiss i) s = .next (u.fenceCore (Fin.ofNat 8 i.val) 3)) ∧
      (i.val = 8 → s.ccu.st ≠ .fault → ∃ t, exec (.heartbeatMiss i) s = .next t ∧ t = u.clusterFault 1 ∧ t.ccu.st = .fault) ∧
      (9 ≤ i.val → let p : PortId := Fin.ofNat 4 (i.val - 9)
        s.ports[p].link ≠ .failed →
        ∃ t, exec (.heartbeatMiss i) s = .next t ∧ t.ports[p].link = .failed ∧ t.ports[p].replay = []))) ∧
  (∀ (s : State) (i : IslandId), ∃ t, exec (.islandLogicStop i) s = .next t ∧ t.stopped[i] = true ∧
    (∀ j : IslandId, j ≠ i → t.stopped[j] = s.stopped[j]) ∧ ∀ c, t.core c = s.core c)

/-- A passing self-test lets a core rejoin as R474 allows; a failing one keeps it FENCED. SELFTEST_DONE with a pass: an
unfenced core is marked passed and, if host software has asked for it meanwhile, fenced; a fenced one rejoins when
host software started the test or the rejoin limit allows it, and else stays FENCED with its reason unchanged. With a
fail a core is FENCED, with reason SELFTEST. A bit of CORE_FENCE cleared while the test of a fenced core ran starts
the test again. A write of CORE_FENCE whose halves disagree is discarded and fences nothing; a bit written while the
core's test runs is kept until the test ends, and a 1 then fences a core that has rejoined; otherwise a set bit fences
the core and a clear bit of a fenced one starts the test (R473, R474, R495, R505). -/
def Obligations.SelftestDecidesTheRejoin : Prop :=
  ∀ (s : State) (c : CoreId), s.ccuAlive = true →
    (s.ccu.watch[c].test = .running →
      let u := s.updWatch c fun x => { x with test := .passed, fenceReq := none, manual := false }
      (s.fenced c = false → s.ccu.watch[c].fenceReq ≠ some true → exec (.selftestDone c true) s = .next u) ∧
      (s.fenced c = false → s.ccu.watch[c].fenceReq = some true → u.mayFence c = true →
        exec (.selftestDone c true) s = .next (u.fenceCore c 5)) ∧
      (s.fenced c = true → (s.ccu.watch[c].manual || u.autoRejoin c) = false → s.ccu.watch[c].fenceReq = some false →
        exec (.selftestDone c true) s = .next (u.startTest c true)) ∧
      (s.fenced c = false → s.ccu.watch[c].fenceReq ≠ some false →
        ∃ t, exec (.selftestDone c false) s = .next t ∧ t.ccu.watch[c].reason = 6 ∧ t.ccu.watch[c].test = .failed ∧
          t.fenced c = true ∧ (t.core c).seq.st = .fenced) ∧
      (s.fenced c = true → (s.ccu.watch[c].manual || u.autoRejoin c) = true →
        (s.ccu.watch[c].fenceReq ≠ some true → exec (.selftestDone c true) s = .next (u.rejoin c)) ∧
        (s.ccu.watch[c].fenceReq = some true → (u.rejoin c).mayFence c = true →
          exec (.selftestDone c true) s = .next ((u.rejoin c).fenceCore c 5))) ∧
      (s.fenced c = true → (s.ccu.watch[c].manual || u.autoRejoin c) = false → s.ccu.watch[c].fenceReq ≠ some false →
        exec (.selftestDone c true) s = .next u ∧ u.ccu.watch[c].reason = s.ccu.watch[c].reason) ∧
      (s.fenced c = true → s.ccu.watch[c].fenceReq ≠ some false →
        ∃ t, exec (.selftestDone c false) s = .next t ∧ t.ccu.watch[c].reason = 6 ∧ t.ccu.watch[c].test = .failed ∧
          t.fenced c = true)) ∧
    (s.regReady 0 = true → ∀ v : Dword,
      (huskValue v = none → ∃ t, exec (.coreFenceWrite v) s = .next t ∧ t.ccu.answer.outcome = 2 ∧
        (∀ d, t.core d = s.core d) ∧ ∀ d, t.fenced d = s.fenced d) ∧
      (∀ w, huskValue v = some w → ∃ t, exec (.coreFenceWrite v) s = .next t ∧ t.ccu.answer.outcome = 0 ∧
        t.ccu.answer.err = 0)) ∧
    (∀ w : Word32, s.ccu.watch[c].test = .running →
      s.fenceBit c w = s.updWatch c fun x => { x with fenceReq := some (bitAt w c.val) }) ∧
    (∀ w : Word32, s.ccu.watch[c].test ≠ .running → bitAt w c.val = true → s.mayFence c = true →
      s.fenceBit c w = s.fenceCore c 5) ∧
    (∀ w : Word32, s.ccu.watch[c].test ≠ .running → bitAt w c.val = false → s.fenced c = true →
      s.fenceBit c w = s.startTest c true)

/-- Posts queue at their home port, instances open, groups are enabled and disabled. RED_POST with room in the queue and
no fault of R393 queues the record, and its key is then the group's newest; a full queue holds the write, until a
place is free; a refused post without a valid STAT writes nothing. INSTANCE_OPEN takes the oldest queued post of the
group and starts its first entry with COUNT 1, the bucket's checksum and OVF of R387; a kept result for its key is
delivered at once. GROUP_ENABLE enables a group that passes R412 with its schedule; a failed check leaves EN 0.
GROUP_DISABLE leaves EN 0, no instance, no kept record and no queued post, and with no write held it writes no byte of
memory (R390, R392, R393, R395, R403, R412, R413). -/
def Obligations.PostsQueueAndInstancesOpen : Prop :=
  ∀ s : State,
    (∀ (p : PortId) (r : Vector Dword 8), s.rduReady p = true → (∀ x ∈ s.heldPosts, x.1 ≠ p) →
      ((s.posts[p]).length < 16 → s.postFault p r = none →
        ∃ t, exec (.redPost p r) s = .next t ∧ t.posts[p] = s.posts[p] ++ [r] ∧
          t.heldPosts = s.heldPosts ∧ (t.group (postG r)).postKey = some (postKeyOf r) ∧ (∀ c, t.core c = s.core c) ∧ ∀ a, t.byteAt a = s.byteAt a) ∧
      (16 ≤ (s.posts[p]).length → exec (.redPost p r) s = .next { s with heldPosts := s.heldPosts ++ [(p, r)] }) ∧
      ((s.posts[p]).length < 16 → s.postFault p r ≠ none → postStatOk r = false →
        ∃ t, exec (.redPost p r) s = .next t ∧ t.posts = s.posts ∧ t.groups = s.groups ∧ ∀ a, t.byteAt a = s.byteAt a)) ∧
    (∀ (g : GroupId) (post : Vector Dword 8) (rest : List (Vector Dword 8)), (s.group g).en = true → (s.group g).inst = none →
      s.rduReady (s.home g) = true → takeFirst (fun r => postG r == g) s.posts[s.home g] = some (post, rest) →
      let s0 := ({ s with posts := s.posts.set (s.home g) rest } : State).takeHeld (s.home g) s.heldPosts.length
      let blank : RedRecord := mkRecord []
      let k0 : Inst := ⟨post, 0, .deliver, .src, ⟨1, 0, postOvf post, false, false, false⟩, postE post, 0, 0, .src, blank, blank, false⟩
      ((s.group g).keptFor (postKeyOf post) = none →
        let r := s0.readLanes (s.home g) g k0 (postSrc post)
        let h : RedHeader := ⟨1, checksum post r.bytes, postOvf post || r.s.overLimit g post r.bytes, r.bad && !postPp post, false, false⟩
        exec (.instanceOpen g) s = .next ((r.s.updGroup g fun y =>
          { y with key := some (postKeyOf post), kept := none, inst := some { k0 with hdr := h } }).enterEntry g)) ∧
      (∀ lead tail, (s.group g).keptFor (postKeyOf post) = some (lead, tail) →
        ∃ t, exec (.instanceOpen g) s = .next t ∧ (t.group g).kept = none ∧ (t.group g).key = some (postKeyOf post) ∧
          ∃ k, (t.group g).inst = some k ∧ k.st = .deliver ∧ k.late = true ∧ k.resLead = lead)) ∧
    (∀ (p : PortId) (g : GroupId) (v : Dword) (w : Word32), huskValue v = some w →
      let u := s.setReg 8 (0x600 + 0x28 * g.val) (BitVec.ofNat 64 (fld w 0 18))
      (w.getLsbD 18 = true → (s.group g).en = false →
        (∀ es t, u.setupFault g = (none, es, t) →
          ∃ t', exec (.groupEnable p g v) s = .next t' ∧ (t'.group g).en = true ∧ (t'.group g).sched = es ∧
            (t'.group g).inst = none) ∧
        (∀ kind es t, u.setupFault g = (some kind, es, t) →
          ∃ t', exec (.groupEnable p g v) s = .next t' ∧ (t'.group g).en = false)) ∧
      (w.getLsbD 18 = false → ((s.group g).en && s.grpMoves g w) = false →
        ∃ t, exec (.groupDisable p g v) s = .next t ∧ (t.group g).en = false ∧ (t.group g).inst = none ∧
          (t.group g).kept = none ∧ (∀ q : PortId, ∀ r ∈ t.posts[q], postG r ≠ g) ∧
          (s.heldPosts = [] → ∀ a, t.byteAt a = s.byteAt a))) ∧
    (∀ (p : PortId) (n : Nat), (∀ x ∈ s.heldPosts, x.1 ≠ p) → s.takeHeld p n = s) ∧
    (∀ (p : PortId) (r : Vector Dword 8) (rest : List (PortId × Vector Dword 8)), s.heldPosts = (p, r) :: rest →
      ∀ t, ({ s with heldPosts := rest } : State).rduPost p r = some t → ∀ n, s.takeHeld p (n + 1) = t.takeHeld p n)

/-- Lanes add with wrap, or take the maximum in a pre-pass, and the headers combine. Combining two byte strings of a
bucket's length gives as many bytes; every lane is the sum of the two lanes modulo 2^W, or in a pre-pass their signed
maximum. CONTRIBUTION_COMPLETE of an accepted contribution stores the combined lanes in the RBUF area P does not use,
adds COUNT and checksum, joins the flags by OR, sets CKERR on a checksum that differs and EMIS on another E, and
begins the next entry, or in cut-through sends the sum on; lanes of another length make the pair fail (R383, R395,
R398, R401, R409, R427). -/
def Obligations.ContributionsAddLaneByLane : Prop :=
  (∀ (post : Vector Dword 8) (xs ys : List Byte), xs.length = 256 * postLen post → ys.length = 256 * postLen post →
    let w := laneBytes post
    let out := combineLanes post xs ys
    out.length = 256 * postLen post ∧ ∀ i < 256 * postLen post / w,
      let lane := fun (bs : List Byte) => leNat ((bs.drop (w * i)).take w)
      (postPp post = false → lane out = (lane xs + lane ys) % 2 ^ (8 * w)) ∧
      (postPp post = true → sext 32 (lane out) = max (sext 32 (lane xs)) (sext 32 (lane ys)))) ∧
  (∀ (s : State) (g : GroupId) (k : Inst) (lead tail : RedRecord) (q : PortId) (cut : Bool) (ts : List Word32) (lanes : List Byte),
    (s.group g).inst = some k → k.st = .adding lead q cut → s.rduReady (s.home g) = true → s.rduLive q = true →
    recValues tail = some ts →
    let from_ := leadFrom (valuesOf lead)
    let p := s.home g
    (lanes.length ≠ 256 * postLen k.post → exec (.contributionComplete g lanes tail) s =
      .next ((s.stray p g.val k.entry (postStep k.post) from_).failPair q g k cut from_)) ∧
    (lanes.length = 256 * postLen k.post →
      let r := s.readLanes q g k (s.placeAt g k k.pAt)
      let t := headerOf ts
      let wrong := !postPp k.post && checksum k.post lanes != t.sum
      let s1 := if wrong then r.s.logPair g k 5 from_ else r.s
      let sum := combineLanes k.post r.bytes lanes
      let s2 := s1.rduStore q (s1.placeAt g k k.pAt.other) sum
      let h : RedHeader :=
        { count := (k.hdr.count + t.count) % 2 ^ 24
          sum := if postPp k.post then 0 else k.hdr.sum + t.sum
          ovf := k.hdr.ovf || t.ovf
          ckerr := !postPp k.post && (k.hdr.ckerr || t.ckerr || wrong || r.bad)
          partial_ := k.hdr.partial_ || t.partial_
          emis := k.hdr.emis || t.emis || (valuesOf lead).getD 2 0 != k.e }
      let s4 := ((s2.pm (pgMp q) 0x40 (postLen k.post)).pm (pgMp p) 0x44 1).updInst g fun y =>
        { y with pAt := k.pAt.other, hdr := h }
      exec (.contributionComplete g lanes tail) s =
        .next (if cut then s4.sendBody g (k.entry + 1) h sum else s4.nextEntry g)))

/-- A REQ is kept for the own sender, a LEAD is accepted for the open pair. REQ_ARRIVAL from the partner of the own SEND
or RING_SEND entry for the current or a later key is kept, and P is sent at once to a node that waits for it with that
key; from another sender or for an older key it is discarded and counted in STRAY. LEAD_ARRIVAL from the open pair's
partner with the same key, LEN256, W64 and KIND class is accepted, and in cut-through the own LEAD leaves; another
length is dropped with BADLEN, and an unhusked record or an unknown GID is dropped and counted (R394, R399, R400,
R401). -/
def Obligations.RequestsAndLeadsAreMatched : Prop :=
  ∀ (s : State) (p : PortId) (lead : RedRecord), s.rduReady p = true → s.ccu.power = .on →
    (recValues lead = none →
      exec (.reqArrival p lead) s = .next (s.stray p 0 0 0 0) ∧ exec (.leadArrival p lead) s = .next (s.stray p 0 0 0 0)) ∧
    (∀ (vs : List Word32) (g : GroupId), recValues lead = some vs → s.slotOf (recVal vs 0 % 2 ^ 16) = some g →
      let older := match (s.group g).key with
        | some b => leadKey vs != b && !keyLater (leadKey vs) b
        | none => false
      let u := s.updGroup g fun y => { y with req := some lead }
      ((s.group g).sender ≠ some (leadFrom vs) ∨ older = true →
        exec (.reqArrival p lead) s = .next (s.stray (s.home g) g.val 0 (recVal vs 1) (leadFrom vs))) ∧
      ((s.group g).sender = some (leadFrom vs) → older = false →
        ((s.group g).inst = none → exec (.reqArrival p lead) s = .next u) ∧
        (∀ k, (s.group g).inst = some k → k.st = .waitReq → leadKey vs = postKeyOf k.post →
          ∃ t, exec (.reqArrival p lead) s = .next t ∧ t = u.sendP g k ∧ (t.group g).req = none))) ∧
    (∀ (vs : List Word32) (g : GroupId) (k : Inst) (v : Word32), recValues lead = some vs →
      s.slotOf (recVal vs 0 % 2 ^ 16) = some g → (s.group g).key = some (leadKey vs) → s.unopened g (leadKey vs) = false →
      (s.group g).inst = some k → k.st = .waitLead → (s.group g).sched[k.entry]? = some v → entryRecv v = true → entryPartner v = leadFrom vs →
      (leadFits k.post vs = true → (s.group g).cutting k = false →
        exec (.leadArrival p lead) s = .next (s.updInst g fun y => { y with st := .adding lead p false })) ∧
      (leadFits k.post vs = true → (s.group g).cutting k = true →
        let u := s.updInst g fun y => { y with st := .adding lead p true }
        exec (.leadArrival p lead) s =
          .next (u.sendRed g (k.entry + 1) 0 1 (recBytes (u.contribLead g k (k.entry + 1))))) ∧
      (leadFits k.post vs = false → exec (.leadArrival p lead) s =
        .next ((s.stray (s.home g) g.val 0 (recVal vs 1) (leadFrom vs)).logPair g k 4 (leadFrom vs))))

/-- Deadlines resolve pairs as missing; results are delivered; the status record closes the instance. PAIR_DEADLINE
resolves the pair without its partner. XFER_TMO_EXPIRY sets RDU_ERR.XFER and the accepted pair fails: it is resolved
as missing, or in cut-through P goes on with CKERR. RESULT_ARRIVAL of the current key is held and delivered; a later
key's is kept while no instance is open, and not served while one is (the model's choice, assumption 95). RESULT_TMO
closes the instance with NORESULT. DELIVERY_DONE writes the status record, whose REASON other than 0 raises
STEP_REPEAT, sets CF when CFE is 1 and closes the instance (R396, R397, R400, R401, R403, R405, R407). -/
def Obligations.ReductionEndsInAStatusRecord : Prop :=
  ∀ (s : State) (g : GroupId) (k : Inst),
    ((s.group g).inst = some k → s.rduReady (s.home g) = true →
      (∀ v, k.st = .waitLead → (s.group g).sched[k.entry]? = some v →
        exec (.pairDeadline g) s = .next (s.resolveMissing g k (entryPartner v))) ∧
      (∀ lead q cut, k.st = .adding lead q cut →
        let from_ := leadFrom (valuesOf lead)
        let f := (s.rduErr (s.home g) 3 9 g.val k.entry (postStep k.post) from_).partialSum q g k
        let m := f.2.missed g k from_
        (cut = false → exec (.xferTmoExpiry g) s = .next (m.nextEntry g)) ∧
        (cut = true →
          let r := m.readLanes (m.redPort g (k.entry + 1)) g k (m.placeAt g k k.pAt)
          exec (.xferTmoExpiry g) s = .next (r.s.sendBody g (k.entry + 1)
            { k.hdr with partial_ := true, ckerr := k.hdr.ckerr || !postPp k.post } (f.1 ++ r.bytes.drop f.1.length)))) ∧
      (k.st = .waitReq ∨ k.st = .waitResult →
        ∃ t, exec (.resultTmo g) s = .next t ∧ (t.group g).inst = none) ∧
      (k.st = .deliver → ∃ t, exec (.deliveryDone g) s = .next t ∧ (t.group g).inst = none ∧
        t = (if k.reason = 0 then s.pm (pgMp (s.home g)) 0x49 1 else s).closeInst g k)) ∧
    (∀ (p : PortId) (lead tail : RedRecord) (vs ts : List Word32) (lanes : List Byte), s.rduReady p = true → s.ccu.power = .on →
      recValues lead = some vs → recValues tail = some ts → s.slotOf (recVal vs 0 % 2 ^ 16) = some g →
      (s.group g).sender = some (leadFrom vs) →
      ((s.group g).inst = none → (∀ b, (s.group g).key = some b → keyLater (leadKey vs) b = true) →
        lanes.length ≤ s.areaSize g →
        ∃ t, exec (.resultArrival p lead lanes tail) s = .next t ∧ (t.group g).kept = some (lead, tail)) ∧
      ((s.group g).inst = some k → (s.group g).key = some (leadKey vs) → k.st ≠ .deliver →
        lanes.length = 256 * postLen k.post → leadKind vs = (if postPp k.post then 4 else 1) →
        ∃ t, exec (.resultArrival p lead lanes tail) s = .next t ∧
          ∃ k', (t.group g).inst = some k' ∧ k'.st = .deliver ∧ k'.reason = BitVec.ofNat 4 (recVal ts 0 / 2 ^ 28) ∧
            k'.resLead = lead ∧ k'.resTail = tail) ∧
      ((s.group g).inst = some k → (∀ b, (s.group g).key = some b → keyLater (leadKey vs) b = true) →
        exec (.resultArrival p lead lanes tail) s = .next s))

/-- A port checks, accepts, routes, delivers or drops the packet it receives. PACKET_ROUTE on a link that takes the
packet, its flits counted as received: a failed HCHK or CRC keeps nothing of it and sets NAK. A packet in SEQ order
whose crossing has room is accepted; one addressed to the cluster that is ready enters the crossing from the port; any
other with HOPS 0 is discarded and counted in HOPDROP; one with a route and HOPS left goes to its port with HOPS one
less; a request without a route is answered with ERR NOROUTE. One for a full crossing stays with its link. A packet
ahead of its turn asks for a NAK, one that came before changes nothing else (R427, R428, R433, R440, R442). -/
def Obligations.PacketsAreCheckedAndDelivered : Prop :=
  ∀ (s : State) (p : PortId) (k : Packet), s.portLive p = true → s.linkReceives p k = true → k.type ≠ 0xB → k.type ≠ 0xF →
    let v := s.pm (pgMp p) 0x02 k.flits
    (k.hchk ≠ k.headCheck → ∃ t, exec (.packetRoute p k) s = .next t ∧ t.ports[p].nak = true ∧
      t.ports[p].rxSeq = s.ports[p].rxSeq ∧ t.inbox = s.inbox ∧ t = v.linkBad p 2 k) ∧
    (k.hchk = k.headCheck → k.crc ≠ k.bodyCheck → ∃ t, exec (.packetRoute p k) s = .next t ∧ t.ports[p].nak = true ∧
      t.ports[p].rxSeq = s.ports[p].rxSeq ∧ t.inbox = s.inbox ∧ t = v.linkBad p 1 k) ∧
    (k.hchk = k.headCheck → k.crc = k.bodyCheck → k.seq ≠ s.ports[p].rxSeq + 1 →
      ((k.seq - s.ports[p].rxSeq).toNat ≤ 32768 → k.seq ≠ s.ports[p].rxSeq →
        exec (.packetRoute p k) s = .next (v.updPort p fun q => { q with nak := true })) ∧
      (32768 < (k.seq - s.ports[p].rxSeq).toNat ∨ k.seq = s.ports[p].rxSeq → exec (.packetRoute p k) s = .next v)) ∧
    (k.hchk = k.headCheck → k.crc = k.bodyCheck → k.seq = s.ports[p].rxSeq + 1 → s.entersBy k = true → s.portFull p k = true →
      exec (.packetRoute p k) s = .next s) ∧
    (k.hchk = k.headCheck → k.crc = k.bodyCheck → k.seq = s.ports[p].rxSeq + 1 → typeReserved k = false →
      (s.entersBy k && s.portFull p k) = false → (s.transits k && s.memHalted) = false → k.payload.length ≤ 2048 → (k.tc = 0 → k.flits ≤ 2) → k.sr = false → s.ccu.readyS = true →
      let u := v.linkTakes p k
      (u.route k.dst k.mem k.yx = .deliver → takesIn k = true → ∃ t, exec (.packetRoute p k) s = .next t ∧
        t.inbox = s.inbox ++ [(some p, k)] ∧ t.ports[p].rxSeq = k.seq ∧ (∀ c, t.core c = s.core c) ∧ ∀ a, t.byteAt a = s.byteAt a) ∧
      (u.route k.dst k.mem k.yx ≠ .deliver → k.hops = 0 → exec (.packetRoute p k) s =
        .next (((u.bumpRf (pgMp p) 0x138 32 32 1).pm (pgMp p) 0x0A 1).portErr p 12 5 0 k)) ∧
      (∀ o yx, u.route k.dst k.mem k.yx = .out o yx → k.hops ≠ 0 → exec (.packetRoute p k) s =
        .next (((if u.detoured k then u.pm (pgMp p) 0x0B 1 else u).pm (pgMp p) 0x0C 1).enqueue o
          { k with yx := yx, hops := k.hops - 1 })) ∧
      (u.route k.dst k.mem k.yx = .noroute → k.hops ≠ 0 → isRequest k = true → exec (.packetRoute p k) s =
        .next ((u.noRoute p k).sendAnswer (errPacket k (u.srcWord (8 + p.val)) errNoRoute))))

/-- RD, WR and MGMT are answered; RSP, ACK and ERR free the tag of an own request. RD takes a tag and is answered by an
RSP with the bytes read, or by ERR with the access's code; WR likewise by one ACK with CLUSTER and SYSTEM, or ERR.
MGMT that names no whole register of this cluster is answered with ERR REFUSED, any other goes to the register router.
RSP, and ACK with SYSTEM set, of a request's last packet free the tag; an ACK with neither level set changes nothing;
ERR frees the tag and reaches the requester; a reply for a reclaimed tag is dropped and counted (R24, R426, R440,
R441, R478, R497). -/
def Obligations.RequestsAreServedAndAnswersFreeTags : Prop :=
  ∀ (s t : State) (fr : Option PortId) (k : Packet),
    let p := (t.servedBy fr).1
    let t1 := (t.servedBy fr).2
    (s.takeIn 0 k = some (fr, t) → ∀ t2, t1.rqtPass (8 + p.val) k.addr.toNat = some t2 → t2.memDead = false →
      let g := t2.serveRd p k
      (g.err = none → exec (.rd k) s = .next (g.s.sendAnswer { Packet.blank 2 k.tc.toNat 0 with
        payload := g.bytes, dst := dstOfSrc k.src, src := g.s.srcWord 13, tag := k.tag, addr := k.addr })) ∧
      (∀ e, g.err = some e → exec (.rd k) s = .next (g.s.sendAnswer (errPacket k (g.s.srcWord 13) e.code)))) ∧
    (s.takeIn 1 k = some (fr, t) → ∀ t2, t1.rqtPass (8 + p.val) k.addr.toNat = some t2 → t2.memDead = false →
      let g := t2.serveWr p k
      (g.err = none → exec (.wr k) s = .next (g.s.sendAnswer { Packet.blank 3 k.tc.toNat 0 with
        spec := 3, dst := dstOfSrc k.src, src := g.s.srcWord 13, tag := k.tag, addr := k.addr })) ∧
      (∀ e, g.err = some e → exec (.wr k) s = .next (g.s.sendAnswer (errPacket k (g.s.srcWord 13) e.code)))) ∧
    (∀ (x : Option PortId × Packet) (u : State), s.ccuAlive = true → k.type = 8 → s.takePacket (· == k) = some (x, u) →
      (u.mgmtTarget k = none → exec (.mgmt k) s = .next (u.ccuPut { mgmtHead k 4 with spec := 3 })) ∧
      (∀ page off, u.mgmtTarget k = some (page, off) → exec (.mgmt k) s = .next (u.access page
        ⟨BitVec.ofNat 12 off, (k.byte 24).getLsbD 0, BitVec.ofNat 64 (leNat k.payload), .mgmt k⟩))) ∧
    (t.memDead = false → (∀ e ∈ t.rqt.late, e.1 ≠ k.tag) → ∀ g, tget none t.rqt.tags k.tag.toNat = some g →
      (s.takeIn 2 k = some (fr, t) → g.sent ≤ 1 → ∃ u, exec (.rsp k) s = .next u ∧ tget none u.rqt.tags k.tag.toNat = none ∧
        (t.forgotten g = false → u = t.dropTag k.tag)) ∧
      (s.takeIn 3 k = some (fr, t) → (k.byte 24).getLsbD 1 = true → g.sent ≤ 1 →
        ∃ u, exec (.ack k) s = .next u ∧ tget none u.rqt.tags k.tag.toNat = none) ∧
      (s.takeIn 3 k = some (fr, t) → (k.byte 24).getLsbD 1 = false → (k.byte 24).getLsbD 0 = false → exec (.ack k) s = .next t) ∧
      (s.takeIn 4 k = some (fr, t) → t.answersMsg k = false → k.tc ≠ 1 → t.errWaits g = false → t.forgotten g = false →
        exec (.err k) s = .next ((t.dropTag k.tag).remoteErr g k.addr.toNat (k.byte 24)))) ∧
    (t.memDead = false → t.rqt.late.any (fun e => e.1 == k.tag) = true →
      s.takeIn 2 k = some (fr, t) → exec (.rsp k) s = .next (t.lateReply k.tag))

/-- The router applies a register write, and shells and timeouts answer for blocks that cannot. REGISTER_WRITE to a page
whose block can be reached performs the block's write and answers with its outcome and no error. A write to an absent
page is refused (3); one to a page of a fused-off core is answered ISOLATED (5) and counted in ISO_DROP.
SHELL_READ_TMO answers the first waiting read from the shell with SHELL set. REGISTER_WRITE_TMO sets CCU.ERR.TMO and
answers the first waiting write ISOLATED. A sideband frame with a wrong CRC is not performed and is answered with
status 0x40; one with a reserved command is refused with 0x80 (R486, R498, R499, R504, R533). -/
def Obligations.RegisterAccessesAreAnswered : Prop :=
  ∀ (s : State) (page : Byte) (off : BitVec 12) (v : Dword), s.ccuAlive = true →
    (s.regReady page.toNat = true → blockOf page.toNat ≠ none →
      let a : RegAccess := ⟨off, true, v, .command⟩
      let s0 := (s.setWaiting page.toNat [a]).setWaiting page.toNat []
      ∀ o u, s0.pageWrite page.toNat off.toNat v = (o, u) → o ≠ 4 →
        exec (.registerWrite page off v) s =
          .next (u.updCcu fun x => { x with answer := ⟨page, off, 0, false, BitVec.ofNat 3 o, 0⟩ })) ∧
    (s.waitingAt page.toNat = [] → blockOf page.toNat = none →
      ∃ t, exec (.registerWrite page off v) s = .next t ∧ t.ccu.answer.err = 3 ∧ (∀ c, t.core c = s.core c) ∧
        t.regs = s.regs) ∧
    (s.waitingAt page.toNat = [] → 0x40 ≤ page.toNat → blockOf page.toNat ≠ none → s.present (pageCore page.toNat) = false →
      ∃ t, exec (.registerWrite page off v) s = .next t ∧ t.ccu.answer.err = 5 ∧ (∀ c, t.core c = s.core c) ∧
        t.rf 0 0x170 0 32 = (s.rf 0 0x170 0 32 + 1) % 2 ^ 32) ∧
    (∀ (a : RegAccess) (rest : List RegAccess), a.who = .command →
      (takeFirst (fun (x : RegAccess) => !x.write) (s.waitingAt page.toNat) = some (a, rest) →
        ∃ t, exec (.shellReadTmo page) s = .next t ∧ t.ccu.answer.shell = true ∧ t.ccu.answer.off = a.off ∧
          t.ccu.answer.value = (s.setWaiting page.toNat rest).shellView page.toNat a.off.toNat ∧ t.waitingAt page.toNat = rest) ∧
      (takeFirst (fun (x : RegAccess) => x.write && x.who != .entered) (s.waitingAt page.toNat) = some (a, rest) →
        ∃ t, exec (.registerWriteTmo page) s = .next t ∧ t.ccu.answer.err = 5 ∧
          (bitAt (s.reg 0 0x28) 3 = false → bitAt (t.reg 0 0x20) 3 = true) ∧
          (t.waitingAt page.toNat = rest ∨ t.waitingAt page.toNat = modFirst (fun (x : RegAccess) => x.write && x.who != .entered)
            (fun x => { x with who := .entered }) (s.waitingAt page.toNat)))) ∧
    (∀ (body : List Byte) (c : Byte), body ≠ [] →
      (c ≠ crc8 body → exec (.sidebandRequest (body ++ [c])) s =
        .next (s.updCcu fun u => { u with sideband := sidebandFrame 0x40 [] })) ∧
      (c = crc8 body → body.headD 0 ≠ 1 → body.headD 0 ≠ 2 → exec (.sidebandRequest (body ++ [c])) s =
        .next (s.updCcu fun u => { u with sideband := sidebandFrame 0x80 [] })))

/-- Link control flits acknowledge packets, return credits and ask for replays. LCF_SEND sends the last SEQ accepted and
the credits owed, with NAK when one is due, and none is due after. LCF_RECEIVE of a flit with a good CRC frees the
packets up to ACKSEQ from the replay buffer; a bad CRC counts and sets NAK. LINK_REPLAY_TMO replays; at the 16th retry
with the same oldest packet the link is FAILED, its replay buffer is empty and of its queues only the notification of
the failure is left. HOLD_TMO_DROP discards the oldest packet of a class other than TC0 (R428, R429, R433). -/
def Obligations.LinkFlitsAcknowledgeAndReplay : Prop :=
  ∀ (s : State) (p : PortId), s.portLive p = true →
    (lcfPasses s.ports[p].link = true →
      (∃ t, exec (.lcfSend p) s = .next t ∧ t.ports[p].nak = false ∧ t.ports[p].rxSince = 0 ∧
        t.ports[p].replay = s.ports[p].replay ∧ (t.ports[p].lcf.take 2) = natLe 2 (0xF + 2 ^ 4 * bit s.ports[p].nak) ∧
        ((t.ports[p].lcf.drop 2).take 2) = natLe 2 s.ports[p].rxSeq.toNat ∧ t.ports[p].lcf.length = 64) ∧
      (∀ flit : List Byte, flit.length = 64 →
        (crc32c (flit.take 60) ≠ BitVec.ofNat 32 (leNat (flit.drop 60)) →
          ∃ t, exec (.lcfReceive p flit) s = .next t ∧ t.ports[p].nak = true ∧
            t.ports[p].replay.take s.ports[p].replay.length = s.ports[p].replay) ∧
        (crc32c (flit.take 60) = BitVec.ofNat 32 (leNat (flit.drop 60)) → (flit.headD 0).toNat % 16 = 0xF →
          let n := ackCount s.ports[p].replay (BitVec.ofNat 16 (leNat ((flit.drop 2).take 2)))
          let u : State := ((s.pm (pgMp p) 0x02 1).updPort p fun q =>
            { q with
              replay := q.replay.drop n
              oldest := if 0 < n then none else q.oldest
              retries := if 0 < n then 0 else q.retries
              credits := vmap (fun i c => min (vget 0 classFlits i) (c + (flit.getD (8 + i) 0).toNat)) q.credits })
          ((flit.headD 0).getLsbD 4 = false → exec (.lcfReceive p flit) s = .next (u.pumpAll p)) ∧
          ((flit.headD 0).getLsbD 4 = true → exec (.lcfReceive p flit) s = .next ((u.replay p).pumpAll p))))) ∧
    (∀ (k : Packet) (rest : List Packet), s.ports[p].replay = k :: rest →
      (s.ports[p].oldest = some k.seq → s.ports[p].retries = 15 →
        ∃ t, exec (.linkReplayTmo p) s = .next t ∧ t.ports[p].link = .failed ∧ t.ports[p].replay = [] ∧
          ∀ (tc : Nat) (x : Packet), x ∈ vget [] t.ports[p].txq tc → x.type = 0xA) ∧
      (s.ports[p].oldest = some k.seq → s.ports[p].retries < 15 →
        ∃ t, exec (.linkReplayTmo p) s = .next t ∧ t.ports[p].link = s.ports[p].link ∧ t.ports[p].replay.take (rest.length + 1) = k :: rest ∧
          t.ports[p].retries = s.ports[p].retries + 1)) ∧
    (∀ (tc : BitVec 2) (k : Packet) (rest : List Packet), tc ≠ 0 → vget [] s.ports[p].txq tc.toNat = k :: rest →
      ∃ t, exec (.holdTmoDrop p tc) s = .next t ∧ (∃ n, vget [] t.ports[p].txq tc.toNat = rest.drop n) ∧
        t.rf (pgMp p) 0x138 0 32 = (s.rf (pgMp p) 0x138 0 32 + 1) % 2 ^ 32)

/-- HELLOs bring links up, COORD starts them, and the routes of a failed port are replaced. HELLO_SEND sends a sealed
HELLO with the coordinates and the sending side and leaves the link's state. A HELLO that passes R444 brings the link
UP and is recorded in NBR with VALID; another puts it in MISWIRE. HELLO_TMO leaves the port DOWN. ROUTE_REPLACE, when
the CCU has been informed of the port, rewrites the MODE 0 routes through a FAILED port and restores the AUTO ones for
an UP port. LINK_CTL with DISABLE makes the link DISABLED, RETRAIN enters HELLO. COORD is refused after READY unless
every port is DISABLED, and in step 4 a VALID one starts the exchange (R439, R443, R444, R448, R527). -/
def Obligations.LinksComeUpAndRoutesAreReplaced : Prop :=
  ∀ (s : State) (p : PortId),
    (s.portLive p = true → s.coordValid = true →
      (s.ports[p].link ≠ .up → s.ports[p].link ≠ .disabled →
        ∃ t, exec (.helloSend p) s = .next t ∧ t.ports[p].link = s.ports[p].link ∧
          ∃ k, t.ports[p].hello = some k ∧ k.type = 0xB ∧ k.crc = k.bodyCheck ∧
            k.payload = (s.helloWords p).flatMap fun w => natLe 8 (husked w).toNat) ∧
      (∀ (ws : Vector Dword 4) (w : List Word32), s.ports[p].link ≠ .disabled → ws.toList.mapM huskValue = some w →
        s.helloOk p w = true →
        ∃ t, exec (.hello p ws) s = .next t ∧ t.ports[p].link = .up ∧
          fld (t.reg (pgMp p) 0x110) 0 25 = (w.getD 0 0).toNat % 2 ^ 25 ∧ bitAt (t.reg (pgMp p) 0x110) 28 = true) ∧
      (∀ ws : Vector Dword 4, s.ports[p].link ≠ .disabled →
        (ws.toList.mapM huskValue = none ∨ ∃ w, ws.toList.mapM huskValue = some w ∧ s.helloOk p w = false) →
        ∃ t, exec (.hello p ws) s = .next t ∧ t.ports[p].link = .miswire)) ∧
    (s.portLive p = true → s.ports[p].link = .hello → ∃ t, exec (.helloTmo p) s = .next t ∧ t.ports[p].link = .down) ∧
    (vget false s.stopped 9 = false → s.ports[p].news = true →
      let u := s.updPort p fun q => { q with news := false }
      (s.ports[p].link = .failed → exec (.routeReplace p) s = .next (u.replaceRoutes p).linkEvt ∧
        ∀ d < 16, d ≠ s.ownCluster → s.rf 8 (0x180 + 8 * d) 0 2 = 0 → sideTowards s.ownCluster d false = p →
          (u.replaceRoutes p).reg 8 (0x180 + 8 * d) = BitVec.ofNat 64 (s.detour p)) ∧
      (s.ports[p].link = .up → exec (.routeReplace p) s = .next u.restoreRoutes.linkEvt ∧
        ∀ d < 16, s.rf 8 (0x180 + 8 * d) 4 1 = 1 → u.restoreRoutes.reg 8 (0x180 + 8 * d) = 0)) ∧
    (s.regReady (pgMp p) = true →
      (∃ t, exec (.linkCtlDisable p true) s = .next t ∧ t.ports[p].link = .disabled) ∧
      (s.ports[p].link = .disabled → s.coordValid = true →
        ∃ t, exec (.linkCtlDisable p false) s = .next t ∧ t.ports[p].link = .hello) ∧
      (s.coordValid = true → bitAt (s.reg (pgMp p) 0x100) 0 = false →
        ∃ t, exec (.linkRetrain p) s = .next t ∧ t.ports[p].link = .hello)) ∧
    (s.regReady 8 = true → ∀ (v : Dword) (w : Word32), huskValue v = some w →
      (s.ccu.readyS = true → s.ports[p].link ≠ .disabled →
        ∃ t, exec (.coordWrite v) s = .next t ∧ t.ccu.answer.outcome = 1 ∧ t.reg 8 0x150 = s.reg 8 0x150) ∧
      (s.ccu.readyS = false → s.ccu.st ≠ .fault → s.ccu.step = 4 → bitAt w 25 = true →
        ∃ t, exec (.coordWrite v) s = .next t ∧ t.ccu.answer.outcome = 0 ∧ t.coordValid = true ∧ 5 ≤ t.ccu.step))
end

