-- ==== Sys2Proof/Laws/State.lean ====
section
/-! SUPPORT. One lemma per field per update of the state, true by rfl, so that no proof unfolds a record update; and what
the accessor of a core sees after an update of a core. -/

namespace Sys2Proof.Machine

/-! ### `updCore` -/

@[simp] theorem State.updCore_regs (s : State) (c : CoreId) (f : Core → Core) : (s.updCore c f).regs = s.regs := rfl
@[simp] theorem State.updCore_mem (s : State) (c : CoreId) (f : Core → Core) : (s.updCore c f).mem = s.mem := rfl
@[simp] theorem State.updCore_links (s : State) (c : CoreId) (f : Core → Core) : (s.updCore c f).links = s.links := rfl
@[simp] theorem State.updCore_csc (s : State) (c : CoreId) (f : Core → Core) : (s.updCore c f).csc = s.csc := rfl
@[simp] theorem State.updCore_cscBuf (s : State) (c : CoreId) (f : Core → Core) : (s.updCore c f).cscBuf = s.cscBuf := rfl
@[simp] theorem State.updCore_cscOp (s : State) (c : CoreId) (f : Core → Core) : (s.updCore c f).cscOp = s.cscOp := rfl
@[simp] theorem State.updCore_txu (s : State) (c : CoreId) (f : Core → Core) : (s.updCore c f).txu = s.txu := rfl
@[simp] theorem State.updCore_evx (s : State) (c : CoreId) (f : Core → Core) : (s.updCore c f).evx = s.evx := rfl
@[simp] theorem State.updCore_rqt (s : State) (c : CoreId) (f : Core → Core) : (s.updCore c f).rqt = s.rqt := rfl
@[simp] theorem State.updCore_ecm (s : State) (c : CoreId) (f : Core → Core) : (s.updCore c f).ecm = s.ecm := rfl
@[simp] theorem State.updCore_ports (s : State) (c : CoreId) (f : Core → Core) : (s.updCore c f).ports = s.ports := rfl
@[simp] theorem State.updCore_inbox (s : State) (c : CoreId) (f : Core → Core) : (s.updCore c f).inbox = s.inbox := rfl
@[simp] theorem State.updCore_groups (s : State) (c : CoreId) (f : Core → Core) : (s.updCore c f).groups = s.groups := rfl
@[simp] theorem State.updCore_posts (s : State) (c : CoreId) (f : Core → Core) : (s.updCore c f).posts = s.posts := rfl
@[simp] theorem State.updCore_heldPosts (s : State) (c : CoreId) (f : Core → Core) : (s.updCore c f).heldPosts = s.heldPosts := rfl
@[simp] theorem State.updCore_ccu (s : State) (c : CoreId) (f : Core → Core) : (s.updCore c f).ccu = s.ccu := rfl
@[simp] theorem State.updCore_bond (s : State) (c : CoreId) (f : Core → Core) : (s.updCore c f).bond = s.bond := rfl
@[simp] theorem State.updCore_laneCe (s : State) (c : CoreId) (f : Core → Core) : (s.updCore c f).laneCe = s.laneCe := rfl
@[simp] theorem State.updCore_clockLane (s : State) (c : CoreId) (f : Core → Core) : (s.updCore c f).clockLane = s.clockLane := rfl
@[simp] theorem State.updCore_memCyc (s : State) (c : CoreId) (f : Core → Core) : (s.updCore c f).memCyc = s.memCyc := rfl
@[simp] theorem State.updCore_portCyc (s : State) (c : CoreId) (f : Core → Core) : (s.updCore c f).portCyc = s.portCyc := rfl
@[simp] theorem State.updCore_snap (s : State) (c : CoreId) (f : Core → Core) : (s.updCore c f).snap = s.snap := rfl
@[simp] theorem State.updCore_stopped (s : State) (c : CoreId) (f : Core → Core) : (s.updCore c f).stopped = s.stopped := rfl
@[simp] theorem State.updCore_fuses (s : State) (c : CoreId) (f : Core → Core) : (s.updCore c f).fuses = s.fuses := rfl
@[simp] theorem State.updCore_wir (s : State) (c : CoreId) (f : Core → Core) : (s.updCore c f).wir = s.wir := rfl
@[simp] theorem State.updCore_clocksOff (s : State) (c : CoreId) (f : Core → Core) : (s.updCore c f).clocksOff = s.clocksOff := rfl
@[simp] theorem State.updCore_draws (s : State) (c : CoreId) (f : Core → Core) : (s.updCore c f).draws = s.draws := rfl
@[simp] theorem State.updCore_pending (s : State) (c : CoreId) (f : Core → Core) : (s.updCore c f).pending = s.pending := rfl
@[simp] theorem State.reg_updCore (s : State) (c : CoreId) (f : Core → Core) (pg at_ : Nat) : (s.updCore c f).reg pg at_ = s.reg pg at_ := rfl
@[simp] theorem State.rf_updCore (s : State) (c : CoreId) (f : Core → Core) (pg at_ lo n : Nat) : (s.updCore c f).rf pg at_ lo n = s.rf pg at_ lo n := rfl

/-! ### `updSeq` -/

@[simp] theorem State.updSeq_regs (s : State) (c : CoreId) (f : Seq → Seq) : (s.updSeq c f).regs = s.regs := rfl
@[simp] theorem State.updSeq_mem (s : State) (c : CoreId) (f : Seq → Seq) : (s.updSeq c f).mem = s.mem := rfl
@[simp] theorem State.updSeq_links (s : State) (c : CoreId) (f : Seq → Seq) : (s.updSeq c f).links = s.links := rfl
@[simp] theorem State.updSeq_csc (s : State) (c : CoreId) (f : Seq → Seq) : (s.updSeq c f).csc = s.csc := rfl
@[simp] theorem State.updSeq_cscBuf (s : State) (c : CoreId) (f : Seq → Seq) : (s.updSeq c f).cscBuf = s.cscBuf := rfl
@[simp] theorem State.updSeq_cscOp (s : State) (c : CoreId) (f : Seq → Seq) : (s.updSeq c f).cscOp = s.cscOp := rfl
@[simp] theorem State.updSeq_txu (s : State) (c : CoreId) (f : Seq → Seq) : (s.updSeq c f).txu = s.txu := rfl
@[simp] theorem State.updSeq_evx (s : State) (c : CoreId) (f : Seq → Seq) : (s.updSeq c f).evx = s.evx := rfl
@[simp] theorem State.updSeq_rqt (s : State) (c : CoreId) (f : Seq → Seq) : (s.updSeq c f).rqt = s.rqt := rfl
@[simp] theorem State.updSeq_ecm (s : State) (c : CoreId) (f : Seq → Seq) : (s.updSeq c f).ecm = s.ecm := rfl
@[simp] theorem State.updSeq_ports (s : State) (c : CoreId) (f : Seq → Seq) : (s.updSeq c f).ports = s.ports := rfl
@[simp] theorem State.updSeq_inbox (s : State) (c : CoreId) (f : Seq → Seq) : (s.updSeq c f).inbox = s.inbox := rfl
@[simp] theorem State.updSeq_groups (s : State) (c : CoreId) (f : Seq → Seq) : (s.updSeq c f).groups = s.groups := rfl
@[simp] theorem State.updSeq_posts (s : State) (c : CoreId) (f : Seq → Seq) : (s.updSeq c f).posts = s.posts := rfl
@[simp] theorem State.updSeq_heldPosts (s : State) (c : CoreId) (f : Seq → Seq) : (s.updSeq c f).heldPosts = s.heldPosts := rfl
@[simp] theorem State.updSeq_ccu (s : State) (c : CoreId) (f : Seq → Seq) : (s.updSeq c f).ccu = s.ccu := rfl
@[simp] theorem State.updSeq_bond (s : State) (c : CoreId) (f : Seq → Seq) : (s.updSeq c f).bond = s.bond := rfl
@[simp] theorem State.updSeq_laneCe (s : State) (c : CoreId) (f : Seq → Seq) : (s.updSeq c f).laneCe = s.laneCe := rfl
@[simp] theorem State.updSeq_clockLane (s : State) (c : CoreId) (f : Seq → Seq) : (s.updSeq c f).clockLane = s.clockLane := rfl
@[simp] theorem State.updSeq_memCyc (s : State) (c : CoreId) (f : Seq → Seq) : (s.updSeq c f).memCyc = s.memCyc := rfl
@[simp] theorem State.updSeq_portCyc (s : State) (c : CoreId) (f : Seq → Seq) : (s.updSeq c f).portCyc = s.portCyc := rfl
@[simp] theorem State.updSeq_snap (s : State) (c : CoreId) (f : Seq → Seq) : (s.updSeq c f).snap = s.snap := rfl
@[simp] theorem State.updSeq_stopped (s : State) (c : CoreId) (f : Seq → Seq) : (s.updSeq c f).stopped = s.stopped := rfl
@[simp] theorem State.updSeq_fuses (s : State) (c : CoreId) (f : Seq → Seq) : (s.updSeq c f).fuses = s.fuses := rfl
@[simp] theorem State.updSeq_wir (s : State) (c : CoreId) (f : Seq → Seq) : (s.updSeq c f).wir = s.wir := rfl
@[simp] theorem State.updSeq_clocksOff (s : State) (c : CoreId) (f : Seq → Seq) : (s.updSeq c f).clocksOff = s.clocksOff := rfl
@[simp] theorem State.updSeq_draws (s : State) (c : CoreId) (f : Seq → Seq) : (s.updSeq c f).draws = s.draws := rfl
@[simp] theorem State.updSeq_pending (s : State) (c : CoreId) (f : Seq → Seq) : (s.updSeq c f).pending = s.pending := rfl
@[simp] theorem State.reg_updSeq (s : State) (c : CoreId) (f : Seq → Seq) (pg at_ : Nat) : (s.updSeq c f).reg pg at_ = s.reg pg at_ := rfl
@[simp] theorem State.rf_updSeq (s : State) (c : CoreId) (f : Seq → Seq) (pg at_ lo n : Nat) : (s.updSeq c f).rf pg at_ lo n = s.rf pg at_ lo n := rfl

/-! ### `updMxe` -/

@[simp] theorem State.updMxe_regs (s : State) (c : CoreId) (f : Mxe → Mxe) : (s.updMxe c f).regs = s.regs := rfl
@[simp] theorem State.updMxe_mem (s : State) (c : CoreId) (f : Mxe → Mxe) : (s.updMxe c f).mem = s.mem := rfl
@[simp] theorem State.updMxe_links (s : State) (c : CoreId) (f : Mxe → Mxe) : (s.updMxe c f).links = s.links := rfl
@[simp] theorem State.updMxe_csc (s : State) (c : CoreId) (f : Mxe → Mxe) : (s.updMxe c f).csc = s.csc := rfl
@[simp] theorem State.updMxe_cscBuf (s : State) (c : CoreId) (f : Mxe → Mxe) : (s.updMxe c f).cscBuf = s.cscBuf := rfl
@[simp] theorem State.updMxe_cscOp (s : State) (c : CoreId) (f : Mxe → Mxe) : (s.updMxe c f).cscOp = s.cscOp := rfl
@[simp] theorem State.updMxe_txu (s : State) (c : CoreId) (f : Mxe → Mxe) : (s.updMxe c f).txu = s.txu := rfl
@[simp] theorem State.updMxe_evx (s : State) (c : CoreId) (f : Mxe → Mxe) : (s.updMxe c f).evx = s.evx := rfl
@[simp] theorem State.updMxe_rqt (s : State) (c : CoreId) (f : Mxe → Mxe) : (s.updMxe c f).rqt = s.rqt := rfl
@[simp] theorem State.updMxe_ecm (s : State) (c : CoreId) (f : Mxe → Mxe) : (s.updMxe c f).ecm = s.ecm := rfl
@[simp] theorem State.updMxe_ports (s : State) (c : CoreId) (f : Mxe → Mxe) : (s.updMxe c f).ports = s.ports := rfl
@[simp] theorem State.updMxe_inbox (s : State) (c : CoreId) (f : Mxe → Mxe) : (s.updMxe c f).inbox = s.inbox := rfl
@[simp] theorem State.updMxe_groups (s : State) (c : CoreId) (f : Mxe → Mxe) : (s.updMxe c f).groups = s.groups := rfl
@[simp] theorem State.updMxe_posts (s : State) (c : CoreId) (f : Mxe → Mxe) : (s.updMxe c f).posts = s.posts := rfl
@[simp] theorem State.updMxe_heldPosts (s : State) (c : CoreId) (f : Mxe → Mxe) : (s.updMxe c f).heldPosts = s.heldPosts := rfl
@[simp] theorem State.updMxe_ccu (s : State) (c : CoreId) (f : Mxe → Mxe) : (s.updMxe c f).ccu = s.ccu := rfl
@[simp] theorem State.updMxe_bond (s : State) (c : CoreId) (f : Mxe → Mxe) : (s.updMxe c f).bond = s.bond := rfl
@[simp] theorem State.updMxe_laneCe (s : State) (c : CoreId) (f : Mxe → Mxe) : (s.updMxe c f).laneCe = s.laneCe := rfl
@[simp] theorem State.updMxe_clockLane (s : State) (c : CoreId) (f : Mxe → Mxe) : (s.updMxe c f).clockLane = s.clockLane := rfl
@[simp] theorem State.updMxe_memCyc (s : State) (c : CoreId) (f : Mxe → Mxe) : (s.updMxe c f).memCyc = s.memCyc := rfl
@[simp] theorem State.updMxe_portCyc (s : State) (c : CoreId) (f : Mxe → Mxe) : (s.updMxe c f).portCyc = s.portCyc := rfl
@[simp] theorem State.updMxe_snap (s : State) (c : CoreId) (f : Mxe → Mxe) : (s.updMxe c f).snap = s.snap := rfl
@[simp] theorem State.updMxe_stopped (s : State) (c : CoreId) (f : Mxe → Mxe) : (s.updMxe c f).stopped = s.stopped := rfl
@[simp] theorem State.updMxe_fuses (s : State) (c : CoreId) (f : Mxe → Mxe) : (s.updMxe c f).fuses = s.fuses := rfl
@[simp] theorem State.updMxe_wir (s : State) (c : CoreId) (f : Mxe → Mxe) : (s.updMxe c f).wir = s.wir := rfl
@[simp] theorem State.updMxe_clocksOff (s : State) (c : CoreId) (f : Mxe → Mxe) : (s.updMxe c f).clocksOff = s.clocksOff := rfl
@[simp] theorem State.updMxe_draws (s : State) (c : CoreId) (f : Mxe → Mxe) : (s.updMxe c f).draws = s.draws := rfl
@[simp] theorem State.updMxe_pending (s : State) (c : CoreId) (f : Mxe → Mxe) : (s.updMxe c f).pending = s.pending := rfl
@[simp] theorem State.reg_updMxe (s : State) (c : CoreId) (f : Mxe → Mxe) (pg at_ : Nat) : (s.updMxe c f).reg pg at_ = s.reg pg at_ := rfl
@[simp] theorem State.rf_updMxe (s : State) (c : CoreId) (f : Mxe → Mxe) (pg at_ lo n : Nat) : (s.updMxe c f).rf pg at_ lo n = s.rf pg at_ lo n := rfl

/-! ### `updTrf` -/

@[simp] theorem State.updTrf_regs (s : State) (c : CoreId) (f : Trf → Trf) : (s.updTrf c f).regs = s.regs := rfl
@[simp] theorem State.updTrf_mem (s : State) (c : CoreId) (f : Trf → Trf) : (s.updTrf c f).mem = s.mem := rfl
@[simp] theorem State.updTrf_links (s : State) (c : CoreId) (f : Trf → Trf) : (s.updTrf c f).links = s.links := rfl
@[simp] theorem State.updTrf_csc (s : State) (c : CoreId) (f : Trf → Trf) : (s.updTrf c f).csc = s.csc := rfl
@[simp] theorem State.updTrf_cscBuf (s : State) (c : CoreId) (f : Trf → Trf) : (s.updTrf c f).cscBuf = s.cscBuf := rfl
@[simp] theorem State.updTrf_cscOp (s : State) (c : CoreId) (f : Trf → Trf) : (s.updTrf c f).cscOp = s.cscOp := rfl
@[simp] theorem State.updTrf_txu (s : State) (c : CoreId) (f : Trf → Trf) : (s.updTrf c f).txu = s.txu := rfl
@[simp] theorem State.updTrf_evx (s : State) (c : CoreId) (f : Trf → Trf) : (s.updTrf c f).evx = s.evx := rfl
@[simp] theorem State.updTrf_rqt (s : State) (c : CoreId) (f : Trf → Trf) : (s.updTrf c f).rqt = s.rqt := rfl
@[simp] theorem State.updTrf_ecm (s : State) (c : CoreId) (f : Trf → Trf) : (s.updTrf c f).ecm = s.ecm := rfl
@[simp] theorem State.updTrf_ports (s : State) (c : CoreId) (f : Trf → Trf) : (s.updTrf c f).ports = s.ports := rfl
@[simp] theorem State.updTrf_inbox (s : State) (c : CoreId) (f : Trf → Trf) : (s.updTrf c f).inbox = s.inbox := rfl
@[simp] theorem State.updTrf_groups (s : State) (c : CoreId) (f : Trf → Trf) : (s.updTrf c f).groups = s.groups := rfl
@[simp] theorem State.updTrf_posts (s : State) (c : CoreId) (f : Trf → Trf) : (s.updTrf c f).posts = s.posts := rfl
@[simp] theorem State.updTrf_heldPosts (s : State) (c : CoreId) (f : Trf → Trf) : (s.updTrf c f).heldPosts = s.heldPosts := rfl
@[simp] theorem State.updTrf_ccu (s : State) (c : CoreId) (f : Trf → Trf) : (s.updTrf c f).ccu = s.ccu := rfl
@[simp] theorem State.updTrf_bond (s : State) (c : CoreId) (f : Trf → Trf) : (s.updTrf c f).bond = s.bond := rfl
@[simp] theorem State.updTrf_laneCe (s : State) (c : CoreId) (f : Trf → Trf) : (s.updTrf c f).laneCe = s.laneCe := rfl
@[simp] theorem State.updTrf_clockLane (s : State) (c : CoreId) (f : Trf → Trf) : (s.updTrf c f).clockLane = s.clockLane := rfl
@[simp] theorem State.updTrf_memCyc (s : State) (c : CoreId) (f : Trf → Trf) : (s.updTrf c f).memCyc = s.memCyc := rfl
@[simp] theorem State.updTrf_portCyc (s : State) (c : CoreId) (f : Trf → Trf) : (s.updTrf c f).portCyc = s.portCyc := rfl
@[simp] theorem State.updTrf_snap (s : State) (c : CoreId) (f : Trf → Trf) : (s.updTrf c f).snap = s.snap := rfl
@[simp] theorem State.updTrf_stopped (s : State) (c : CoreId) (f : Trf → Trf) : (s.updTrf c f).stopped = s.stopped := rfl
@[simp] theorem State.updTrf_fuses (s : State) (c : CoreId) (f : Trf → Trf) : (s.updTrf c f).fuses = s.fuses := rfl
@[simp] theorem State.updTrf_wir (s : State) (c : CoreId) (f : Trf → Trf) : (s.updTrf c f).wir = s.wir := rfl
@[simp] theorem State.updTrf_clocksOff (s : State) (c : CoreId) (f : Trf → Trf) : (s.updTrf c f).clocksOff = s.clocksOff := rfl
@[simp] theorem State.updTrf_draws (s : State) (c : CoreId) (f : Trf → Trf) : (s.updTrf c f).draws = s.draws := rfl
@[simp] theorem State.updTrf_pending (s : State) (c : CoreId) (f : Trf → Trf) : (s.updTrf c f).pending = s.pending := rfl
@[simp] theorem State.reg_updTrf (s : State) (c : CoreId) (f : Trf → Trf) (pg at_ : Nat) : (s.updTrf c f).reg pg at_ = s.reg pg at_ := rfl
@[simp] theorem State.rf_updTrf (s : State) (c : CoreId) (f : Trf → Trf) (pg at_ lo n : Nat) : (s.updTrf c f).rf pg at_ lo n = s.rf pg at_ lo n := rfl

/-! ### `updVxe` -/

@[simp] theorem State.updVxe_regs (s : State) (c : CoreId) (f : Vxe → Vxe) : (s.updVxe c f).regs = s.regs := rfl
@[simp] theorem State.updVxe_mem (s : State) (c : CoreId) (f : Vxe → Vxe) : (s.updVxe c f).mem = s.mem := rfl
@[simp] theorem State.updVxe_links (s : State) (c : CoreId) (f : Vxe → Vxe) : (s.updVxe c f).links = s.links := rfl
@[simp] theorem State.updVxe_csc (s : State) (c : CoreId) (f : Vxe → Vxe) : (s.updVxe c f).csc = s.csc := rfl
@[simp] theorem State.updVxe_cscBuf (s : State) (c : CoreId) (f : Vxe → Vxe) : (s.updVxe c f).cscBuf = s.cscBuf := rfl
@[simp] theorem State.updVxe_cscOp (s : State) (c : CoreId) (f : Vxe → Vxe) : (s.updVxe c f).cscOp = s.cscOp := rfl
@[simp] theorem State.updVxe_txu (s : State) (c : CoreId) (f : Vxe → Vxe) : (s.updVxe c f).txu = s.txu := rfl
@[simp] theorem State.updVxe_evx (s : State) (c : CoreId) (f : Vxe → Vxe) : (s.updVxe c f).evx = s.evx := rfl
@[simp] theorem State.updVxe_rqt (s : State) (c : CoreId) (f : Vxe → Vxe) : (s.updVxe c f).rqt = s.rqt := rfl
@[simp] theorem State.updVxe_ecm (s : State) (c : CoreId) (f : Vxe → Vxe) : (s.updVxe c f).ecm = s.ecm := rfl
@[simp] theorem State.updVxe_ports (s : State) (c : CoreId) (f : Vxe → Vxe) : (s.updVxe c f).ports = s.ports := rfl
@[simp] theorem State.updVxe_inbox (s : State) (c : CoreId) (f : Vxe → Vxe) : (s.updVxe c f).inbox = s.inbox := rfl
@[simp] theorem State.updVxe_groups (s : State) (c : CoreId) (f : Vxe → Vxe) : (s.updVxe c f).groups = s.groups := rfl
@[simp] theorem State.updVxe_posts (s : State) (c : CoreId) (f : Vxe → Vxe) : (s.updVxe c f).posts = s.posts := rfl
@[simp] theorem State.updVxe_heldPosts (s : State) (c : CoreId) (f : Vxe → Vxe) : (s.updVxe c f).heldPosts = s.heldPosts := rfl
@[simp] theorem State.updVxe_ccu (s : State) (c : CoreId) (f : Vxe → Vxe) : (s.updVxe c f).ccu = s.ccu := rfl
@[simp] theorem State.updVxe_bond (s : State) (c : CoreId) (f : Vxe → Vxe) : (s.updVxe c f).bond = s.bond := rfl
@[simp] theorem State.updVxe_laneCe (s : State) (c : CoreId) (f : Vxe → Vxe) : (s.updVxe c f).laneCe = s.laneCe := rfl
@[simp] theorem State.updVxe_clockLane (s : State) (c : CoreId) (f : Vxe → Vxe) : (s.updVxe c f).clockLane = s.clockLane := rfl
@[simp] theorem State.updVxe_memCyc (s : State) (c : CoreId) (f : Vxe → Vxe) : (s.updVxe c f).memCyc = s.memCyc := rfl
@[simp] theorem State.updVxe_portCyc (s : State) (c : CoreId) (f : Vxe → Vxe) : (s.updVxe c f).portCyc = s.portCyc := rfl
@[simp] theorem State.updVxe_snap (s : State) (c : CoreId) (f : Vxe → Vxe) : (s.updVxe c f).snap = s.snap := rfl
@[simp] theorem State.updVxe_stopped (s : State) (c : CoreId) (f : Vxe → Vxe) : (s.updVxe c f).stopped = s.stopped := rfl
@[simp] theorem State.updVxe_fuses (s : State) (c : CoreId) (f : Vxe → Vxe) : (s.updVxe c f).fuses = s.fuses := rfl
@[simp] theorem State.updVxe_wir (s : State) (c : CoreId) (f : Vxe → Vxe) : (s.updVxe c f).wir = s.wir := rfl
@[simp] theorem State.updVxe_clocksOff (s : State) (c : CoreId) (f : Vxe → Vxe) : (s.updVxe c f).clocksOff = s.clocksOff := rfl
@[simp] theorem State.updVxe_draws (s : State) (c : CoreId) (f : Vxe → Vxe) : (s.updVxe c f).draws = s.draws := rfl
@[simp] theorem State.updVxe_pending (s : State) (c : CoreId) (f : Vxe → Vxe) : (s.updVxe c f).pending = s.pending := rfl
@[simp] theorem State.reg_updVxe (s : State) (c : CoreId) (f : Vxe → Vxe) (pg at_ : Nat) : (s.updVxe c f).reg pg at_ = s.reg pg at_ := rfl
@[simp] theorem State.rf_updVxe (s : State) (c : CoreId) (f : Vxe → Vxe) (pg at_ lo n : Nat) : (s.updVxe c f).rf pg at_ lo n = s.rf pg at_ lo n := rfl

/-! ### `updStr` -/

@[simp] theorem State.updStr_regs (s : State) (c : CoreId) (f : Str → Str) : (s.updStr c f).regs = s.regs := rfl
@[simp] theorem State.updStr_mem (s : State) (c : CoreId) (f : Str → Str) : (s.updStr c f).mem = s.mem := rfl
@[simp] theorem State.updStr_links (s : State) (c : CoreId) (f : Str → Str) : (s.updStr c f).links = s.links := rfl
@[simp] theorem State.updStr_csc (s : State) (c : CoreId) (f : Str → Str) : (s.updStr c f).csc = s.csc := rfl
@[simp] theorem State.updStr_cscBuf (s : State) (c : CoreId) (f : Str → Str) : (s.updStr c f).cscBuf = s.cscBuf := rfl
@[simp] theorem State.updStr_cscOp (s : State) (c : CoreId) (f : Str → Str) : (s.updStr c f).cscOp = s.cscOp := rfl
@[simp] theorem State.updStr_txu (s : State) (c : CoreId) (f : Str → Str) : (s.updStr c f).txu = s.txu := rfl
@[simp] theorem State.updStr_evx (s : State) (c : CoreId) (f : Str → Str) : (s.updStr c f).evx = s.evx := rfl
@[simp] theorem State.updStr_rqt (s : State) (c : CoreId) (f : Str → Str) : (s.updStr c f).rqt = s.rqt := rfl
@[simp] theorem State.updStr_ecm (s : State) (c : CoreId) (f : Str → Str) : (s.updStr c f).ecm = s.ecm := rfl
@[simp] theorem State.updStr_ports (s : State) (c : CoreId) (f : Str → Str) : (s.updStr c f).ports = s.ports := rfl
@[simp] theorem State.updStr_inbox (s : State) (c : CoreId) (f : Str → Str) : (s.updStr c f).inbox = s.inbox := rfl
@[simp] theorem State.updStr_groups (s : State) (c : CoreId) (f : Str → Str) : (s.updStr c f).groups = s.groups := rfl
@[simp] theorem State.updStr_posts (s : State) (c : CoreId) (f : Str → Str) : (s.updStr c f).posts = s.posts := rfl
@[simp] theorem State.updStr_heldPosts (s : State) (c : CoreId) (f : Str → Str) : (s.updStr c f).heldPosts = s.heldPosts := rfl
@[simp] theorem State.updStr_ccu (s : State) (c : CoreId) (f : Str → Str) : (s.updStr c f).ccu = s.ccu := rfl
@[simp] theorem State.updStr_bond (s : State) (c : CoreId) (f : Str → Str) : (s.updStr c f).bond = s.bond := rfl
@[simp] theorem State.updStr_laneCe (s : State) (c : CoreId) (f : Str → Str) : (s.updStr c f).laneCe = s.laneCe := rfl
@[simp] theorem State.updStr_clockLane (s : State) (c : CoreId) (f : Str → Str) : (s.updStr c f).clockLane = s.clockLane := rfl
@[simp] theorem State.updStr_memCyc (s : State) (c : CoreId) (f : Str → Str) : (s.updStr c f).memCyc = s.memCyc := rfl
@[simp] theorem State.updStr_portCyc (s : State) (c : CoreId) (f : Str → Str) : (s.updStr c f).portCyc = s.portCyc := rfl
@[simp] theorem State.updStr_snap (s : State) (c : CoreId) (f : Str → Str) : (s.updStr c f).snap = s.snap := rfl
@[simp] theorem State.updStr_stopped (s : State) (c : CoreId) (f : Str → Str) : (s.updStr c f).stopped = s.stopped := rfl
@[simp] theorem State.updStr_fuses (s : State) (c : CoreId) (f : Str → Str) : (s.updStr c f).fuses = s.fuses := rfl
@[simp] theorem State.updStr_wir (s : State) (c : CoreId) (f : Str → Str) : (s.updStr c f).wir = s.wir := rfl
@[simp] theorem State.updStr_clocksOff (s : State) (c : CoreId) (f : Str → Str) : (s.updStr c f).clocksOff = s.clocksOff := rfl
@[simp] theorem State.updStr_draws (s : State) (c : CoreId) (f : Str → Str) : (s.updStr c f).draws = s.draws := rfl
@[simp] theorem State.updStr_pending (s : State) (c : CoreId) (f : Str → Str) : (s.updStr c f).pending = s.pending := rfl
@[simp] theorem State.reg_updStr (s : State) (c : CoreId) (f : Str → Str) (pg at_ : Nat) : (s.updStr c f).reg pg at_ = s.reg pg at_ := rfl
@[simp] theorem State.rf_updStr (s : State) (c : CoreId) (f : Str → Str) (pg at_ lo n : Nat) : (s.updStr c f).rf pg at_ lo n = s.rf pg at_ lo n := rfl

/-! ### `updUnit` -/

@[simp] theorem State.updUnit_regs (s : State) (c : CoreId) (u : UnitId) (f : StrUnit → StrUnit) : (s.updUnit c u f).regs = s.regs := rfl
@[simp] theorem State.updUnit_mem (s : State) (c : CoreId) (u : UnitId) (f : StrUnit → StrUnit) : (s.updUnit c u f).mem = s.mem := rfl
@[simp] theorem State.updUnit_links (s : State) (c : CoreId) (u : UnitId) (f : StrUnit → StrUnit) : (s.updUnit c u f).links = s.links := rfl
@[simp] theorem State.updUnit_csc (s : State) (c : CoreId) (u : UnitId) (f : StrUnit → StrUnit) : (s.updUnit c u f).csc = s.csc := rfl
@[simp] theorem State.updUnit_cscBuf (s : State) (c : CoreId) (u : UnitId) (f : StrUnit → StrUnit) : (s.updUnit c u f).cscBuf = s.cscBuf := rfl
@[simp] theorem State.updUnit_cscOp (s : State) (c : CoreId) (u : UnitId) (f : StrUnit → StrUnit) : (s.updUnit c u f).cscOp = s.cscOp := rfl
@[simp] theorem State.updUnit_txu (s : State) (c : CoreId) (u : UnitId) (f : StrUnit → StrUnit) : (s.updUnit c u f).txu = s.txu := rfl
@[simp] theorem State.updUnit_evx (s : State) (c : CoreId) (u : UnitId) (f : StrUnit → StrUnit) : (s.updUnit c u f).evx = s.evx := rfl
@[simp] theorem State.updUnit_rqt (s : State) (c : CoreId) (u : UnitId) (f : StrUnit → StrUnit) : (s.updUnit c u f).rqt = s.rqt := rfl
@[simp] theorem State.updUnit_ecm (s : State) (c : CoreId) (u : UnitId) (f : StrUnit → StrUnit) : (s.updUnit c u f).ecm = s.ecm := rfl
@[simp] theorem State.updUnit_ports (s : State) (c : CoreId) (u : UnitId) (f : StrUnit → StrUnit) : (s.updUnit c u f).ports = s.ports := rfl
@[simp] theorem State.updUnit_inbox (s : State) (c : CoreId) (u : UnitId) (f : StrUnit → StrUnit) : (s.updUnit c u f).inbox = s.inbox := rfl
@[simp] theorem State.updUnit_groups (s : State) (c : CoreId) (u : UnitId) (f : StrUnit → StrUnit) : (s.updUnit c u f).groups = s.groups := rfl
@[simp] theorem State.updUnit_posts (s : State) (c : CoreId) (u : UnitId) (f : StrUnit → StrUnit) : (s.updUnit c u f).posts = s.posts := rfl
@[simp] theorem State.updUnit_heldPosts (s : State) (c : CoreId) (u : UnitId) (f : StrUnit → StrUnit) : (s.updUnit c u f).heldPosts = s.heldPosts := rfl
@[simp] theorem State.updUnit_ccu (s : State) (c : CoreId) (u : UnitId) (f : StrUnit → StrUnit) : (s.updUnit c u f).ccu = s.ccu := rfl
@[simp] theorem State.updUnit_bond (s : State) (c : CoreId) (u : UnitId) (f : StrUnit → StrUnit) : (s.updUnit c u f).bond = s.bond := rfl
@[simp] theorem State.updUnit_laneCe (s : State) (c : CoreId) (u : UnitId) (f : StrUnit → StrUnit) : (s.updUnit c u f).laneCe = s.laneCe := rfl
@[simp] theorem State.updUnit_clockLane (s : State) (c : CoreId) (u : UnitId) (f : StrUnit → StrUnit) : (s.updUnit c u f).clockLane = s.clockLane := rfl
@[simp] theorem State.updUnit_memCyc (s : State) (c : CoreId) (u : UnitId) (f : StrUnit → StrUnit) : (s.updUnit c u f).memCyc = s.memCyc := rfl
@[simp] theorem State.updUnit_portCyc (s : State) (c : CoreId) (u : UnitId) (f : StrUnit → StrUnit) : (s.updUnit c u f).portCyc = s.portCyc := rfl
@[simp] theorem State.updUnit_snap (s : State) (c : CoreId) (u : UnitId) (f : StrUnit → StrUnit) : (s.updUnit c u f).snap = s.snap := rfl
@[simp] theorem State.updUnit_stopped (s : State) (c : CoreId) (u : UnitId) (f : StrUnit → StrUnit) : (s.updUnit c u f).stopped = s.stopped := rfl
@[simp] theorem State.updUnit_fuses (s : State) (c : CoreId) (u : UnitId) (f : StrUnit → StrUnit) : (s.updUnit c u f).fuses = s.fuses := rfl
@[simp] theorem State.updUnit_wir (s : State) (c : CoreId) (u : UnitId) (f : StrUnit → StrUnit) : (s.updUnit c u f).wir = s.wir := rfl
@[simp] theorem State.updUnit_clocksOff (s : State) (c : CoreId) (u : UnitId) (f : StrUnit → StrUnit) : (s.updUnit c u f).clocksOff = s.clocksOff := rfl
@[simp] theorem State.updUnit_draws (s : State) (c : CoreId) (u : UnitId) (f : StrUnit → StrUnit) : (s.updUnit c u f).draws = s.draws := rfl
@[simp] theorem State.updUnit_pending (s : State) (c : CoreId) (u : UnitId) (f : StrUnit → StrUnit) : (s.updUnit c u f).pending = s.pending := rfl
@[simp] theorem State.reg_updUnit (s : State) (c : CoreId) (u : UnitId) (f : StrUnit → StrUnit) (pg at_ : Nat) : (s.updUnit c u f).reg pg at_ = s.reg pg at_ := rfl
@[simp] theorem State.rf_updUnit (s : State) (c : CoreId) (u : UnitId) (f : StrUnit → StrUnit) (pg at_ lo n : Nat) : (s.updUnit c u f).rf pg at_ lo n = s.rf pg at_ lo n := rfl

/-! ### `updCch` -/

@[simp] theorem State.updCch_regs (s : State) (c : CoreId) (f : Cch → Cch) : (s.updCch c f).regs = s.regs := rfl
@[simp] theorem State.updCch_mem (s : State) (c : CoreId) (f : Cch → Cch) : (s.updCch c f).mem = s.mem := rfl
@[simp] theorem State.updCch_links (s : State) (c : CoreId) (f : Cch → Cch) : (s.updCch c f).links = s.links := rfl
@[simp] theorem State.updCch_csc (s : State) (c : CoreId) (f : Cch → Cch) : (s.updCch c f).csc = s.csc := rfl
@[simp] theorem State.updCch_cscBuf (s : State) (c : CoreId) (f : Cch → Cch) : (s.updCch c f).cscBuf = s.cscBuf := rfl
@[simp] theorem State.updCch_cscOp (s : State) (c : CoreId) (f : Cch → Cch) : (s.updCch c f).cscOp = s.cscOp := rfl
@[simp] theorem State.updCch_txu (s : State) (c : CoreId) (f : Cch → Cch) : (s.updCch c f).txu = s.txu := rfl
@[simp] theorem State.updCch_evx (s : State) (c : CoreId) (f : Cch → Cch) : (s.updCch c f).evx = s.evx := rfl
@[simp] theorem State.updCch_rqt (s : State) (c : CoreId) (f : Cch → Cch) : (s.updCch c f).rqt = s.rqt := rfl
@[simp] theorem State.updCch_ecm (s : State) (c : CoreId) (f : Cch → Cch) : (s.updCch c f).ecm = s.ecm := rfl
@[simp] theorem State.updCch_ports (s : State) (c : CoreId) (f : Cch → Cch) : (s.updCch c f).ports = s.ports := rfl
@[simp] theorem State.updCch_inbox (s : State) (c : CoreId) (f : Cch → Cch) : (s.updCch c f).inbox = s.inbox := rfl
@[simp] theorem State.updCch_groups (s : State) (c : CoreId) (f : Cch → Cch) : (s.updCch c f).groups = s.groups := rfl
@[simp] theorem State.updCch_posts (s : State) (c : CoreId) (f : Cch → Cch) : (s.updCch c f).posts = s.posts := rfl
@[simp] theorem State.updCch_heldPosts (s : State) (c : CoreId) (f : Cch → Cch) : (s.updCch c f).heldPosts = s.heldPosts := rfl
@[simp] theorem State.updCch_ccu (s : State) (c : CoreId) (f : Cch → Cch) : (s.updCch c f).ccu = s.ccu := rfl
@[simp] theorem State.updCch_bond (s : State) (c : CoreId) (f : Cch → Cch) : (s.updCch c f).bond = s.bond := rfl
@[simp] theorem State.updCch_laneCe (s : State) (c : CoreId) (f : Cch → Cch) : (s.updCch c f).laneCe = s.laneCe := rfl
@[simp] theorem State.updCch_clockLane (s : State) (c : CoreId) (f : Cch → Cch) : (s.updCch c f).clockLane = s.clockLane := rfl
@[simp] theorem State.updCch_memCyc (s : State) (c : CoreId) (f : Cch → Cch) : (s.updCch c f).memCyc = s.memCyc := rfl
@[simp] theorem State.updCch_portCyc (s : State) (c : CoreId) (f : Cch → Cch) : (s.updCch c f).portCyc = s.portCyc := rfl
@[simp] theorem State.updCch_snap (s : State) (c : CoreId) (f : Cch → Cch) : (s.updCch c f).snap = s.snap := rfl
@[simp] theorem State.updCch_stopped (s : State) (c : CoreId) (f : Cch → Cch) : (s.updCch c f).stopped = s.stopped := rfl
@[simp] theorem State.updCch_fuses (s : State) (c : CoreId) (f : Cch → Cch) : (s.updCch c f).fuses = s.fuses := rfl
@[simp] theorem State.updCch_wir (s : State) (c : CoreId) (f : Cch → Cch) : (s.updCch c f).wir = s.wir := rfl
@[simp] theorem State.updCch_clocksOff (s : State) (c : CoreId) (f : Cch → Cch) : (s.updCch c f).clocksOff = s.clocksOff := rfl
@[simp] theorem State.updCch_draws (s : State) (c : CoreId) (f : Cch → Cch) : (s.updCch c f).draws = s.draws := rfl
@[simp] theorem State.updCch_pending (s : State) (c : CoreId) (f : Cch → Cch) : (s.updCch c f).pending = s.pending := rfl
@[simp] theorem State.reg_updCch (s : State) (c : CoreId) (f : Cch → Cch) (pg at_ : Nat) : (s.updCch c f).reg pg at_ = s.reg pg at_ := rfl
@[simp] theorem State.rf_updCch (s : State) (c : CoreId) (f : Cch → Cch) (pg at_ lo n : Nat) : (s.updCch c f).rf pg at_ lo n = s.rf pg at_ lo n := rfl

/-! ### `updChn` -/

@[simp] theorem State.updChn_regs (s : State) (c : CoreId) (f : Chn → Chn) : (s.updChn c f).regs = s.regs := rfl
@[simp] theorem State.updChn_mem (s : State) (c : CoreId) (f : Chn → Chn) : (s.updChn c f).mem = s.mem := rfl
@[simp] theorem State.updChn_links (s : State) (c : CoreId) (f : Chn → Chn) : (s.updChn c f).links = s.links := rfl
@[simp] theorem State.updChn_csc (s : State) (c : CoreId) (f : Chn → Chn) : (s.updChn c f).csc = s.csc := rfl
@[simp] theorem State.updChn_cscBuf (s : State) (c : CoreId) (f : Chn → Chn) : (s.updChn c f).cscBuf = s.cscBuf := rfl
@[simp] theorem State.updChn_cscOp (s : State) (c : CoreId) (f : Chn → Chn) : (s.updChn c f).cscOp = s.cscOp := rfl
@[simp] theorem State.updChn_txu (s : State) (c : CoreId) (f : Chn → Chn) : (s.updChn c f).txu = s.txu := rfl
@[simp] theorem State.updChn_evx (s : State) (c : CoreId) (f : Chn → Chn) : (s.updChn c f).evx = s.evx := rfl
@[simp] theorem State.updChn_rqt (s : State) (c : CoreId) (f : Chn → Chn) : (s.updChn c f).rqt = s.rqt := rfl
@[simp] theorem State.updChn_ecm (s : State) (c : CoreId) (f : Chn → Chn) : (s.updChn c f).ecm = s.ecm := rfl
@[simp] theorem State.updChn_ports (s : State) (c : CoreId) (f : Chn → Chn) : (s.updChn c f).ports = s.ports := rfl
@[simp] theorem State.updChn_inbox (s : State) (c : CoreId) (f : Chn → Chn) : (s.updChn c f).inbox = s.inbox := rfl
@[simp] theorem State.updChn_groups (s : State) (c : CoreId) (f : Chn → Chn) : (s.updChn c f).groups = s.groups := rfl
@[simp] theorem State.updChn_posts (s : State) (c : CoreId) (f : Chn → Chn) : (s.updChn c f).posts = s.posts := rfl
@[simp] theorem State.updChn_heldPosts (s : State) (c : CoreId) (f : Chn → Chn) : (s.updChn c f).heldPosts = s.heldPosts := rfl
@[simp] theorem State.updChn_ccu (s : State) (c : CoreId) (f : Chn → Chn) : (s.updChn c f).ccu = s.ccu := rfl
@[simp] theorem State.updChn_bond (s : State) (c : CoreId) (f : Chn → Chn) : (s.updChn c f).bond = s.bond := rfl
@[simp] theorem State.updChn_laneCe (s : State) (c : CoreId) (f : Chn → Chn) : (s.updChn c f).laneCe = s.laneCe := rfl
@[simp] theorem State.updChn_clockLane (s : State) (c : CoreId) (f : Chn → Chn) : (s.updChn c f).clockLane = s.clockLane := rfl
@[simp] theorem State.updChn_memCyc (s : State) (c : CoreId) (f : Chn → Chn) : (s.updChn c f).memCyc = s.memCyc := rfl
@[simp] theorem State.updChn_portCyc (s : State) (c : CoreId) (f : Chn → Chn) : (s.updChn c f).portCyc = s.portCyc := rfl
@[simp] theorem State.updChn_snap (s : State) (c : CoreId) (f : Chn → Chn) : (s.updChn c f).snap = s.snap := rfl
@[simp] theorem State.updChn_stopped (s : State) (c : CoreId) (f : Chn → Chn) : (s.updChn c f).stopped = s.stopped := rfl
@[simp] theorem State.updChn_fuses (s : State) (c : CoreId) (f : Chn → Chn) : (s.updChn c f).fuses = s.fuses := rfl
@[simp] theorem State.updChn_wir (s : State) (c : CoreId) (f : Chn → Chn) : (s.updChn c f).wir = s.wir := rfl
@[simp] theorem State.updChn_clocksOff (s : State) (c : CoreId) (f : Chn → Chn) : (s.updChn c f).clocksOff = s.clocksOff := rfl
@[simp] theorem State.updChn_draws (s : State) (c : CoreId) (f : Chn → Chn) : (s.updChn c f).draws = s.draws := rfl
@[simp] theorem State.updChn_pending (s : State) (c : CoreId) (f : Chn → Chn) : (s.updChn c f).pending = s.pending := rfl
@[simp] theorem State.reg_updChn (s : State) (c : CoreId) (f : Chn → Chn) (pg at_ : Nat) : (s.updChn c f).reg pg at_ = s.reg pg at_ := rfl
@[simp] theorem State.rf_updChn (s : State) (c : CoreId) (f : Chn → Chn) (pg at_ lo n : Nat) : (s.updChn c f).rf pg at_ lo n = s.rf pg at_ lo n := rfl

/-! ### `updCcu` -/

@[simp] theorem State.updCcu_regs (s : State) (f : Ccu → Ccu) : (s.updCcu f).regs = s.regs := rfl
@[simp] theorem State.updCcu_mem (s : State) (f : Ccu → Ccu) : (s.updCcu f).mem = s.mem := rfl
@[simp] theorem State.updCcu_cores (s : State) (f : Ccu → Ccu) : (s.updCcu f).cores = s.cores := rfl
@[simp] theorem State.updCcu_links (s : State) (f : Ccu → Ccu) : (s.updCcu f).links = s.links := rfl
@[simp] theorem State.updCcu_csc (s : State) (f : Ccu → Ccu) : (s.updCcu f).csc = s.csc := rfl
@[simp] theorem State.updCcu_cscBuf (s : State) (f : Ccu → Ccu) : (s.updCcu f).cscBuf = s.cscBuf := rfl
@[simp] theorem State.updCcu_cscOp (s : State) (f : Ccu → Ccu) : (s.updCcu f).cscOp = s.cscOp := rfl
@[simp] theorem State.updCcu_txu (s : State) (f : Ccu → Ccu) : (s.updCcu f).txu = s.txu := rfl
@[simp] theorem State.updCcu_evx (s : State) (f : Ccu → Ccu) : (s.updCcu f).evx = s.evx := rfl
@[simp] theorem State.updCcu_rqt (s : State) (f : Ccu → Ccu) : (s.updCcu f).rqt = s.rqt := rfl
@[simp] theorem State.updCcu_ecm (s : State) (f : Ccu → Ccu) : (s.updCcu f).ecm = s.ecm := rfl
@[simp] theorem State.updCcu_ports (s : State) (f : Ccu → Ccu) : (s.updCcu f).ports = s.ports := rfl
@[simp] theorem State.updCcu_inbox (s : State) (f : Ccu → Ccu) : (s.updCcu f).inbox = s.inbox := rfl
@[simp] theorem State.updCcu_groups (s : State) (f : Ccu → Ccu) : (s.updCcu f).groups = s.groups := rfl
@[simp] theorem State.updCcu_posts (s : State) (f : Ccu → Ccu) : (s.updCcu f).posts = s.posts := rfl
@[simp] theorem State.updCcu_heldPosts (s : State) (f : Ccu → Ccu) : (s.updCcu f).heldPosts = s.heldPosts := rfl
@[simp] theorem State.updCcu_bond (s : State) (f : Ccu → Ccu) : (s.updCcu f).bond = s.bond := rfl
@[simp] theorem State.updCcu_laneCe (s : State) (f : Ccu → Ccu) : (s.updCcu f).laneCe = s.laneCe := rfl
@[simp] theorem State.updCcu_clockLane (s : State) (f : Ccu → Ccu) : (s.updCcu f).clockLane = s.clockLane := rfl
@[simp] theorem State.updCcu_memCyc (s : State) (f : Ccu → Ccu) : (s.updCcu f).memCyc = s.memCyc := rfl
@[simp] theorem State.updCcu_portCyc (s : State) (f : Ccu → Ccu) : (s.updCcu f).portCyc = s.portCyc := rfl
@[simp] theorem State.updCcu_snap (s : State) (f : Ccu → Ccu) : (s.updCcu f).snap = s.snap := rfl
@[simp] theorem State.updCcu_stopped (s : State) (f : Ccu → Ccu) : (s.updCcu f).stopped = s.stopped := rfl
@[simp] theorem State.updCcu_fuses (s : State) (f : Ccu → Ccu) : (s.updCcu f).fuses = s.fuses := rfl
@[simp] theorem State.updCcu_wir (s : State) (f : Ccu → Ccu) : (s.updCcu f).wir = s.wir := rfl
@[simp] theorem State.updCcu_clocksOff (s : State) (f : Ccu → Ccu) : (s.updCcu f).clocksOff = s.clocksOff := rfl
@[simp] theorem State.updCcu_draws (s : State) (f : Ccu → Ccu) : (s.updCcu f).draws = s.draws := rfl
@[simp] theorem State.updCcu_pending (s : State) (f : Ccu → Ccu) : (s.updCcu f).pending = s.pending := rfl
@[simp] theorem State.core_updCcu (s : State) (f : Ccu → Ccu) (d : CoreId) : (s.updCcu f).core d = s.core d := rfl
@[simp] theorem State.reg_updCcu (s : State) (f : Ccu → Ccu) (pg at_ : Nat) : (s.updCcu f).reg pg at_ = s.reg pg at_ := rfl
@[simp] theorem State.rf_updCcu (s : State) (f : Ccu → Ccu) (pg at_ lo n : Nat) : (s.updCcu f).rf pg at_ lo n = s.rf pg at_ lo n := rfl

/-! ### `updPort` -/

@[simp] theorem State.updPort_regs (s : State) (p : PortId) (f : Port → Port) : (s.updPort p f).regs = s.regs := rfl
@[simp] theorem State.updPort_mem (s : State) (p : PortId) (f : Port → Port) : (s.updPort p f).mem = s.mem := rfl
@[simp] theorem State.updPort_cores (s : State) (p : PortId) (f : Port → Port) : (s.updPort p f).cores = s.cores := rfl
@[simp] theorem State.updPort_links (s : State) (p : PortId) (f : Port → Port) : (s.updPort p f).links = s.links := rfl
@[simp] theorem State.updPort_csc (s : State) (p : PortId) (f : Port → Port) : (s.updPort p f).csc = s.csc := rfl
@[simp] theorem State.updPort_cscBuf (s : State) (p : PortId) (f : Port → Port) : (s.updPort p f).cscBuf = s.cscBuf := rfl
@[simp] theorem State.updPort_cscOp (s : State) (p : PortId) (f : Port → Port) : (s.updPort p f).cscOp = s.cscOp := rfl
@[simp] theorem State.updPort_txu (s : State) (p : PortId) (f : Port → Port) : (s.updPort p f).txu = s.txu := rfl
@[simp] theorem State.updPort_evx (s : State) (p : PortId) (f : Port → Port) : (s.updPort p f).evx = s.evx := rfl
@[simp] theorem State.updPort_rqt (s : State) (p : PortId) (f : Port → Port) : (s.updPort p f).rqt = s.rqt := rfl
@[simp] theorem State.updPort_ecm (s : State) (p : PortId) (f : Port → Port) : (s.updPort p f).ecm = s.ecm := rfl
@[simp] theorem State.updPort_inbox (s : State) (p : PortId) (f : Port → Port) : (s.updPort p f).inbox = s.inbox := rfl
@[simp] theorem State.updPort_groups (s : State) (p : PortId) (f : Port → Port) : (s.updPort p f).groups = s.groups := rfl
@[simp] theorem State.updPort_posts (s : State) (p : PortId) (f : Port → Port) : (s.updPort p f).posts = s.posts := rfl
@[simp] theorem State.updPort_heldPosts (s : State) (p : PortId) (f : Port → Port) : (s.updPort p f).heldPosts = s.heldPosts := rfl
@[simp] theorem State.updPort_ccu (s : State) (p : PortId) (f : Port → Port) : (s.updPort p f).ccu = s.ccu := rfl
@[simp] theorem State.updPort_bond (s : State) (p : PortId) (f : Port → Port) : (s.updPort p f).bond = s.bond := rfl
@[simp] theorem State.updPort_laneCe (s : State) (p : PortId) (f : Port → Port) : (s.updPort p f).laneCe = s.laneCe := rfl
@[simp] theorem State.updPort_clockLane (s : State) (p : PortId) (f : Port → Port) : (s.updPort p f).clockLane = s.clockLane := rfl
@[simp] theorem State.updPort_memCyc (s : State) (p : PortId) (f : Port → Port) : (s.updPort p f).memCyc = s.memCyc := rfl
@[simp] theorem State.updPort_portCyc (s : State) (p : PortId) (f : Port → Port) : (s.updPort p f).portCyc = s.portCyc := rfl
@[simp] theorem State.updPort_snap (s : State) (p : PortId) (f : Port → Port) : (s.updPort p f).snap = s.snap := rfl
@[simp] theorem State.updPort_stopped (s : State) (p : PortId) (f : Port → Port) : (s.updPort p f).stopped = s.stopped := rfl
@[simp] theorem State.updPort_fuses (s : State) (p : PortId) (f : Port → Port) : (s.updPort p f).fuses = s.fuses := rfl
@[simp] theorem State.updPort_wir (s : State) (p : PortId) (f : Port → Port) : (s.updPort p f).wir = s.wir := rfl
@[simp] theorem State.updPort_clocksOff (s : State) (p : PortId) (f : Port → Port) : (s.updPort p f).clocksOff = s.clocksOff := rfl
@[simp] theorem State.updPort_draws (s : State) (p : PortId) (f : Port → Port) : (s.updPort p f).draws = s.draws := rfl
@[simp] theorem State.updPort_pending (s : State) (p : PortId) (f : Port → Port) : (s.updPort p f).pending = s.pending := rfl
@[simp] theorem State.core_updPort (s : State) (p : PortId) (f : Port → Port) (d : CoreId) : (s.updPort p f).core d = s.core d := rfl
@[simp] theorem State.reg_updPort (s : State) (p : PortId) (f : Port → Port) (pg at_ : Nat) : (s.updPort p f).reg pg at_ = s.reg pg at_ := rfl
@[simp] theorem State.rf_updPort (s : State) (p : PortId) (f : Port → Port) (pg at_ lo n : Nat) : (s.updPort p f).rf pg at_ lo n = s.rf pg at_ lo n := rfl

/-! ### `tell` -/

@[simp] theorem State.tell_regs (s : State) (c : CoreId) (m : CcuMsg) : (s.tell c m).regs = s.regs := rfl
@[simp] theorem State.tell_mem (s : State) (c : CoreId) (m : CcuMsg) : (s.tell c m).mem = s.mem := rfl
@[simp] theorem State.tell_cores (s : State) (c : CoreId) (m : CcuMsg) : (s.tell c m).cores = s.cores := rfl
@[simp] theorem State.tell_links (s : State) (c : CoreId) (m : CcuMsg) : (s.tell c m).links = s.links := rfl
@[simp] theorem State.tell_csc (s : State) (c : CoreId) (m : CcuMsg) : (s.tell c m).csc = s.csc := rfl
@[simp] theorem State.tell_cscBuf (s : State) (c : CoreId) (m : CcuMsg) : (s.tell c m).cscBuf = s.cscBuf := rfl
@[simp] theorem State.tell_cscOp (s : State) (c : CoreId) (m : CcuMsg) : (s.tell c m).cscOp = s.cscOp := rfl
@[simp] theorem State.tell_txu (s : State) (c : CoreId) (m : CcuMsg) : (s.tell c m).txu = s.txu := rfl
@[simp] theorem State.tell_evx (s : State) (c : CoreId) (m : CcuMsg) : (s.tell c m).evx = s.evx := rfl
@[simp] theorem State.tell_rqt (s : State) (c : CoreId) (m : CcuMsg) : (s.tell c m).rqt = s.rqt := rfl
@[simp] theorem State.tell_ecm (s : State) (c : CoreId) (m : CcuMsg) : (s.tell c m).ecm = s.ecm := rfl
@[simp] theorem State.tell_ports (s : State) (c : CoreId) (m : CcuMsg) : (s.tell c m).ports = s.ports := rfl
@[simp] theorem State.tell_inbox (s : State) (c : CoreId) (m : CcuMsg) : (s.tell c m).inbox = s.inbox := rfl
@[simp] theorem State.tell_groups (s : State) (c : CoreId) (m : CcuMsg) : (s.tell c m).groups = s.groups := rfl
@[simp] theorem State.tell_posts (s : State) (c : CoreId) (m : CcuMsg) : (s.tell c m).posts = s.posts := rfl
@[simp] theorem State.tell_heldPosts (s : State) (c : CoreId) (m : CcuMsg) : (s.tell c m).heldPosts = s.heldPosts := rfl
@[simp] theorem State.tell_bond (s : State) (c : CoreId) (m : CcuMsg) : (s.tell c m).bond = s.bond := rfl
@[simp] theorem State.tell_laneCe (s : State) (c : CoreId) (m : CcuMsg) : (s.tell c m).laneCe = s.laneCe := rfl
@[simp] theorem State.tell_clockLane (s : State) (c : CoreId) (m : CcuMsg) : (s.tell c m).clockLane = s.clockLane := rfl
@[simp] theorem State.tell_memCyc (s : State) (c : CoreId) (m : CcuMsg) : (s.tell c m).memCyc = s.memCyc := rfl
@[simp] theorem State.tell_portCyc (s : State) (c : CoreId) (m : CcuMsg) : (s.tell c m).portCyc = s.portCyc := rfl
@[simp] theorem State.tell_snap (s : State) (c : CoreId) (m : CcuMsg) : (s.tell c m).snap = s.snap := rfl
@[simp] theorem State.tell_stopped (s : State) (c : CoreId) (m : CcuMsg) : (s.tell c m).stopped = s.stopped := rfl
@[simp] theorem State.tell_fuses (s : State) (c : CoreId) (m : CcuMsg) : (s.tell c m).fuses = s.fuses := rfl
@[simp] theorem State.tell_wir (s : State) (c : CoreId) (m : CcuMsg) : (s.tell c m).wir = s.wir := rfl
@[simp] theorem State.tell_clocksOff (s : State) (c : CoreId) (m : CcuMsg) : (s.tell c m).clocksOff = s.clocksOff := rfl
@[simp] theorem State.tell_draws (s : State) (c : CoreId) (m : CcuMsg) : (s.tell c m).draws = s.draws := rfl
@[simp] theorem State.tell_pending (s : State) (c : CoreId) (m : CcuMsg) : (s.tell c m).pending = s.pending := rfl
@[simp] theorem State.core_tell (s : State) (c : CoreId) (m : CcuMsg) (d : CoreId) : (s.tell c m).core d = s.core d := rfl
@[simp] theorem State.reg_tell (s : State) (c : CoreId) (m : CcuMsg) (pg at_ : Nat) : (s.tell c m).reg pg at_ = s.reg pg at_ := rfl
@[simp] theorem State.rf_tell (s : State) (c : CoreId) (m : CcuMsg) (pg at_ lo n : Nat) : (s.tell c m).rf pg at_ lo n = s.rf pg at_ lo n := rfl

/-! ### `answer` -/

@[simp] theorem State.answer_regs (s : State) (c : CoreId) (m : CoreMsg) : (s.answer c m).regs = s.regs := rfl
@[simp] theorem State.answer_mem (s : State) (c : CoreId) (m : CoreMsg) : (s.answer c m).mem = s.mem := rfl
@[simp] theorem State.answer_cores (s : State) (c : CoreId) (m : CoreMsg) : (s.answer c m).cores = s.cores := rfl
@[simp] theorem State.answer_links (s : State) (c : CoreId) (m : CoreMsg) : (s.answer c m).links = s.links := rfl
@[simp] theorem State.answer_csc (s : State) (c : CoreId) (m : CoreMsg) : (s.answer c m).csc = s.csc := rfl
@[simp] theorem State.answer_cscBuf (s : State) (c : CoreId) (m : CoreMsg) : (s.answer c m).cscBuf = s.cscBuf := rfl
@[simp] theorem State.answer_cscOp (s : State) (c : CoreId) (m : CoreMsg) : (s.answer c m).cscOp = s.cscOp := rfl
@[simp] theorem State.answer_txu (s : State) (c : CoreId) (m : CoreMsg) : (s.answer c m).txu = s.txu := rfl
@[simp] theorem State.answer_evx (s : State) (c : CoreId) (m : CoreMsg) : (s.answer c m).evx = s.evx := rfl
@[simp] theorem State.answer_rqt (s : State) (c : CoreId) (m : CoreMsg) : (s.answer c m).rqt = s.rqt := rfl
@[simp] theorem State.answer_ecm (s : State) (c : CoreId) (m : CoreMsg) : (s.answer c m).ecm = s.ecm := rfl
@[simp] theorem State.answer_ports (s : State) (c : CoreId) (m : CoreMsg) : (s.answer c m).ports = s.ports := rfl
@[simp] theorem State.answer_inbox (s : State) (c : CoreId) (m : CoreMsg) : (s.answer c m).inbox = s.inbox := rfl
@[simp] theorem State.answer_groups (s : State) (c : CoreId) (m : CoreMsg) : (s.answer c m).groups = s.groups := rfl
@[simp] theorem State.answer_posts (s : State) (c : CoreId) (m : CoreMsg) : (s.answer c m).posts = s.posts := rfl
@[simp] theorem State.answer_heldPosts (s : State) (c : CoreId) (m : CoreMsg) : (s.answer c m).heldPosts = s.heldPosts := rfl
@[simp] theorem State.answer_bond (s : State) (c : CoreId) (m : CoreMsg) : (s.answer c m).bond = s.bond := rfl
@[simp] theorem State.answer_laneCe (s : State) (c : CoreId) (m : CoreMsg) : (s.answer c m).laneCe = s.laneCe := rfl
@[simp] theorem State.answer_clockLane (s : State) (c : CoreId) (m : CoreMsg) : (s.answer c m).clockLane = s.clockLane := rfl
@[simp] theorem State.answer_memCyc (s : State) (c : CoreId) (m : CoreMsg) : (s.answer c m).memCyc = s.memCyc := rfl
@[simp] theorem State.answer_portCyc (s : State) (c : CoreId) (m : CoreMsg) : (s.answer c m).portCyc = s.portCyc := rfl
@[simp] theorem State.answer_snap (s : State) (c : CoreId) (m : CoreMsg) : (s.answer c m).snap = s.snap := rfl
@[simp] theorem State.answer_stopped (s : State) (c : CoreId) (m : CoreMsg) : (s.answer c m).stopped = s.stopped := rfl
@[simp] theorem State.answer_fuses (s : State) (c : CoreId) (m : CoreMsg) : (s.answer c m).fuses = s.fuses := rfl
@[simp] theorem State.answer_wir (s : State) (c : CoreId) (m : CoreMsg) : (s.answer c m).wir = s.wir := rfl
@[simp] theorem State.answer_clocksOff (s : State) (c : CoreId) (m : CoreMsg) : (s.answer c m).clocksOff = s.clocksOff := rfl
@[simp] theorem State.answer_draws (s : State) (c : CoreId) (m : CoreMsg) : (s.answer c m).draws = s.draws := rfl
@[simp] theorem State.answer_pending (s : State) (c : CoreId) (m : CoreMsg) : (s.answer c m).pending = s.pending := rfl
@[simp] theorem State.core_answer (s : State) (c : CoreId) (m : CoreMsg) (d : CoreId) : (s.answer c m).core d = s.core d := rfl
@[simp] theorem State.reg_answer (s : State) (c : CoreId) (m : CoreMsg) (pg at_ : Nat) : (s.answer c m).reg pg at_ = s.reg pg at_ := rfl
@[simp] theorem State.rf_answer (s : State) (c : CoreId) (m : CoreMsg) (pg at_ lo n : Nat) : (s.answer c m).rf pg at_ lo n = s.rf pg at_ lo n := rfl

/-! ### `setReg` -/

@[simp] theorem State.setReg_mem (s : State) (p o : Nat) (v : Dword) : (s.setReg p o v).mem = s.mem := rfl
@[simp] theorem State.setReg_cores (s : State) (p o : Nat) (v : Dword) : (s.setReg p o v).cores = s.cores := rfl
@[simp] theorem State.setReg_links (s : State) (p o : Nat) (v : Dword) : (s.setReg p o v).links = s.links := rfl
@[simp] theorem State.setReg_csc (s : State) (p o : Nat) (v : Dword) : (s.setReg p o v).csc = s.csc := rfl
@[simp] theorem State.setReg_cscBuf (s : State) (p o : Nat) (v : Dword) : (s.setReg p o v).cscBuf = s.cscBuf := rfl
@[simp] theorem State.setReg_cscOp (s : State) (p o : Nat) (v : Dword) : (s.setReg p o v).cscOp = s.cscOp := rfl
@[simp] theorem State.setReg_txu (s : State) (p o : Nat) (v : Dword) : (s.setReg p o v).txu = s.txu := rfl
@[simp] theorem State.setReg_evx (s : State) (p o : Nat) (v : Dword) : (s.setReg p o v).evx = s.evx := rfl
@[simp] theorem State.setReg_rqt (s : State) (p o : Nat) (v : Dword) : (s.setReg p o v).rqt = s.rqt := rfl
@[simp] theorem State.setReg_ecm (s : State) (p o : Nat) (v : Dword) : (s.setReg p o v).ecm = s.ecm := rfl
@[simp] theorem State.setReg_ports (s : State) (p o : Nat) (v : Dword) : (s.setReg p o v).ports = s.ports := rfl
@[simp] theorem State.setReg_inbox (s : State) (p o : Nat) (v : Dword) : (s.setReg p o v).inbox = s.inbox := rfl
@[simp] theorem State.setReg_groups (s : State) (p o : Nat) (v : Dword) : (s.setReg p o v).groups = s.groups := rfl
@[simp] theorem State.setReg_posts (s : State) (p o : Nat) (v : Dword) : (s.setReg p o v).posts = s.posts := rfl
@[simp] theorem State.setReg_heldPosts (s : State) (p o : Nat) (v : Dword) : (s.setReg p o v).heldPosts = s.heldPosts := rfl
@[simp] theorem State.setReg_ccu (s : State) (p o : Nat) (v : Dword) : (s.setReg p o v).ccu = s.ccu := rfl
@[simp] theorem State.setReg_bond (s : State) (p o : Nat) (v : Dword) : (s.setReg p o v).bond = s.bond := rfl
@[simp] theorem State.setReg_laneCe (s : State) (p o : Nat) (v : Dword) : (s.setReg p o v).laneCe = s.laneCe := rfl
@[simp] theorem State.setReg_clockLane (s : State) (p o : Nat) (v : Dword) : (s.setReg p o v).clockLane = s.clockLane := rfl
@[simp] theorem State.setReg_memCyc (s : State) (p o : Nat) (v : Dword) : (s.setReg p o v).memCyc = s.memCyc := rfl
@[simp] theorem State.setReg_portCyc (s : State) (p o : Nat) (v : Dword) : (s.setReg p o v).portCyc = s.portCyc := rfl
@[simp] theorem State.setReg_snap (s : State) (p o : Nat) (v : Dword) : (s.setReg p o v).snap = s.snap := rfl
@[simp] theorem State.setReg_stopped (s : State) (p o : Nat) (v : Dword) : (s.setReg p o v).stopped = s.stopped := rfl
@[simp] theorem State.setReg_fuses (s : State) (p o : Nat) (v : Dword) : (s.setReg p o v).fuses = s.fuses := rfl
@[simp] theorem State.setReg_wir (s : State) (p o : Nat) (v : Dword) : (s.setReg p o v).wir = s.wir := rfl
@[simp] theorem State.setReg_clocksOff (s : State) (p o : Nat) (v : Dword) : (s.setReg p o v).clocksOff = s.clocksOff := rfl
@[simp] theorem State.setReg_draws (s : State) (p o : Nat) (v : Dword) : (s.setReg p o v).draws = s.draws := rfl
@[simp] theorem State.setReg_pending (s : State) (p o : Nat) (v : Dword) : (s.setReg p o v).pending = s.pending := rfl
@[simp] theorem State.core_setReg (s : State) (p o : Nat) (v : Dword) (d : CoreId) : (s.setReg p o v).core d = s.core d := rfl

/-! ### `modReg` -/

@[simp] theorem State.modReg_mem (s : State) (p o : Nat) (f : Dword → Dword) : (s.modReg p o f).mem = s.mem := rfl
@[simp] theorem State.modReg_cores (s : State) (p o : Nat) (f : Dword → Dword) : (s.modReg p o f).cores = s.cores := rfl
@[simp] theorem State.modReg_links (s : State) (p o : Nat) (f : Dword → Dword) : (s.modReg p o f).links = s.links := rfl
@[simp] theorem State.modReg_csc (s : State) (p o : Nat) (f : Dword → Dword) : (s.modReg p o f).csc = s.csc := rfl
@[simp] theorem State.modReg_cscBuf (s : State) (p o : Nat) (f : Dword → Dword) : (s.modReg p o f).cscBuf = s.cscBuf := rfl
@[simp] theorem State.modReg_cscOp (s : State) (p o : Nat) (f : Dword → Dword) : (s.modReg p o f).cscOp = s.cscOp := rfl
@[simp] theorem State.modReg_txu (s : State) (p o : Nat) (f : Dword → Dword) : (s.modReg p o f).txu = s.txu := rfl
@[simp] theorem State.modReg_evx (s : State) (p o : Nat) (f : Dword → Dword) : (s.modReg p o f).evx = s.evx := rfl
@[simp] theorem State.modReg_rqt (s : State) (p o : Nat) (f : Dword → Dword) : (s.modReg p o f).rqt = s.rqt := rfl
@[simp] theorem State.modReg_ecm (s : State) (p o : Nat) (f : Dword → Dword) : (s.modReg p o f).ecm = s.ecm := rfl
@[simp] theorem State.modReg_ports (s : State) (p o : Nat) (f : Dword → Dword) : (s.modReg p o f).ports = s.ports := rfl
@[simp] theorem State.modReg_inbox (s : State) (p o : Nat) (f : Dword → Dword) : (s.modReg p o f).inbox = s.inbox := rfl
@[simp] theorem State.modReg_groups (s : State) (p o : Nat) (f : Dword → Dword) : (s.modReg p o f).groups = s.groups := rfl
@[simp] theorem State.modReg_posts (s : State) (p o : Nat) (f : Dword → Dword) : (s.modReg p o f).posts = s.posts := rfl
@[simp] theorem State.modReg_heldPosts (s : State) (p o : Nat) (f : Dword → Dword) : (s.modReg p o f).heldPosts = s.heldPosts := rfl
@[simp] theorem State.modReg_ccu (s : State) (p o : Nat) (f : Dword → Dword) : (s.modReg p o f).ccu = s.ccu := rfl
@[simp] theorem State.modReg_bond (s : State) (p o : Nat) (f : Dword → Dword) : (s.modReg p o f).bond = s.bond := rfl
@[simp] theorem State.modReg_laneCe (s : State) (p o : Nat) (f : Dword → Dword) : (s.modReg p o f).laneCe = s.laneCe := rfl
@[simp] theorem State.modReg_clockLane (s : State) (p o : Nat) (f : Dword → Dword) : (s.modReg p o f).clockLane = s.clockLane := rfl
@[simp] theorem State.modReg_memCyc (s : State) (p o : Nat) (f : Dword → Dword) : (s.modReg p o f).memCyc = s.memCyc := rfl
@[simp] theorem State.modReg_portCyc (s : State) (p o : Nat) (f : Dword → Dword) : (s.modReg p o f).portCyc = s.portCyc := rfl
@[simp] theorem State.modReg_snap (s : State) (p o : Nat) (f : Dword → Dword) : (s.modReg p o f).snap = s.snap := rfl
@[simp] theorem State.modReg_stopped (s : State) (p o : Nat) (f : Dword → Dword) : (s.modReg p o f).stopped = s.stopped := rfl
@[simp] theorem State.modReg_fuses (s : State) (p o : Nat) (f : Dword → Dword) : (s.modReg p o f).fuses = s.fuses := rfl
@[simp] theorem State.modReg_wir (s : State) (p o : Nat) (f : Dword → Dword) : (s.modReg p o f).wir = s.wir := rfl
@[simp] theorem State.modReg_clocksOff (s : State) (p o : Nat) (f : Dword → Dword) : (s.modReg p o f).clocksOff = s.clocksOff := rfl
@[simp] theorem State.modReg_draws (s : State) (p o : Nat) (f : Dword → Dword) : (s.modReg p o f).draws = s.draws := rfl
@[simp] theorem State.modReg_pending (s : State) (p o : Nat) (f : Dword → Dword) : (s.modReg p o f).pending = s.pending := rfl
@[simp] theorem State.core_modReg (s : State) (p o : Nat) (f : Dword → Dword) (d : CoreId) : (s.modReg p o f).core d = s.core d := rfl

/-! ### `setRf` -/

@[simp] theorem State.setRf_mem (s : State) (p o l w x : Nat) : (s.setRf p o l w x).mem = s.mem := rfl
@[simp] theorem State.setRf_cores (s : State) (p o l w x : Nat) : (s.setRf p o l w x).cores = s.cores := rfl
@[simp] theorem State.setRf_links (s : State) (p o l w x : Nat) : (s.setRf p o l w x).links = s.links := rfl
@[simp] theorem State.setRf_csc (s : State) (p o l w x : Nat) : (s.setRf p o l w x).csc = s.csc := rfl
@[simp] theorem State.setRf_cscBuf (s : State) (p o l w x : Nat) : (s.setRf p o l w x).cscBuf = s.cscBuf := rfl
@[simp] theorem State.setRf_cscOp (s : State) (p o l w x : Nat) : (s.setRf p o l w x).cscOp = s.cscOp := rfl
@[simp] theorem State.setRf_txu (s : State) (p o l w x : Nat) : (s.setRf p o l w x).txu = s.txu := rfl
@[simp] theorem State.setRf_evx (s : State) (p o l w x : Nat) : (s.setRf p o l w x).evx = s.evx := rfl
@[simp] theorem State.setRf_rqt (s : State) (p o l w x : Nat) : (s.setRf p o l w x).rqt = s.rqt := rfl
@[simp] theorem State.setRf_ecm (s : State) (p o l w x : Nat) : (s.setRf p o l w x).ecm = s.ecm := rfl
@[simp] theorem State.setRf_ports (s : State) (p o l w x : Nat) : (s.setRf p o l w x).ports = s.ports := rfl
@[simp] theorem State.setRf_inbox (s : State) (p o l w x : Nat) : (s.setRf p o l w x).inbox = s.inbox := rfl
@[simp] theorem State.setRf_groups (s : State) (p o l w x : Nat) : (s.setRf p o l w x).groups = s.groups := rfl
@[simp] theorem State.setRf_posts (s : State) (p o l w x : Nat) : (s.setRf p o l w x).posts = s.posts := rfl
@[simp] theorem State.setRf_heldPosts (s : State) (p o l w x : Nat) : (s.setRf p o l w x).heldPosts = s.heldPosts := rfl
@[simp] theorem State.setRf_ccu (s : State) (p o l w x : Nat) : (s.setRf p o l w x).ccu = s.ccu := rfl
@[simp] theorem State.setRf_bond (s : State) (p o l w x : Nat) : (s.setRf p o l w x).bond = s.bond := rfl
@[simp] theorem State.setRf_laneCe (s : State) (p o l w x : Nat) : (s.setRf p o l w x).laneCe = s.laneCe := rfl
@[simp] theorem State.setRf_clockLane (s : State) (p o l w x : Nat) : (s.setRf p o l w x).clockLane = s.clockLane := rfl
@[simp] theorem State.setRf_memCyc (s : State) (p o l w x : Nat) : (s.setRf p o l w x).memCyc = s.memCyc := rfl
@[simp] theorem State.setRf_portCyc (s : State) (p o l w x : Nat) : (s.setRf p o l w x).portCyc = s.portCyc := rfl
@[simp] theorem State.setRf_snap (s : State) (p o l w x : Nat) : (s.setRf p o l w x).snap = s.snap := rfl
@[simp] theorem State.setRf_stopped (s : State) (p o l w x : Nat) : (s.setRf p o l w x).stopped = s.stopped := rfl
@[simp] theorem State.setRf_fuses (s : State) (p o l w x : Nat) : (s.setRf p o l w x).fuses = s.fuses := rfl
@[simp] theorem State.setRf_wir (s : State) (p o l w x : Nat) : (s.setRf p o l w x).wir = s.wir := rfl
@[simp] theorem State.setRf_clocksOff (s : State) (p o l w x : Nat) : (s.setRf p o l w x).clocksOff = s.clocksOff := rfl
@[simp] theorem State.setRf_draws (s : State) (p o l w x : Nat) : (s.setRf p o l w x).draws = s.draws := rfl
@[simp] theorem State.setRf_pending (s : State) (p o l w x : Nat) : (s.setRf p o l w x).pending = s.pending := rfl
@[simp] theorem State.core_setRf (s : State) (p o l w x : Nat) (d : CoreId) : (s.setRf p o l w x).core d = s.core d := rfl

/-! ### `orReg` -/

@[simp] theorem State.orReg_mem (s : State) (p o : Nat) (m : Dword) : (s.orReg p o m).mem = s.mem := rfl
@[simp] theorem State.orReg_cores (s : State) (p o : Nat) (m : Dword) : (s.orReg p o m).cores = s.cores := rfl
@[simp] theorem State.orReg_links (s : State) (p o : Nat) (m : Dword) : (s.orReg p o m).links = s.links := rfl
@[simp] theorem State.orReg_csc (s : State) (p o : Nat) (m : Dword) : (s.orReg p o m).csc = s.csc := rfl
@[simp] theorem State.orReg_cscBuf (s : State) (p o : Nat) (m : Dword) : (s.orReg p o m).cscBuf = s.cscBuf := rfl
@[simp] theorem State.orReg_cscOp (s : State) (p o : Nat) (m : Dword) : (s.orReg p o m).cscOp = s.cscOp := rfl
@[simp] theorem State.orReg_txu (s : State) (p o : Nat) (m : Dword) : (s.orReg p o m).txu = s.txu := rfl
@[simp] theorem State.orReg_evx (s : State) (p o : Nat) (m : Dword) : (s.orReg p o m).evx = s.evx := rfl
@[simp] theorem State.orReg_rqt (s : State) (p o : Nat) (m : Dword) : (s.orReg p o m).rqt = s.rqt := rfl
@[simp] theorem State.orReg_ecm (s : State) (p o : Nat) (m : Dword) : (s.orReg p o m).ecm = s.ecm := rfl
@[simp] theorem State.orReg_ports (s : State) (p o : Nat) (m : Dword) : (s.orReg p o m).ports = s.ports := rfl
@[simp] theorem State.orReg_inbox (s : State) (p o : Nat) (m : Dword) : (s.orReg p o m).inbox = s.inbox := rfl
@[simp] theorem State.orReg_groups (s : State) (p o : Nat) (m : Dword) : (s.orReg p o m).groups = s.groups := rfl
@[simp] theorem State.orReg_posts (s : State) (p o : Nat) (m : Dword) : (s.orReg p o m).posts = s.posts := rfl
@[simp] theorem State.orReg_heldPosts (s : State) (p o : Nat) (m : Dword) : (s.orReg p o m).heldPosts = s.heldPosts := rfl
@[simp] theorem State.orReg_ccu (s : State) (p o : Nat) (m : Dword) : (s.orReg p o m).ccu = s.ccu := rfl
@[simp] theorem State.orReg_bond (s : State) (p o : Nat) (m : Dword) : (s.orReg p o m).bond = s.bond := rfl
@[simp] theorem State.orReg_laneCe (s : State) (p o : Nat) (m : Dword) : (s.orReg p o m).laneCe = s.laneCe := rfl
@[simp] theorem State.orReg_clockLane (s : State) (p o : Nat) (m : Dword) : (s.orReg p o m).clockLane = s.clockLane := rfl
@[simp] theorem State.orReg_memCyc (s : State) (p o : Nat) (m : Dword) : (s.orReg p o m).memCyc = s.memCyc := rfl
@[simp] theorem State.orReg_portCyc (s : State) (p o : Nat) (m : Dword) : (s.orReg p o m).portCyc = s.portCyc := rfl
@[simp] theorem State.orReg_snap (s : State) (p o : Nat) (m : Dword) : (s.orReg p o m).snap = s.snap := rfl
@[simp] theorem State.orReg_stopped (s : State) (p o : Nat) (m : Dword) : (s.orReg p o m).stopped = s.stopped := rfl
@[simp] theorem State.orReg_fuses (s : State) (p o : Nat) (m : Dword) : (s.orReg p o m).fuses = s.fuses := rfl
@[simp] theorem State.orReg_wir (s : State) (p o : Nat) (m : Dword) : (s.orReg p o m).wir = s.wir := rfl
@[simp] theorem State.orReg_clocksOff (s : State) (p o : Nat) (m : Dword) : (s.orReg p o m).clocksOff = s.clocksOff := rfl
@[simp] theorem State.orReg_draws (s : State) (p o : Nat) (m : Dword) : (s.orReg p o m).draws = s.draws := rfl
@[simp] theorem State.orReg_pending (s : State) (p o : Nat) (m : Dword) : (s.orReg p o m).pending = s.pending := rfl
@[simp] theorem State.core_orReg (s : State) (p o : Nat) (m : Dword) (d : CoreId) : (s.orReg p o m).core d = s.core d := rfl

/-! ### `bumpRf` -/

@[simp] theorem State.bumpRf_mem (s : State) (p o l w n : Nat) : (s.bumpRf p o l w n).mem = s.mem := rfl
@[simp] theorem State.bumpRf_cores (s : State) (p o l w n : Nat) : (s.bumpRf p o l w n).cores = s.cores := rfl
@[simp] theorem State.bumpRf_links (s : State) (p o l w n : Nat) : (s.bumpRf p o l w n).links = s.links := rfl
@[simp] theorem State.bumpRf_csc (s : State) (p o l w n : Nat) : (s.bumpRf p o l w n).csc = s.csc := rfl
@[simp] theorem State.bumpRf_cscBuf (s : State) (p o l w n : Nat) : (s.bumpRf p o l w n).cscBuf = s.cscBuf := rfl
@[simp] theorem State.bumpRf_cscOp (s : State) (p o l w n : Nat) : (s.bumpRf p o l w n).cscOp = s.cscOp := rfl
@[simp] theorem State.bumpRf_txu (s : State) (p o l w n : Nat) : (s.bumpRf p o l w n).txu = s.txu := rfl
@[simp] theorem State.bumpRf_evx (s : State) (p o l w n : Nat) : (s.bumpRf p o l w n).evx = s.evx := rfl
@[simp] theorem State.bumpRf_rqt (s : State) (p o l w n : Nat) : (s.bumpRf p o l w n).rqt = s.rqt := rfl
@[simp] theorem State.bumpRf_ecm (s : State) (p o l w n : Nat) : (s.bumpRf p o l w n).ecm = s.ecm := rfl
@[simp] theorem State.bumpRf_ports (s : State) (p o l w n : Nat) : (s.bumpRf p o l w n).ports = s.ports := rfl
@[simp] theorem State.bumpRf_inbox (s : State) (p o l w n : Nat) : (s.bumpRf p o l w n).inbox = s.inbox := rfl
@[simp] theorem State.bumpRf_groups (s : State) (p o l w n : Nat) : (s.bumpRf p o l w n).groups = s.groups := rfl
@[simp] theorem State.bumpRf_posts (s : State) (p o l w n : Nat) : (s.bumpRf p o l w n).posts = s.posts := rfl
@[simp] theorem State.bumpRf_heldPosts (s : State) (p o l w n : Nat) : (s.bumpRf p o l w n).heldPosts = s.heldPosts := rfl
@[simp] theorem State.bumpRf_ccu (s : State) (p o l w n : Nat) : (s.bumpRf p o l w n).ccu = s.ccu := rfl
@[simp] theorem State.bumpRf_bond (s : State) (p o l w n : Nat) : (s.bumpRf p o l w n).bond = s.bond := rfl
@[simp] theorem State.bumpRf_laneCe (s : State) (p o l w n : Nat) : (s.bumpRf p o l w n).laneCe = s.laneCe := rfl
@[simp] theorem State.bumpRf_clockLane (s : State) (p o l w n : Nat) : (s.bumpRf p o l w n).clockLane = s.clockLane := rfl
@[simp] theorem State.bumpRf_memCyc (s : State) (p o l w n : Nat) : (s.bumpRf p o l w n).memCyc = s.memCyc := rfl
@[simp] theorem State.bumpRf_portCyc (s : State) (p o l w n : Nat) : (s.bumpRf p o l w n).portCyc = s.portCyc := rfl
@[simp] theorem State.bumpRf_snap (s : State) (p o l w n : Nat) : (s.bumpRf p o l w n).snap = s.snap := rfl
@[simp] theorem State.bumpRf_stopped (s : State) (p o l w n : Nat) : (s.bumpRf p o l w n).stopped = s.stopped := rfl
@[simp] theorem State.bumpRf_fuses (s : State) (p o l w n : Nat) : (s.bumpRf p o l w n).fuses = s.fuses := rfl
@[simp] theorem State.bumpRf_wir (s : State) (p o l w n : Nat) : (s.bumpRf p o l w n).wir = s.wir := rfl
@[simp] theorem State.bumpRf_clocksOff (s : State) (p o l w n : Nat) : (s.bumpRf p o l w n).clocksOff = s.clocksOff := rfl
@[simp] theorem State.bumpRf_draws (s : State) (p o l w n : Nat) : (s.bumpRf p o l w n).draws = s.draws := rfl
@[simp] theorem State.bumpRf_pending (s : State) (p o l w n : Nat) : (s.bumpRf p o l w n).pending = s.pending := rfl
@[simp] theorem State.core_bumpRf (s : State) (p o l w n : Nat) (d : CoreId) : (s.bumpRf p o l w n).core d = s.core d := rfl

/-! ### `satRf` -/

@[simp] theorem State.satRf_mem (s : State) (p o l w n : Nat) : (s.satRf p o l w n).mem = s.mem := rfl
@[simp] theorem State.satRf_cores (s : State) (p o l w n : Nat) : (s.satRf p o l w n).cores = s.cores := rfl
@[simp] theorem State.satRf_links (s : State) (p o l w n : Nat) : (s.satRf p o l w n).links = s.links := rfl
@[simp] theorem State.satRf_csc (s : State) (p o l w n : Nat) : (s.satRf p o l w n).csc = s.csc := rfl
@[simp] theorem State.satRf_cscBuf (s : State) (p o l w n : Nat) : (s.satRf p o l w n).cscBuf = s.cscBuf := rfl
@[simp] theorem State.satRf_cscOp (s : State) (p o l w n : Nat) : (s.satRf p o l w n).cscOp = s.cscOp := rfl
@[simp] theorem State.satRf_txu (s : State) (p o l w n : Nat) : (s.satRf p o l w n).txu = s.txu := rfl
@[simp] theorem State.satRf_evx (s : State) (p o l w n : Nat) : (s.satRf p o l w n).evx = s.evx := rfl
@[simp] theorem State.satRf_rqt (s : State) (p o l w n : Nat) : (s.satRf p o l w n).rqt = s.rqt := rfl
@[simp] theorem State.satRf_ecm (s : State) (p o l w n : Nat) : (s.satRf p o l w n).ecm = s.ecm := rfl
@[simp] theorem State.satRf_ports (s : State) (p o l w n : Nat) : (s.satRf p o l w n).ports = s.ports := rfl
@[simp] theorem State.satRf_inbox (s : State) (p o l w n : Nat) : (s.satRf p o l w n).inbox = s.inbox := rfl
@[simp] theorem State.satRf_groups (s : State) (p o l w n : Nat) : (s.satRf p o l w n).groups = s.groups := rfl
@[simp] theorem State.satRf_posts (s : State) (p o l w n : Nat) : (s.satRf p o l w n).posts = s.posts := rfl
@[simp] theorem State.satRf_heldPosts (s : State) (p o l w n : Nat) : (s.satRf p o l w n).heldPosts = s.heldPosts := rfl
@[simp] theorem State.satRf_ccu (s : State) (p o l w n : Nat) : (s.satRf p o l w n).ccu = s.ccu := rfl
@[simp] theorem State.satRf_bond (s : State) (p o l w n : Nat) : (s.satRf p o l w n).bond = s.bond := rfl
@[simp] theorem State.satRf_laneCe (s : State) (p o l w n : Nat) : (s.satRf p o l w n).laneCe = s.laneCe := rfl
@[simp] theorem State.satRf_clockLane (s : State) (p o l w n : Nat) : (s.satRf p o l w n).clockLane = s.clockLane := rfl
@[simp] theorem State.satRf_memCyc (s : State) (p o l w n : Nat) : (s.satRf p o l w n).memCyc = s.memCyc := rfl
@[simp] theorem State.satRf_portCyc (s : State) (p o l w n : Nat) : (s.satRf p o l w n).portCyc = s.portCyc := rfl
@[simp] theorem State.satRf_snap (s : State) (p o l w n : Nat) : (s.satRf p o l w n).snap = s.snap := rfl
@[simp] theorem State.satRf_stopped (s : State) (p o l w n : Nat) : (s.satRf p o l w n).stopped = s.stopped := rfl
@[simp] theorem State.satRf_fuses (s : State) (p o l w n : Nat) : (s.satRf p o l w n).fuses = s.fuses := rfl
@[simp] theorem State.satRf_wir (s : State) (p o l w n : Nat) : (s.satRf p o l w n).wir = s.wir := rfl
@[simp] theorem State.satRf_clocksOff (s : State) (p o l w n : Nat) : (s.satRf p o l w n).clocksOff = s.clocksOff := rfl
@[simp] theorem State.satRf_draws (s : State) (p o l w n : Nat) : (s.satRf p o l w n).draws = s.draws := rfl
@[simp] theorem State.satRf_pending (s : State) (p o l w n : Nat) : (s.satRf p o l w n).pending = s.pending := rfl
@[simp] theorem State.core_satRf (s : State) (p o l w n : Nat) (d : CoreId) : (s.satRf p o l w n).core d = s.core d := rfl

/-! ### `resetRegs` -/

@[simp] theorem State.resetRegs_mem (s : State) (p : Nat) (drop : Nat → Bool) : (s.resetRegs p drop).mem = s.mem := rfl
@[simp] theorem State.resetRegs_cores (s : State) (p : Nat) (drop : Nat → Bool) : (s.resetRegs p drop).cores = s.cores := rfl
@[simp] theorem State.resetRegs_links (s : State) (p : Nat) (drop : Nat → Bool) : (s.resetRegs p drop).links = s.links := rfl
@[simp] theorem State.resetRegs_csc (s : State) (p : Nat) (drop : Nat → Bool) : (s.resetRegs p drop).csc = s.csc := rfl
@[simp] theorem State.resetRegs_cscBuf (s : State) (p : Nat) (drop : Nat → Bool) : (s.resetRegs p drop).cscBuf = s.cscBuf := rfl
@[simp] theorem State.resetRegs_cscOp (s : State) (p : Nat) (drop : Nat → Bool) : (s.resetRegs p drop).cscOp = s.cscOp := rfl
@[simp] theorem State.resetRegs_txu (s : State) (p : Nat) (drop : Nat → Bool) : (s.resetRegs p drop).txu = s.txu := rfl
@[simp] theorem State.resetRegs_evx (s : State) (p : Nat) (drop : Nat → Bool) : (s.resetRegs p drop).evx = s.evx := rfl
@[simp] theorem State.resetRegs_rqt (s : State) (p : Nat) (drop : Nat → Bool) : (s.resetRegs p drop).rqt = s.rqt := rfl
@[simp] theorem State.resetRegs_ecm (s : State) (p : Nat) (drop : Nat → Bool) : (s.resetRegs p drop).ecm = s.ecm := rfl
@[simp] theorem State.resetRegs_ports (s : State) (p : Nat) (drop : Nat → Bool) : (s.resetRegs p drop).ports = s.ports := rfl
@[simp] theorem State.resetRegs_inbox (s : State) (p : Nat) (drop : Nat → Bool) : (s.resetRegs p drop).inbox = s.inbox := rfl
@[simp] theorem State.resetRegs_groups (s : State) (p : Nat) (drop : Nat → Bool) : (s.resetRegs p drop).groups = s.groups := rfl
@[simp] theorem State.resetRegs_posts (s : State) (p : Nat) (drop : Nat → Bool) : (s.resetRegs p drop).posts = s.posts := rfl
@[simp] theorem State.resetRegs_heldPosts (s : State) (p : Nat) (drop : Nat → Bool) : (s.resetRegs p drop).heldPosts = s.heldPosts := rfl
@[simp] theorem State.resetRegs_ccu (s : State) (p : Nat) (drop : Nat → Bool) : (s.resetRegs p drop).ccu = s.ccu := rfl
@[simp] theorem State.resetRegs_bond (s : State) (p : Nat) (drop : Nat → Bool) : (s.resetRegs p drop).bond = s.bond := rfl
@[simp] theorem State.resetRegs_laneCe (s : State) (p : Nat) (drop : Nat → Bool) : (s.resetRegs p drop).laneCe = s.laneCe := rfl
@[simp] theorem State.resetRegs_clockLane (s : State) (p : Nat) (drop : Nat → Bool) : (s.resetRegs p drop).clockLane = s.clockLane := rfl
@[simp] theorem State.resetRegs_memCyc (s : State) (p : Nat) (drop : Nat → Bool) : (s.resetRegs p drop).memCyc = s.memCyc := rfl
@[simp] theorem State.resetRegs_portCyc (s : State) (p : Nat) (drop : Nat → Bool) : (s.resetRegs p drop).portCyc = s.portCyc := rfl
@[simp] theorem State.resetRegs_snap (s : State) (p : Nat) (drop : Nat → Bool) : (s.resetRegs p drop).snap = s.snap := rfl
@[simp] theorem State.resetRegs_stopped (s : State) (p : Nat) (drop : Nat → Bool) : (s.resetRegs p drop).stopped = s.stopped := rfl
@[simp] theorem State.resetRegs_fuses (s : State) (p : Nat) (drop : Nat → Bool) : (s.resetRegs p drop).fuses = s.fuses := rfl
@[simp] theorem State.resetRegs_wir (s : State) (p : Nat) (drop : Nat → Bool) : (s.resetRegs p drop).wir = s.wir := rfl
@[simp] theorem State.resetRegs_clocksOff (s : State) (p : Nat) (drop : Nat → Bool) : (s.resetRegs p drop).clocksOff = s.clocksOff := rfl
@[simp] theorem State.resetRegs_draws (s : State) (p : Nat) (drop : Nat → Bool) : (s.resetRegs p drop).draws = s.draws := rfl
@[simp] theorem State.resetRegs_pending (s : State) (p : Nat) (drop : Nat → Bool) : (s.resetRegs p drop).pending = s.pending := rfl
@[simp] theorem State.core_resetRegs (s : State) (p : Nat) (drop : Nat → Bool) (d : CoreId) : (s.resetRegs p drop).core d = s.core d := rfl

/-! ### The accessor of a core -/

@[simp] theorem State.core_updCore_same (s : State) (c : CoreId) (f : Core → Core) :
    (s.updCore c f).core c = f (s.core c) := by simp [State.core, State.updCore]

theorem State.core_updCore_other (s : State) {c d : CoreId} (h : d ≠ c) (f : Core → Core) :
    (s.updCore c f).core d = s.core d := by
  have : c.val ≠ d.val := fun e => h (Fin.ext e.symm)
  simp [State.core, State.updCore, Vector.getElem_set_ne, this]

@[simp] theorem State.core_updSeq_same (s : State) (c : CoreId) (f : Seq → Seq) :
    (s.updSeq c f).core c = { s.core c with seq := f (s.core c).seq } := by simp [State.updSeq]
theorem State.core_updSeq_other (s : State) {c d : CoreId} (h : d ≠ c) (f : Seq → Seq) :
    (s.updSeq c f).core d = s.core d := State.core_updCore_other s h _
@[simp] theorem State.updSeq_core_mxe (s : State) (c d : CoreId) (f : Seq → Seq) :
    ((s.updSeq c f).core d).mxe = (s.core d).mxe := by
  by_cases h : d = c
  · subst h; simp
  · rw [State.core_updSeq_other s h]
@[simp] theorem State.updSeq_core_trf (s : State) (c d : CoreId) (f : Seq → Seq) :
    ((s.updSeq c f).core d).trf = (s.core d).trf := by
  by_cases h : d = c
  · subst h; simp
  · rw [State.core_updSeq_other s h]
@[simp] theorem State.updSeq_core_vxe (s : State) (c d : CoreId) (f : Seq → Seq) :
    ((s.updSeq c f).core d).vxe = (s.core d).vxe := by
  by_cases h : d = c
  · subst h; simp
  · rw [State.core_updSeq_other s h]
@[simp] theorem State.updSeq_core_str (s : State) (c d : CoreId) (f : Seq → Seq) :
    ((s.updSeq c f).core d).str = (s.core d).str := by
  by_cases h : d = c
  · subst h; simp
  · rw [State.core_updSeq_other s h]
@[simp] theorem State.updSeq_core_cch (s : State) (c d : CoreId) (f : Seq → Seq) :
    ((s.updSeq c f).core d).cch = (s.core d).cch := by
  by_cases h : d = c
  · subst h; simp
  · rw [State.core_updSeq_other s h]
@[simp] theorem State.updSeq_core_chn (s : State) (c d : CoreId) (f : Seq → Seq) :
    ((s.updSeq c f).core d).chn = (s.core d).chn := by
  by_cases h : d = c
  · subst h; simp
  · rw [State.core_updSeq_other s h]
@[simp] theorem State.updSeq_core_freq (s : State) (c d : CoreId) (f : Seq → Seq) :
    ((s.updSeq c f).core d).freq = (s.core d).freq := by
  by_cases h : d = c
  · subst h; simp
  · rw [State.core_updSeq_other s h]
@[simp] theorem State.updSeq_core_phase (s : State) (c d : CoreId) (f : Seq → Seq) :
    ((s.updSeq c f).core d).phase = (s.core d).phase := by
  by_cases h : d = c
  · subst h; simp
  · rw [State.core_updSeq_other s h]
@[simp] theorem State.updSeq_core_cyc (s : State) (c d : CoreId) (f : Seq → Seq) :
    ((s.updSeq c f).core d).cyc = (s.core d).cyc := by
  by_cases h : d = c
  · subst h; simp
  · rw [State.core_updSeq_other s h]
@[simp] theorem State.updSeq_core_iso (s : State) (c d : CoreId) (f : Seq → Seq) :
    ((s.updSeq c f).core d).iso = (s.core d).iso := by
  by_cases h : d = c
  · subst h; simp
  · rw [State.core_updSeq_other s h]
@[simp] theorem State.updSeq_core_pwrReq (s : State) (c d : CoreId) (f : Seq → Seq) :
    ((s.updSeq c f).core d).pwrReq = (s.core d).pwrReq := by
  by_cases h : d = c
  · subst h; simp
  · rw [State.core_updSeq_other s h]
@[simp] theorem State.updSeq_core_pwrAck (s : State) (c d : CoreId) (f : Seq → Seq) :
    ((s.updSeq c f).core d).pwrAck = (s.core d).pwrAck := by
  by_cases h : d = c
  · subst h; simp
  · rw [State.core_updSeq_other s h]
@[simp] theorem State.updSeq_core_pwrDeny (s : State) (c d : CoreId) (f : Seq → Seq) :
    ((s.updSeq c f).core d).pwrDeny = (s.core d).pwrDeny := by
  by_cases h : d = c
  · subst h; simp
  · rw [State.core_updSeq_other s h]
@[simp] theorem State.updSeq_core_pwrNext (s : State) (c d : CoreId) (f : Seq → Seq) :
    ((s.updSeq c f).core d).pwrNext = (s.core d).pwrNext := by
  by_cases h : d = c
  · subst h; simp
  · rw [State.core_updSeq_other s h]
@[simp] theorem State.core_updMxe_same (s : State) (c : CoreId) (f : Mxe → Mxe) :
    (s.updMxe c f).core c = { s.core c with mxe := f (s.core c).mxe } := by simp [State.updMxe]
theorem State.core_updMxe_other (s : State) {c d : CoreId} (h : d ≠ c) (f : Mxe → Mxe) :
    (s.updMxe c f).core d = s.core d := State.core_updCore_other s h _
@[simp] theorem State.updMxe_core_seq (s : State) (c d : CoreId) (f : Mxe → Mxe) :
    ((s.updMxe c f).core d).seq = (s.core d).seq := by
  by_cases h : d = c
  · subst h; simp
  · rw [State.core_updMxe_other s h]
@[simp] theorem State.updMxe_core_trf (s : State) (c d : CoreId) (f : Mxe → Mxe) :
    ((s.updMxe c f).core d).trf = (s.core d).trf := by
  by_cases h : d = c
  · subst h; simp
  · rw [State.core_updMxe_other s h]
@[simp] theorem State.updMxe_core_vxe (s : State) (c d : CoreId) (f : Mxe → Mxe) :
    ((s.updMxe c f).core d).vxe = (s.core d).vxe := by
  by_cases h : d = c
  · subst h; simp
  · rw [State.core_updMxe_other s h]
@[simp] theorem State.updMxe_core_str (s : State) (c d : CoreId) (f : Mxe → Mxe) :
    ((s.updMxe c f).core d).str = (s.core d).str := by
  by_cases h : d = c
  · subst h; simp
  · rw [State.core_updMxe_other s h]
@[simp] theorem State.updMxe_core_cch (s : State) (c d : CoreId) (f : Mxe → Mxe) :
    ((s.updMxe c f).core d).cch = (s.core d).cch := by
  by_cases h : d = c
  · subst h; simp
  · rw [State.core_updMxe_other s h]
@[simp] theorem State.updMxe_core_chn (s : State) (c d : CoreId) (f : Mxe → Mxe) :
    ((s.updMxe c f).core d).chn = (s.core d).chn := by
  by_cases h : d = c
  · subst h; simp
  · rw [State.core_updMxe_other s h]
@[simp] theorem State.updMxe_core_freq (s : State) (c d : CoreId) (f : Mxe → Mxe) :
    ((s.updMxe c f).core d).freq = (s.core d).freq := by
  by_cases h : d = c
  · subst h; simp
  · rw [State.core_updMxe_other s h]
@[simp] theorem State.updMxe_core_phase (s : State) (c d : CoreId) (f : Mxe → Mxe) :
    ((s.updMxe c f).core d).phase = (s.core d).phase := by
  by_cases h : d = c
  · subst h; simp
  · rw [State.core_updMxe_other s h]
@[simp] theorem State.updMxe_core_cyc (s : State) (c d : CoreId) (f : Mxe → Mxe) :
    ((s.updMxe c f).core d).cyc = (s.core d).cyc := by
  by_cases h : d = c
  · subst h; simp
  · rw [State.core_updMxe_other s h]
@[simp] theorem State.updMxe_core_iso (s : State) (c d : CoreId) (f : Mxe → Mxe) :
    ((s.updMxe c f).core d).iso = (s.core d).iso := by
  by_cases h : d = c
  · subst h; simp
  · rw [State.core_updMxe_other s h]
@[simp] theorem State.updMxe_core_pwrReq (s : State) (c d : CoreId) (f : Mxe → Mxe) :
    ((s.updMxe c f).core d).pwrReq = (s.core d).pwrReq := by
  by_cases h : d = c
  · subst h; simp
  · rw [State.core_updMxe_other s h]
@[simp] theorem State.updMxe_core_pwrAck (s : State) (c d : CoreId) (f : Mxe → Mxe) :
    ((s.updMxe c f).core d).pwrAck = (s.core d).pwrAck := by
  by_cases h : d = c
  · subst h; simp
  · rw [State.core_updMxe_other s h]
@[simp] theorem State.updMxe_core_pwrDeny (s : State) (c d : CoreId) (f : Mxe → Mxe) :
    ((s.updMxe c f).core d).pwrDeny = (s.core d).pwrDeny := by
  by_cases h : d = c
  · subst h; simp
  · rw [State.core_updMxe_other s h]
@[simp] theorem State.updMxe_core_pwrNext (s : State) (c d : CoreId) (f : Mxe → Mxe) :
    ((s.updMxe c f).core d).pwrNext = (s.core d).pwrNext := by
  by_cases h : d = c
  · subst h; simp
  · rw [State.core_updMxe_other s h]
@[simp] theorem State.core_updTrf_same (s : State) (c : CoreId) (f : Trf → Trf) :
    (s.updTrf c f).core c = { s.core c with trf := f (s.core c).trf } := by simp [State.updTrf]
theorem State.core_updTrf_other (s : State) {c d : CoreId} (h : d ≠ c) (f : Trf → Trf) :
    (s.updTrf c f).core d = s.core d := State.core_updCore_other s h _
@[simp] theorem State.updTrf_core_seq (s : State) (c d : CoreId) (f : Trf → Trf) :
    ((s.updTrf c f).core d).seq = (s.core d).seq := by
  by_cases h : d = c
  · subst h; simp
  · rw [State.core_updTrf_other s h]
@[simp] theorem State.updTrf_core_mxe (s : State) (c d : CoreId) (f : Trf → Trf) :
    ((s.updTrf c f).core d).mxe = (s.core d).mxe := by
  by_cases h : d = c
  · subst h; simp
  · rw [State.core_updTrf_other s h]
@[simp] theorem State.updTrf_core_vxe (s : State) (c d : CoreId) (f : Trf → Trf) :
    ((s.updTrf c f).core d).vxe = (s.core d).vxe := by
  by_cases h : d = c
  · subst h; simp
  · rw [State.core_updTrf_other s h]
@[simp] theorem State.updTrf_core_str (s : State) (c d : CoreId) (f : Trf → Trf) :
    ((s.updTrf c f).core d).str = (s.core d).str := by
  by_cases h : d = c
  · subst h; simp
  · rw [State.core_updTrf_other s h]
@[simp] theorem State.updTrf_core_cch (s : State) (c d : CoreId) (f : Trf → Trf) :
    ((s.updTrf c f).core d).cch = (s.core d).cch := by
  by_cases h : d = c
  · subst h; simp
  · rw [State.core_updTrf_other s h]
@[simp] theorem State.updTrf_core_chn (s : State) (c d : CoreId) (f : Trf → Trf) :
    ((s.updTrf c f).core d).chn = (s.core d).chn := by
  by_cases h : d = c
  · subst h; simp
  · rw [State.core_updTrf_other s h]
@[simp] theorem State.updTrf_core_freq (s : State) (c d : CoreId) (f : Trf → Trf) :
    ((s.updTrf c f).core d).freq = (s.core d).freq := by
  by_cases h : d = c
  · subst h; simp
  · rw [State.core_updTrf_other s h]
@[simp] theorem State.updTrf_core_phase (s : State) (c d : CoreId) (f : Trf → Trf) :
    ((s.updTrf c f).core d).phase = (s.core d).phase := by
  by_cases h : d = c
  · subst h; simp
  · rw [State.core_updTrf_other s h]
@[simp] theorem State.updTrf_core_cyc (s : State) (c d : CoreId) (f : Trf → Trf) :
    ((s.updTrf c f).core d).cyc = (s.core d).cyc := by
  by_cases h : d = c
  · subst h; simp
  · rw [State.core_updTrf_other s h]
@[simp] theorem State.updTrf_core_iso (s : State) (c d : CoreId) (f : Trf → Trf) :
    ((s.updTrf c f).core d).iso = (s.core d).iso := by
  by_cases h : d = c
  · subst h; simp
  · rw [State.core_updTrf_other s h]
@[simp] theorem State.updTrf_core_pwrReq (s : State) (c d : CoreId) (f : Trf → Trf) :
    ((s.updTrf c f).core d).pwrReq = (s.core d).pwrReq := by
  by_cases h : d = c
  · subst h; simp
  · rw [State.core_updTrf_other s h]
@[simp] theorem State.updTrf_core_pwrAck (s : State) (c d : CoreId) (f : Trf → Trf) :
    ((s.updTrf c f).core d).pwrAck = (s.core d).pwrAck := by
  by_cases h : d = c
  · subst h; simp
  · rw [State.core_updTrf_other s h]
@[simp] theorem State.updTrf_core_pwrDeny (s : State) (c d : CoreId) (f : Trf → Trf) :
    ((s.updTrf c f).core d).pwrDeny = (s.core d).pwrDeny := by
  by_cases h : d = c
  · subst h; simp
  · rw [State.core_updTrf_other s h]
@[simp] theorem State.updTrf_core_pwrNext (s : State) (c d : CoreId) (f : Trf → Trf) :
    ((s.updTrf c f).core d).pwrNext = (s.core d).pwrNext := by
  by_cases h : d = c
  · subst h; simp
  · rw [State.core_updTrf_other s h]
@[simp] theorem State.core_updVxe_same (s : State) (c : CoreId) (f : Vxe → Vxe) :
    (s.updVxe c f).core c = { s.core c with vxe := f (s.core c).vxe } := by simp [State.updVxe]
theorem State.core_updVxe_other (s : State) {c d : CoreId} (h : d ≠ c) (f : Vxe → Vxe) :
    (s.updVxe c f).core d = s.core d := State.core_updCore_other s h _
@[simp] theorem State.updVxe_core_seq (s : State) (c d : CoreId) (f : Vxe → Vxe) :
    ((s.updVxe c f).core d).seq = (s.core d).seq := by
  by_cases h : d = c
  · subst h; simp
  · rw [State.core_updVxe_other s h]
@[simp] theorem State.updVxe_core_mxe (s : State) (c d : CoreId) (f : Vxe → Vxe) :
    ((s.updVxe c f).core d).mxe = (s.core d).mxe := by
  by_cases h : d = c
  · subst h; simp
  · rw [State.core_updVxe_other s h]
@[simp] theorem State.updVxe_core_trf (s : State) (c d : CoreId) (f : Vxe → Vxe) :
    ((s.updVxe c f).core d).trf = (s.core d).trf := by
  by_cases h : d = c
  · subst h; simp
  · rw [State.core_updVxe_other s h]
@[simp] theorem State.updVxe_core_str (s : State) (c d : CoreId) (f : Vxe → Vxe) :
    ((s.updVxe c f).core d).str = (s.core d).str := by
  by_cases h : d = c
  · subst h; simp
  · rw [State.core_updVxe_other s h]
@[simp] theorem State.updVxe_core_cch (s : State) (c d : CoreId) (f : Vxe → Vxe) :
    ((s.updVxe c f).core d).cch = (s.core d).cch := by
  by_cases h : d = c
  · subst h; simp
  · rw [State.core_updVxe_other s h]
@[simp] theorem State.updVxe_core_chn (s : State) (c d : CoreId) (f : Vxe → Vxe) :
    ((s.updVxe c f).core d).chn = (s.core d).chn := by
  by_cases h : d = c
  · subst h; simp
  · rw [State.core_updVxe_other s h]
@[simp] theorem State.updVxe_core_freq (s : State) (c d : CoreId) (f : Vxe → Vxe) :
    ((s.updVxe c f).core d).freq = (s.core d).freq := by
  by_cases h : d = c
  · subst h; simp
  · rw [State.core_updVxe_other s h]
@[simp] theorem State.updVxe_core_phase (s : State) (c d : CoreId) (f : Vxe → Vxe) :
    ((s.updVxe c f).core d).phase = (s.core d).phase := by
  by_cases h : d = c
  · subst h; simp
  · rw [State.core_updVxe_other s h]
@[simp] theorem State.updVxe_core_cyc (s : State) (c d : CoreId) (f : Vxe → Vxe) :
    ((s.updVxe c f).core d).cyc = (s.core d).cyc := by
  by_cases h : d = c
  · subst h; simp
  · rw [State.core_updVxe_other s h]
@[simp] theorem State.updVxe_core_iso (s : State) (c d : CoreId) (f : Vxe → Vxe) :
    ((s.updVxe c f).core d).iso = (s.core d).iso := by
  by_cases h : d = c
  · subst h; simp
  · rw [State.core_updVxe_other s h]
@[simp] theorem State.updVxe_core_pwrReq (s : State) (c d : CoreId) (f : Vxe → Vxe) :
    ((s.updVxe c f).core d).pwrReq = (s.core d).pwrReq := by
  by_cases h : d = c
  · subst h; simp
  · rw [State.core_updVxe_other s h]
@[simp] theorem State.updVxe_core_pwrAck (s : State) (c d : CoreId) (f : Vxe → Vxe) :
    ((s.updVxe c f).core d).pwrAck = (s.core d).pwrAck := by
  by_cases h : d = c
  · subst h; simp
  · rw [State.core_updVxe_other s h]
@[simp] theorem State.updVxe_core_pwrDeny (s : State) (c d : CoreId) (f : Vxe → Vxe) :
    ((s.updVxe c f).core d).pwrDeny = (s.core d).pwrDeny := by
  by_cases h : d = c
  · subst h; simp
  · rw [State.core_updVxe_other s h]
@[simp] theorem State.updVxe_core_pwrNext (s : State) (c d : CoreId) (f : Vxe → Vxe) :
    ((s.updVxe c f).core d).pwrNext = (s.core d).pwrNext := by
  by_cases h : d = c
  · subst h; simp
  · rw [State.core_updVxe_other s h]
@[simp] theorem State.core_updStr_same (s : State) (c : CoreId) (f : Str → Str) :
    (s.updStr c f).core c = { s.core c with str := f (s.core c).str } := by simp [State.updStr]
theorem State.core_updStr_other (s : State) {c d : CoreId} (h : d ≠ c) (f : Str → Str) :
    (s.updStr c f).core d = s.core d := State.core_updCore_other s h _
@[simp] theorem State.updStr_core_seq (s : State) (c d : CoreId) (f : Str → Str) :
    ((s.updStr c f).core d).seq = (s.core d).seq := by
  by_cases h : d = c
  · subst h; simp
  · rw [State.core_updStr_other s h]
@[simp] theorem State.updStr_core_mxe (s : State) (c d : CoreId) (f : Str → Str) :
    ((s.updStr c f).core d).mxe = (s.core d).mxe := by
  by_cases h : d = c
  · subst h; simp
  · rw [State.core_updStr_other s h]
@[simp] theorem State.updStr_core_trf (s : State) (c d : CoreId) (f : Str → Str) :
    ((s.updStr c f).core d).trf = (s.core d).trf := by
  by_cases h : d = c
  · subst h; simp
  · rw [State.core_updStr_other s h]
@[simp] theorem State.updStr_core_vxe (s : State) (c d : CoreId) (f : Str → Str) :
    ((s.updStr c f).core d).vxe = (s.core d).vxe := by
  by_cases h : d = c
  · subst h; simp
  · rw [State.core_updStr_other s h]
@[simp] theorem State.updStr_core_cch (s : State) (c d : CoreId) (f : Str → Str) :
    ((s.updStr c f).core d).cch = (s.core d).cch := by
  by_cases h : d = c
  · subst h; simp
  · rw [State.core_updStr_other s h]
@[simp] theorem State.updStr_core_chn (s : State) (c d : CoreId) (f : Str → Str) :
    ((s.updStr c f).core d).chn = (s.core d).chn := by
  by_cases h : d = c
  · subst h; simp
  · rw [State.core_updStr_other s h]
@[simp] theorem State.updStr_core_freq (s : State) (c d : CoreId) (f : Str → Str) :
    ((s.updStr c f).core d).freq = (s.core d).freq := by
  by_cases h : d = c
  · subst h; simp
  · rw [State.core_updStr_other s h]
@[simp] theorem State.updStr_core_phase (s : State) (c d : CoreId) (f : Str → Str) :
    ((s.updStr c f).core d).phase = (s.core d).phase := by
  by_cases h : d = c
  · subst h; simp
  · rw [State.core_updStr_other s h]
@[simp] theorem State.updStr_core_cyc (s : State) (c d : CoreId) (f : Str → Str) :
    ((s.updStr c f).core d).cyc = (s.core d).cyc := by
  by_cases h : d = c
  · subst h; simp
  · rw [State.core_updStr_other s h]
@[simp] theorem State.updStr_core_iso (s : State) (c d : CoreId) (f : Str → Str) :
    ((s.updStr c f).core d).iso = (s.core d).iso := by
  by_cases h : d = c
  · subst h; simp
  · rw [State.core_updStr_other s h]
@[simp] theorem State.updStr_core_pwrReq (s : State) (c d : CoreId) (f : Str → Str) :
    ((s.updStr c f).core d).pwrReq = (s.core d).pwrReq := by
  by_cases h : d = c
  · subst h; simp
  · rw [State.core_updStr_other s h]
@[simp] theorem State.updStr_core_pwrAck (s : State) (c d : CoreId) (f : Str → Str) :
    ((s.updStr c f).core d).pwrAck = (s.core d).pwrAck := by
  by_cases h : d = c
  · subst h; simp
  · rw [State.core_updStr_other s h]
@[simp] theorem State.updStr_core_pwrDeny (s : State) (c d : CoreId) (f : Str → Str) :
    ((s.updStr c f).core d).pwrDeny = (s.core d).pwrDeny := by
  by_cases h : d = c
  · subst h; simp
  · rw [State.core_updStr_other s h]
@[simp] theorem State.updStr_core_pwrNext (s : State) (c d : CoreId) (f : Str → Str) :
    ((s.updStr c f).core d).pwrNext = (s.core d).pwrNext := by
  by_cases h : d = c
  · subst h; simp
  · rw [State.core_updStr_other s h]
@[simp] theorem State.core_updCch_same (s : State) (c : CoreId) (f : Cch → Cch) :
    (s.updCch c f).core c = { s.core c with cch := f (s.core c).cch } := by simp [State.updCch]
theorem State.core_updCch_other (s : State) {c d : CoreId} (h : d ≠ c) (f : Cch → Cch) :
    (s.updCch c f).core d = s.core d := State.core_updCore_other s h _
@[simp] theorem State.updCch_core_seq (s : State) (c d : CoreId) (f : Cch → Cch) :
    ((s.updCch c f).core d).seq = (s.core d).seq := by
  by_cases h : d = c
  · subst h; simp
  · rw [State.core_updCch_other s h]
@[simp] theorem State.updCch_core_mxe (s : State) (c d : CoreId) (f : Cch → Cch) :
    ((s.updCch c f).core d).mxe = (s.core d).mxe := by
  by_cases h : d = c
  · subst h; simp
  · rw [State.core_updCch_other s h]
@[simp] theorem State.updCch_core_trf (s : State) (c d : CoreId) (f : Cch → Cch) :
    ((s.updCch c f).core d).trf = (s.core d).trf := by
  by_cases h : d = c
  · subst h; simp
  · rw [State.core_updCch_other s h]
@[simp] theorem State.updCch_core_vxe (s : State) (c d : CoreId) (f : Cch → Cch) :
    ((s.updCch c f).core d).vxe = (s.core d).vxe := by
  by_cases h : d = c
  · subst h; simp
  · rw [State.core_updCch_other s h]
@[simp] theorem State.updCch_core_str (s : State) (c d : CoreId) (f : Cch → Cch) :
    ((s.updCch c f).core d).str = (s.core d).str := by
  by_cases h : d = c
  · subst h; simp
  · rw [State.core_updCch_other s h]
@[simp] theorem State.updCch_core_chn (s : State) (c d : CoreId) (f : Cch → Cch) :
    ((s.updCch c f).core d).chn = (s.core d).chn := by
  by_cases h : d = c
  · subst h; simp
  · rw [State.core_updCch_other s h]
@[simp] theorem State.updCch_core_freq (s : State) (c d : CoreId) (f : Cch → Cch) :
    ((s.updCch c f).core d).freq = (s.core d).freq := by
  by_cases h : d = c
  · subst h; simp
  · rw [State.core_updCch_other s h]
@[simp] theorem State.updCch_core_phase (s : State) (c d : CoreId) (f : Cch → Cch) :
    ((s.updCch c f).core d).phase = (s.core d).phase := by
  by_cases h : d = c
  · subst h; simp
  · rw [State.core_updCch_other s h]
@[simp] theorem State.updCch_core_cyc (s : State) (c d : CoreId) (f : Cch → Cch) :
    ((s.updCch c f).core d).cyc = (s.core d).cyc := by
  by_cases h : d = c
  · subst h; simp
  · rw [State.core_updCch_other s h]
@[simp] theorem State.updCch_core_iso (s : State) (c d : CoreId) (f : Cch → Cch) :
    ((s.updCch c f).core d).iso = (s.core d).iso := by
  by_cases h : d = c
  · subst h; simp
  · rw [State.core_updCch_other s h]
@[simp] theorem State.updCch_core_pwrReq (s : State) (c d : CoreId) (f : Cch → Cch) :
    ((s.updCch c f).core d).pwrReq = (s.core d).pwrReq := by
  by_cases h : d = c
  · subst h; simp
  · rw [State.core_updCch_other s h]
@[simp] theorem State.updCch_core_pwrAck (s : State) (c d : CoreId) (f : Cch → Cch) :
    ((s.updCch c f).core d).pwrAck = (s.core d).pwrAck := by
  by_cases h : d = c
  · subst h; simp
  · rw [State.core_updCch_other s h]
@[simp] theorem State.updCch_core_pwrDeny (s : State) (c d : CoreId) (f : Cch → Cch) :
    ((s.updCch c f).core d).pwrDeny = (s.core d).pwrDeny := by
  by_cases h : d = c
  · subst h; simp
  · rw [State.core_updCch_other s h]
@[simp] theorem State.updCch_core_pwrNext (s : State) (c d : CoreId) (f : Cch → Cch) :
    ((s.updCch c f).core d).pwrNext = (s.core d).pwrNext := by
  by_cases h : d = c
  · subst h; simp
  · rw [State.core_updCch_other s h]
@[simp] theorem State.core_updChn_same (s : State) (c : CoreId) (f : Chn → Chn) :
    (s.updChn c f).core c = { s.core c with chn := f (s.core c).chn } := by simp [State.updChn]
theorem State.core_updChn_other (s : State) {c d : CoreId} (h : d ≠ c) (f : Chn → Chn) :
    (s.updChn c f).core d = s.core d := State.core_updCore_other s h _
@[simp] theorem State.updChn_core_seq (s : State) (c d : CoreId) (f : Chn → Chn) :
    ((s.updChn c f).core d).seq = (s.core d).seq := by
  by_cases h : d = c
  · subst h; simp
  · rw [State.core_updChn_other s h]
@[simp] theorem State.updChn_core_mxe (s : State) (c d : CoreId) (f : Chn → Chn) :
    ((s.updChn c f).core d).mxe = (s.core d).mxe := by
  by_cases h : d = c
  · subst h; simp
  · rw [State.core_updChn_other s h]
@[simp] theorem State.updChn_core_trf (s : State) (c d : CoreId) (f : Chn → Chn) :
    ((s.updChn c f).core d).trf = (s.core d).trf := by
  by_cases h : d = c
  · subst h; simp
  · rw [State.core_updChn_other s h]
@[simp] theorem State.updChn_core_vxe (s : State) (c d : CoreId) (f : Chn → Chn) :
    ((s.updChn c f).core d).vxe = (s.core d).vxe := by
  by_cases h : d = c
  · subst h; simp
  · rw [State.core_updChn_other s h]
@[simp] theorem State.updChn_core_str (s : State) (c d : CoreId) (f : Chn → Chn) :
    ((s.updChn c f).core d).str = (s.core d).str := by
  by_cases h : d = c
  · subst h; simp
  · rw [State.core_updChn_other s h]
@[simp] theorem State.updChn_core_cch (s : State) (c d : CoreId) (f : Chn → Chn) :
    ((s.updChn c f).core d).cch = (s.core d).cch := by
  by_cases h : d = c
  · subst h; simp
  · rw [State.core_updChn_other s h]
@[simp] theorem State.updChn_core_freq (s : State) (c d : CoreId) (f : Chn → Chn) :
    ((s.updChn c f).core d).freq = (s.core d).freq := by
  by_cases h : d = c
  · subst h; simp
  · rw [State.core_updChn_other s h]
@[simp] theorem State.updChn_core_phase (s : State) (c d : CoreId) (f : Chn → Chn) :
    ((s.updChn c f).core d).phase = (s.core d).phase := by
  by_cases h : d = c
  · subst h; simp
  · rw [State.core_updChn_other s h]
@[simp] theorem State.updChn_core_cyc (s : State) (c d : CoreId) (f : Chn → Chn) :
    ((s.updChn c f).core d).cyc = (s.core d).cyc := by
  by_cases h : d = c
  · subst h; simp
  · rw [State.core_updChn_other s h]
@[simp] theorem State.updChn_core_iso (s : State) (c d : CoreId) (f : Chn → Chn) :
    ((s.updChn c f).core d).iso = (s.core d).iso := by
  by_cases h : d = c
  · subst h; simp
  · rw [State.core_updChn_other s h]
@[simp] theorem State.updChn_core_pwrReq (s : State) (c d : CoreId) (f : Chn → Chn) :
    ((s.updChn c f).core d).pwrReq = (s.core d).pwrReq := by
  by_cases h : d = c
  · subst h; simp
  · rw [State.core_updChn_other s h]
@[simp] theorem State.updChn_core_pwrAck (s : State) (c d : CoreId) (f : Chn → Chn) :
    ((s.updChn c f).core d).pwrAck = (s.core d).pwrAck := by
  by_cases h : d = c
  · subst h; simp
  · rw [State.core_updChn_other s h]
@[simp] theorem State.updChn_core_pwrDeny (s : State) (c d : CoreId) (f : Chn → Chn) :
    ((s.updChn c f).core d).pwrDeny = (s.core d).pwrDeny := by
  by_cases h : d = c
  · subst h; simp
  · rw [State.core_updChn_other s h]
@[simp] theorem State.updChn_core_pwrNext (s : State) (c d : CoreId) (f : Chn → Chn) :
    ((s.updChn c f).core d).pwrNext = (s.core d).pwrNext := by
  by_cases h : d = c
  · subst h; simp
  · rw [State.core_updChn_other s h]

end Sys2Proof.Machine
end

