-- ==== Sys2Proof/Laws/Tables.lean ====
section
/-! SUPPORT. Tables and memory: what a table reads after a write, and that every table and memory operation keeps the canonical
form. -/

namespace Sys2Proof.Machine

/-! ### Reading after writing -/

theorem tget_tdel_same {α : Type} (d : α) (t : Tab α) (k : Nat) : tget d (tdel t k) k = d := by
  induction t with
  | nil => rfl
  | cons e t ih =>
    obtain ⟨j, v⟩ := e
    by_cases h : j = k
    · subst h; simpa [tdel] using ih
    · simp only [tdel, List.filter_cons] at ih ⊢
      simp [h, tget, ih]

theorem tget_tdel_other {α : Type} (d : α) (t : Tab α) {k j : Nat} (h : j ≠ k) : tget d (tdel t k) j = tget d t j := by
  induction t with
  | nil => rfl
  | cons e t ih =>
    obtain ⟨i, v⟩ := e
    simp only [tdel, List.filter_cons] at ih ⊢
    by_cases hi : i = k
    · subst hi; simp [tget, Ne.symm h, ih]
    · by_cases hj : i = j
      · subst hj; simp [h, tget]
      · simp [hi, tget, hj, ih]

theorem tget_tins_same {α : Type} (d : α) (t : Tab α) (k : Nat) (v : α) (h : ∀ e ∈ t, e.1 ≠ k) :
    tget d (tins k v t) k = v := by
  induction t with
  | nil => simp [tins, tget]
  | cons e t ih =>
    obtain ⟨i, w⟩ := e
    have hi : i ≠ k := h (i, w) (by simp)
    have ht := ih fun e he => h e (by simp [he])
    by_cases hk : k < i <;> simp [tins, hk, tget, hi, ht]

theorem tget_tins_other {α : Type} (d : α) (t : Tab α) {k j : Nat} (v : α) (h : j ≠ k) :
    tget d (tins k v t) j = tget d t j := by
  induction t with
  | nil => simp [tins, tget, Ne.symm h]
  | cons e t ih =>
    obtain ⟨i, w⟩ := e
    by_cases hk : k < i
    · simp [tins, hk, tget, Ne.symm h]
    · by_cases hj : i = j
      · subst hj; simp [tins, hk, tget]
      · simp [tins, hk, tget, hj, ih]

theorem tdel_keys {α : Type} (t : Tab α) (k : Nat) : ∀ e ∈ tdel t k, e.1 ≠ k := by
  intro e he
  simpa using (List.mem_filter.mp he).2

/-- A table reads at a key what was last put there. -/
@[simp] theorem tget_tput_same {α : Type} [DecidableEq α] (d : α) (t : Tab α) (k : Nat) (v : α) :
    tget d (tput d t k v) k = v := by
  by_cases h : v = d
  · simp [tput, h, tget_tdel_same]
  · simp only [tput, h, if_false]
    exact tget_tins_same d _ k v (tdel_keys t k)

/-- Putting an entry leaves every other key as it reads. -/
theorem tget_tput_other {α : Type} [DecidableEq α] (d : α) (t : Tab α) {k j : Nat} (v : α) (h : j ≠ k) :
    tget d (tput d t k v) j = tget d t j := by
  by_cases hv : v = d
  · simp [tput, hv, tget_tdel_other d t h]
  · simp only [tput, hv, if_false]
    rw [tget_tins_other d _ v h, tget_tdel_other d t h]

/-- The same for a table whose unlisted keys read differently from key to key. -/
theorem tget_tput_other' {α : Type} [DecidableEq α] (d e : α) (t : Tab α) {k j : Nat} (v : α) (h : j ≠ k) :
    tget e (tput d t k v) j = tget e t j := by
  by_cases hv : v = d
  · simp [tput, hv, tget_tdel_other e t h]
  · simp only [tput, hv, if_false]
    rw [tget_tins_other e _ v h, tget_tdel_other e t h]

@[simp] theorem tget_tmod_same {α : Type} [DecidableEq α] (d : α) (t : Tab α) (k : Nat) (f : α → α) :
    tget d (tmod d t k f) k = f (tget d t k) := tget_tput_same d t k _

theorem tget_tmod_other {α : Type} [DecidableEq α] (d : α) (t : Tab α) {k j : Nat} (f : α → α) (h : j ≠ k) :
    tget d (tmod d t k f) j = tget d t j := tget_tput_other d t _ h

/-! ### The canonical form -/

/-- The canonical form in two parts: keys strictly rising, no entry equal to what an unlisted key reads as. -/
theorem tabWf_iff {α : Type} [DecidableEq α] (d : α) (t : Tab α) :
    tabWf d t = true ↔ t.Pairwise (fun a b => a.1 < b.1) ∧ ∀ e ∈ t, e.2 ≠ d := by
  induction t with
  | nil => simp [tabWf]
  | cons e t ih =>
    cases t with
    | nil => obtain ⟨j, v⟩ := e; simp [tabWf]
    | cons e' t' =>
      obtain ⟨j, v⟩ := e
      obtain ⟨k, w⟩ := e'
      rw [tabWf, Bool.and_eq_true, Bool.and_eq_true, ih]
      simp only [bne_iff_ne, decide_eq_true_eq, List.pairwise_cons, List.mem_cons, forall_eq_or_imp]
      constructor
      · rintro ⟨⟨hv, hjk⟩, ⟨hk, hp⟩, hw, hr⟩
        exact ⟨⟨⟨hjk, fun a ha => Nat.lt_trans hjk (hk a ha)⟩, hk, hp⟩, hv, hw, hr⟩
      · rintro ⟨⟨⟨hjk, _⟩, hk, hp⟩, hv, hw, hr⟩
        exact ⟨⟨hv, hjk⟩, ⟨hk, hp⟩, hw, hr⟩

/-- Leaving entries out keeps the form. -/
theorem tabWf_filter {α : Type} [DecidableEq α] {d : α} {t : Tab α} (p : Nat × α → Bool) (h : tabWf d t = true) :
    tabWf d (t.filter p) = true := by
  rw [tabWf_iff] at h ⊢
  exact ⟨h.1.filter p, fun e he => h.2 e (List.mem_filter.mp he).1⟩

theorem mem_tins {α : Type} (k : Nat) (v : α) (t : Tab α) (e : Nat × α) : e ∈ tins k v t ↔ e = (k, v) ∨ e ∈ t := by
  induction t with
  | nil => simp [tins]
  | cons x t ih =>
    obtain ⟨i, w⟩ := x
    by_cases hk : k < i
    · simp [tins, hk]
    · simp only [tins, hk, if_false, List.mem_cons, ih]
      constructor
      · rintro (h | h | h) <;> simp [h]
      · rintro (h | h | h) <;> simp [h]

theorem tins_pairwise {α : Type} (k : Nat) (v : α) (t : Tab α) (hp : t.Pairwise (fun a b => a.1 < b.1))
    (hk : ∀ e ∈ t, e.1 ≠ k) : (tins k v t).Pairwise (fun a b => a.1 < b.1) := by
  induction t with
  | nil => simp [tins]
  | cons x t ih =>
    obtain ⟨i, w⟩ := x
    have hi : i ≠ k := hk (i, w) (by simp)
    obtain ⟨h1, h2⟩ := List.pairwise_cons.mp hp
    by_cases hlt : k < i
    · simp only [tins, hlt, if_true]
      refine List.pairwise_cons.mpr ⟨?_, hp⟩
      intro e he
      rcases List.mem_cons.mp he with h | h
      · subst h; exact hlt
      · exact Nat.lt_trans hlt (h1 e h)
    · simp only [tins, hlt, if_false]
      refine List.pairwise_cons.mpr ⟨?_, ih h2 fun e he => hk e (by simp [he])⟩
      intro e he
      rcases (mem_tins k v t e).mp he with h | h
      · subst h; simp only; omega
      · exact h1 e h

/-- Putting an entry keeps the form. -/
theorem tabWf_tput {α : Type} [DecidableEq α] {d : α} {t : Tab α} (k : Nat) (v : α) (h : tabWf d t = true) :
    tabWf d (tput d t k v) = true := by
  have hd : tabWf d (tdel t k) = true := tabWf_filter _ h
  by_cases hv : v = d
  · simpa [tput, hv] using hd
  · simp only [tput, hv, if_false]
    rw [tabWf_iff] at hd ⊢
    refine ⟨tins_pairwise k v _ hd.1 (tdel_keys t k), fun e he => ?_⟩
    rcases (mem_tins k v _ e).mp he with h' | h'
    · subst h'; exact hv
    · exact hd.2 e h'

/-- Laying values at consecutive keys keeps the form. -/
theorem tabWf_tputs {α : Type} [DecidableEq α] {d : α} (vs : List α) :
    ∀ {t : Tab α} (k : Nat), tabWf d t = true → tabWf d (tputs d t k vs) = true := by
  induction vs with
  | nil => intro t k h; exact h
  | cons v vs ih => intro t k h; exact ih (k + 1) (tabWf_tput k v h)

/-- Storing consecutive bytes keeps memory canonical. -/
theorem memWrite_wf {m : List Host.Cell} (a : Nat) (bs : List Byte) (h : tabWf 0 m = true) :
    tabWf 0 (memWrite m a bs) = true := tabWf_tputs bs a h

/-- Storing a list of bytes keeps memory canonical. -/
theorem memPuts_wf (cs : List (Nat × Byte)) : ∀ {m : List Host.Cell}, tabWf 0 m = true → tabWf 0 (memPuts m cs) = true := by
  induction cs with
  | nil => intro m h; exact h
  | cons c cs ih => intro m h; exact ih (tabWf_tput c.1 c.2 h)

/-- Storing a list of bytes leaves every other address as it reads. -/
theorem memByte_memPuts_other (cs : List (Nat × Byte)) (a : Nat) (h : ∀ c ∈ cs, c.1 ≠ a) :
    ∀ m : List Host.Cell, memByte (memPuts m cs) a = memByte m a := by
  induction cs with
  | nil => intro m; rfl
  | cons c cs ih =>
    intro m
    have hc : a ≠ c.1 := fun hc => h c (by simp) hc.symm
    rw [show memPuts m (c :: cs) = memPuts (tput 0 m c.1 c.2) cs from rfl, ih fun e he => h e (by simp [he])]
    exact tget_tput_other 0 m c.2 hc

/-- Equal reads at every address and canonical form on both sides make two memories the same data. -/
theorem mem_ext {m n : List Host.Cell} (hm : tabWf 0 m = true) (hn : tabWf 0 n = true)
    (h : ∀ a, memByte m a = memByte n a) : m = n := by
  rw [tabWf_iff] at hm hn
  induction m generalizing n with
  | nil =>
    cases n with
    | nil => rfl
    | cons e n =>
      obtain ⟨j, v⟩ := e
      exact absurd (by simpa [memByte, tget] using (h j).symm) (hn.2 (j, v) (by simp))
  | cons e m ih =>
    obtain ⟨i, u⟩ := e
    have hi := h i
    have hu : u ≠ 0 := hm.2 (i, u) (by simp)
    cases n with
    | nil => exact absurd (by simpa [memByte, tget] using hi) hu
    | cons f n =>
      obtain ⟨j, v⟩ := f
      have hv : v ≠ 0 := hn.2 (j, v) (by simp)
      obtain ⟨hm1, hm2⟩ := List.pairwise_cons.mp hm.1
      obtain ⟨hn1, hn2⟩ := List.pairwise_cons.mp hn.1
      have low : ∀ (t : List Host.Cell) (a : Nat), (∀ e ∈ t, a < e.1) → memByte t a = 0 := by
        intro t
        induction t with
        | nil => intro a _; rfl
        | cons x t iht =>
          intro a ha
          have hx : x.1 ≠ a := by have := ha x (by simp); omega
          simp only [memByte, tget, hx, if_false]
          exact iht a fun e he => ha e (by simp [he])
      have hij : i = j := by
        rcases Nat.lt_trichotomy i j with hlt | heq | hgt
        · have h1 : memByte ((j, v) :: n) i = 0 := low _ i (by
            intro e he
            rcases List.mem_cons.mp he with h' | h'
            · subst h'; exact hlt
            · exact Nat.lt_trans hlt (hn1 e h'))
          rw [h1] at hi
          exact absurd (by simpa [memByte, tget] using hi) hu
        · exact heq
        · have h1 : memByte ((i, u) :: m) j = 0 := low _ j (by
            intro e he
            rcases List.mem_cons.mp he with h' | h'
            · subst h'; exact hgt
            · exact Nat.lt_trans hgt (hm1 e h'))
          have hj := h j
          rw [h1] at hj
          exact absurd (by simpa [memByte, tget] using hj.symm) hv
      subst hij
      have huv : u = v := by simpa [memByte, tget] using hi
      subst huv
      have htail : m = n := by
        refine ih ⟨hm2, fun e he => hm.2 e (by simp [he])⟩ ⟨hn2, fun e he => hn.2 e (by simp [he])⟩ fun a => ?_
        by_cases ha : i = a
        · subst ha
          rw [low m i hm1, low n i hn1]
        · have := h a
          simpa [memByte, tget, ha] using this
      rw [htail]

end Sys2Proof.Machine
end

