-- ==== Sys2Proof/Laws/Frames.lean ====
section
/-! SUPPORT. What the shared operations do to memory: all but the writers leave `State.mem` as it was, and
the writers keep its canonical form (`State.memWf`).  They are the pieces of the statement that every step
keeps the memory canonical; cite them and do not unfold the operations again.  Where the kernel answers a
proof over such an operation with deep recursion, rewrite with these lemmas by `rw`: a `simp` step by a
lemma that holds by `rfl` leaves the kernel to compare the two states by evaluation. -/

namespace Sys2Proof.Machine

/-! ## Machine/Ops.lean -/

theorem foldl_mem {α : Type} (l : List α) (g : State → α → State) (s : State) (h : ∀ t x, (g t x).mem = t.mem) :
    (l.foldl g s).mem = s.mem := by
  induction l generalizing s with
  | nil => rfl
  | cons x l ih => rw [List.foldl_cons, ih, h]

theorem foldl_wf {α : Type} (l : List α) (g : State → α → State) (s : State)
    (h : ∀ t x, t.memWf = true → (g t x).memWf = true) (hs : s.memWf = true) : (l.foldl g s).memWf = true := by
  induction l generalizing s with
  | nil => exact hs
  | cons x l ih => exact ih _ (h _ _ hs)

@[simp] theorem State.drawByte_mem (s : State) :
    (s.drawByte).2.mem = s.mem := by
  simp [State.drawByte]

@[simp] theorem State.drawWord_mem (s : State) :
    (s.drawWord).2.mem = s.mem := by
  simp [State.drawWord]

@[simp] theorem State.drawDword_mem (s : State) :
    (s.drawDword).2.mem = s.mem := by
  simp [State.drawDword]

@[simp] theorem State.drawChoice_mem (s : State) (n : Nat) :
    (s.drawChoice n).2.mem = s.mem := by
  simp [State.drawChoice]

/-! ## Machine/Wire.lean -/

@[simp] theorem State.pm_mem (s : State) (page code n : Nat) :
    (s.pm page code n).mem = s.mem := by
  unfold State.pm
  (repeat' split) <;> first | (refine (foldl_mem _ _ _ ?_).trans ?_ <;> grind [State.modReg_mem]) | grind [State.modReg_mem]

@[simp] theorem State.sendOne_mem (s : State) (p : PortId) :
    (s.sendOne p).mem = s.mem := by
  unfold State.sendOne
  (repeat' split) <;> simp_all

@[simp] theorem State.pump_mem (s : State) (p : PortId) (x0 : Nat) :
    (s.pump p x0).mem = s.mem := by
  fun_induction State.pump s p x0 <;> simp_all

@[simp] theorem State.enqueue_mem (s : State) (p : PortId) (k : Packet) :
    (s.enqueue p k).mem = s.mem := by
  simp [State.enqueue]

@[simp] theorem State.deliver_mem (s : State) (p : Option PortId) (k : Packet) :
    (s.deliver p k).mem = s.mem := by
  simp [State.deliver]

theorem State.takePacket_mem (s : State) (f : Packet → Bool) :
    ∀ out, s.takePacket f = some out → out.2.mem = s.mem := by
  intro out h
  obtain ⟨r, _, rfl⟩ := Option.map_eq_some_iff.mp h
  rfl

theorem State.sendMesh_mem (s : State) (k : Packet) :
    ∀ out, s.sendMesh k = some out → out.mem = s.mem := by
  unfold State.sendMesh
  grind [State.deliver_mem, State.enqueue_mem, State.pm_mem]

theorem State.sendSys_mem (s : State) (sys : Nat) (k : Packet) :
    ∀ out, s.sendSys sys k = some out → out.mem = s.mem := by
  unfold State.sendSys
  grind [State.sendMesh_mem]

theorem State.evtPacket_mem (s : State) (code : Nat) (detail : Dword) :
    ∀ out, s.evtPacket code detail = some out → out.mem = s.mem := by
  intro out h
  unfold State.evtPacket at h
  obtain ⟨t, ht, rfl⟩ := Option.map_eq_some_iff.mp h
  simp [State.sendSys_mem _ _ _ _ ht]

@[simp] theorem State.evtOnce_mem (s : State) (code : Nat) (detail : Dword) :
    (s.evtOnce code detail).mem = s.mem := by
  unfold State.evtOnce
  unfold Option.getD
  grind [State.evtPacket_mem, State.orReg_mem]

@[simp] theorem State.evtLost_mem (s : State) :
    (s.evtLost).mem = s.mem := by
  unfold State.evtLost
  dsimp only
  (repeat' split) <;> simp_all

@[simp] theorem State.evt_mem (s : State) (code : Nat) (detail : Dword) :
    (s.evt code detail).mem = s.mem := by
  unfold State.evt
  unfold Option.getD
  grind [State.evtLost_mem, State.evtOnce_mem, State.evtPacket_mem, State.orReg_mem]

@[simp] theorem State.errBit_mem (s : State) (page b : Nat) :
    (s.errBit page b).mem = s.mem := by
  unfold State.errBit
  split <;> simp_all

@[simp] theorem State.huskErr_mem (s : State) (page : Nat) :
    (s.huskErr page).mem = s.mem := by
  simp [State.huskErr]

@[simp] theorem State.err_mem (s : State) (page b : Nat) (info0 info1 : Dword) :
    (s.err page b info0 info1).mem = s.mem := by
  unfold State.err
  dsimp only
  (repeat' split) <;> simp_all

@[simp] theorem State.noRoute_mem (s : State) (p : PortId) (k : Packet) :
    (s.noRoute p k).mem = s.mem := by
  simp [State.noRoute]

/-! ## Machine/Store.lean -/

@[simp] theorem State.logError_mem (s : State) (group kind source flags w4 : Nat) :
    (s.logError group kind source flags w4).mem = s.mem := by
  simp [State.logError]

@[simp] theorem State.ecmErr_mem (s : State) (b group kind source : Nat) (addr : Bool) (index : Nat) :
    (s.ecmErr b group kind source addr index).mem = s.mem := by
  simp [State.ecmErr]

@[simp] theorem State.reportCe_mem (s : State) (g i src : Nat) (fix : BitVec 80) :
    (s.reportCe g i src fix).mem = s.mem := by
  unfold State.reportCe
  split <;> simp_all

@[simp] theorem State.reportUe_mem (s : State) (g i src : Nat) (addr : Bool) :
    (s.reportUe g i src addr).mem = s.mem := by
  simp [State.reportUe]

@[simp] theorem State.setUpset_mem (s : State) (g i : Nat) (m : BitVec 80) :
    (s.setUpset g i m).mem = s.mem := by
  unfold State.setUpset
  split <;> simp_all

@[simp] theorem State.readWord_mem (s : State) (src g i : Nat) :
    (s.readWord src g i).s.mem = s.mem := by
  unfold State.readWord
  dsimp only
  (repeat' split) <;> simp_all

@[simp] theorem State.encodeWord_mem (s : State) (g i : Nat) :
    (s.encodeWord g i).mem = s.mem := by
  unfold State.encodeWord
  split <;> simp_all

@[simp] theorem State.clearPoison_mem (s : State) (g i : Nat) :
    (s.clearPoison g i).mem = s.mem := by
  unfold State.clearPoison
  split <;> simp_all

@[simp] theorem State.writeWord_mem (s : State) (src g i : Nat) (full : Bool) :
    (s.writeWord src g i full).s.mem = s.mem := by
  unfold State.writeWord
  dsimp only
  (repeat' split) <;> simp_all

@[simp] theorem State.loadWords_mem (s : State) (src off : Nat) (x0 : Nat) :
    (s.loadWords src off x0).s.mem = s.mem := by
  fun_induction State.loadWords s src off x0 <;> grind [State.readWord_mem]

@[simp] theorem State.load_mem (s : State) (src off n : Nat) :
    (s.load src off n).s.mem = s.mem := by
  simp [State.load]

theorem State.storeWords_wf (s : State) (src : Nat) (x0 : List (Nat × List (Nat × Byte))) :
    s.memWf = true → (s.storeWords src x0).s.memWf = true := by
  intro hwf
  induction x0 generalizing s with
  | nil => exact hwf
  | cons e t ih =>
    obtain ⟨w, cs⟩ := e
    have hm := State.writeWord_mem s src (placeOf (8 * w)).1 (placeOf (8 * w)).2 (decide (8 ≤ cs.length))
    unfold State.storeWords
    dsimp only
    generalize s.writeWord src (placeOf (8 * w)).1 (placeOf (8 * w)).2 (decide (8 ≤ cs.length)) = r at hm ⊢
    have hr : r.s.memWf = true := by rw [State.memWf, hm]; exact hwf
    split
    · exact ih _ hr
    · refine ih _ ?_
      rw [State.memWf] at hr ⊢
      dsimp only
      split
      · exact memPuts_wf cs hr
      · exact memPuts_wf cs (memWrite_wf _ _ hr)

theorem State.storeCells_wf (s : State) (src : Nat) (cs : List (Nat × Byte)) :
    s.memWf = true → (s.storeCells src cs).s.memWf = true := by
  intro hwf
  unfold State.storeCells
  grind [State.memWf, State.storeWords_wf]

theorem State.store_wf (s : State) (src off : Nat) (bs : List Byte) :
    s.memWf = true → (s.store src off bs).s.memWf = true := by
  intro hwf
  unfold State.store
  grind [State.memWf, State.storeCells_wf]

@[simp] theorem State.cause_mem (s : State) (c : CoreId) (code : Byte) (host : Bool) :
    (s.cause c code host).mem = s.mem := by
  unfold State.cause
  dsimp only
  (repeat' split) <;> simp_all

/-! ## Machine/Operands.lean -/

@[simp] theorem State.fetchQuarter_mem (s : State) (c : CoreId) (idx : CsIndex) (q : Nat) :
    (s.fetchQuarter c idx q).s.mem = s.mem := by
  simp [State.fetchQuarter]

@[simp] theorem State.fetchCw_mem (s : State) (c : CoreId) (idx : CsIndex) :
    (s.fetchCw c idx).s.mem = s.mem := by
  simp [State.fetchCw]

@[simp] theorem State.writeCw_mem (s : State) (c : CoreId) (idx : CsIndex) (w : Cw) :
    (s.writeCw c idx w).mem = s.mem := by
  unfold State.writeCw
  (refine (foldl_mem _ _ _ ?_).trans ?_ <;> grind [State.updSeq_mem, State.writeWord_mem])

/-! ## Machine/Flags.lean -/

@[simp] theorem State.applyTake_mem (s : State) (c : CoreId) (d : Cond) :
    (s.applyTake c d).mem = s.mem := by
  unfold State.applyTake
  (repeat' split) <;> simp_all

@[simp] theorem State.applyTakes_mem (s : State) (c : CoreId) (w : Cw) :
    (s.applyTakes c w).mem = s.mem := by
  unfold State.applyTakes
  dsimp only
  (repeat' split) <;> simp_all

@[simp] theorem State.sigCounter_mem (s : State) (c : CoreId) (n op : Nat) :
    (s.sigCounter c n op).mem = s.mem := by
  unfold State.sigCounter
  dsimp only
  (repeat' split) <;> simp_all

@[simp] theorem State.fire_mem (s : State) (c : CoreId) (g : Sig) (n : Nat) :
    (s.fire c g n).mem = s.mem := by
  unfold State.fire
  dsimp only
  (repeat' split) <;> simp_all

@[simp] theorem State.done_mem (s : State) (c : CoreId) (e : QEntry) :
    (s.done c e).mem = s.mem := by
  unfold State.done
  split <;> simp_all

@[simp] theorem State.broadcast_mem (s : State) (m : CoreMsg) :
    (s.broadcast m).mem = s.mem := by
  unfold State.broadcast
  (refine (foldl_mem _ _ _ ?_).trans ?_ <;> grind [State.answer_mem])

@[simp] theorem State.setCf_mem (s : State) (n : BitVec 5) (v : Bool) :
    (s.setCf n v).mem = s.mem := by
  unfold State.setCf
  split <;> simp_all

@[simp] theorem State.barrierCheck_mem (s : State) (n : BitVec 5) :
    (s.barrierCheck n).mem = s.mem := by
  unfold State.barrierCheck
  dsimp only
  (repeat' split) <;> simp_all

@[simp] theorem State.setArrived_mem (s : State) (n : BitVec 5) (a : Byte) :
    (s.setArrived n a).mem = s.mem := by
  simp [State.setArrived]

@[simp] theorem State.barrierRecompute_mem (s : State) (n : BitVec 5) :
    (s.barrierRecompute n).mem = s.mem := by
  simp [State.barrierRecompute]

@[simp] theorem State.barriersRecompute_mem (s : State) :
    (s.barriersRecompute).mem = s.mem := by
  unfold State.barriersRecompute
  (refine (foldl_mem _ _ _ ?_).trans ?_ <;> grind [State.barrierRecompute_mem])

@[simp] theorem State.ccuSignal_mem (s : State) (c : CoreId) (n : BitVec 5) (op : BitVec 2) :
    (s.ccuSignal c n op).mem = s.mem := by
  unfold State.ccuSignal
  (repeat' split) <;> simp_all

/-! ## Machine/CoreOps.lean -/

@[simp] theorem State.seqErr_mem (s : State) (c : CoreId) (b cause slot : Nat) (cond0 cond1 addr detail : Nat) :
    (s.seqErr c b cause slot cond0 cond1 addr detail).mem = s.mem := by
  simp [State.seqErr]

@[simp] theorem State.seqRaise_mem (s : State) (c : CoreId) (b cause slot : Nat) (addr detail : Nat) (cond0 cond1 : Nat) :
    (s.seqRaise c b cause slot addr detail cond0 cond1).mem = s.mem := by
  simp [State.seqRaise]

@[simp] theorem State.updFills_mem (s : State) (f : List CscFill → List CscFill) :
    (s.updFills f).mem = s.mem := rfl

@[simp] theorem State.leaveFills_mem (s : State) (users : List TagUser) :
    (s.leaveFills users).mem = s.mem := by
  simp [State.leaveFills]

@[simp] theorem State.freeIf_mem (s : State) (p : Tag → Bool) :
    (s.freeIf p).mem = s.mem := by
  simp [State.freeIf]

@[simp] theorem State.freeUser_mem (s : State) (user : TagUser) :
    (s.freeUser user).mem = s.mem := by
  simp [State.freeUser]

@[simp] theorem State.hwm_mem (s : State) (page off lo n : Nat) :
    (s.hwm page off lo n).mem = s.mem := by
  unfold State.hwm
  split <;> simp_all

theorem State.allocTag_mem (s : State) (r : Nat) (user : TagUser) (addr sent : Nat) :
    ∀ out, s.allocTag r user addr sent = some out → out.2.mem = s.mem := by
  unfold State.allocTag
  dsimp only
  (repeat' split) <;> simp_all

theorem State.moreTag_mem (s : State) (r : Nat) (user : TagUser) (addr n : Nat) :
    ∀ out, s.moreTag r user addr n = some out → out.2.mem = s.mem := by
  intro out h
  unfold State.moreTag at h
  split at h
  · cases h; rfl
  · exact State.allocTag_mem _ _ _ _ _ _ h

theorem State.rqtPass_mem (s : State) (r addr : Nat) :
    ∀ out, s.rqtPass r addr = some out → out.mem = s.mem := by
  intro out h
  obtain ⟨x, hx, rfl⟩ := Option.map_eq_some_iff.mp h
  rw [State.freeUser_mem, State.allocTag_mem _ _ _ _ _ _ hx]

theorem State.rqtPassed_mem (s : State) (r addr : Nat) : ((s.rqtPass r addr).getD s).mem = s.mem := by
  cases h : s.rqtPass r addr with
  | none => rfl
  | some t => exact State.rqtPass_mem _ _ _ _ h

@[simp] theorem State.inboundSource_mem (s : State) (c : CoreId) (who : Inbound) :
    (s.inboundSource c who).2.mem = s.mem := by
  unfold State.inboundSource
  split <;> simp_all

@[simp] theorem State.cspErr_mem (s : State) (c : CoreId) (b kind : Nat) (who : Inbound) (off : Nat) :
    (s.cspErr c b kind who off).mem = s.mem := by
  unfold State.cspErr
  dsimp only
  (repeat' split) <;> simp_all

theorem cspLoaded_mem (c : CoreId) (who : Inbound) (base : Nat) (r : Loaded) :
    (cspLoaded c who base r).s.mem = r.s.mem := by
  unfold cspLoaded
  split
  · rfl
  · rw [State.pm_mem, State.cspErr_mem]

@[simp] theorem State.cspLoad_mem (s : State) (c : CoreId) (who : Inbound) (off n : Nat) :
    (s.cspLoad c who off n).s.mem = s.mem := by
  rw [State.cspLoad, cspLoaded_mem, State.load_mem, State.inboundSource_mem]

theorem State.cspStoreCells_wf (s : State) (c : CoreId) (who : Inbound) (cs : List (Nat × Byte)) :
    s.memWf = true → (s.cspStoreCells c who cs).s.memWf = true := by
  intro hwf
  unfold State.cspStoreCells
  grind [State.memWf, State.cspErr_mem, State.inboundSource_mem, State.pm_mem, State.storeCells_wf]

theorem State.cspStore_wf (s : State) (c : CoreId) (who : Inbound) (off : Nat) (bs : List Byte) :
    s.memWf = true → (s.cspStore c who off bs).s.memWf = true := by
  intro hwf
  unfold State.cspStore
  grind [State.memWf, State.cspStoreCells_wf]

@[simp] theorem State.gateRefuse_mem (s : State) (c : CoreId) (who : Inbound) (off : Nat) :
    (s.gateRefuse c who off).mem = s.mem := by
  simp [State.gateRefuse]

@[simp] theorem State.updSlot_mem (s : State) (i : SlotId) (f : TxSlot → TxSlot) :
    (s.updSlot i f).mem = s.mem := by
  simp [State.updSlot]

@[simp] theorem State.txLog_mem (s : State) (i : SlotId) (outcome scope : Nat) :
    (s.txLog i outcome scope).mem = s.mem := by
  simp [State.txLog]

@[simp] theorem State.dropLines_mem (s : State) (i : SlotId) :
    (s.dropLines i).mem = s.mem := by
  simp [State.dropLines]

@[simp] theorem State.txDiscard_mem (s : State) (c : CoreId) :
    (s.txDiscard c).mem = s.mem := by
  unfold State.txDiscard
  dsimp only
  (repeat' split) <;> simp_all

@[simp] theorem State.txOrphan_mem (s : State) (c : CoreId) :
    (s.txOrphan c).mem = s.mem := by
  simp [State.txOrphan]

@[simp] theorem State.ringsReset_mem (s : State) (c : CoreId) (start : Bool) :
    (s.ringsReset c start).mem = s.mem := by
  unfold State.ringsReset
  split <;> simp_all

@[simp] theorem State.syncReset_mem (s : State) (c : CoreId) :
    (s.syncReset c).mem = s.mem := by
  simp [State.syncReset]

@[simp] theorem State.startEngines_mem (s : State) (c : CoreId) :
    (s.startEngines c).mem = s.mem := by
  have h : (((s.syncReset c).ringsReset c true).setReg (pgMxe c) 0x118 0).mem = s.mem := by
    rw [State.setReg_mem, State.ringsReset_mem, State.syncReset_mem]
  unfold State.startEngines
  extract_lets s1 s2
  have h2 : s2.mem = s.mem := by
    simp only [s2]
    split
    · exact h
    · rw [State.pm_mem, State.bumpRf_mem, h]
  rw [State.updCore_mem, h2]

@[simp] theorem State.sweepTags_mem (s : State) (c : CoreId) :
    (s.sweepTags c).mem = s.mem := by
  simp [State.sweepTags]

@[simp] theorem State.abortEngines_mem (s : State) (c : CoreId) :
    (s.abortEngines c).mem = s.mem := by
  simp [State.abortEngines]

@[simp] theorem State.claimNow_mem (s : State) (c : CoreId) :
    (s.claimNow c).mem = s.mem := by
  simp [State.claimNow]

@[simp] theorem State.becomeIdle_mem (s : State) (c : CoreId) :
    (s.becomeIdle c).mem = s.mem := by
  unfold State.becomeIdle
  dsimp only
  (repeat' split) <;> simp_all

@[simp] theorem State.flushHeld_mem (s : State) (c : CoreId) :
    (s.flushHeld c).mem = s.mem := by
  unfold State.flushHeld
  dsimp only
  split <;> simp only [State.updSeq_mem, State.orReg_mem] <;> exact foldl_mem _ _ _ (by simp)

@[simp] theorem State.endTask_mem (s : State) (c : CoreId) (kind : EndKind) (cause : Byte) :
    (s.endTask c kind cause).mem = s.mem := by
  simp [State.endTask]

@[simp] theorem State.coreReset_mem (s : State) (c : CoreId) (pause : Bool) :
    (s.coreReset c pause).mem = s.mem := by
  have h : ∀ t : State, ((List.range 8).foldl (fun (u : State) b => u.resetRegs (corePage c b) fun off => !keptOffset off) t).mem = t.mem :=
    fun t => foldl_mem _ _ _ (by simp)
  unfold State.coreReset
  dsimp only
  split <;> simp [h]

/-! ## Machine/Seq.lean -/

@[simp] theorem State.issueWord_mem (s : State) (c : CoreId) (w table : Cw) :
    (s.issueWord c w table).mem = s.mem := by
  unfold State.issueWord
  dsimp only
  (repeat' split) <;> simp_all

@[simp] theorem State.badWord_mem (s : State) (c : CoreId) (w : Cw) (b : Bad) :
    (s.badWord c w b).mem = s.mem := by
  simp [State.badWord]

@[simp] theorem State.tableWord_mem (s : State) (c : CoreId) (w : Cw) :
    (s.tableWord c w).s.mem = s.mem := by
  unfold State.tableWord
  split <;> simp_all

@[simp] theorem State.takeRequest_mem (s : State) (c : CoreId) (w : Cw) (n : Option (BitVec 5) × Option (BitVec 5)) :
    (s.takeRequest c w n).mem = s.mem := by
  simp [State.takeRequest]

theorem State.tryIssue_mem (s held : State) (c : CoreId) (w table : Cw) (h : held.mem = s.mem) :
    (s.tryIssue held c w table).mem = s.mem := by
  unfold State.tryIssue
  dsimp only
  (repeat' split) <;> simp [h]

@[simp] theorem State.agDo_mem (s : State) (c : CoreId) (op : Nat) (f : AgLatch → Seq → Seq) :
    (s.agDo c op f).mem = s.mem := by
  unfold State.agDo
  (repeat' split) <;> simp_all

@[simp] theorem State.flowDo_mem (s : State) (c : CoreId) (op : Nat) (f : FlowLatch → Seq → Seq) :
    (s.flowDo c op f).mem = s.mem := by
  unfold State.flowDo
  (repeat' split) <;> simp_all

/-! ## Machine/TaskFlow.lean -/

@[simp] theorem State.popCcu_mem (s : State) (c : CoreId) :
    (s.popCcu c).mem = s.mem := by
  simp [State.popCcu]

@[simp] theorem State.popCore_mem (s : State) (c : CoreId) :
    (s.popCore c).mem = s.mem := by
  simp [State.popCore]

@[simp] theorem State.seeNone_mem (s : State) (c : CoreId) :
    (s.seeNone c).mem = s.mem := by
  unfold State.seeNone
  (repeat' split) <;> simp_all

@[simp] theorem State.mirrorEntry_mem (s : State) (j : Nat) (desc : List Byte) (who outcome : Nat) :
    (s.mirrorEntry j desc who outcome).mem = s.mem := by
  simp [State.mirrorEntry]

@[simp] theorem State.readSeqWord_mem (s : State) :
    (s.readSeqWord).2.mem = s.mem := by
  unfold State.readSeqWord
  split
  · rfl
  · split
    · rfl
    · rename_i p hp
      have h : (p.load 12 s.tlistBase 8).s.mem = s.mem := by rw [State.load_mem, State.rqtPass_mem _ _ _ _ hp]
      dsimp only
      (repeat' split) <;> simp only [State.updCcu_mem, State.err_mem, h]

@[simp] theorem State.serveClaim_mem (s : State) (c : CoreId) (n : Nat) (x0 : Nat) :
    (s.serveClaim c n x0).mem = s.mem := by
  induction x0 generalizing s with
  | zero => exact State.answer_mem _ _ _
  | succ k ih =>
    unfold State.serveClaim
    dsimp only
    split
    · exact State.answer_mem _ _ _
    · split <;> split <;>
        simp only [ih, State.updCcu_mem, State.answer_mem, State.mirrorEntry_mem, State.setRf_mem, State.bumpRf_mem,
          State.drawChoice_mem, State.load_mem, State.rqtPassed_mem]

@[simp] theorem State.startTask_mem (s : State) (c : CoreId) (t : Task) (init : Vector Addr 16) :
    (s.startTask c t init).mem = s.mem := by
  simp [State.startTask]

@[simp] theorem State.abortReg_mem (s : State) (c : CoreId) (cause cause2 : Nat) (host : Bool) :
    (s.abortReg c cause cause2 host).mem = s.mem := by
  simp [State.abortReg]

@[simp] theorem State.loadImage_mem (s : State) (c : CoreId) (idx : Nat) (bs : List Byte) (x0 : Nat) :
    (s.loadImage c idx bs x0).mem = s.mem := by
  fun_induction State.loadImage s c idx bs x0 <;> simp_all

@[simp] theorem State.voidImage_mem (s : State) (c : CoreId) (idx : Nat) (x0 : Nat) :
    (s.voidImage c idx x0).mem = s.mem := by
  fun_induction State.voidImage s c idx x0 <;> simp_all

@[simp] theorem State.takeReport_mem (s : State) (c : CoreId) (r : EndReport) :
    (s.takeReport c r).mem = s.mem := by
  have hf : ∀ t : State, ((List.range 32).foldl (fun (u : State) n =>
      u.setArrived (BitVec.ofNat 5 n) (setBit (u.arrived (BitVec.ofNat 5 n)) c false)) t).mem = t.mem :=
    fun t => foldl_mem _ _ _ (by simp)
  unfold State.takeReport
  dsimp only
  (repeat' split) <;> simp [hf]

@[simp] theorem State.beginAbort_mem (s : State) (c : CoreId) :
    (s.beginAbort c).mem = s.mem := by
  unfold State.beginAbort
  dsimp only
  (repeat' split) <;> simp_all

@[simp] theorem State.takeCauses_mem (s : State) (c : CoreId) :
    (s.takeCauses c).mem = s.mem := by
  unfold State.takeCauses
  split <;> simp_all

/-! ## Machine/Sync.lean -/

@[simp] theorem State.clearTaken_mem (s : State) (n : Option (BitVec 5)) :
    (s.clearTaken n).mem = s.mem := by
  unfold State.clearTaken
  split <;> simp_all

/-! ## Machine/Tiles.lean -/

@[simp] theorem State.trfWords_mem (s : State) (c : CoreId) (src a : Nat) (x0 : Nat) :
    (s.trfWords c src a x0).s.mem = s.mem := by
  fun_induction State.trfWords s c src a x0 <;> grind [State.drawDword_mem, State.readWord_mem]

@[simp] theorem State.trfLoad_mem (s : State) (c : CoreId) (src a n : Nat) :
    (s.trfLoad c src a n).s.mem = s.mem := by
  simp [State.trfLoad]

@[simp] theorem State.trfStoreWords_mem (s : State) (c : CoreId) (src : Nat) (x0 : List (Nat × List (Nat × Byte))) :
    (s.trfStoreWords c src x0).s.mem = s.mem := by
  fun_induction State.trfStoreWords s c src x0 <;> grind [State.updTrf_mem, State.writeWord_mem]

@[simp] theorem State.trfStore_mem (s : State) (c : CoreId) (src : Nat) (cs : List (Nat × Byte)) :
    (s.trfStore c src cs).s.mem = s.mem := by
  simp [State.trfStore]

@[simp] theorem State.trfUeErr_mem (s : State) (c : CoreId) (cw opcode tile row line : Nat) :
    (s.trfUeErr c cw opcode tile row line).mem = s.mem := by
  simp [State.trfUeErr]

@[simp] theorem State.trfUe_mem (s : State) (c : CoreId) (cw : CsIndex) (opcode : Nat) (ts : List Nat) (line : Nat) :
    (s.trfUe c cw opcode ts line).mem = s.mem := by
  simp [State.trfUe]

@[simp] theorem State.logEvent_mem (s : State) (kind source flags : Nat) (w4 : Option Nat) :
    (s.logEvent kind source flags w4).mem = s.mem := by
  unfold State.logEvent
  dsimp only
  (repeat' split) <;> simp_all

@[simp] theorem State.parityError_mem (s : State) (c : CoreId) (page b : Nat) (info0 info1 : Nat) :
    (s.parityError c page b info0 info1).mem = s.mem := by
  simp [State.parityError]

/-! ## Machine/Mem.lean -/

@[simp] theorem State.dbgWords_mem (s : State) (c : CoreId) (src off : Nat) (x0 : Nat) :
    (s.dbgWords c src off x0).s.mem = s.mem := by
  fun_induction State.dbgWords s c src off x0 <;> grind [State.err_mem, State.trfLoad_mem, State.trfUeErr_mem]

@[simp] theorem State.dbgLoad_mem (s : State) (c : CoreId) (src off n : Nat) :
    (s.dbgLoad c src off n).s.mem = s.mem := by
  simp [State.dbgLoad]

theorem foldl_mem_of {α β : Type} (l : List α) (g : β → α → β) (p : β → State) (a : β)
    (h : ∀ b x, (p (g b x)).mem = (p b).mem) : (p (l.foldl g a)).mem = (p a).mem := by
  induction l generalizing a with
  | nil => rfl
  | cons x l ih => rw [List.foldl_cons, ih, h]

@[simp] theorem State.lineWords_mem (s : State) (src : Nat) (place : Nat → Nat × Nat) (data : Tab Byte) (need : Nat → Bool) :
    (s.lineWords src place data need).s.mem = s.mem := by
  unfold State.lineWords
  refine foldl_mem_of _ _ LineRead.s _ fun g i => ?_
  dsimp only
  split <;> simp

@[simp] theorem State.cscLoad_mem (s : State) (src : Nat) (l : CscLine) (need : Nat → Bool) :
    (s.cscLoad src l need).s.mem = s.mem := by
  unfold State.cscLoad
  dsimp only
  (repeat' split) <;> simp_all

@[simp] theorem State.cscRoom_mem (s : State) (line : Nat) :
    (s.cscRoom line).mem = s.mem := by
  unfold State.cscRoom
  dsimp only
  (repeat' split) <;> simp_all

@[simp] theorem State.cscAlloc_mem (s : State) (src line : Nat) (bs : List Byte) :
    (s.cscAlloc src line bs).mem = s.mem := by
  unfold State.cscAlloc
  split <;> simp [foldl_mem]

@[simp] theorem State.cscDrop_mem (s : State) (line : Nat) :
    (s.cscDrop line).mem = s.mem := by
  unfold State.cscDrop
  split <;> simp_all

@[simp] theorem State.txDoom_mem (s : State) (i : SlotId) (reason : Nat) (holder : Nat) :
    (s.txDoom i reason holder).mem = s.mem := by
  unfold State.txDoom
  (repeat' split) <;> simp_all

@[simp] theorem State.txOverwritten_mem (s : State) (line : Nat) :
    (s.txOverwritten line).mem = s.mem := by
  unfold State.txOverwritten
  split <;> simp_all

@[simp] theorem State.cscWrite_mem (s : State) (src line : Nat) (cs : List (Nat × Byte)) :
    (s.cscWrite src line cs).mem = s.mem := by
  have hf : ∀ (ws : List Nat) (full : Nat → Bool) (t : State), (ws.foldl (fun (t : State) w =>
      (t.writeWord src (cscWord line w).1 (cscWord line w).2 (full w)).s) t).mem = t.mem :=
    fun ws full t => foldl_mem _ _ _ (by simp)
  unfold State.cscWrite
  dsimp only
  (repeat' split) <;> simp [hf]

@[simp] theorem State.sendRequest_mem (s : State) (sys : Nat) (k : Packet) :
    (s.sendRequest sys k).mem = s.mem := by
  unfold State.sendRequest
  grind [State.deliver_mem, State.drawChoice_mem, State.noRoute_mem, State.sendSys_mem]

theorem State.launch_mem (s : State) (r : Nat) (user : TagUser) (dev loc : Nat) (pkts : BitVec 11 → List (Nat × Packet)) :
    ∀ out, s.launch r user dev loc pkts = some out → out.mem = s.mem := by
  intro out h
  unfold State.launch at h
  split at h
  · cases h
  · split at h
    · cases h
    · rename_i tag t ht
      cases h
      exact (foldl_mem _ _ _ (by simp)).trans (State.allocTag_mem _ _ _ _ _ _ ht)

@[simp] theorem State.cscLook_mem (s : State) (user : TagUser) (line : Nat) : (s.cscLook user line).2.mem = s.mem := by
  unfold State.cscLook
  dsimp only
  (repeat' split) <;> simp

@[simp] theorem State.cscLooks_mem (s : State) (user : TagUser) (ls : List Nat) : (s.cscLooks user ls).2.mem = s.mem := by
  induction ls generalizing s with
  | nil => rfl
  | cons l ls ih => simp [State.cscLooks, ih]

theorem State.launchRead_mem (s : State) (r unit : Nat) (user : TagUser) (dev : Nat) (rs : Runs) :
    ∀ out, s.launchRead r unit user dev rs = some out → out.mem = s.mem := by
  unfold State.launchRead
  grind [State.cscLooks_mem, State.launch_mem]

theorem State.launchWrite_mem (s : State) (r unit : Nat) (user : TagUser) (dev : Nat) (cs : List (Nat × Byte)) :
    ∀ out, s.launchWrite r unit user dev cs = some out → out.mem = s.mem := by
  intro out h
  unfold State.launchWrite at h
  dsimp only at h
  split at h
  · exact State.launch_mem _ _ _ _ _ _ _ h
  · obtain ⟨t, ht, rfl⟩ := Option.map_eq_some_iff.mp h
    exact (foldl_mem _ _ _ (by simp)).trans (State.launch_mem _ _ _ _ _ _ _ ht)
  · exact State.launch_mem _ _ _ _ _ _ _ h
  all_goals cases h; rfl

@[simp] theorem State.takeTag_mem (s : State) (user : TagUser) :
    (s.takeTag user).mem = s.mem := by
  unfold State.takeTag
  split <;> simp_all

@[simp] theorem State.cscFilled_mem (s : State) (src line : Nat) (cs : List (Nat × Byte)) (x0 : Reply) :
    (s.cscFilled src line cs x0).s.mem = s.mem := by
  unfold State.cscFilled
  dsimp only
  (repeat' split) <;> simp_all

@[simp] theorem State.cscReturn_mem (s : State) (src : Nat) (f : CscFill) (rep : Reply) :
    (s.cscReturn src f rep).s.mem = s.mem := by
  simp [State.cscReturn]

@[simp] theorem State.cscOrphan_mem (s : State) (src : Nat) (user : TagUser) (loc n : Nat) (rep : Reply) :
    (s.cscOrphan src user loc n rep).mem = s.mem := by
  unfold State.cscOrphan
  (refine (foldl_mem _ _ _ ?_).trans ?_ <;> grind [State.cscReturn_mem])

@[simp] theorem State.extLine_mem (s : State) (src : Nat) (user : TagUser) (line : Nat) (rep : Reply) (need : Nat → Bool) :
    (s.extLine src user line rep need).1.s.mem = s.mem := by
  unfold State.extLine
  dsimp only
  (repeat' split) <;> simp_all

@[simp] theorem State.extLines_mem (s : State) (src : Nat) (user : TagUser) (rs : Runs) (rep : Reply) (x0 : List Nat) :
    (s.extLines src user rs rep x0).s.mem = s.mem := by
  fun_induction State.extLines s src user rs rep x0 <;> grind [State.err_mem, State.extLine_mem]

@[simp] theorem State.cmRead_mem (s : State) (src off n : Nat) :
    (s.cmRead src off n).s.mem = s.mem := by
  unfold State.cmRead
  split <;> simp_all

@[simp] theorem State.cspRead_mem (s : State) (c : CoreId) (who : Inbound) (off n : Nat) :
    (s.cspRead c who off n).s.mem = s.mem := by
  unfold State.cspRead
  dsimp only
  (repeat' split) <;> simp

theorem State.cspWrite_wf (s : State) (c : CoreId) (who : Inbound) (cs : List (Nat × Byte)) :
    s.memWf = true → (s.cspWrite c who cs).s.memWf = true := by
  intro hwf
  unfold State.cspWrite
  grind [State.memWf, State.cspStoreCells_wf, State.gateRefuse_mem, State.pm_mem]

theorem readRuns_mem (f : State → Nat → Nat → Got) (h : ∀ t a n, (f t a n).s.mem = t.mem) (rs : Runs) (s : State) :
    (readRuns f rs s).s.mem = s.mem := by
  induction rs generalizing s with
  | nil => rfl
  | cons r rs ih => simp [readRuns, ih, h]

@[simp] theorem State.readFar_mem (s : State) (c : CoreId) (user : TagUser) (dev : Nat) (rs : Runs) (rep : Reply) :
    (s.readFar c user dev rs rep).s.mem = s.mem := by
  unfold State.readFar
  dsimp only
  split
  · exact readRuns_mem _ (by simp) _ _
  · exact readRuns_mem _ (by simp) _ _
  · exact readRuns_mem _ (fun t a n => by split <;> simp) _ _
  · split <;> simp
  · rfl
  · rfl

theorem State.writeFar_wf (s : State) (c : CoreId) (dev : Nat) (cs : List (Nat × Byte)) (rep : Reply) :
    s.memWf = true → (s.writeFar c dev cs rep).s.memWf = true := by
  intro hwf
  unfold State.writeFar
  grind [State.memWf, State.cspWrite_wf, State.storeCells_wf]

@[simp] theorem State.wprRefuse_mem (s : State) (c : CoreId) (dev loc : Nat) :
    (s.wprRefuse c dev loc).mem = s.mem := by
  simp [State.wprRefuse]

@[simp] theorem State.cchErr_mem (s : State) (c : CoreId) (b kind cw op scope addr : Nat) :
    (s.cchErr c b kind cw op scope addr).mem = s.mem := by
  simp [State.cchErr]

@[simp] theorem State.cchLoad_mem (s : State) (c : CoreId) (l : CchLine) (need : Nat → Bool) :
    (s.cchLoad c l need).s.mem = s.mem := by
  simp [State.cchLoad]

theorem State.writeBack_wf (s : State) (c : CoreId) (l : CchLine) (cw op : Nat) :
    s.memWf = true → (s.writeBack c l cw op).s.memWf = true := by
  intro hwf
  unfold State.writeBack
  grind [State.memWf, State.cchLoad_mem, State.launchWrite_mem, State.pm_mem, State.rqtPass_mem, State.storeCells_wf]

@[simp] theorem State.lineFails_mem (s : State) (c : CoreId) (b kind cause cw op line : Nat) :
    (s.lineFails c b kind cause cw op line).mem = s.mem := by
  unfold State.lineFails
  dsimp only
  (repeat' split) <;> simp_all

@[simp] theorem State.writeBackFails_mem (s : State) (c : CoreId) (w : WroteBack) (cw op line : Nat) :
    (s.writeBackFails c w cw op line).mem = s.mem := by
  unfold State.writeBackFails
  grind [State.lineFails_mem]

theorem State.cchRoom_wf (s : State) (c : CoreId) (line cw op : Nat) :
    s.memWf = true → ∀ out, s.cchRoom c line cw op = some out → out.memWf = true := by
  intro hwf
  unfold State.cchRoom
  grind [State.memWf, State.updCch_mem, State.writeBackFails_mem, State.writeBack_wf]

theorem State.cchAlloc_wf (s : State) (c : CoreId) (line : Nat) (bs : List Byte) (cw op : Nat) :
    s.memWf = true → ∀ out, s.cchAlloc c line bs cw op = some out → out.memWf = true := by
  intro hwf out h
  obtain ⟨t, ht, rfl⟩ := Option.map_eq_some_iff.mp h
  have := State.cchRoom_wf _ _ _ _ _ hwf _ ht
  rw [State.memWf] at this ⊢
  rw [State.updCch_mem, foldl_mem _ _ _ (by simp)]
  exact this

@[simp] theorem State.cchFetch_mem (s : State) (c : CoreId) (u : CchUse) (line : Nat) (rep : Reply) :
    (s.cchFetch c u line rep).1.s.mem = s.mem := by
  unfold State.cchFetch
  dsimp only
  (repeat' split) <;> simp_all

theorem State.cchLine_wf (s : State) (c : CoreId) (u : CchUse) (line : Nat) (rep : Reply) (lo hi : Nat) (fill : Bool) :
    s.memWf = true → (s.cchLine c u line rep lo hi fill).1.s.memWf = true := by
  intro hwf
  have hf : (((s.pm (pgCch c) 0x02 1).cchFetch c u line rep).1.s).memWf = true := by
    rw [State.memWf, State.cchFetch_mem, State.pm_mem]; exact hwf
  unfold State.cchLine
  split
  · dsimp only
    split <;> simpa [State.memWf] using hwf
  · generalize (s.pm (pgCch c) 0x02 1).cchFetch c u line rep = x at hf ⊢
    obtain ⟨x, rep1⟩ := x
    dsimp only
    split
    · exact hf
    · split
      · exact hf
      · split
        · exact hf
        · split
          · rename_i t ht
            exact State.cchAlloc_wf _ _ _ _ _ _ hf _ ht
          · exact hwf

theorem State.cchLines_wf (s : State) (c : CoreId) (u : CchUse) (rep : Reply) (loc n : Nat) (x0 : List Nat) :
    s.memWf = true → (s.cchLines c u rep loc n x0).s.memWf = true := by
  intro hwf
  fun_induction State.cchLines s c u rep loc n x0 <;> grind [State.memWf, State.cchLine_wf, State.err_mem]

@[simp] theorem State.cchMerge_mem (s : State) (c : CoreId) (line : Nat) (cs : List (Nat × Byte)) :
    (s.cchMerge c line cs).2.mem = s.mem := by
  have hf : ∀ (l : CchLine) (ws : List Nat) (full : Nat → Bool) (a : Bool × State),
      (ws.foldl (fun (a : Bool × State) w =>
        (a.1 || (a.2.writeWord c (cchWord c l w).1 (cchWord c l w).2 (full w)).ue,
          (a.2.writeWord c (cchWord c l w).1 (cchWord c l w).2 (full w)).s)) a).2.mem = a.2.mem :=
    fun l ws full a => foldl_mem_of _ _ Prod.snd _ (by simp)
  unfold State.cchMerge
  split
  · rfl
  · dsimp only
    split <;> simp [hf]

/-! ## Machine/Mxe.lean -/

@[simp] theorem State.mxErr_mem (s : State) (c : CoreId) (b cause info0 info1 : Nat) :
    (s.mxErr c b cause info0 info1).mem = s.mem := by
  simp [State.mxErr]

@[simp] theorem State.mxHeadErr_mem (s : State) (c : CoreId) (e : QEntry) (x : MxExam) :
    (s.mxHeadErr c e x).mem = s.mem := by
  unfold State.mxHeadErr
  split <;> simp_all

@[simp] theorem State.tileRows_mem (s : State) (c : CoreId) (x0 : List (Nat × Nat)) :
    (s.tileRows c x0).s.mem = s.mem := by
  fun_induction State.tileRows s c x0 <;> grind [State.trfLoad_mem]

@[simp] theorem State.edgeRead_mem (s : State) (c : CoreId) (latch : Option EdgeLatch) (edgeA : Bool) (block steps : Nat) (tiles : List (Nat × Nat)) :
    (s.edgeRead c latch edgeA block steps tiles).s.mem = s.mem := by
  unfold State.edgeRead
  grind [State.pm_mem, State.tileRows_mem]

@[simp] theorem State.mmaPass_mem (s : State) (c : CoreId) (b : BitVec 40) (checked : Bool) (p : Nat) (latch : Option EdgeLatch) (p0 : PassAcc) :
    (s.mmaPass c b checked p latch p0).s.mem = s.mem := by
  unfold State.mmaPass
  dsimp only
  (repeat' split) <;> simp_all

@[simp] theorem State.hrPass_mem (s : State) (c : CoreId) (b : BitVec 40) (checked : Bool) (p0 : PassAcc) :
    (s.hrPass c b checked p0).s.mem = s.mem := by
  simp [State.hrPass]

@[simp] theorem State.endPass_mem (s : State) (c : CoreId) (r : MxRun) (latch : Option EdgeLatch) (p : Nat) :
    (s.endPass c r latch p).2.mem = s.mem := by
  unfold State.endPass
  dsimp only
  (repeat' split) <;> simp_all

/-! ## Machine/Tlu.lean -/

@[simp] theorem State.tluErr_mem (s : State) (c : CoreId) (b info0 info1 : Nat) :
    (s.tluErr c b info0 info1).mem = s.mem := by
  simp [State.tluErr]

@[simp] theorem State.tluAbort_mem (s : State) (c : CoreId) (b cause info0 info1 : Nat) :
    (s.tluAbort c b cause info0 info1).mem = s.mem := by
  simp [State.tluAbort]

@[simp] theorem State.lsShapeBad_mem (s : State) (c : CoreId) (e : QEntry) (tile : Nat) :
    (s.lsShapeBad c e tile).mem = s.mem := by
  simp [State.lsShapeBad]

@[simp] theorem State.updOp_mem (s : State) (c : CoreId) (num : Nat) (f : TluOp → TluOp) :
    (s.updOp c num f).mem = s.mem := by
  simp [State.updOp]

theorem State.rowRequest_mem (s : State) (c : CoreId) (e : QEntry) (i n : Nat) (write : Bool) (f : State → Option State)
    (hf : ∀ t out, f t = some out → out.mem = t.mem) :
    ∀ out, s.rowRequest c e i n write f = some out → out.mem = s.mem := by
  intro out h
  unfold State.rowRequest at h
  dsimp only at h
  split at h
  · cases h; simp
  · split at h
    · cases h; simp
    · rw [hf _ _ h, State.updOp_mem]

theorem State.tldRequest_mem (s : State) (c : CoreId) (e : QEntry) (n i : Nat) :
    ∀ out, s.tldRequest c e n i = some out → out.mem = s.mem := by
  unfold State.tldRequest
  refine State.rowRequest_mem _ _ _ _ _ _ _ fun t out h => ?_
  dsimp only at h
  (repeat' split at h) <;> first | (cases h; rfl) | exact State.launchRead_mem _ _ _ _ _ _ _ h

theorem State.tstRequest_mem (s : State) (c : CoreId) (e : QEntry) (bs : List Byte) (i : Nat) :
    ∀ out, s.tstRequest c e bs i = some out → out.mem = s.mem := by
  unfold State.tstRequest
  refine State.rowRequest_mem _ _ _ _ _ _ _ fun t out h => ?_
  dsimp only at h
  split at h
  · cases h; simp
  · split at h
    · split at h
      · cases h; rfl
      · exact State.launchRead_mem _ _ _ _ _ _ _ h
    · have := State.launchWrite_mem _ _ _ _ _ _ _ h
      split at this <;> simpa using this

@[simp] theorem State.tstFinish_mem (s : State) (c : CoreId) (num : Nat) :
    (s.tstFinish c num).mem = s.mem := by
  unfold State.tstFinish
  grind [State.done_mem, State.updTrf_mem]

theorem State.tldRead_wf (s : State) (c : CoreId) (o : TluOp) (row n : Nat) (rep : Reply) :
    s.memWf = true → (s.tldRead c o row n rep).s.memWf = true := by
  intro hwf
  unfold State.tldRead
  grind [State.memWf, State.cchLines_wf, State.readFar_mem]

@[simp] theorem State.tldFinish_mem (s : State) (c : CoreId) (num : Nat) :
    (s.tldFinish c num).mem = s.mem := by
  unfold State.tldFinish
  dsimp only
  (repeat' split) <;> simp_all

@[simp] theorem State.poisonRow_mem (s : State) (c : CoreId) (o : TluOp) (row kind : Nat) :
    (s.poisonRow c o row kind).mem = s.mem := by
  unfold State.poisonRow
  dsimp only
  (repeat' split) <;> simp_all

@[simp] theorem State.landRow_mem (s : State) (c : CoreId) (o : TluOp) (row : Nat) (bs : List Byte) :
    (s.landRow c o row bs).mem = s.mem := by
  unfold State.landRow
  split <;> simp_all

@[simp] theorem State.dropRow_mem (s : State) (c : CoreId) (o : TluOp) (row : Nat) :
    (s.dropRow c o row).mem = s.mem := by
  simp [State.dropRow]

@[simp] theorem State.tstFault_mem (s : State) (c : CoreId) (o : TluOp) (row kind cause : Nat) :
    (s.tstFault c o row kind cause).mem = s.mem := by
  unfold State.tstFault
  dsimp only
  (repeat' split) <;> simp_all

theorem State.cchStoreRow_wf (s : State) (c : CoreId) (u : CchUse) (loc : Nat) (bs : List Byte) (rep : Reply) (ls : List Nat) :
    s.memWf = true → (s.cchStoreRow c u loc bs rep ls).s.memWf = true := by
  intro hwf
  induction ls generalizing s rep with
  | nil => exact hwf
  | cons l ls ih =>
    unfold State.cchStoreRow
    dsimp only
    generalize hg : (if (lineCells l (cellsAt loc bs)).length ≠ 128 then s.cchLine c u l rep 0 0 true
      else if ((s.core c).cch.find l).isSome then ((⟨[], none, s.pm (pgCch c) 0x01 1⟩ : Got), rep)
      else match (s.pm (pgCch c) 0x02 1).cchAlloc c l (List.replicate 128 0) u.cw u.op with
        | some t => (⟨[], none, t⟩, rep)
        | none => (⟨[], some .busy, s⟩, rep)) = x
    have hx : x.1.s.memWf = true := by
      subst hg
      split
      · exact State.cchLine_wf _ _ _ _ _ _ _ _ hwf
      · split
        · simpa [State.memWf] using hwf
        · split
          · rename_i t ht
            exact State.cchAlloc_wf _ _ _ _ _ _ (by simpa [State.memWf] using hwf) _ ht
          · exact hwf
    split
    · exact hx
    · split
      · exact ih _ _ (by simpa [State.memWf] using hx)
      · simpa [State.memWf] using hx

theorem State.tstWrite_wf (s : State) (c : CoreId) (o : TluOp) (row : Nat) (bs : List Byte) (rep : Reply) :
    s.memWf = true → (s.tstWrite c o row bs rep).s.memWf = true := by
  intro hwf
  unfold State.tstWrite
  grind [State.memWf, State.cchStoreRow_wf, State.writeFar_wf]

@[simp] theorem State.rowAccepted_mem (s : State) (c : CoreId) (o : TluOp) (row : Nat) :
    (s.rowAccepted c o row).mem = s.mem := by
  simp [State.rowAccepted]

/-! ## Machine/ChanOps.lean -/

@[simp] theorem State.updBind_mem (s : State) (c : CoreId) (n : Nat) (f : Binding → Binding) :
    (s.updBind c n f).mem = s.mem := by
  simp [State.updBind]

@[simp] theorem State.updPortOf_mem (s : State) (c : CoreId) (p : Nat) (f : LandPort → LandPort) :
    (s.updPortOf c p f).mem = s.mem := by
  simp [State.updPortOf]

@[simp] theorem State.chnAbort_mem (s : State) (c : CoreId) (b cause : Nat) (w : ChWho) (kind : Nat) (ch port detail need credits : Nat) :
    (s.chnAbort c b cause w kind ch port detail need credits).mem = s.mem := by
  simp [State.chnAbort]

@[simp] theorem State.linkPut_mem (s : State) (c d : CoreId) (m : LinkMsg) :
    (s.linkPut c d m).mem = s.mem := by
  unfold State.linkPut
  split <;> simp_all

theorem State.linkTake_mem (s : State) (a b : CoreId) :
    ∀ out, s.linkTake a b = some out → out.2.mem = s.mem := by
  unfold State.linkTake
  split <;> simp_all

@[simp] theorem State.meshPut_mem (s : State) (c : CoreId) (request : Bool) (ch : Nat) (k : Packet) :
    (s.meshPut c request ch k).mem = s.mem := by
  unfold State.meshPut
  grind [State.bumpRf_mem, State.deliver_mem, State.drawChoice_mem, State.noRoute_mem, State.sendMesh_mem]

@[simp] theorem State.emit_mem (s : State) (c : CoreId) (n units : Nat) (pad : Bool) (bs : List Byte) (cw : CsIndex) (e : Option QEntry) :
    (s.emit c n units pad bs cw e).mem = s.mem := by
  have hf : ∀ (ks : List Packet) (t : State), (ks.foldl (fun t k => t.meshPut c true n k) t).mem = t.mem :=
    fun ks t => foldl_mem _ _ _ (by simp)
  unfold State.emit
  dsimp only
  (repeat' split) <;> simp [hf]

@[simp] theorem State.sendRefused_mem (s : State) (c : CoreId) (n units : Nat) (w : ChWho) (tooBig : Bool) :
    (s.sendRefused c n units w tooBig).mem = s.mem := by
  unfold State.sendRefused
  dsimp only
  (repeat' split) <;> simp_all

@[simp] theorem State.creditBack_mem (s : State) (c : CoreId) (r : LogRec) :
    (s.creditBack c r).mem = s.mem := by
  unfold State.creditBack
  split <;> simp_all

@[simp] theorem State.ackBack_mem (s : State) (c : CoreId) (r : LogRec) (stale : Bool) :
    (s.ackBack c r stale).mem = s.mem := by
  unfold State.ackBack
  dsimp only
  (repeat' split) <;> simp_all

@[simp] theorem State.releaseIf_mem (s : State) (c : CoreId) (port : Nat) (p : LogRec → Bool) :
    (s.releaseIf c port p).mem = s.mem := by
  unfold State.releaseIf
  (refine (foldl_mem _ _ _ ?_).trans ?_ <;> grind [State.creditBack_mem, State.updPortOf_mem])

@[simp] theorem State.releasePads_mem (s : State) (c : CoreId) (port : Nat) :
    (s.releasePads c port).mem = s.mem := by
  simp [State.releasePads]

@[simp] theorem State.releaseOldest_mem (s : State) (c : CoreId) (port n : Nat) :
    (s.releaseOldest c port n).mem = s.mem := by
  simp [State.releaseOldest]

/-! ## Machine/Vxe.lean -/

@[simp] theorem State.spillOvf_mem (s : State) (c : CoreId) (e : QEntry) (n : Nat) (under : Bool) (pos bytes : Nat) :
    (s.spillOvf c e n under pos bytes).mem = s.mem := by
  simp [State.spillOvf]

theorem State.ringTake_mem (s : State) (c : CoreId) (n bytes : Nat) :
    ∀ out, s.ringTake c n bytes = some out → out.mem = s.mem := by
  simp [State.ringTake]

theorem State.ringPut_mem (s : State) (c : CoreId) (n bytes : Nat) :
    ∀ out, s.ringPut c n bytes = some out → out.mem = s.mem := by
  simp [State.ringPut]

@[simp] theorem State.vxAbort_mem (s : State) (c : CoreId) (e : QEntry) (b cause stage cond info1 : Nat) :
    (s.vxAbort c e b cause stage cond info1).mem = s.mem := by
  simp [State.vxAbort]

@[simp] theorem State.vxHeadErr_mem (s : State) (c : CoreId) (e : QEntry) (x : VxExam) :
    (s.vxHeadErr c e x).mem = s.mem := by
  unfold State.vxHeadErr
  split <;> simp_all

@[simp] theorem State.vxRings_mem (s : State) (c : CoreId) (x0 : List (Bool × Nat × Nat)) :
    (s.vxRings c x0).2.2.mem = s.mem := by
  fun_induction State.vxRings s c x0 <;> grind [State.ringPut_mem, State.ringTake_mem]

@[simp] theorem State.updReading_mem (s : State) (c : CoreId) (f : VxAct → VxAct) :
    (s.updReading c f).mem = s.mem := by
  simp [State.updReading]

theorem State.vxOutCsp_wf (s : State) (c : CoreId) (h : Chain) (a : VxAct) (els : List (Nat × Bool)) :
    s.memWf = true → (s.vxOutCsp c h a els).s.memWf = true := by
  intro hwf
  unfold State.vxOutCsp
  grind [State.memWf, State.cspStoreCells_wf]

@[simp] theorem State.vxRss_mem (s : State) (c : CoreId) (h : Chain) (a : VxAct) :
    (s.vxRss c h a).mem = s.mem := by
  unfold State.vxRss
  (refine (foldl_mem _ _ _ ?_).trans ?_ <;> grind [State.updVxe_mem])

@[simp] theorem State.vxSum_mem (s : State) (c : CoreId) (h : Chain) (a : VxAct) :
    (s.vxSum c h a).mem = s.mem := by
  simp [State.vxSum]

@[simp] theorem State.vxDone_mem (s : State) (c : CoreId) (a : VxAct) :
    (s.vxDone c a).mem = s.mem := by
  simp [State.vxDone]

/-! ## Machine/Chan.lean -/

@[simp] theorem State.chLeave_mem (s : State) (c : CoreId) :
    (s.chLeave c).mem = s.mem := by
  simp [State.chLeave]

theorem State.landBytes_wf (s : State) (c : CoreId) (p : Nat) (m : Msg) :
    s.memWf = true → (s.landBytes c p m).memWf = true := by
  intro hwf
  unfold State.landBytes
  (repeat' split) <;> grind [State.memWf, State.cspStore_wf, State.trfStore_mem, State.updTrf_mem]

theorem State.takeMesh_mem (s : State) (c : CoreId) (src : BitVec 32) (m : Msg) :
    ∀ out, s.takeMesh c src m = some out → out.2.mem = s.mem := by
  intro out h
  unfold State.takeMesh at h
  split at h
  · cases h
  · rename_i p k t ht
    have := State.takePacket_mem _ _ _ ht
    dsimp only at h
    split at h
    · cases h; exact this
    · cases h

@[simp] theorem State.acked_mem (s : State) (c : CoreId) (ch : Nat) (number : Byte) (stale : Bool) :
    (s.acked c ch number stale).mem = s.mem := by
  unfold State.acked
  dsimp only
  (repeat' split) <;> simp_all

theorem State.takeCack_mem (s : State) (c : CoreId) (spec : Nat) :
    ∀ out, s.takeCack c spec = some out → out.mem = s.mem := by
  intro out h
  obtain ⟨r, hr, rfl⟩ := Option.map_eq_some_iff.mp h
  exact State.takePacket_mem _ _ _ hr

@[simp] theorem State.credited_mem (s : State) (c : CoreId) (ch bind units : Nat) :
    (s.credited c ch bind units).mem = s.mem := by
  simp [State.credited]

@[simp] theorem State.chnRemote_mem (s : State) (c : CoreId) (ch : Nat) :
    (s.chnRemote c ch).mem = s.mem := by
  unfold State.chnRemote
  dsimp only
  (repeat' split) <;> simp_all

/-! ## Machine/Rdu.lean -/

@[simp] theorem State.rduPass_mem (s : State) (p : PortId) (off : Nat) : (s.rduPass p off).mem = s.mem := by
  unfold State.rduPass
  exact State.rqtPassed_mem _ _ _

@[simp] theorem State.updGroup_mem (s : State) (g : GroupId) (f : Group → Group) :
    (s.updGroup g f).mem = s.mem := by
  simp [State.updGroup]

@[simp] theorem State.updInst_mem (s : State) (g : GroupId) (f : Inst → Inst) :
    (s.updInst g f).mem = s.mem := by
  simp [State.updInst]

@[simp] theorem State.rduErr_mem (s : State) (p : PortId) (b kind : Nat) (g entry step addr : Nat) :
    (s.rduErr p b kind g entry step addr).mem = s.mem := by
  unfold State.rduErr
  dsimp only
  (repeat' split) <;> simp_all

@[simp] theorem State.stray_mem (s : State) (p : PortId) (g entry step partner : Nat) :
    (s.stray p g entry step partner).mem = s.mem := by
  simp [State.stray]

theorem State.rduStore_wf (s : State) (p : PortId) (off : Nat) (bs : List Byte) :
    s.memWf = true → (s.rduStore p off bs).memWf = true := by
  intro hwf
  unfold State.rduStore
  grind [State.memWf, State.rduPass_mem, State.store_wf]

theorem State.stepLog_wf (s : State) (g : GroupId) (type entry key0 step w3 w4 w5 : Nat) :
    s.memWf = true → (s.stepLog g type entry key0 step w3 w4 w5).memWf = true := by
  intro hwf
  unfold State.stepLog
  grind [State.memWf, State.bumpRf_mem, State.orReg_mem, State.rduStore_wf]

theorem State.logPair_wf (s : State) (g : GroupId) (k : Inst) (type partner : Nat) :
    s.memWf = true → (s.logPair g k type partner).memWf = true := by
  intro hwf
  unfold State.logPair
  grind [State.memWf, State.stepLog_wf]

@[simp] theorem State.readLanes_mem (s : State) (p : PortId) (g : GroupId) (k : Inst) (off : Nat) :
    (s.readLanes p g k off).s.mem = s.mem := by
  unfold State.readLanes
  dsimp only
  (repeat' split) <;> simp_all

@[simp] theorem State.sendRed_mem (s : State) (g : GroupId) (partner seg flags : Nat) (payload : List Byte) :
    (s.sendRed g partner seg flags payload).mem = s.mem := by
  unfold State.sendRed
  grind [State.bumpRf_mem, State.sendMesh_mem]

@[simp] theorem State.stepRepeat_mem (s : State) (g : GroupId) (reason step : Nat) :
    (s.stepRepeat g reason step).mem = s.mem := by
  simp [State.stepRepeat]

theorem State.writeStatus_wf (s : State) (g : GroupId) (post : Vector Dword 8) (lead tail : RedRecord) (reason : Nat) :
    s.memWf = true → (s.writeStatus g post lead tail reason).memWf = true := by
  intro hwf
  unfold State.writeStatus
  grind [State.memWf, State.rduStore_wf, State.setCf_mem, State.stepRepeat_mem]

theorem State.closeInst_wf (s : State) (g : GroupId) (k : Inst) :
    s.memWf = true → (s.closeInst g k).memWf = true := by
  intro hwf
  unfold State.closeInst
  grind [State.memWf, State.stepLog_wf, State.updGroup_mem, State.writeStatus_wf]

theorem State.rduPost_wf (s : State) (p : PortId) (r : Vector Dword 8) :
    s.memWf = true → ∀ out, s.rduPost p r = some out → out.memWf = true := by
  intro hwf
  unfold State.rduPost
  grind [State.memWf, State.bumpRf_mem, State.pm_mem, State.rduErr_mem, State.updGroup_mem, State.writeStatus_wf]

@[simp] theorem State.strayAsleep_mem (s : State) (p : PortId) (lead : RedRecord) :
    (s.strayAsleep p lead).mem = s.mem := by
  simp [State.strayAsleep]

theorem State.lateDrop_wf (s : State) (g : GroupId) (entry : Nat) (vs : List Word32) :
    s.memWf = true → (s.lateDrop g entry vs).memWf = true := by
  intro hwf
  unfold State.lateDrop
  grind [State.memWf, State.bumpRf_mem, State.pm_mem, State.stepLog_wf]

@[simp] theorem State.setupFault_mem (s : State) (g : GroupId) :
    (s.setupFault g).2.2.mem = s.mem := by
  unfold State.setupFault
  dsimp only
  (repeat' split) <;> simp_all

/-! ## Machine/Streams.lean -/

@[simp] theorem State.strFault_mem (s : State) (c : CoreId) (u : UnitId) (e : QEntry) (f : StrFault) (pc addr : Nat) :
    (s.strFault c u e f pc addr).mem = s.mem := by
  simp [State.strFault]

@[simp] theorem State.modAct_mem (s : State) (c : CoreId) (u : UnitId) (f : ActDesc → ActDesc) :
    (s.modAct c u f).mem = s.mem := by
  simp [State.modAct]

@[simp] theorem State.actFault_mem (s : State) (c : CoreId) (u : UnitId) (a : ActDesc) (f : StrFault) (addr : Nat) :
    (s.actFault c u a f addr).mem = s.mem := by
  simp [State.actFault]

@[simp] theorem State.agFault_mem (s : State) (c : CoreId) (u : UnitId) (a : ActDesc) (r : AgRun) (f : StrFault) (addr : Nat) :
    (s.agFault c u a r f addr).mem = s.mem := by
  simp [State.agFault]

@[simp] theorem State.strEmit_mem (s : State) (c : CoreId) (u : UnitId) (a : ActDesc) (r : AgRun) (at_ : Addr) (len : Nat) :
    (s.strEmit c u a r at_ len).mem = s.mem := by
  unfold State.strEmit
  split <;> simp_all

theorem State.stHead_mem (s : State) (c : CoreId) (u : UnitId) (op : Nat) :
    ∀ out, s.stHead c u op = some out → out.2.mem = s.mem := by
  unfold State.stHead
  split <;> simp_all

@[simp] theorem State.updOut_mem (s : State) (c : CoreId) (u : UnitId) (req : Nat) (f : ActDesc → ActDesc) :
    (s.updOut c u req f).mem = s.mem := by
  simp [State.updOut]

/-! ## Machine/Cache.lean -/

theorem State.cacheHead_mem (s : State) (c : CoreId) (op : Nat) :
    ∀ out, s.cacheHead c op = some out → out.2.mem = s.mem := by
  unfold State.cacheHead
  (repeat' split) <;> simp_all

@[simp] theorem State.civShared_mem (s : State) (e : QEntry) :
    (s.civShared e).mem = s.mem := by
  unfold State.civShared
  (refine (foldl_mem _ _ _ ?_).trans ?_ <;> grind [State.cscDrop_mem])

/-! ## Machine/Txu.lean -/

@[simp] theorem State.txErr_mem (s : State) (b kind handle : Nat) (core : CoreId) (sys : Nat) :
    (s.txErr b kind handle core sys).mem = s.mem := by
  simp [State.txErr]

theorem State.txHead_wf (s : State) (c : CoreId) (op : Nat) :
    s.memWf = true → ∀ out, s.txHead c op = some out → out.2.memWf = true := by
  intro hwf
  unfold State.txHead
  grind [State.memWf, State.store_wf, State.updSeq_mem]

@[simp] theorem State.txEncode_mem (s : State) (src line : Nat) (old : BitVec 128) (cs : List (Nat × Byte)) :
    (s.txEncode src line old cs).mem = s.mem := by
  unfold State.txEncode
  (refine (foldl_mem _ _ _ ?_).trans ?_ <;> grind [State.writeWord_mem])

@[simp] theorem State.txLeave_mem (s : State) (c : CoreId) :
    (s.txLeave c).mem = s.mem := by
  simp [State.txLeave]

@[simp] theorem State.txFinish_mem (s : State) (i : SlotId) :
    (s.txFinish i).mem = s.mem := by
  unfold State.txFinish
  dsimp only
  (repeat' split) <;> simp_all

end Sys2Proof.Machine
end

