-- ==== Sys2Proof/WellFormed.lean ====
section
/-! DEFINITION. Which commands the outside can send: operands of the lengths and in the ranges that the spec's frames, packets,
records and arrays have. Every meaning is total, so an ill-formed command has a meaning too; claims may ask for well-formed
ones. -/

namespace Sys2Proof

/-- Bytes of the longest row of a tile (R114). -/
def rowBytesMax : Nat := 256
/-- Bytes of the longest packet payload (R426). -/
def streamBytesMax : Nat := 2048

/-- A reply with at most `n` bytes; an error code is one of R440. -/
def Reply.wf (n : Nat) : Reply → Bool
  | .data bs => decide (bs.length ≤ n)
  | .error c => decide (1 ≤ c.toNat) && decide (c.toNat ≤ 7)

/-- A packet's payload fits, and its type is one of R426. -/
def Packet.wf (k : Packet) : Bool :=
  decide (k.payload.length ≤ streamBytesMax) && !(decide (0xC ≤ k.type.toNat) && decide (k.type.toNat ≤ 0xE))

/-- A message from the mesh is 64 B units of payload. -/
def MsgArrive.wf : MsgArrive → Bool
  | .link _ => true
  | .mesh _ m => m.pad || m.payload.length == 64 * m.units

/-- Lanes of a contribution or result: whole 256 B units, at most 4,096 of them (R389, R398). -/
def lanesWf (bs : List Byte) : Bool := !bs.isEmpty && bs.length % 256 == 0 && decide (bs.length ≤ 256 * 4096)

/-- Whether a macro group exists (R461). -/
def macroGroup (g : Nat) : Bool := decide (g < 52) || (decide (64 ≤ g) && decide (g < 96))

/-- An upset lies in an array that exists. -/
def UpsetTarget.wf : UpsetTarget → Bool
  | .word g _ _ => macroGroup g.toNat
  | .spare g _ _ => macroGroup g.toNat
  | .acc _ _ _ _ => true
  | .ftq _ _ _ _ => true
  | .scale _ _ _ _ => true
  | .rss _ _ _ _ => true

/-- Whether a command is well formed. -/
def Instr.wf : Instr → Bool
  | .taskPollExpiry _ => true
  | .claim _ => true
  | .taskGrant _ => true
  | .descriptorReceived _ => true
  | .imageLoadDone _ => true
  | .endReport _ => true
  | .headWordIssue _ => true
  | .immediateTableWord _ => true
  | .agAddi _ => true
  | .agAdd _ => true
  | .agSub _ => true
  | .agShl _ => true
  | .agShr _ => true
  | .agAnd _ => true
  | .seti _ => true
  | .mov _ => true
  | .cmp _ => true
  | .agMin _ => true
  | .agMax _ => true
  | .lda _ => true
  | .ldaWrite _ => true
  | .sta _ => true
  | .staMade _ => true
  | .loop _ => true
  | .endl _ => true
  | .br _ => true
  | .brp _ => true
  | .call _ => true
  | .ret _ => true
  | .brk _ => true
  | .layer _ => true
  | .layerBarrierComplete _ => true
  | .tend _ => true
  | .halt _ => true
  | .taskEnd _ => true
  | .brkHit _ => true
  | .watchdogExpiry _ => true
  | .waitTmoExpiry _ => true
  | .abort _ => true
  | .abortEnd _ => true
  | .abortDrainTmo _ => true
  | .signalRelease _ => true
  | .cfSignal _ => true
  | .cfTakeRequest _ => true
  | .takeReply _ => true
  | .cfShadowUpdate _ => true
  | .mma _ => true
  | .mmac _ => true
  | .hrld _ => true
  | .hrmm _ => true
  | .shape _ => true
  | .shapeDone _ => true
  | .drain _ => true
  | .ascl _ => true
  | .mode _ => true
  | .passStart _ => true
  | .bankDrainComplete _ => true
  | .abftMissReport _ => true
  | .parityAbortReport _ => true
  | .mxeHoldTmo _ => true
  | .mxeCfgTmo _ => true
  | .tld _ => true
  | .tldRowReturn _ _ _ r => r.wf rowBytesMax
  | .tldRowTmo _ _ _ => true
  | .tst _ => true
  | .tstRowAccept _ _ r => r.wf 0
  | .tcfg _ => true
  | .tinv _ => true
  | .lsHoldTmo _ => true
  | .tluCfgTmo _ => true
  | .vrun _ => true
  | .vred _ => true
  | .vstat _ => true
  | .vclrClear _ => true
  | .vclrLoadc _ => true
  | .vclrSetk _ => true
  | .vclrLoadp _ => true
  | .ftqTileSelect _ => true
  | .vxComplete _ => true
  | .vxeHoldTmo _ => true
  | .vxeCfgTmo _ => true
  | .stSub _ _ => true
  | .ldpg _ _ => true
  | .descriptorStart _ _ => true
  | .tbufGrant _ => true
  | .mergeTimeout _ _ => true
  | .nlStarve _ _ => true
  | .streamReply _ _ _ r => r.wf streamBytesMax
  | .descriptorComplete _ _ => true
  | .streamElementTmo _ _ _ => true
  | .cfl _ => true
  | .civ _ => true
  | .fence _ => true
  | .cacheOpDone _ r => r.wf 0
  | .cchOpTmo _ => true
  | .wprCfgTmo _ => true
  | .cspInbound _ _ _ off bytes => !bytes.isEmpty && decide (bytes.length ≤ streamBytesMax) && decide (off.toNat + bytes.length ≤ 0x80000)
  | .send _ => true
  | .bind _ => true
  | .unbind _ => true
  | .port _ => true
  | .epochSpacingDone _ _ => true
  | .crel _ => true
  | .disarm _ => true
  | .msgArrival _ a => a.wf
  | .landingDone _ _ => true
  | .msgCut _ _ => true
  | .cack _ _ => true
  | .creditReturn _ _ => true
  | .chCreditTmo _ => true
  | .chAckTmo _ _ => true
  | .chnHoldTmo _ => true
  | .txb _ => true
  | .txbSlotTmo _ => true
  | .txStore _ _ => true
  | .txOverwrite _ => true
  | .txAged _ => true
  | .txc _ => true
  | .txa _ => true
  | .committingLineAck _ r => r.wf 0
  | .durableLinesAcked _ => true
  | .commitWordAck _ r => r.wf 0
  | .durTmoExpiry _ => true
  | .txCmdAbort _ => true
  | .txuLogCopy => true
  | .evict => true
  | .evictAck => true
  | .evictFlushDone ext => ext.all fun x => x.2.wf streamBytesMax
  | .ckptWritesAcked r => r.wf 0
  | .ckptCommitAck r => r.wf 0
  | .evxTmoExpiry => true
  | .restore _ => true
  | .restoreDone r => r.wf 0
  | .redPost _ _ => true
  | .instanceOpen _ => true
  | .reqArrival _ _ => true
  | .leadArrival _ _ => true
  | .contributionComplete _ lanes _ => lanesWf lanes
  | .pairDeadline _ => true
  | .xferTmoExpiry _ => true
  | .resultArrival _ _ lanes _ => lanesWf lanes
  | .resultTmo _ => true
  | .deliveryDone _ => true
  | .groupEnable _ _ _ => true
  | .groupDisable _ _ _ => true
  | .packetRoute _ pkt => pkt.wf
  | .rd pkt => pkt.wf && pkt.type == 0
  | .wr pkt => pkt.wf && pkt.type == 1
  | .rsp pkt => pkt.wf && pkt.type == 2
  | .ack pkt => pkt.wf && pkt.type == 3
  | .err pkt => pkt.wf && pkt.type == 4
  | .mgmt pkt => pkt.wf && pkt.type == 8
  | .registerWrite _ _ _ => true
  | .shellReadTmo _ => true
  | .registerWriteTmo _ => true
  | .sidebandRequest frame => frame.length == 5 || frame.length == 13
  | .lcfReceive _ flit => flit.length == 64
  | .lcfSend _ => true
  | .linkReplayTmo _ => true
  | .routeReplace _ => true
  | .holdTmoDrop _ _ => true
  | .helloSend _ => true
  | .hello _ _ => true
  | .helloTmo _ => true
  | .linkRetrain _ => true
  | .coordWrite _ => true
  | .bondBeat group _ first second => decide (group.toNat < 168) && first.length == 8 && (second.isEmpty || second.length == 8)
  | .bondLaneRetire group lane => decide (group.toNat < 168) && decide (lane.toNat < 642)
  | .bondGroupReturn group => decide (group.toNat < 168)
  | .bondGroupRetire group => decide (group.toNat < 168)
  | .tagReclaim _ => true
  | .ceReport => true
  | .ueReport => true
  | .remapFill group _ _ => macroGroup group.toNat
  | .remapFillDone => true
  | .remapRelease _ => true
  | .remapHostFill _ => true
  | .ecmTmoExpiry => true
  | .scrubRead _ => true
  | .scrubLate _ => true
  | .flipArm => true
  | .flipDisarm => true
  | .flipApply => true
  | .ecmLogCopy => true
  | .heartbeatToken _ => true
  | .heartbeatReceive _ => true
  | .heartbeatMiss _ => true
  | .coreFence _ _ => true
  | .selftestDone _ _ => true
  | .coreFenceWrite _ => true
  | .seqPause _ _ => true
  | .enginePause _ block _ => block != 0
  | .pauseReached _ _ => true
  | .srst _ => true
  | .csCmdWrite _ _ => true
  | .csCmdRead _ _ => true
  | .tcfgPageWrite _ _ _ => true
  | .shapePageWrite _ _ => true
  | .chtPageWrite _ off _ => decide (0x200 ≤ off.toNat) && decide (off.toNat < 0xA80) && off.toNat % 8 == 0
  | .pgmPageWrite _ _ _ _ => true
  | .flagSet _ _ => true
  | .flagClr _ _ => true
  | .cntWrite _ _ _ => true
  | .cthWrite _ _ _ => true
  | .cfSet _ => true
  | .cfClr _ => true
  | .cfBarWrite _ _ => true
  | .mirrorCopy => true
  | .copyDone _ => true
  | .cchInvall _ => true
  | .cchFlushall _ => true
  | .cscInvall => true
  | .cacheCmdDone _ => true
  | .bondCmdRetireLane _ => true
  | .bondCmdRetireGroup _ => true
  | .dbgStep _ => true
  | .snap => true
  | .pmfreeze _ => true
  | .pmcntClr _ _ => true
  | .pwrReqRetain _ => true
  | .pwrReqOff _ => true
  | .pwrReqOn _ => true
  | .freqChange _ _ => true
  | .clReqSleep => true
  | .clReqOn => true
  | .clReqOff => true
  | .rstCold => true
  | .rstWarm => true
  | .cmMbistDone fails => fails.all fun x => decide (x.1 < 52) && decide (x.2 < 65536)
  | .bondCheckDone fails _ => fails.all fun x => decide (x / 1024 < 168) && decide (x % 1024 < 642)
  | .sproutHelloTmo => true
  | .ready => true
  | .wsBypass => true
  | .wsExtest => true
  | .wsIntest => true
  | .wsScan => true
  | .wsMbist => true
  | .wsBond => true
  | .wsFuse => true
  | .passEnd _ => true
  | .hrldDone _ => true
  | .asclDone _ => true
  | .ldpgDone _ _ => true
  | .fusesLatched _ => true
  | .islandLogicStop _ => true
  | .storageUpset t => t.wf
  | .linkCtlDisable _ _ => true
  | .dbgSnapTmo => true

end Sys2Proof
end

