-- ==== Sys2Proof/Tests/Slice0.lean ====
section
/-! SUPPORT. Small tests: commands that the well-formedness check refuses, the spec's own worked examples, and for every
obligation with hypotheses a concrete state that meets them. -/

namespace Sys2Proof.Tests
open Sys2Proof Sys2Proof.Machine

/-! ### Ill-formed commands are refused, one for each check -/

/-- A read packet without payload. -/
def okPacket : Packet := ⟨0, 0, false, false, false, 0, 0, 0, 0, 0, 0, 0, 0, 0, 0, 0, [], 0⟩

set_option maxRecDepth 40000 in
/-- R114. -/
theorem test_wf_tld_row_too_long : (Instr.wf (.tldRowReturn 0 0 0 (.data (List.replicate 257 0))) = false ∧ Instr.wf (.tldRowReturn 0 0 0 (.data (List.replicate 256 0))) = true) := by decide

set_option maxRecDepth 40000 in
/-- R440. -/
theorem test_wf_error_code_out_of_range : (Instr.wf (.tldRowReturn 0 0 0 (.error 8)) = false ∧ Instr.wf (.tldRowReturn 0 0 0 (.error 7)) = true) := by decide

set_option maxRecDepth 40000 in
/-- R440. -/
theorem test_wf_tst_accept_carries_no_data : (Instr.wf (.tstRowAccept 0 0 (.data [1])) = false ∧ Instr.wf (.tstRowAccept 0 0 (.data [])) = true) := by decide

set_option maxRecDepth 40000 in
/-- R426. -/
theorem test_wf_stream_reply_too_long : (Instr.wf (.streamReply 0 0 0 (.data (List.replicate 2049 0))) = false ∧ Instr.wf (.streamReply 0 0 0 (.data (List.replicate 2048 0))) = true) := by decide

set_option maxRecDepth 40000 in
/-- R440. -/
theorem test_wf_cache_op_reply_carries_no_data : (Instr.wf (.cacheOpDone 0 (.data [1])) = false ∧ Instr.wf (.cacheOpDone 0 (.error 1)) = true) := by decide

set_option maxRecDepth 40000 in
/-- R440. -/
theorem test_wf_committing_line_reply_carries_no_data : (Instr.wf (.committingLineAck 0 (.data [1])) = false ∧ Instr.wf (.committingLineAck 0 (.data [])) = true) := by decide

set_option maxRecDepth 40000 in
/-- R440. -/
theorem test_wf_commit_word_reply_carries_no_data : (Instr.wf (.commitWordAck 0 (.data [1])) = false ∧ Instr.wf (.commitWordAck 0 (.data [])) = true) := by decide

set_option maxRecDepth 40000 in
/-- R440. -/
theorem test_wf_checkpoint_reply_carries_no_data : (Instr.wf (.ckptWritesAcked (.data [1])) = false ∧ Instr.wf (.ckptWritesAcked (.data [])) = true) := by decide

set_option maxRecDepth 40000 in
/-- R440. -/
theorem test_wf_checkpoint_commit_reply_carries_no_data : (Instr.wf (.ckptCommitAck (.data [1])) = false ∧ Instr.wf (.ckptCommitAck (.data [])) = true) := by decide

set_option maxRecDepth 40000 in
/-- R440. -/
theorem test_wf_restore_reply_carries_no_data : (Instr.wf (.restoreDone (.data [1])) = false ∧ Instr.wf (.restoreDone (.error 7)) = true) := by decide

set_option maxRecDepth 40000 in
/-- R322. -/
theorem test_wf_csp_access_is_not_empty : (Instr.wf (.cspInbound 0 .ownCore true 0 []) = false ∧ Instr.wf (.cspInbound 0 .ownCore true 0 [1]) = true) := by decide

set_option maxRecDepth 40000 in
/-- R24. -/
theorem test_wf_csp_access_stays_in_the_csp : (Instr.wf (.cspInbound 0 .ownCore true 0x7FFFF [1, 2]) = false ∧ Instr.wf (.cspInbound 0 .ownCore true 0x7FFFF [1]) = true) := by decide

set_option maxRecDepth 40000 in
/-- R335. -/
theorem test_wf_message_is_whole_units : (Instr.wf (.msgArrival 0 (.mesh 0 ⟨0, 0, 0, 0, 0, 0, 1, false, 0, List.replicate 63 0⟩)) = false ∧ Instr.wf (.msgArrival 0 (.mesh 0 ⟨0, 0, 0, 0, 0, 0, 1, false, 0, List.replicate 64 0⟩)) = true) := by decide

set_option maxRecDepth 40000 in
/-- R389. -/
theorem test_wf_contribution_is_whole_units : (Instr.wf (.contributionComplete 0 (List.replicate 255 0) (Vector.replicate 8 0)) = false ∧ Instr.wf (.contributionComplete 0 (List.replicate 256 0) (Vector.replicate 8 0)) = true) := by decide

set_option maxRecDepth 40000 in
/-- R398. -/
theorem test_wf_result_is_not_empty : (Instr.wf (.resultArrival 0 (Vector.replicate 8 0) [] (Vector.replicate 8 0)) = false ∧ Instr.wf (.resultArrival 0 (Vector.replicate 8 0) (List.replicate 256 0) (Vector.replicate 8 0)) = true) := by decide

set_option maxRecDepth 40000 in
/-- R426. -/
theorem test_wf_packet_type_is_known : (Instr.wf (.packetRoute 0 { okPacket with type := 0xD }) = false ∧ Instr.wf (.packetRoute 0 okPacket) = true) := by decide

set_option maxRecDepth 40000 in
/-- R426. -/
theorem test_wf_packet_payload_fits : (Instr.wf (.packetRoute 0 { okPacket with payload := List.replicate 2049 0 }) = false ∧ Instr.wf (.packetRoute 0 { okPacket with payload := List.replicate 2048 0 }) = true) := by decide

set_option maxRecDepth 40000 in
/-- R426. -/
theorem test_wf_rd_has_its_type : (Instr.wf (.rd { okPacket with type := 1 }) = false ∧ Instr.wf (.rd okPacket) = true) := by decide

set_option maxRecDepth 40000 in
/-- R426. -/
theorem test_wf_wr_has_its_type : (Instr.wf (.wr okPacket) = false ∧ Instr.wf (.wr { okPacket with type := 1 }) = true) := by decide

set_option maxRecDepth 40000 in
/-- R426. -/
theorem test_wf_rsp_has_its_type : (Instr.wf (.rsp okPacket) = false ∧ Instr.wf (.rsp { okPacket with type := 2 }) = true) := by decide

set_option maxRecDepth 40000 in
/-- R426. -/
theorem test_wf_ack_has_its_type : (Instr.wf (.ack okPacket) = false ∧ Instr.wf (.ack { okPacket with type := 3 }) = true) := by decide

set_option maxRecDepth 40000 in
/-- R426. -/
theorem test_wf_err_has_its_type : (Instr.wf (.err okPacket) = false ∧ Instr.wf (.err { okPacket with type := 4 }) = true) := by decide

set_option maxRecDepth 40000 in
/-- R426. -/
theorem test_wf_mgmt_has_its_type : (Instr.wf (.mgmt okPacket) = false ∧ Instr.wf (.mgmt { okPacket with type := 8 }) = true) := by decide

set_option maxRecDepth 40000 in
/-- R524. -/
theorem test_wf_sideband_frame_length : (Instr.wf (.sidebandRequest [1, 2, 3, 4]) = false ∧ Instr.wf (.sidebandRequest [1, 2, 3, 4, 5]) = true) := by decide

set_option maxRecDepth 40000 in
/-- R425. -/
theorem test_wf_link_flit_length : (Instr.wf (.lcfReceive 0 [0]) = false ∧ Instr.wf (.lcfReceive 0 (List.replicate 64 0)) = true) := by decide

set_option maxRecDepth 40000 in
/-- R419. -/
theorem test_wf_bond_group_exists : (Instr.wf (.bondBeat 168 0 (List.replicate 8 0) []) = false ∧ Instr.wf (.bondBeat 167 0 (List.replicate 8 0) []) = true) := by decide

set_option maxRecDepth 40000 in
/-- R420. -/
theorem test_wf_bond_beat_has_eight_words : (Instr.wf (.bondBeat 0 0 [0] []) = false ∧ Instr.wf (.bondBeat 0 0 (List.replicate 8 0) (List.replicate 8 0)) = true) := by decide

set_option maxRecDepth 40000 in
/-- R419. -/
theorem test_wf_bond_lane_exists : (Instr.wf (.bondLaneRetire 0 642) = false ∧ Instr.wf (.bondLaneRetire 0 641) = true) := by decide

set_option maxRecDepth 40000 in
/-- R419. -/
theorem test_wf_bond_return_group_exists : (Instr.wf (.bondGroupReturn 168) = false ∧ Instr.wf (.bondGroupReturn 0) = true) := by decide

set_option maxRecDepth 40000 in
/-- R419. -/
theorem test_wf_bond_retire_group_exists : (Instr.wf (.bondGroupRetire 168) = false ∧ Instr.wf (.bondGroupRetire 0) = true) := by decide

set_option maxRecDepth 40000 in
/-- R461. -/
theorem test_wf_remap_group_exists : (Instr.wf (.remapFill 52 0 false) = false ∧ Instr.wf (.remapFill 95 0 false) = true) := by decide

set_option maxRecDepth 40000 in
/-- R461. -/
theorem test_wf_upset_group_exists : (Instr.wf (.storageUpset (.word 96 0 0)) = false ∧ Instr.wf (.storageUpset (.word 51 0 0)) = true) := by decide

set_option maxRecDepth 40000 in
/-- R485. -/
theorem test_wf_seq_page_is_no_engine : (Instr.wf (.enginePause 0 0 true) = false ∧ Instr.wf (.enginePause 0 7 true) = true) := by decide

set_option maxRecDepth 40000 in
/-- R181. -/
theorem test_wf_cht_entry_offset : (Instr.wf (.chtPageWrite 0 0xA80 0) = false ∧ Instr.wf (.chtPageWrite 0 0xA78 0) = true) := by decide

set_option maxRecDepth 40000 in
/-- R440. -/
theorem test_wf_evict_write_reply : (Instr.wf (.evictFlushDone [(0, .error 0)]) = false ∧ Instr.wf (.evictFlushDone [(0, .error 1)]) = true) := by decide

set_option maxRecDepth 40000 in
/-- R531. -/
theorem test_wf_mbist_word_exists : (Instr.wf (.cmMbistDone [(52, 0)]) = false ∧ Instr.wf (.cmMbistDone [(51, 65535)]) = true) := by decide

set_option maxRecDepth 40000 in
/-- R531. -/
theorem test_wf_bond_check_lane_exists : (Instr.wf (.bondCheckDone [642] 0) = false ∧ Instr.wf (.bondCheckDone [641] 0) = true) := by decide

/-- The cluster after reset with every core present and core 0 changed by `f`. -/
def at0 (f : Core → Core) : State := ({ State.reset with fuses := ⟨0xFF, []⟩ } : State).updCore 0 f

/-! ### Worked examples of the spec -/

/-- R39: the least significant byte of a value stands at the lowest address. -/
theorem test_little_endian : natLe 4 0x12345678 = [0x78, 0x56, 0x34, 0x12] ∧ leNat [0x78, 0x56, 0x34, 0x12] = 0x12345678 := by decide

/-- R49's example: the FP32 value 1 + 3 × 2^−10 becomes BF16 0x3F81 under the word 0x4A1C0B37, 0x3F80 under 0x60000000. -/
theorem test_stochastic_bf16 : (convert 1 false (.sr 0x4A1C0B37) (decodeEl 0 0x3F806000)).bits = 0x3F81
    ∧ (convert 1 false (.sr 0x60000000) (decodeEl 0 0x3F806000)).bits = 0x3F80 := by decide

/-- R43: a source above the largest finite E4M3 value (448) saturates or becomes NaN. -/
theorem test_e4m3_overflow : (convert 3 true .rne (Val.ofInt 449)).bits = 0x7E ∧ (convert 3 false .rne (Val.ofInt 449)).bits = 0x7F
    ∧ (convert 3 true .rne (Val.ofInt (-448))) = ⟨0xFE, false⟩ := by decide

/-- R36: the largest E2M1 magnitude is 6 and the smallest subnormal 0.5. -/
theorem test_e2m1_extremes : (decodeEl 6 0x7).eqv (Val.ofInt 6) = true ∧ (decodeEl 6 0x9).eqv (.fin true 1 (-1)) = true := by decide

set_option maxRecDepth 4000 in
/-- R53's example: 1.25 × 2^−30, 2^20 and −2^20 sum to +0 in one group. -/
theorem test_group_sum_loses_the_small_term : groupSum [.fin false 5 (-32), .fin false 1 20, .fin true 1 20] = 0 := by decide

/-- R54: the integer accumulator wraps and reports it. -/
theorem test_integer_group_wraps : groupSumInt 0x7FFFFFFF [1] = (0x80000000, true) ∧ groupSumInt 0x80000000 [2] = (0x80000002, false) := by decide

/-- R461's example: CM offset 0x401238 is word 10,935 of group 20. -/
theorem test_cm_word_place : placeOf 0x401238 = (20, 10935) := by decide

set_option maxRecDepth 20000 in
/-- The flip examples of chapter 15: two data bits are corrected, three are not, and c[15] alone reads as an address error. -/
theorem test_flip_examples : eccOf 5 = .ce 5 ∧ eccOf 7 = .ue false ∧ eccOf (1 <<< 79) = .ue true := by decide

/-- R495: a husked value carries its complement in the upper half, and any other pair is refused. -/
theorem test_husk : husked 0x2 = 0xFFFFFFFD00000002 ∧ huskValue 0xFFFFFFFD00000002 = some 2 ∧ huskValue 0xFFFFFFFD00000003 = none := by decide

/-- The pages of chapter 16's example: the SEQ page of core 5 is 0x90, its MXE page 0x91. -/
theorem test_core_pages : pgSeq 5 = 0x90 ∧ pgMxe 5 = 0x91 := by decide

/-- R210: signed and unsigned order of A registers differ on a negative value. -/
theorem test_compare_flags : cmpFlags 0xFFFFFFFFFFFF 1 = (false, true, false) ∧ cmpFlags 1 0xFFFFFFFFFFFF = (false, false, true) := by decide

/-- No row of the table has bits, so no word spells a command. -/
theorem test_no_word_spells_a_command : decodeTableWord 0 0 = none ∧ decodeTableWord 64 0xFFFFFFFF = none := by decide

set_option maxRecDepth 20000 in
/-- The loop example of chapter 7: word 101's LOOP with count A5 = 0 takes no level and continues behind its END. -/
theorem test_loop_of_count_zero : (
  let s := at0 fun k => { k with seq := { k.seq with st := .run, pc := 101, flow := some ⟨0x106628, 101, 0, true⟩ } }
  match exec (.loop 0) s with
  | .next t => decide ((t.core 0).seq.pc = 103 ∧ (t.core 0).seq.loops = [])
  | _ => false) = true := by decide

set_option maxRecDepth 20000 in
/-- R208: ADDI adds its sign-extended immediate; A3 = 0 minus 1 wraps. -/
theorem test_addi_wraps : (
  let s := at0 fun k => { k with seq := { k.seq with ag := some ⟨0x133FFF, Vector.replicate 16 0, 0, 0, 0⟩ } }
  match exec (.agAddi 0) s with
  | .next t => decide (vget 0 (t.core 0).seq.a 3 = 0xFFFFFFFFFFFF)
  | _ => false) = true := by decide

set_option maxRecDepth 20000 in
/-- R251, R257: with MASK 0 a SIGNAL SET sets the flag, and CLEAR clears it again. -/
theorem test_cluster_flag_set_and_clear : (
  match exec (.cfSignal 0) ((at0 id).tell 0 (.signal 5 0)) with
  | .next t => decide (t.ccu.cf = 0x20) && (match exec (.cfSignal 0) (t.tell 0 (.signal 5 1)) with
    | .next u => decide (u.ccu.cf = 0)
    | _ => false)
  | _ => false) = true := by decide

/-! ### States that meet the hypotheses of the obligations -/

set_option maxRecDepth 20000 in
/-- States and operands that meet the hypotheses of `Obligations.AgOperationWritesItsDestination`. -/
theorem witness_ag_operation_writes_its_destination : (
  let l := fun (b : BitVec 24) => (⟨b, vset (vset (Vector.replicate 16 0) 1 5) 2 7, 9, 0, 0⟩ : AgLatch)
  let s := fun (b : BitVec 24) => at0 fun k => { k with seq := { k.seq with ag := some (l b) } }
  [1, 2, 3, 4, 5, 6, 7, 8, 10, 11].all fun op =>
    let b : BitVec 24 := BitVec.ofNat 24 (op * 2 ^ 20 + 3 * 2 ^ 16 + 1 * 2 ^ 12 + 2 * 2 ^ 8)
    decide (((s b).core 0).seq.ag = some (l b) ∧ vget false (s b).stopped 0 = false ∧ op24 (l b).bits = op)) = true := by decide

set_option maxRecDepth 20000 in
/-- States and operands that meet the hypotheses of `Obligations.CompareSetsZNC`. -/
theorem witness_compare_sets_z_n_c : (
  let l : AgLatch := ⟨0x912000, vset (vset (Vector.replicate 16 0) 1 5) 2 7, 0, 0, 0⟩
  let s := at0 fun k => { k with seq := { k.seq with ag := some l } }
  decide ((s.core 0).seq.ag = some l ∧ vget false s.stopped 0 = false ∧ op24 l.bits = 9)) = true := by decide

set_option maxRecDepth 20000 in
/-- States and operands that meet the hypotheses of `Obligations.LdaAndStaGoThroughTheCsp`. -/
theorem witness_lda_and_sta_go_through_the_csp : (
  let l : AgLatch := ⟨0xC31002, vset (Vector.replicate 16 0) 1 0x800100000000, 0, 0, 0⟩
  let m : AgLatch := ⟨0xD31002, vset (Vector.replicate 16 0) 1 0x800100000000, 0, 0, 0⟩
  let s := at0 fun k => { k with seq := { k.seq with st := .run, ag := some l } }
  let t := at0 fun k => { k with seq := { k.seq with st := .run, ag := some m } }
  let p : LdaPend := ⟨3, 0x800100000010, 4, 0⟩
  let q : StaPend := ⟨0x80010007FFF8, 5, 4, 0⟩
  let u := at0 fun k => { k with seq := { k.seq with st := .run, ldas := [p] } }
  let v := at0 fun k => { k with seq := { k.seq with st := .run, stas := [q] } }
  decide ((s.core 0).seq.ag = some l ∧ vget false s.stopped 0 = false ∧ op24 l.bits = 12 ∧ op24 m.bits = 13
    ∧ (t.core 0).seq.ag = some m ∧ (u.core 0).seq.ldas = [p] ∧ u.alive 0 = true ∧ (u.core 0).seq.stas = []
    ∧ u.ownCsp 0 p.addr.toNat = some 16 ∧ (u.cspLoad 0 .ownCore 16 8).bad = []
    ∧ (v.core 0).seq.stas = [q] ∧ v.alive 0 = true ∧ (v.core 0).seq.vxq = [] ∧ (v.core 0).vxe.acts = []
    ∧ v.ownCsp 0 q.addr.toNat = some 0x7FFF8)) = true := by decide

set_option maxRecDepth 20000 in
/-- States and operands that meet the hypotheses of `Obligations.BondChecksBeatsAndRetiresLanes`. -/
theorem witness_bond_checks_beats_and_retires_lanes : (
  let s := at0 id
  let b := fun (sp : Nat) (out : Bool) => ({ s with bond := [(167, ⟨sp, false, out, 0, []⟩)], laneCe := [(167 * 1024 + 639, List.replicate 16 0)] } : State)
  let x : Tag := ⟨8, .plain 0, 0, 1, false, false⟩
  let r := ({ s with rqt := ⟨[(2047, some x)], []⟩ } : State)
  !s.memHalted && decide ((s.bondGroup 167).retired = false ∧ (s.bondGroup 167).out = false)
    && decide ((beatCheck [1 <<< 79]).1 = true ∧ (beatCheck [1]).1 = false) && (b 3 false).laneDue 167 639
    && decide (((b 3 false).bondGroup 167).spares ≠ 0 ∧ ((b 0 false).bondGroup 167).spares = 0)
    && decide (((b 3 true).bondGroup 167).out = true) && !(((b 3 false).bondGroup 167).lanes.contains 639)
    && s.regReady 1 && decide (huskValue (husked (167 + 2 ^ 18 * 2)) = some (167 + 2 ^ 18 * 2) ∧ fld (167 + 2 ^ 18 * 2 : Word32) 18 2 = 2)
    && decide (huskValue (husked (167 + 2 ^ 8 * 641 + 2 ^ 18)) = some (167 + 2 ^ 8 * 641 + 2 ^ 18)
      ∧ fld (167 + 2 ^ 8 * 641 + 2 ^ 18 : Word32) 18 2 = 1 ∧ fld (167 + 2 ^ 8 * 641 + 2 ^ 18 : Word32) 8 10 = 641)
    && decide (tget none r.rqt.tags 2047 = some x ∧ x.user = .plain 0)) = true := by decide

set_option maxRecDepth 20000 in
/-- States and operands that meet the hypotheses of `Obligations.ReportsAreLoggedAndWordsRemapped`. -/
theorem witness_reports_are_logged_and_words_remapped : (
  let s := at0 id
  let r : EccReport := ⟨20, 10935, 10, false, true, 1⟩
  let q : EccReport := ⟨20, 10935, 10, true, false, 0⟩
  let c := ({ s with ecm := { s.ecm with ceQ := [r, q], ueQ := [r], tracker := [⟨20, 10935, 3, 0⟩] } } : State)
  let full := ({ c with ecm := { c.ecm with remap := (List.range 8).map fun k => (160 + k, 0x80000) } } : State)
  let op := fun (f : Bool) => ({ s with ecm := { s.ecm with op := some ⟨20, 0, 10935, f, false, false⟩ } } : State)
  let sel := (s.setReg 6 0x128 20)
  let val := (full.setReg 6 0x128 20)
  c.ccuAlive && decide (q.test = false ∧ r.test = true ∧ c.ecm.ceQ = [r, q] ∧ c.ecm.ueQ = [r]) && c.fillDue 20 10935 false && decide (c.freeEntry 20 = some 0)
    && (full.freeEntry 20).isNone && full.fillDue 20 10935 false && (op true).groupLive 20 && sel.regReady 6
    && decide (huskValue (husked 0x80005) = some 0x80005 ∧ remapValid 0x80005 = true ∧ huskValue (husked 5) = some 5 ∧ remapValid 5 = false)
    && groupExists (sel.rf 6 0x128 0 7) && remapValid (val.remap (val.rf 6 0x128 0 7) (val.rf 6 0x128 7 3))
    && decide ((op true).ecm.op ≠ none) && decide (c.ecm.op = none)) = true := by decide

set_option maxRecDepth 20000 in
/-- States and operands that meet the hypotheses of `Obligations.ScrubbersFlipsAndUpsets`. -/
theorem witness_scrubbers_flips_and_upsets : (
  let s := at0 id
  let f := ((s.setReg 6 0x158 2).setReg 6 0x150 (20 * 2 ^ 17 + 7)).setReg 6 0x140 7
  s.scrubs 8 && s.scrubs 0 && s.regReady 6 && decide (f.rf 6 0x158 1 1 = 1) && groupExists (f.rf 6 0x150 17 7)
    && decide (f.rf 6 0x150 0 17 < groupWords (f.rf 6 0x150 17 7)) && f.groupLive (f.rf 6 0x150 17 7)
    && groupExists 95 && decide ((16383 : Nat) < groupWords 95)
    && decide (s.ecm.scrub[(0 : Fin 9)] + 1 < scrubLines 0)
    && (let e := ({ s with ecm := { s.ecm with scrub := s.ecm.scrub.set 0 8191 } } : State)
        e.scrubs 0 && decide (scrubLines 0 ≤ e.ecm.scrub[(0 : Fin 9)] + 1))) = true := by decide

set_option maxRecDepth 20000 in
/-- States and operands that meet the hypotheses of `Obligations.PoisonedSpareWord`. -/
theorem witness_poisoned_spare_word : (
  let s := at0 id
  let p := ({ s with ecm := { s.ecm with remap := [(8 * (placeOf 0x401238).1 + 7, BitVec.ofNat 32 ((placeOf 0x401238).2 + 0xA0000))] } } : State)
  p.poisoned (placeOf (8 * 0x80247)).1 (placeOf (8 * 0x80247)).2) = true := by decide

set_option maxRecDepth 20000 in
/-- States and operands that meet the hypotheses of `Obligations.PagesAreIdentified`. -/
theorem witness_pages_are_identified : (
  (blockOf 0).isSome && (blockOf 0xB7).isSome && (blockOf 11).isSome) = true := by decide

set_option maxRecDepth 20000 in
/-- States and operands that meet the hypotheses of `Obligations.FlagsAndCountersAreWritten`. -/
theorem witness_flags_and_counters_are_written : (
  (List.finRange 8).all (fun c => (at0 id).regReady (pgSeq c)) && (at0 id).regReady 0) = true := by decide

set_option maxRecDepth 20000 in
/-- States and operands that meet the hypotheses of `Obligations.PausesAndSoftResets`. -/
theorem witness_pauses_and_soft_resets : (
  let f := fun (st : CoreState) (h : Bool) => at0 fun k => { k with seq := { k.seq with st := st, task := if h then some ⟨5, 9, false, false, 31, 0, 0⟩ else none } }
  let p := (f .run true).setRf (pgSeq 0) 0x10 1 1 1
  let e := (f .run true).setRf (pgMxe 0) 0x10 1 1 1
  (f .idle false).regReady (pgSeq 0) && (f .run true).regReady (pgSeq 0) && (f .paused true).regReady (pgSeq 0) && (f .paused false).regReady (pgSeq 0)
    && decide ((f .idle false).core 0 |>.seq.task |>.isNone) && !((f .idle false).core 0).seq.holds
    && decide (((f .paused true).core 0).seq.draining = none ∧ ((f .paused true).core 0).seq.abortTask = false)
    && (f .run true).regReady (corePage 0 7) && !((f .run true).busy 0 7) && !((f .run true).softCoreOk 0) && (f .idle false).softCoreOk 0
    && (f .idle false).regReady (corePage 0 7) && p.alive 0
    && p.paused (pgSeq 0) && decide ((p.core 0).seq.stepping = false ∧ (p.core 0).seq.causes = []) && !(p.coreBusy 0)
    && e.paused (corePage 0 1) && !(e.busy 0 1) && (f .idle false).regReady 0) = true := by decide

set_option maxRecDepth 20000 in
/-- States and operands that meet the hypotheses of `Obligations.PageTablesAreWritten`. -/
theorem witness_page_tables_are_written : (
  let f := fun (st : CoreState) => at0 fun k => { k with seq := { k.seq with st := st } }
  let ready := fun (u : State) => u.regReady (pgSeq 0) && u.regReady (pgTrf 0) && u.regReady (pgMxe 0) && u.regReady (pgVxe 0) && u.regReady (pgStr 0)
  ready (f .paused) && ready (f .run) && (f .paused).quiet 0 && !((f .run).quiet 0) && decide (((f .paused).core 0).seq.st = .paused)
    && ((f .paused).core 0).mxe.banks.toList.all (fun b => b.st == .empty) && ((f .paused).core 0).mxe.run.isNone
    && ((f .paused).core 0).mxe.op.isNone && ((f .paused).core 0).mxe.drains.isEmpty
    && decide ((0 : Dword).extractLsb' 0 2 = ((f .paused).core 0).mxe.shape) && decide ((1 : Dword).extractLsb' 0 2 ≠ ((f .paused).core 0).mxe.shape)) = true := by decide

set_option maxRecDepth 20000 in
/-- States and operands that meet the hypotheses of `Obligations.DebugStepsSnapsAndFreezes`. -/
theorem witness_debug_steps_snaps_and_freezes : (
  let f := fun (h : Bool) => at0 fun k => { k with seq := { k.seq with st := .paused, task := if h then some ⟨5, 9, false, false, 31, 0, 0⟩ else none } }
  let b := (f false).setRf 15 0x100 3 1 1
  (f true).regReady 15 && bitAt (1 : Dword) 0 && decide ((f true).coreRuns 0) && ((f true).core 0).seq.task.isSome && ((f false).core 0).seq.task.isNone
    && b.ccuAlive && decide (b.rf 15 0x100 3 1 = 1) && (f true).regReady 0x40 && (blockOf 0x40).isSome) = true := by decide

set_option maxRecDepth 20000 in
/-- States and operands that meet the hypotheses of `Obligations.CacheCommandsAndInboundAccesses`. -/
theorem witness_cache_commands_and_inbound_accesses : (
  let f := fun (st : CoreState) (h : Bool) => at0 fun k => { k with seq := { k.seq with st := st }, cch := { k.cch with hostOp := h } }
  let gone := ({ (at0 id) with fuses := ⟨0, []⟩ } : State)
  let shut := (at0 id).setReg (pgCsp 0) 0x100 2
  let op := ({ (at0 id) with cscOp := some 7 } : State)
  (f .idle false).regReady (pgCch 0) && (f .run false).regReady (pgCch 0) && (f .idle false).quiet 0
    && ((f .idle true).core 0).cch.hostOp && decide ((f .idle true).coreRuns 0 ∧ (f .idle true).rf (pgCch 0) 0x100 3 1 = 0) && (f .idle false).regReady 2
    && decide (op.cscOp = some 7) && !op.memHalted && !(gone.reachable 0) && shut.reachable 0 && !((shut.pm (pgCsp 0) 0x03 1).gateOpen 0 (.otherCore 1))
    && ((at0 id).pm (pgCsp 0) 0x03 1).gateOpen 0 (.otherCore 1) && decide ((0x7FFFF : BitVec 19).toNat + [(1 : Byte)].length ≤ cspSize)) = true := by decide

set_option maxRecDepth 20000 in
/-- States and operands that meet the hypotheses of `Obligations.PowerStatesFollowTheRequests`. -/
theorem witness_power_states_follow_the_requests : (
  let f := fun (st : CoreState) => ({ (at0 fun k => { k with seq := { k.seq with st := st } }) with pending := [] } : State).updWatch 0 fun w => { w with test := .passed }
  let alone := ({ f .off with fuses := ⟨1, []⟩ } : State)
  let sl := alone.updCcu fun u => { u with power := .sleep }
  let ask := at0 fun k => { k with pwrReq := 2, pwrAck := false, pwrDeny := false }
  (ask.core 0).pwrPending && !((f .run).core 0).pwrPending && !((f .idle).core 0).pwrPending && !((f .off).core 0).pwrPending && sl.ccuAlive
    && alone.ccuAlive && (f .off).present 0 && (f .off).ccuAlive && (f .run).ccuAlive && !((f .run).mayPowerDown 0) && (f .idle).mayPowerDown 0 && ((f .idle).core 0).cch.lines.isEmpty && (f .idle).present 0
    && decide (((f .off).core 0).seq.st = .off ∧ (f .off).ccu.power = .on ∧ (f .off).fenced 0 = false ∧ (f .off).paused (pgSeq 0) = false)
    && alone.maySleep && !((f .idle).maySleep) && decide (sl.ccu.power = .sleep)) = true := by decide

set_option maxRecDepth 20000 in
/-- States and operands that meet the hypotheses of `Obligations.ResetsStartUpAndTestWrapper`. -/
theorem witness_resets_start_up_and_test_wrapper : (
  let at_ := fun (n : Nat) => let u := at0 id
    ({ u with ccu := { u.ccu with step := n, st := .idle, readyS := false } } : State)
  [1, 2, 3, 5, 7].all (fun n => (at_ n).atStep n) && decide ((at_ 1).clocksOff = false ∧ (at_ 1).ccu.power ≠ .off ∧ (at_ 1).ccu.warm = false)
    && decide ((at_ 3).bond = [] ∧ (at_ 3).coordValid = false) && decide ((at_ 7).ccu.readyS = false)
    && (List.finRange 8).all (fun c => (at_ 7).present c && (at_ 7).ccu.watch[c].test != .running)
    && ((List.range 9).map fun i => (47, 32759 + i)).all (fun x => x.1 == 47 && x.2 < 32768)
    && decide (8 < ((List.range 9).map fun i => (47, 32759 + i)).length)) = true := by decide

set_option maxRecDepth 20000 in
/-- States and operands that meet the hypotheses of `Obligations.MemoryStaysCanonical`. -/
theorem witness_memory_stays_canonical : (
  let s := ({ at0 id with mem := memWrite [] 0x401238 [1, 0, 2] } : State)
  s.memWf && s.pending.isEmpty && !s.mem.isEmpty) = true := by decide

set_option maxRecDepth 20000 in
/-- States and operands that meet the hypotheses of `Obligations.LoopAndEndlFollowTheCount`. -/
theorem witness_loop_and_endl_follow_the_count : (
  let f := fun (b : BitVec 24) (n : BitVec 24) (ls : List LoopLevel) =>
    at0 fun k => { k with seq := { k.seq with flow := some ⟨b, 4, n, true⟩, loops := ls } }
  decide ((f 0x100800 0 []).coreRuns 0 ∧ op24 (0x100800 : BitVec 24) = 1 ∧ (f 0x100800 1 []).coreRuns 0
    ∧ op24 (0x200000 : BitVec 24) = 2 ∧ ((f 0x200000 0 [⟨0, 2, 4, 0⟩]).core 0).seq.loops = [] ++ [(⟨0, 2, 4, 0⟩ : LoopLevel)]
    ∧ ((f 0x200000 0 [⟨1, 2, 4, 0⟩]).core 0).seq.loops = [] ++ [(⟨1, 2, 4, 0⟩ : LoopLevel)])) = true := by decide

set_option maxRecDepth 20000 in
/-- States and operands that meet the hypotheses of `Obligations.BranchesCallsAndBreakMoveThePc`. -/
theorem witness_branches_calls_and_break_move_the_pc : (
  let f := fun (b : BitVec 24) (t : Bool) => at0 fun k => { k with seq := { k.seq with
    flow := some ⟨b, 4095, 0, t⟩, loops := [⟨0, 2, 4095, 0⟩], rstk := [⟨7, 1⟩] } }
  decide ((f 0x300FFF true).coreRuns 0 ∧ op24 (0x300FFF : BitVec 24) = 3 ∧ op24 (0x4007FF : BitVec 24) = 4
    ∧ op24 (0x500003 : BitVec 24) = 5 ∧ op24 (0x600000 : BitVec 24) = 6 ∧ op24 (0x700000 : BitVec 24) = 7
    ∧ ((f 0x600000 true).core 0).seq.rstk = [] ++ [(⟨7, 1⟩ : RetEntry)] ∧ ((f 0x700000 true).core 0).seq.loops = [] ++ [(⟨0, 2, 4095, 0⟩ : LoopLevel)]
    ∧ ((f 0x700000 false).core 0).seq.flow = some ⟨0x700000, 4095, 0, false⟩)) = true := by decide

set_option maxRecDepth 20000 in
/-- States and operands that meet the hypotheses of `Obligations.LayerTendAndHaltStopIssue`. -/
theorem witness_layer_tend_and_halt_stop_issue : (
  let f := fun (b : BitVec 24) => at0 fun k => { k with seq := { k.seq with flow := some ⟨b, 4, 0, true⟩ } }
  let en := (f 0xA00000).setReg (pgSeq 0) 0x100 1
  let lay := at0 fun k => { k with seq := { k.seq with st := .run, layer := true } }
  let d := fun (x : DrainKind) => at0 fun k => { k with seq := { k.seq with st := .drain, draining := some x, task := some ⟨5, 9, false, false, 31, 0, 0⟩ } }
  decide ((f 0x800000).coreRuns 0 ∧ op24 (0x800000 : BitVec 24) = 8 ∧ op24 (0x900000 : BitVec 24) = 9
    ∧ op24 (0xA00000 : BitVec 24) = 10 ∧ (f 0xA00000).rf (pgSeq 0) 0x100 0 1 = 0 ∧ en.rf (pgSeq 0) 0x100 0 1 = 1
    ∧ (lay.core 0).seq.layer = true ∧ lay.enginesQuiet 0 = true ∧ (lay.core 0).mxe.ftq.toList.all (fun t => !t.valid) = true
    ∧ lay.alive 0 = true
    ∧ [DrainKind.tend, .halt, .haltPause].all (fun x => (d x).enginesQuiet 0 && ((d x).core 0).writesDone
        && (d x).alive 0 && decide (((d x).core 0).seq.ldas = [] ∧ ((d x).core 0).seq.ag = none ∧ ((d x).core 0).seq.held = []
          ∧ ((d x).core 0).seq.causes = [] ∧ ((d x).core 0).seq.st = .drain ∧ ((d x).core 0).seq.draining = some x)) = true)) = true := by decide

set_option maxRecDepth 20000 in
/-- States and operands that meet the hypotheses of `Obligations.HeadWordIssuesItsSlots`. -/
theorem witness_head_word_issues_its_slots : (
  let f := fun (w : Cw) => at0 fun k => { k with seq := { k.seq with st := .run, pc := 5, cs := [(5, w)] } }
  let w : Cw := 1 * 2 ^ 248 + 0x30000000 * 2 ^ 104 + 0x110001 * 2 ^ 56
  let s := f w
  let g := s.fetchCw 0 5
  let t := g.s.tableWord 0 g.word
  let i := f (2 * 2 ^ 248)
  s.headReady 0 && !s.brkArmed 0 && !g.ue && decide (g.word.fmt = 1) && !t.ue
    && (cwCheck (s.core 0).seq false g.word t.word).isNone && !(s.core 0).seq.takePend && t.s.waitHolds 0 g.word
    && (t.s.takeNeeds 0 g.word).isNone
    && roomFor (s.core 0).seq g.word
    && decide (t.s.agCheckIssue 0 g.word.ag = none) && decide (flowCheckIssue (s.core 0).seq (s.core 0).vxe g.word.flow = none)
    && i.headReady 0 && decide ((i.fetchCw 0 5).word.fmt = 2 ∧ (i.fetchCw 0 5).ue = false)) = true := by decide

set_option maxRecDepth 20000 in
/-- States and operands that meet the hypotheses of `Obligations.SeqTimeoutsAndBreakpointsTakeEffect`. -/
theorem witness_seq_timeouts_and_breakpoints_take_effect : (
  let tk : Task := ⟨5, 9, false, false, 31, 0, 0⟩
  let run := at0 fun k => { k with seq := { k.seq with st := .run, task := some tk } }
  let wd := at0 fun k => { k with seq := { k.seq with st := .drain, task := some { tk with wdog := 16 }, wdogCnt := 65536 } }
  let lay := (at0 fun k => { k with seq := { k.seq with st := .run, task := some tk, layer := true, waitCnt := 2 ^ 31 } }).setReg (pgSeq 0) 0x198 31
  let w : Cw := 1 * 2 ^ 248 + (3 * 8 + 1) * 2 ^ 36
  let wt := at0 fun k => { k with seq := { k.seq with st := .run, task := some tk, waitCnt := 1024, cs := [(0, w)] } }
  let wt := wt.setReg (pgSeq 0) 0x198 10
  let f := wt.fetchCw 0 0
  let t := f.s.tableWord 0 f.word
  let brk := run.setReg 15 0x180 (2 ^ 12 + 2 ^ 13)
  run.alive 0 && (run.core 0).seq.task.isSome && lay.alive 0 && wd.alive 0 && decide (2 ^ 16 ≤ (wd.core 0).seq.wdogCnt.toNat ∧ (wd.core 0).seq.wdogHit = false)
    && decide (2 ^ max 10 (lay.rf (pgSeq 0) 0x198 0 5) ≤ (lay.core 0).seq.waitCnt)
    && decide (2 ^ max 10 (wt.rf (pgSeq 0) 0x198 0 5) ≤ (wt.core 0).seq.waitCnt) && !f.ue
    && decide (f.word.fmt = 1) && !t.ue && (cwCheck (wt.core 0).seq (wt.rf (pgSeq 0) 0x100 0 1 == 1) f.word t.word).isNone
    && !wt.waitHolds 0 f.word && brk.headReady 0 && brk.brkArmed 0 && decide (brk.rf 15 0x180 13 1 = 1)) = true := by decide

set_option maxRecDepth 20000 in
/-- States and operands that meet the hypotheses of `Obligations.AbortDrainsAndReports`. -/
theorem witness_abort_drains_and_reports : (
  let tk : Task := ⟨5, 9, false, false, 31, 0, 0⟩
  let ab := at0 fun k => { k with seq := { k.seq with st := .run, task := some tk, causes := [⟨9, false⟩, ⟨3, false⟩] } }
  let dr := at0 fun k => { k with seq := { k.seq with st := .drain, task := some tk, abortTask := true } }
  let bu := at0 fun k => { k with seq := { k.seq with st := .drain, task := some tk, abortTask := true, stas := [⟨0, 0, 0, 0⟩] } }
  ab.alive 0 && decide (⟨3, false⟩ ∈ (ab.core 0).seq.causes ∧ (∀ y ∈ (ab.core 0).seq.causes, (3 : Byte) ≤ y.code)
    ∧ (ab.core 0).seq.abortTask = false ∧ ab.ccu.toCore[0] = []) && dr.alive 0 && (dr.core 0).writesDone
    && bu.alive 0 && !(bu.core 0).writesDone && !bitAt (bu.reg (pgSeq 0) 0x28) 14) = true := by decide

set_option maxRecDepth 20000 in
/-- States and operands that meet the hypotheses of `Obligations.TasksAreClaimedAndGranted`. -/
theorem witness_tasks_are_claimed_and_granted : (
  let p := at0 fun k => { k with seq := { k.seq with dispatch := .polling } }
  let m : State := { State.reset with
    fuses := ⟨0xFF, []⟩
    mem := (natLe 8 (husked 1).toNat).zipIdx.filterMap fun x => if x.1 = 0 then none else some (x.2, x.1) }
  let cl := (m.updCcu fun u => { u with st := .run }).tell 0 (.claim 0)
  let u := ((cl.popCcu 0).readSeqWord).2
  let r := ((u.rqtPass 12 (u.ownLoc (u.entryAt u.cursor))).getD u).load 12 (u.entryAt u.cursor) 64
  let g := (at0 id).answer 0 (.grant 7)
  decide ((p.core 0).seq.dispatch = .polling ∧ (p.core 0).seq.st = .idle ∧ p.ccu.toCore[0] = [] ∧ p.coreRuns 0)
    && decide (cl.ccu.toCcu[0] = [.claim 0]) && !cl.ccuHeld && (cl.rqtPass 12 0).isSome && cl.ccuAlive && !cl.memDead && decide (cl.ccu.st = .run) && cl.reachable 0
    && decide (((cl.popCcu 0).readSeqWord).1 = some 1 ∧ u.cursor = 0 ∧ r.bad = []) && decide (1 ≤ 2 ^ u.tlistLog2)
    && bitAt (u.reg 0 0x198) (leNat (r.bytes.take 8) / 2 ^ 13 % 2) && decide (g.ccu.toCore[0] = [.grant 7]) && g.alive 0) = true := by decide

set_option maxRecDepth 20000 in
/-- States and operands that meet the hypotheses of `Obligations.DescriptorsStartTasks`. -/
theorem witness_descriptors_start_tasks : (
  let rd := fun (m : List Host.Cell) => (at0 fun k => { k with seq := { k.seq with dispatch := .reading 0 } }) |> fun s => { s with mem := m }
  let plain := rd []
  let img := rd [(65, 0x10)]
  let bad := rd [(65, 0x80)]
  let ld := fun (s : State) => ((s.rqtPass 0 (s.ownLoc (s.entryAt 0))).getD s).load 0 (s.entryAt 0) 64
  let w := fun (s : State) => leNat ((ld s).bytes.take 8)
  let d : Vector Dword 8 := descWords (ld img).bytes
  let li := at0 fun k => { k with seq := { k.seq with dispatch := .loading 0 d, task := some (taskOf 0 0x1000 0) } }
  [plain, img, bad].all (fun s => s.alive 0 && !s.memDead && s.cmServed && (ld s).bad.isEmpty)
    && !descReject (w plain) && !descImg (w plain) && !descReject (w img) && descImg (w img) && descReject (w bad)
    && (plain.rqtPass 0 (plain.ownLoc (plain.entryAt 0))).isSome && (li.rqtPass 0 (li.ownLoc (descImgAt (vget 0 d 0).toNat))).isSome
    && li.alive 0 && li.cmServed && decide (descImgLen (vget 0 d 0).toNat = 8)
    && (li.load 0 (descImgAt (vget 0 d 0).toNat) (32 * 8)).bad.isEmpty && decide ((taskOf 0 0x1000 0).start.toNat + 8 ≤ 4096)) = true := by decide

set_option maxRecDepth 20000 in
/-- States and operands that meet the hypotheses of `Obligations.EndReportsReachTheCcu`. -/
theorem witness_end_reports_reach_the_ccu : (
  let s := (at0 id).tell 0 (.report ⟨3, 4, .aborted, 9⟩)
  decide (s.ccu.toCcu[0] = [.report ⟨3, 4, .aborted, 9⟩]) && s.ccuAlive) = true := by decide

set_option maxRecDepth 20000 in
/-- States and operands that meet the hypotheses of `Obligations.ClusterFlagSignalsFollowTheBarrierRules`. -/
theorem witness_cluster_flag_signals_follow_the_barrier_rules : (
  let s := fun (m : Dword) (op : BitVec 2) => ((at0 id).setReg 0 0x440 m).tell 0 (.signal 0 op)
  let required := fun (m : Dword) => m.setWidth 8 &&& (s m 2).fuses.present &&& ~~~(((s m 2).reg 0 0x108).setWidth 8)
  [0, 1, 2, 3].all (fun op => decide ((s 0 op).ccu.toCcu[0] = [.signal 0 op]) && (s 0 op).ccuAlive && !(s 0 op).ccuHeld)
    && decide ((required 0x2).getLsbD 0 = false ∧ (required 0x3).getLsbD 0 = true
      ∧ (((s 0x3 2).reg 0 0x440).extractLsb' 8 8 ||| 1 : Byte) ≠ required 0x3
      ∧ (((s 0x203 2).reg 0 0x440).extractLsb' 8 8 ||| 1 : Byte) = required 0x3)) = true := by decide

set_option maxRecDepth 20000 in
/-- States and operands that meet the hypotheses of `Obligations.FlagCrossingsDeliverInOrder`. -/
theorem witness_flag_crossings_deliver_in_order : (
  let h : HeldSig := ⟨31, 2, ⟨[], [], [], [], none⟩⟩
  let s := at0 fun k => { k with seq := { k.seq with held := [h] } }
  let tk := (at0 id).tell 0 (.take (some 31) (some 0) true)
  let rp := (at0 fun k => { k with seq := { k.seq with takePend := true } }).answer 0 (.takeReply true)
  let sh := (at0 id).answer 0 (.flag 31 true)
  let sw := (at0 id).answer 0 (.flags 0xFFFFFFFF)
  decide ((s.core 0).seq.held = h :: []) && s.alive 0 && s.covered 0 h.cover && !tk.ccuHeld
    && decide (tk.ccu.toCcu[0] = [.take (some 31) (some 0) true]) && tk.ccuAlive && tk.reachable 0
    && decide (rp.ccu.toCore[0] = [.takeReply true] ∧ rp.alive 0 = true) && decide (sh.ccu.toCore[0] = [.flag 31 true])
    && decide (sw.ccu.toCore[0] = [.flags 0xFFFFFFFF] ∧ sw.coreRuns 0)) = true := by decide

set_option maxRecDepth 20000 in
/-- States and operands that meet the hypotheses of `Obligations.MatrixInstructionsStartTheirPasses`. -/
theorem witness_matrix_instructions_start_their_passes : (
  let tiles : Vector TileCfg 16 := ((Vector.replicate 16 TileCfg.zero).set 0 ⟨1, 16, 1, 0, true, false⟩).set 1 ⟨1, 4, 1, 2048, true, false⟩
  let e := fun (b : BitVec 40) => (⟨b, Vector.replicate 16 0, 0, 0, none⟩ : QEntry)
  let s := fun (b : BitVec 40) => at0 fun k => { k with
    seq := { k.seq with st := .run, mxq := [e b] }
    trf := { k.trf with tiles := tiles } }
  let held : BankOrigin := ⟨1, 1, false, 0, true, false, 0, 0, 0, 0, false, false⟩
  let mac := fun (b : BitVec 40) => (s b).updMxe 0 fun m => { m with banks := m.banks.set 0 { Bank.empty with st := .held, org := held } }
  let tile2 : TileCfg := ⟨64, 4, 1, 0, true, false⟩
  let hr := at0 fun k => { k with
    seq := { k.seq with st := .run, mxq := [e 0x4400000000] }
    trf := { k.trf with tiles := (Vector.replicate 16 TileCfg.zero).set 0 tile2 }
    mxe := { k.mxe with held := ⟨true, List.replicate 128 (List.replicate 64 0), 1⟩ } }
  let r : MxRun := ⟨e 0x1402020000, [], 1, 2⟩
  let ps := at0 fun k => { k with mxe := { k.mxe with run := some r } }
  [(s 0x1400200000, 1), (mac 0x2400200000, 2), (hr, 4)].all (fun x =>
      x.1.mayStart 0 1 && decide ((x.1.core 0).mxExam = .go) && ((x.1.core 0).seq.mxq.map fun y => op40 y.bits) == [x.2])
    && ps.alive 0 && decide ((ps.core 0).mxe.run = some r ∧ r.next < r.total
      ∧ (ps.core 0).mxe.passHold r.e.bits (mxGroup r.e.bits 1) = .go)
    && mxD (0x1400200000 : BitVec 40) && !mxD (0x1000200000 : BitVec 40)) = true := by decide

set_option maxRecDepth 20000 in
/-- States and operands that meet the hypotheses of `Obligations.PassesLeaveTheirResultInTheBank`. -/
theorem witness_passes_leave_their_result_in_the_bank : (
  let tiles : Vector TileCfg 16 := ((Vector.replicate 16 TileCfg.zero).set 0 ⟨1, 2, 1, 0, true, false⟩).set 1 ⟨1, 32, 1, 2048, true, false⟩
  let e := fun (b : BitVec 40) => (⟨b, Vector.replicate 16 0, 0, 0, none⟩ : QEntry)
  let s := fun (b : BitVec 40) (n : Nat) => at0 fun k => { k with
    seq := { k.seq with st := .run }
    trf := { k.trf with tiles := tiles }
    mxe := { k.mxe with shape := 3, run := some ⟨e b, [0], 1, n⟩ } }
  let two := (s 0 0).updMxe 0 fun m => { m with run := some ⟨e 0x1002200000, [0, 1], 2, 2⟩ }
  let r : MxRun := ⟨e 0x1002200000, [0, 1], 2, 2⟩
  let one := two.endPass 0 r none 0
  two.alive 0 && decide ((two.core 0).mxe.run = some r ∧ ((one.2.endPass 0 r one.1 1).2.core 0).seq.causes = []) &&
  [(s 0x1000200000 1, 0x1000200000, 1), (s 0x1002200000 2, 0x1002200000, 2), (s 0x1400200000 1, 0x1400200000, 1)].all fun x =>
    let m := (x.1.core 0).mxe
    let o := x.1.mmaPass 0 x.2.1 false 0 none (m.banks[(0 : BankId)].begin 0 0 true)
    x.1.alive 0 && o.bad.isEmpty && decide ((x.1.core 0).mxe.run = some ⟨e x.2.1, [0], 1, x.2.2⟩)) = true := by decide

set_option maxRecDepth 20000 in
/-- States and operands that meet the hypotheses of `Obligations.DrainsFillTheFtqInOrder`. -/
theorem witness_drains_fill_the_ftq_in_order : (
  let e : QEntry := ⟨0x1400200000, Vector.replicate 16 0, 0, 0, none⟩
  let d : Draining := ⟨0, 0, false, 5, e, true⟩
  let s := at0 fun k => { k with seq := { k.seq with st := .run }, mxe := { k.mxe with drains := [d], banks := k.mxe.banks.set 0 { Bank.empty with st := .draining } } }
  let q := fun (b : BitVec 40) (st : BankState) => at0 fun k => { k with
    seq := { k.seq with st := .run, mxq := [⟨b, Vector.replicate 16 0, 0, 0, none⟩] }
    mxe := { k.mxe with banks := k.mxe.banks.set 0 { Bank.empty with st := st } } }
  s.alive 0 && decide ((s.core 0).mxe.drains = d :: [] ∧ (s.core 0).mxe.banks[d.bank].bad = [] ∧ (s.core 0).mxe.banks[d.bank].checked = false)
    && [q 0x6000000000 .empty, q 0x6400000000 .held, q 0x6000000000 .held].all (fun x => x.mayStart 0 1 && decide ((x.core 0).mxExam = .go))
    && mxD (0x6400000000 : BitVec 40)) = true := by decide

set_option maxRecDepth 20000 in
/-- States and operands that meet the hypotheses of `Obligations.HeldRowsShapeScaleAndMode`. -/
theorem witness_held_rows_shape_scale_and_mode : (
  let e := fun (b : BitVec 40) => (⟨b, Vector.replicate 16 0, 0, 0, none⟩ : QEntry)
  let s := fun (b : BitVec 40) (f : Mxe → Mxe) => at0 fun k => { k with
    seq := { k.seq with st := .run, mxq := [e b] }, mxe := f k.mxe
    trf := { k.trf with tiles := (k.trf.tiles.set 0 ⟨64, 4, 1, 0, true, false⟩).set 1 ⟨64, 4, 1, 256, true, false⟩ } }
  let held := fun (m : Mxe) => { m with banks := m.banks.set 0 { Bank.empty with st := .held }, sb := m.sb.set 0 ⟨true, [], []⟩ }
  let op := fun (x : MxOp) => at0 fun k => { k with seq := { k.seq with st := .run }, mxe := { held k.mxe with op := some x } }
  [s 0x3008000000 id, s 0x5000000000 id, s 0x5800000000 id, s 0x7000000000 held, s 0x8E00000000 id].all
      (fun x => x.mayStart 0 1 && decide ((x.core 0).mxExam = .go))
    && [op (.shape none 2), op (.hrld (e 0x3000000000)), op (.ascl (e 0x7000000000))].all (fun x => x.alive 0)
    && ((op (.hrld (e 0x3000000000))).tileRows 0 [(0, 0)]).bad.isEmpty) = true := by decide

set_option maxRecDepth 20000 in
/-- States and operands that meet the hypotheses of `Obligations.EngineTimeoutsAbortTheTask`. -/
theorem witness_engine_timeouts_abort_the_task : (
  let run := fun (f : Core → Core) => at0 fun k => f { k with seq := { k.seq with st := .run, task := some (taskOf 0 0 0) } }
  let e := fun (b : BitVec 40) => (⟨b, Vector.replicate 16 0, 0, 0, none⟩ : QEntry)
  let mx := fun (x : TileCfg) => run fun k => { k with seq := { k.seq with mxq := [e 0x3008000000] }, trf := { k.trf with tiles := (k.trf.tiles.set 0 x).set 1 x } }
  let ls := fun (x : TileCfg) => run fun k => { k with seq := { k.seq with lsq := [e 0x20000000] }, trf := { k.trf with tiles := k.trf.tiles.set 0 x } }
  let vx := fun (hdr : Dword) => (run fun k => { k with seq := { k.seq with vxq := [e 0x1000000000] } }).setReg (pgVxe 0) 0x200 hdr
  let cfg := (vx 0x30).setReg (pgVxe 0) 0x1F8 1
  let ok := fun (s : State) => decide ((s.core 0).seq.abortTask = false ∧ (s.core 0).seq.holds = true) && s.mayExam 0
    && s.unpaused 0 1 && s.unpaused 0 2 && s.unpaused 0 3
  let later := run fun k => { k with mxe := { k.mxe with run := some ⟨e 0x1402020000, [], 1, 2⟩, ftq := Vector.replicate 4 { FtqSlot.empty with rsv := true } } }
  ok (mx TileCfg.zero) && decide (((mx TileCfg.zero).core 0).mxExam = .hold 1 0 0)
    && ok (mx ⟨1, 1, 1, 0, true, true⟩) && decide (((mx ⟨1, 1, 1, 0, true, true⟩).core 0).mxExam = .cfg 0)
    && ok (ls TileCfg.zero) && decide ((ls TileCfg.zero).lsExam 0 = .hold 2 0)
    && ok (ls ⟨0, 1, 1, 0, true, true⟩) && decide ((ls ⟨0, 1, 1, 0, true, true⟩).lsExam 0 = .cfg 0)
    && ok (vx 0x80) && ((vx 0x80).vxStall 0).isNone && decide ((vx 0x80).vxExam 0 = .hold 1 0)
    && ok cfg && decide (cfg.vxExam 0 = .cfg 0) && ok later && (later.core 0).mxe.laterHold.isSome) = true := by decide

set_option maxRecDepth 20000 in
/-- States and operands that meet the hypotheses of `Obligations.EngineTimeoutsAbortTheTask`. -/
theorem witness_engine_timeouts_abort_the_task_2 : (
  let run := fun (f : Core → Core) => at0 fun k => f { k with seq := { k.seq with st := .run, task := some (taskOf 0 0 0) } }
  let e := fun (b : BitVec 40) => (⟨b, Vector.replicate 16 0, 0, 0, none⟩ : QEntry)
  let ok := fun (s : State) => decide ((s.core 0).seq.abortTask = false ∧ (s.core 0).seq.holds = true) && s.strLive 0 && s.mayStart 0 7
  let hdr : Dword := 0xC0
  let act : VxAct := ⟨e 0x1000000000, hdr :: List.replicate 16 0, 1, 0, 0, [], [], [], [], none, none, none, none, [], [], [], []⟩
  let stall := run fun k => { k with vxe := { k.vxe with acts := [act] } }
  let cch := run fun k => { k with cch := { k.cch with op := some ⟨e 0x80000000, []⟩ } }
  let wpr := (((run id).setReg (pgCch 0) 0x110 1).setReg (pgCch 0) 0x150 0x200000).setReg (pgCch 0) 0x140 1
  let un : Unacked := ⟨0, 1, false, none, 0⟩
  let bd : Binding := ⟨0, 0, 0, true, false, 0, 0, [un]⟩
  let snd := run fun k => { k with seq := { k.seq with chq := [e 0x100000] }, chn := { k.chn with binds := [(0, bd)] } }
  let q : FarReq := ⟨7, [], [], false⟩
  let d : Desc := ⟨0, 0, 0, 0, 0, true, e 0⟩
  let ad : ActDesc := ⟨d, 0, ⟨[], 0, false, 0, [], 0, 0, true⟩, none, none, [q], [], false, true, false⟩
  let st := run fun k => { k with str := { k.str with units := k.str.units.set 0 ⟨[], [ad], none, 0, []⟩ } }
  let p : Posted := ⟨7, e 0, 0, 0, false, false⟩
  let po := run fun k => { k with str := { k.str with units := k.str.units.set 0 ⟨[], [], none, 0, [p]⟩ } }
  ok stall && (stall.vxStall 0).isSome && ok cch && ok wpr && wpr.wprBroken 0 && decide ((cch.core 0).cch.op = some ⟨e 0x80000000, []⟩)
    && ok snd && decide (snd.creditWaits 0 ≠ []) && decide (un ∈ ((snd.core 0).chn.bind 0).unacked)
    && ok st && decide (ad ∈ (st.unit 0 0).acts ∧ q ∈ ad.outs) && ok po && decide (p ∈ (po.unit 0 0).posted)) = true := by decide

set_option maxRecDepth 20000 in
/-- States and operands that meet the hypotheses of `Obligations.EngineTimeoutsAbortTheTask`. -/
theorem witness_engine_timeouts_abort_the_task_3 : (
  let run := fun (f : Core → Core) => at0 fun k => f { k with seq := { k.seq with st := .run, task := some (taskOf 0 0 0) } }
  let e := fun (b : BitVec 40) => (⟨b, vset (Vector.replicate 16 0) 1 0x800100000000, 0, 0, none⟩ : QEntry)
  let act : VxAct := ⟨e 0x1000000000, [], 1, 0, 0, [], [], [], [], none, none, none, none, [], [], [], [0]⟩
  let r : LogRec := ⟨0, 1, false, none, 0, 0, 0, 0, 0, 0, false, true, 0, false⟩
  let crel := run fun k => { k with
    seq := { k.seq with chq := [e 0x540000] }, vxe := { k.vxe with acts := [act] },
    trf := { k.trf with tiles := k.trf.tiles.set 0 ⟨1, 1, 1, 0, true, false⟩ },
    chn := { k.chn with ports := k.chn.ports.set 2 ⟨true, 0x00048000, 0, true, [r]⟩ } }
  let port := ({ (run fun k => { k with seq := { k.seq with chq := [e 0x4E0400] } }) with mem := memWrite [] (cspOff 0 0) (natLe 8 0x07048000) } : State)
  let held := fun (x : RecordRead) => match x with
    | .ok v _ => portCase 7 v == 0 && ((port.core 0).chn.port 7).portHeld v
    | .bad _ => false
  crel.mayStart 0 7 && decide ((crel.core 0).seq.chq = [e 0x540000] ∧ op24 (e 0x540000).bits = 5 ∧ vxePort (chPort (e 0x540000).bits) = false)
    && (crel.core 0).crelHeld (e 0x540000) && port.mayStart 0 7 && decide (op24 (e 0x4E0400).bits = 4 ∧ chPort (e 0x4E0400).bits = 7)
    && held (port.chRecord 0 (e 0x4E0400) 0 7)) = true := by decide

set_option maxRecDepth 20000 in
/-- States and operands that meet the hypotheses of `Obligations.TileLoadsAndStoresStart`. -/
theorem witness_tile_loads_and_stores_start : (
  let e := fun (b : BitVec 40) (a : Addr) => (⟨b, Vector.replicate 16 a, 0, 0, none⟩ : QEntry)
  let cfg : TileCfg := ⟨1, 1, 10, 4095, true, false⟩
  let s := fun (b : BitVec 40) (a : Addr) => at0 fun k => { k with
    seq := { k.seq with st := .run, lsq := [e b a] }, trf := { k.trf with tiles := k.trf.tiles.set 15 cfg } }
  let ld := s 0x1F000000 0x800100000000
  let st := s 0x2F000000 0x800100000000
  let all := (st.updTrf 0 fun k => { k with poison := k.poison.set 15 1 })
  let s2 := fun (u : State) (op : TluOp) => (u.updSeq 0 fun q => { q with lsq := [] }).updTrf 0 fun k => { k with ops := [op] }
  let le := e 0x1F000000 0x800100000000
  let se := e 0x2F000000 0x800100000000
  [ld, st, all, s 0x3F000000 0x10000081, s 0x4FFFF000 0].all (fun u => u.mayStart 0 3 && decide (u.lsExam 0 = .go))
    && (requestAll (fun v i => v.tldRequest 0 le 16 i) [0] (s2 ld (TluOp.start le false 15 cfg [0]))).isSome
    && ((s2 st (TluOp.start se true 15 cfg [])).tstRows 0 se 15 cfg [0]).isSome && (all.core 0).trf.ops.isEmpty) = true := by decide

set_option maxRecDepth 20000 in
/-- States and operands that meet the hypotheses of `Obligations.TileRowsReturnAndAreAccepted`. -/
theorem witness_tile_rows_return_and_are_accepted : (
  let e := fun (b : BitVec 40) => (⟨b, Vector.replicate 16 0x800100000000, 0, 0, none⟩ : QEntry)
  let cfg : TileCfg := ⟨1, 1, 10, 4095, true, false⟩
  let ld := TluOp.start (e 0x1F000000) false 15 cfg [0]
  let st := TluOp.start (e 0x2F000000) true 15 cfg [0]
  let s := fun (o : TluOp) => at0 fun k => { k with seq := { k.seq with st := .run }, trf := { k.trf with ops := [o] } }
  let fld := { ld with e := { ld.e with regs := Vector.replicate 16 0x1000 } }
  let wld := { ld with e := { ld.e with regs := Vector.replicate 16 0x8001FFFFFF00 } }
  let wst := { st with e := { st.e with regs := Vector.replicate 16 0x8001FFFFFF00 } }
  let g := (s ld).tldRead 0 ld 0 16 (.data [])
  let far := (s fld).tldRead 0 fld 0 16 (.error 7)
  let win := (s wld).tldRead 0 wld 0 16 (.data [])
  let w := (s st).tstWrite 0 st 0 (List.replicate 16 0) (.data [])
  let ww := (s wst).tstWrite 0 wst 0 (List.replicate 16 0) (.data [])
  let user : TagUser := .tlu 0 0 0
  (s ld).rowTurn 0 0 false && g.err.isNone && ((s ld).cscWaits 0 user []).isNone && !(s ld).bondBad user
    && decide (far.err = some (.remote 7)) && win.err.any (fun x => x.kind == 5)
    && (s st).storeTurn 0 0 && (((s st).core 0).storeRow 0).isSome && w.err.isNone && ww.err.isSome && (s ld).alive 0) = true := by decide

set_option maxRecDepth 20000 in
/-- States and operands that meet the hypotheses of `Obligations.ChainsIssueReadTilesAndComplete`. -/
theorem witness_chains_issue_read_tiles_and_complete : (
  let e := fun (b : BitVec 40) => (⟨b, Vector.replicate 16 0, 0, 0, none⟩ : QEntry)
  let s := fun (b : BitVec 40) (hdr : Dword) => (at0 fun k => { k with seq := { k.seq with st := .run, vxq := [e b] } }).setReg (pgVxe 0) 0x200 hdr
  [s 0x1000000000 0, s 0x2000000000 0x10000000, s 0x3000000000 0x1410000000].all fun u =>
    u.mayStart 0 2 && decide (u.vxExam 0 = .go) && (e 0).beats == 0) = true := by decide

set_option maxRecDepth 20000 in
/-- States and operands that meet the hypotheses of `Obligations.ChainsIssueReadTilesAndComplete`. -/
theorem witness_chains_issue_read_tiles_and_complete_2 : (
  let e : QEntry := ⟨0x1000000000, Vector.replicate 16 0, 0, 0, none⟩
  let act : VxAct := ⟨e, 0xC0 :: List.replicate 16 0, 64, 0, 0, [], [], [], [], none, none, none, none, [], [], [], []⟩
  let s := fun (a : VxAct) (ch : Bool) => at0 fun k => { k with
    vxe := { k.vxe with acts := [a] }
    mxe := { k.mxe with nextPush := 1, ftq := k.mxe.ftq.set 3 { FtqSlot.empty with valid := true, chain := ch } } }
  let last := { act with slot := some 3, rd := 63, tiles := [(0, 0)] }
  let d := s { act with entry := 0 :: List.replicate 16 0, n := 1, rd := 1 } false
  let b := d.runBeat 0 ⟨0, List.replicate 8 0, List.replicate 8 0⟩ (d.beatIn 0 ⟨0, List.replicate 8 0, List.replicate 8 0⟩ act) []
  let z := fun (n : Nat) => at0 fun k => { k with vxe := { k.vxe with acts := [{ act with entry := 0 :: List.replicate 16 0, n := n, rd := n, left := n }] } }
  [s act false, s act true].all (fun u => (u.core 0).wantsTile.isSome && u.alive 0 && decide ((u.core 0).mxe.select 0 = some 3))
    && act.chain.in0k == 3 && act.chain.in0f == 0 && !act.chain.ord && !act.chain.readsRss
    && decide (4096 ≤ last.slotPos + last.chain.epb)
    && d.alive 0 && b.fault.isNone
    && [z 0, z 1].all (fun u => u.alive 0 && (u.core 0).vxe.acts.all (fun a => !a.reading && (a.accReads a.chain).isEmpty))) = true := by decide

set_option maxRecDepth 20000 in
/-- States and operands that meet the hypotheses of `Obligations.VclrLoadsAndClears`. -/
theorem witness_vclr_loads_and_clears : (
  let e := fun (b : BitVec 40) (a : Addr) => (⟨b, Vector.replicate 16 a, 0, 0, none⟩ : QEntry)
  let s := fun (b : BitVec 40) (a : Addr) => at0 fun k => { k with seq := { k.seq with st := .run, vxq := [e b a] } }
  [0x400000F003, 0x4F00100000, 0x4F0F200000, 0x400F300000].all (fun b =>
    let u := s b 0x80010007FF00
    u.mayStart 0 2 && (u.core 0).vxe.acts.isEmpty && op40 b == 4
      && u.ownCsp 0 ((e b 0x80010007FF00).va 28) == some 0x7FF00 && (u.cspLoad 0 .ownCore 0x7FF00 256).bad.isEmpty)
    && [0x800100000004, 0x900000000000].all (fun a => (s 0x4F00100000 a).mayStart 0 2)
    && ((s 0 0).ownCsp 0 0x900000000000).isNone) = true := by decide

set_option maxRecDepth 20000 in
/-- States and operands that meet the hypotheses of `Obligations.CacheOpsStartAndComplete`. -/
theorem witness_cache_ops_start_and_complete : (
  let e := fun (b : BitVec 40) => (⟨b, Vector.replicate 16 0x80000000, 0, 0, none⟩ : QEntry)
  let s := fun (b : BitVec 40) => at0 fun k => { k with seq := { k.seq with st := .run, lsq := [e b] } }
  let o := fun (b : BitVec 40) (w : List Nat) => at0 fun k => { k with seq := { k.seq with st := .run }, cch := { k.cch with op := some ⟨e b, w⟩ } }
  let h := fun (b : BitVec 40) (n : Nat) => match (s b).cacheHead 0 n with
    | some (x, t) => (t.sweep 0 true true 0 0 (t.rangeLines 0 x)).isSome
    | none => false
  let bad : State := { o 0x80060000 [7] with rqt := ⟨[(3, some ⟨0, .cch 0 7 0 (e 0x80060000).opScope, 0, 1, false, false⟩)], []⟩ }
  let l : CchLine := ⟨0x10000000000, 0, [], 1, 0⟩
  let w := (s 0x80050000).writeBack 0 l 0 0
  h 0x80010000 8 && h 0x80050000 8 && h 0x90010000 9 && h 0xA0010000 10 && (o 0xA0010000 []).strLive 0 && !(o 0xA0010000 []).memDead
    && (o 0xA0010000 []).fenceDone 0 ⟨e 0xA0010000, []⟩ && bad.strLive 0 && decide (bad.failedBack 0 ⟨e 0x80060000, [7]⟩ = some 7)
    && !w.busy && !w.ue && !w.away) = true := by decide

set_option maxRecDepth 20000 in
/-- States and operands that meet the hypotheses of `Obligations.StreamOpsSubmitAndLoadPrograms`. -/
theorem witness_stream_ops_submit_and_load_programs : (
  let e := fun (b : BitVec 40) => (⟨b, Vector.replicate 16 0x80010007FF80, 0, 0, none⟩ : QEntry)
  let s := fun (b : BitVec 40) => at0 fun k => { k with seq := { k.seq with st := .run, stq := k.seq.stq.set 3 [e b] } }
  let l := at0 fun k => { k with str := { k.str with units := k.str.units.set 3 ⟨[], [], some (e 0x203C0000), 0, []⟩ } }
  let ok := fun (b : BitVec 40) (op : Nat) => match (s b).stHead 0 3 op with
    | some (x, t) => decide (x = e b) && (t.cspLoad 0 .ownCore 0x7FF80 128).bad.isEmpty && (t.cspLoad 0 .ownCore 0x7FF80 64).bad.isEmpty
    | none => false
  ok 0x10021000 1 && ok 0x203C0000 2 && decide ((s 0x10021000).ownCsp 0 (e 0).descAddr = some 0x7FF80)
    && !(s 0x203C0000).ldpgWaits 0 (e 0x203C0000) && l.strLive 0 && decide ((l.unit 0 3).ldpg = some (e 0x203C0000))) = true := by decide

set_option maxRecDepth 20000 in
/-- States and operands that meet the hypotheses of `Obligations.StreamDescriptorsStartRequestAndComplete`. -/
theorem witness_stream_descriptors_start_request_and_complete : (
  let e : QEntry := ⟨0x10000000, Vector.replicate 16 0, 0, 0, none⟩
  let d : Desc := ⟨0, 0, 0x800100000000, 256, 0, true, e⟩
  let nl : Desc := { d with ctrl := 0x10 }
  let a : ActDesc := ⟨d, 0, { AgRun.start [] 0 with done := true, near := 256 }, none, none, [], [], false, true, false⟩
  let s := fun (k : StrUnit) => at0 fun x => { x with seq := { x.seq with st := .run }, str := { x.str with units := x.str.units.set 0 k } }
  let start := s ⟨[d], [], none, 0, []⟩
  let wait := s ⟨[], [{ a with waitT := true, issued := false }], none, 0, []⟩
  let r : FarReq := ⟨0, [⟨0, 0, 16⟩], [], false⟩
  let open_ := s ⟨[], [{ a with open_ := some r, issued := false }], none, 0, []⟩
  let oa : ActDesc := { a with d := nl, open_ := some r, issued := false }
  let starve := s ⟨[], [oa], none, 0, []⟩
  let out := s ⟨[], [{ a with outs := [r] }], none, 0, []⟩
  let fin := s ⟨[], [a], none, 0, []⟩
  let po := s ⟨[], [], none, 0, [⟨7, e, 0, 0, false, false⟩]⟩
  start.mayStart 0 4 && (start.unit 0 0).turn d && !start.pgmWaits 0 d && (match start.descCheck 0 d with
      | .inr n => n == 0
      | .inl _ => false)
    && wait.strLive 0 && (wait.unit 0 0).waitsT && decide ((wait.core 0).str.tbuf = none)
    && (open_.unit 0 0).issuing && (open_.strIssue 0 0 { a with open_ := some r, issued := false } r false).isSome
    && (starve.unit 0 0).issuing && (starve.strIssue 0 0 oa r true).isSome
    && out.strLive 0 && !out.memDead && a.finished && fin.strLive 0 && po.strLive 0 && !po.memDead) = true := by decide

set_option maxRecDepth 20000 in
/-- States and operands that meet the hypotheses of `Obligations.AddressGeneratorFollowsItsProgram`. -/
theorem witness_address_generator_follows_its_program : (
  let lp : Dword := 0x2000000000000000
  let nested : Dword := 0x2000000100000000
  let r := fun (p : List Dword) => AgRun.start p 0
  decide ((r [lp]).ran = false ∧ fld lp 60 4 = 2 ∧ fld lp 32 24 = 0 ∧ agWalk 0 ([nested, 3 <<< 60] ++ [0]) = true)
    && [nested, (3 <<< 60 : Dword)].all (fun x => fld x 60 4 != 0)
    && (r (lp :: [nested, 3 <<< 60] ++ (3 <<< 60 : Dword) :: [0])).prog.drop 1 == [nested, 3 <<< 60] ++ (3 <<< 60 : Dword) :: [0]) = true := by decide

set_option maxRecDepth 20000 in
/-- States and operands that meet the hypotheses of `Obligations.ChannelOpsBindPortSendAndRelease`. -/
theorem witness_channel_ops_bind_port_send_and_release : (
  let e := fun (b : BitVec 40) => (⟨b, Vector.replicate 16 0x80010007FFC0, 0, 0, none⟩ : QEntry)
  let rec_ : LogRec := ⟨0, 1, false, some 1, 0, 0, 0, 0, 0, 0, false, true, 0, false⟩
  let bd : Binding := ⟨0x0FE0000000010000, 128, 0, true, false, 1, 0, []⟩
  let s := fun (b : BitVec 40) => ({ (at0 fun k => { k with
    seq := { k.seq with st := .run, chq := [e b] }
    chn := { k.chn with binds := [(63, bd)], ports := vmod k.chn.ports 4 fun q => { q with armed := true, log := [rec_] } } }) with
    mem := [(2 ^ 32 + 0x7FFC2, 4), (2 ^ 32 + 0x7FFC1, 0x80)].reverse } : State)
  let ok := fun (x : RecordRead) => match x with
    | .ok _ _ => true
    | .bad _ => false
  let sends := match (s 0x1FC000).trySend 0 63 1 0 with
    | .ready t => ((t.chLeave 0).cspLoad 0 .ownCore 0x7FFC0 64).bad.isEmpty
    | _ => false
  let lo := { bd with record := 0 }
  [0x1FC000, 0x10C000, 0x2FC000, 0x3FC000, 0x480000, 0x580000, 0x6E0000].all (fun b => (s b).mayStart 0 7 && !(s b).chnHeld 0)
    && !(((s 0).core 0).chn.bind 63).waiting && ok ((s 0x2FC000).chRecord 0 (e 0x2FC000) 63 0)
    && ok ((s 0x480000).chRecord 0 (e 0x480000) 0 4) && !(((s 0).core 0).chn.port 4).portHeld 0 && !((s 0x580000).core 0).crelHeld (e 0x580000)
    && chCount (e 0x580000).bits == 1 && chPort (e 0x580000).bits == 4 && sends && (s 0x1FC000).sendSource 0 (e 0x1FC000) == some 0x7FFC0
    && portCase 4 0x48000 == 0 && portCase 7 0x6FC00 == 0 && portCase 2 0x68600 == 0
    && decide (bd.dev 0 = 0 ∧ bd.place = 0) && (s 0).reachable bd.core && lo.bound) = true := by decide

set_option maxRecDepth 20000 in
/-- States and operands that meet the hypotheses of `Obligations.MessagesLandAndAreAcknowledged`. -/
theorem witness_messages_land_and_are_acknowledged : (
  let rec_ : LogRec := ⟨0, 1, false, some 7, 0, 0, 0, 0, 0, 0, true, true, 0, false⟩
  let msg : Msg := ⟨0, 0, 7, 0, 0, 0, 1, false, 0, List.replicate 64 1⟩
  let bd : Binding := ⟨0, 0, 0, true, false, 1, 0, [⟨0, 1, false, none, 0⟩]⟩
  let s := fun (m : LinkMsg) (l : List LogRec) => ({ (at0 fun k => { k with
    chn := { k.chn with binds := [(0, bd)], ports := vmod k.chn.ports 7 fun q => { q with armed := true, record := 0x00848000, log := l } } }) with
    links := [(7, 0, m)] } : State)
  let land := s (.msg msg) [rec_]
  let took := fun (m : LinkMsg) => (((s m []).linkTake 7 0).map fun x => decide (x.1 = m)).getD false
  let mesh := fun (l : List Packet) => ({ s (.msg msg) [] with inbox := l.map fun k => (some (0 : PortId), k) } : State)
  let ack := { Packet.blank 6 3 0 with spec := 0x10000 }
  let cred := { Packet.blank 6 3 0 with spec := 0x101020000 }
  let has := fun (x : Option State) => x.isSome
  let q := ((land.core 0).chn.port 7)
  [LinkMsg.msg msg, .cut 0 7, .ack 0 0 false 1, .credit 0 1 1].all (fun m => took m && (s m []).chnUp 0)
    && decide (q.log = [] ++ rec_ :: []) && land.reachable 7 && land.chnUp 0 && decide (q.units = 8) && !land.chnHeld 0
    && !land.landingHeld 0 msg && q.armed && decide (q.epoch = 0)
    && (((s (.cut 0 7) [{ rec_ with whole := false }]).core 0).chn.port 7).log.any (fun r => r.sender == some 7 && r.ch == 0 && !r.whole)
    && ((mesh (msgPackets 7 0 (msgAddr 0 0 0) msg)).takeMesh 0 0 msg).isSome && ((mesh []).core 0).chn.expected 0 0 0 && !msgCut msg
    && has ((mesh [ack]).takeCack 0 0x10000)
    && ((mesh [cred]).takePacket fun k => k.type == 6 && k.island == 0 && k.byte 24 == 0 && k.byte 26 == 2
      && (k.byte 27).toNat == 1 && k.spec.toNat / 2 ^ 32 == 1).isSome) = true := by decide

set_option maxRecDepth 20000 in
/-- States and operands that meet the hypotheses of `Obligations.TransactionsOpenStoreAndEnd`. -/
theorem witness_transactions_open_store_and_end : (
  let e := fun (b : BitVec 40) => (⟨b, Vector.replicate 16 0x800100000000, 0, 0, none⟩ : QEntry)
  let s := fun (b : BitVec 40) => at0 fun k => { k with seq := { k.seq with st := .run, lsq := [e b] } }
  let full := let u := at0 id; ({ u with txu := { u.txu with slots := Vector.replicate 64 { TxSlot.free with st := .open_, core := 7 } } } : State)
  let held := fun (u : State) (st : SlotState) => ({ u with txu := { u.txu with slots := u.txu.slots.set 63 { TxSlot.free with st := st } } } : State)
  let line : TxLine := ⟨8, 63, 0, [], false⟩
  let pend := let u := held (at0 id) .open_; ({ u with txu := { u.txu with lines := [line] } } : State)
  let o : TluOp := { TluOp.start ⟨0x20000000, Vector.replicate 16 0x1000, 0, 0, none⟩ true 0 ⟨1, 1, 10, 0, true, false⟩ [0] with tx := [0] }
  let st := let u := held (at0 fun k => { k with trf := { k.trf with ops := [o] } }) .open_
    ({ u with txu := { u.txu with mode := u.txu.mode.set 0 true } } : State)
  let head := fun (u : State) (op : Nat) => match u.txHead 0 op with
    | some (x, t) => (t.statusOff 0 x).isSome
    | none => false
  let merged := match st.txMergeRow 0 63 (cellsAt 0x1000 (List.replicate 16 0)) (linesOf 0x1000 16) with
    | .ok _ => true
    | _ => false
  let many := { st with txu := { st.txu with lines := List.replicate 32 { line with line := 9 } } }
  let limit := match many.txMergeRow 0 63 (cellsAt 0x1000 (List.replicate 16 0)) (linesOf 0x1000 16) with
    | .limit _ _ _ => true
    | _ => false
  let old := let u := at0 id; ({ u with txu := { u.txu with slots := u.txu.slots.set 63 { TxSlot.free with st := .open_, age := 0xFFFFFFFF } } } : State)
  head (s 0xC0000000) 12 && ((s 0xC0000000).txu.freeSlot == some 0) && ((s 0xC0000000).txu.heldBy 0).isNone
    && full.txu.freeSlot.isNone && (full.txu.heldBy 0).isNone
    && head (s 0xD0040000) 13 && txScope (e 0xD0040000) == 2 && (held (s 0xD0040000) .open_).txu.heldBy 0 == some 63
    && (held (s 0xD0040000) .doomed).txu.heldBy 0 == some 63 && head (s 0xE0000000) 14
    && ((held (s 0xD0040000) .open_).commitLines 0 63 []).isSome
    && ((st.core 0).storeRow 0).isSome && st.span st.ownDev 0x1000 16 == .ext && st.rowTurn 0 0 true
    && (st.txEvictCch 0 0 (linesOf 0x1000 16)).isSome && merged && limit && (many.txEvictCch 0 0 (linesOf 0x1000 16)).isSome
    && (s 0xD0080000).commitAddrOk 63 { e 0xD0080000 with regs := Vector.replicate 16 0x1000 } && old.txAged 63
    && decide (pend.txPending 8 = some line ∧ line.slot ≠ 0) && !pend.memDead) = true := by decide

set_option maxRecDepth 20000 in
/-- States and operands that meet the hypotheses of `Obligations.DurableCommitsAndCopiesComplete`. -/
theorem witness_durable_commits_and_copies_complete : (
  let s := at0 id
  let slot := fun (f : TxSlot → TxSlot) => ({ s with txu := { s.txu with slots := s.txu.slots.set 63 (f TxSlot.free) } } : State)
  let e : QEntry := ⟨0xD0000000, Vector.replicate 16 0x1000, 0, 0, none⟩
  let l : TxLine := ⟨8, 63, 1, [], true⟩
  let c := ({ s with txu := { s.txu with lines := [l] } } : State)
  let base := (s.setReg 3 0x120 0x800000000000).setReg 0 0x1D0 0x800000000000 |>.setReg 6 0x168 0x800000000000
  let late : State := { s with rqt := ⟨[(5, some ⟨0, .txLine 63 0 8, 0, 1, true, false⟩)], []⟩ }
  let wait : State := { slot fun k => { k with dur := .lines 4, tail := some e, core := 0 } with rqt := late.rqt }
  !s.memHalted && decide (c.txu.takeCommitting 8 = some (l, [])) && decide (late.txTag 8 = some (63, 0)) && (late.txu.takeCommitting 8).isNone
    && decide (wait.unackedLines 63 4 = [8]) && (slot fun k => { k with dur := .lines 4, tail := some e }).unackedLines 63 4 == []
    && !s.copyDstOk 1 65536 && !(s.setReg 3 0x120 1).copyDstOk ((s.setReg 3 0x120 1).rf 3 0x120 0 48) 65536
    && decide ((slot fun k => { k with dur := .lines 4, tail := some e }).txu.slots[(63 : SlotId)].tail = some e)
    && ((slot fun k => { k with dur := .lines 4, tail := some e }).launchWrite 0 13 (.txWord 63) s.ownDev (cellsAt 0x1000
      (natLe 4 0x1000 ++ natLe 4 (2 ^ 32 - 1 - 0x1000)))).isSome
    && decide ((slot fun k => { k with dur := .word 3, tail := some e }).txu.slots[(63 : SlotId)].dur = .word 3)
    && base.copyDstOk (base.rf 3 0x120 0 48) 65536 && base.copyDstOk (base.rf 0 0x1D0 0 48) 65536 && base.cmServed) = true := by decide

set_option maxRecDepth 20000 in
/-- States and operands that meet the hypotheses of `Obligations.EvictionRunsToItsCheckpoint`. -/
theorem witness_eviction_runs_to_its_checkpoint : (
  let s := fun (p : EvPhase) => let u := at0 id
    ({ u with evx := { u.evx with phase := p }, ccu := { u.ccu with holds := u.ccu.holds.set 0 (some 0) } } : State)
  let en := ((s .idle).setReg 4 0x108 1)
  let st := (({ s .stopping with evx := { (s .stopping).evx with phase := .stopping, wait := [0] } } : State).updSeq 0 fun q => { q with st := .fault })
  let fl := fun (lim : Dword) => (((s .flushing).setReg 4 0x130 lim).setReg 4 0x120 0).setReg 4 0x128 0x8000
  let ff := fun (lim : Dword) => (fl lim).evFlush
  let wr : State := { ff 1 with evx := { (ff 1).evx with phase := .writing } }
  let co := (s .writing).setReg 4 0x128 0x8000
  let u : State := { co.freeUser .evx with evx := { co.evx with phase := .committing, out := [] } }
  let done := fun (w : WroteOut) => match w with
    | .done _ => true
    | _ => false
  en.ccuAlive && en.evClasses == 1 && !en.evicted.isEmpty && st.evx.wait.all (fun c => (st.core c).seq.st == .fault)
    && [ff 0, ff 1].all (fun t => t.evx.phase == .flushing && t.ccuAlive && !t.memDead && t.ccu.power == .on && t.evFlushed)
    && (ff 0).ckptBad.isSome && (ff 1).ckptBad.isNone && (ff 1).regionsOn.isEmpty
    && done (wr.writeOut 12 .evx wr.evTarget wr.ckptHeader)
    && done (u.writeOut 12 .evx (120 + u.evTarget) (huskBytes [0])) && !co.memDead) = true := by decide

set_option maxRecDepth 20000 in
/-- States and operands that meet the hypotheses of `Obligations.RestoreReadsTheCheckpointBack`. -/
theorem witness_restore_reads_the_checkpoint_back : (
  let s := fun (p : EvPhase) (op : BitVec 2) => let u := at0 id; ({ u with evx := { u.evx with phase := p, op := op } } : State)
  let r := s .restoring 3
  let m := r.setReg 4 0x128 0x8000
  let words := fun (n : Nat) => [0x4B435141, 0x300, 0, 0, 9, n, 0, 0, 0, 0, 0, 0, 0, 0, 0]
  let hdr := fun (n w15 : Nat) => Reply.data (huskBytes (words n ++ [w15]))
  let far := r.setReg 4 0x128 0x00010000
  let g := fun (u : State) (i : Reply) => ({ u with evx := { u.evx with op := 2 } } : State).readCkpt 0 128 i
  let ws := fun (n w15 : Nat) => dwordsOf (g far (hdr n w15)).bytes 16
  let begun := ((s .idle 0).setReg 0 0x198 0).setReg 4 0x128 0x8000
  let rec_ := fun (n : Nat) => (g far (hdr n 9)).s.readRecords (hdr n 9) 128 n
  (s .idle 0).rf 0 0x198 1 1 == 1 && r.ccuAlive && !r.memDead && (g m (.data [])).err.isNone && (g far (hdr 0 9)).err.isNone
    && !begun.trainRuns && begun.rf 0 0x198 1 1 == 0 && (begun.restoreBegin.restoreRun (.data [])).isSome
    && (ws 0 9).all (fun w => (huskValue w).isSome) && huskAt (ws 0 9) 0 == 0x4B435141 && huskAt (ws 0 9) 15 == huskAt (ws 0 9) 4
    && huskAt (ws 0 8) 15 != huskAt (ws 0 8) 4 && (rec_ 0).1.isSome && (rec_ 1).1.isNone && (rec_ 1).2.1.isNone) = true := by decide

set_option maxRecDepth 20000 in
/-- States and operands that meet the hypotheses of `Obligations.MissesAndHeartbeatsFenceACore`. -/
theorem witness_misses_and_heartbeats_fence_a_core : (
  let m := fun (x : CcuMsg) (l : List Nat) => ((at0 id).tell 0 x).updWatch 0 fun w => { w with abft := l, parity := l }
  let u := fun (x : CcuMsg) (l : List Nat) => ((m x l).popCcu 0).updWatch 0 fun w => { w with abft := 0 :: w.abft, parity := 0 :: w.parity }
  (m .abftMiss []).ccuAlive && decide ((m .abftMiss []).ccu.toCcu[0] = [.abftMiss] ∧ (m .parityAbort []).ccu.toCcu[0] = [.parityAbort])
    && !decide (3 ≤ (u .abftMiss []).recent (u .abftMiss []).ccu.watch[(0 : CoreId)].abft)
    && decide (3 ≤ (u .abftMiss [0, 0]).recent (u .abftMiss [0, 0]).ccu.watch[(0 : CoreId)].abft) && (u .abftMiss [0, 0]).mayFence 0
    && !decide (3 ≤ (u .parityAbort []).recent (u .parityAbort []).ccu.watch[(0 : CoreId)].parity)
    && decide (3 ≤ (u .parityAbort [0, 0]).recent (u .parityAbort [0, 0]).ccu.watch[(0 : CoreId)].parity)
    && (u .parityAbort [0, 0]).mayFence 0) = true := by decide

set_option maxRecDepth 20000 in
/-- States and operands that meet the hypotheses of `Obligations.MissesAndHeartbeatsFenceACore`. -/
theorem witness_misses_and_heartbeats_fence_a_core_2 : (
  let f := at0 fun k => { k with seq := { k.seq with st := .fault } }
  let s := at0 id
  let t := s.updCcu fun u => { u with tokens := u.tokens.set 12 true }
  let u := fun (i : Fin 13) => ((s.orReg 0 0x168 (1 <<< i.val)).ccuErr 10 3 i.val).updCcu fun x => { x with hbCount := x.hbCount.set i 0 }
  let late := fun (i : Fin 13) => s.updCcu fun u => { u with hbCount := u.hbCount.set i 6000640 }
  f.mayFence 0 && f.fenceDue 0 4 && (late 0).hbLate 0 && (late 8).hbLate 8 && (late 12).hbLate 12 && (s.updCcu fun u => { u with hbCount := u.hbCount.set 0 6000640 }).fenceDue 0 3 && s.hbExpected 0 && s.hbExpected 8 && s.hbExpected 12 && !(vget false s.stopped (hbStopped 0))
    && decide (t.ccu.tokens[(12 : Fin 13)] = true) && s.ccuAlive && (u 0).mayFence 0 && decide (s.ccu.st ≠ .fault)
    && decide (s.ports[(3 : PortId)].link ≠ .failed)) = true := by decide

set_option maxRecDepth 20000 in
/-- States and operands that meet the hypotheses of `Obligations.SelftestDecidesTheRejoin`. -/
theorem witness_selftest_decides_the_rejoin : (
  let run := fun (f : Bool) (m : Bool) (r : BitVec 4) => let u := ((at0 id).setRf 0 0x108 0 1 (bit f)).updWatch 0 fun w => { w with test := .running, manual := m, reason := r }
    u
  let p := fun (u : State) => u.updWatch 0 fun x => { x with test := .passed, fenceReq := none, manual := false }
  let req := fun (f : Bool) (b : Bool) => (run f false 5).updWatch 0 fun x => { x with fenceReq := some b }
  let asked := (run true true 5).updWatch 0 fun x => { x with fenceReq := some true }
  let stays := (at0 id).setRf 0 0x108 0 1 1
  decide ((run false false 0).ccu.watch[(0 : CoreId)].test = .running) && (run true true 5).fenced 0 && !((run false false 0).fenced 0)
    && (run true true 5).ccu.watch[(0 : CoreId)].manual && !((run true false 5).ccu.watch[(0 : CoreId)].manual || (p (run true false 5)).autoRejoin 0)
    && decide ((run true false 5).ccu.watch[(0 : CoreId)].fenceReq = none ∧ asked.ccu.watch[(0 : CoreId)].fenceReq = some true)
    && (p (req false true)).mayFence 0 && decide ((req false true).ccu.watch[(0 : CoreId)].fenceReq = some true)
    && !((req true false).ccu.watch[(0 : CoreId)].manual || (p (req true false)).autoRejoin 0)
    && asked.fenced 0 && ((p asked).rejoin 0).mayFence 0 && decide (stays.ccu.watch[(0 : CoreId)].test ≠ .running) && stays.fenced 0 && (run true false 5).regReady 0 && (huskValue 1).isNone
    && (huskValue (husked 1)).isSome && (at0 id).mayFence 0 && bitAt (1 : Word32) 0) = true := by decide

set_option maxRecDepth 20000 in
/-- States and operands that meet the hypotheses of `Obligations.PostsQueueAndInstancesOpen`. -/
theorem witness_posts_queue_and_instances_open : (
  let s := ((at0 id).setReg 8 0x600 0x40005).updGroup 0 fun k => { k with en := true, sched := [0x0A000000] }
  let r : Vector Dword 8 := #v[0x100, 0, 0x1000, 0x2000, 0x3000, 0, 0, 0]
  let bad : Vector Dword 8 := #v[0x100, 0, 0x1001, 0x2000, 0x3001, 0, 0, 0]
  let full : State := { s with posts := s.posts.set 0 (List.replicate 16 r) }
  let op : State := { s with posts := s.posts.set 0 [r] }
  let lead := mkRecord [0x10005, 0, 0, 0, 0]
  let kp := op.updGroup 0 fun k => { k with kept := some (lead, lead) }
  s.rduReady 0 && full.rduReady 0 && op.rduReady 0 && (({ op with heldPosts := [] } : State).rduPost 0 bad).isSome
    && (s.postFault 0 r).isNone && decide (s.posts[(0 : PortId)].length < 16) && decide (16 ≤ full.posts[(0 : PortId)].length)
    && (s.postFault 0 bad).isSome && !(postStatOk bad) && decide (s.home 0 = 0) && decide (postKeyOf r = 1)
    && decide (takeFirst (fun r => postG r == 0) op.posts[(0 : PortId)] = some (r, [])) && ((op.group 0).keptFor (postKeyOf r)).isNone
    && ((kp.group 0).keptFor (postKeyOf r)).isSome && (op.group 0).inst.isNone && (op.group 0).en) = true := by decide

set_option maxRecDepth 20000 in
/-- States and operands that meet the hypotheses of `Obligations.PostsQueueAndInstancesOpen`. -/
theorem witness_posts_queue_and_instances_open_2 : (
  let s := (((at0 id).setReg 8 0x608 1).setReg 8 0x620 0x100001).setReg 8 0x618 0
  let v := husked 0x40005
  let u := fun (x : State) => x.setReg 8 0x600 (BitVec.ofNat 64 (fld (0x40005 : Word32) 0 18))
  let good : State := { s with mem := memWrite s.mem 0 (natLe 8 (husked 0x0A000000).toNat ++ natLe 8 (husked 0).toNat) }
  decide (huskValue v = some 0x40005) && !((s.group 0).en) && ((u s).setupFault 0).1.isSome && ((u good).setupFault 0).1.isNone
    && decide (huskValue (husked 5) = some 5) && !((5 : Word32).getLsbD 18)) = true := by decide

set_option maxRecDepth 20000 in
/-- States and operands that meet the hypotheses of `Obligations.ContributionsAddLaneByLane`. -/
theorem witness_contributions_add_lane_by_lane : (
  let post : Vector Dword 8 := #v[0x100, 0, 0x1000, 0x2000, 0x3000, 0, 0, 0]
  let lead := mkRecord [0x10005, 0, 0, 0, 0]
  let k : Inst := ⟨post, 0, .adding lead 0 false, .src, ⟨1, 0, false, false, false, false⟩, 0, 0, 0, .src, lead, lead, false⟩
  let s := ((at0 id).setReg 8 0x600 0x40005).updGroup 0 fun g => { g with en := true, sched := [0x02200000, 0x0A000000], inst := some k }
  decide ((s.group 0).inst = some k) && s.rduReady (s.home 0) && s.rduLive 0 && (recValues lead).isSome
    && decide ((List.replicate 256 (1 : Byte)).length = 256 * postLen post)) = true := by decide

set_option maxRecDepth 20000 in
/-- States and operands that meet the hypotheses of `Obligations.RequestsAndLeadsAreMatched`. -/
theorem witness_requests_and_leads_are_matched : (
  let post : Vector Dword 8 := #v[0x100, 0, 0x1000, 0x2000, 0x3000, 0, 0, 0]
  let z := mkRecord []
  let k := fun (st : InstState) => (⟨post, 0, st, .src, ⟨1, 0, false, false, false, false⟩, 0, 0, 0, .src, z, z, false⟩ : Inst)
  let s := fun (e : Word32) (st : Option InstState) (key : Option (BitVec 48)) => ((at0 id).setReg 8 0x600 0x40005).updGroup 0 fun g =>
    { g with en := true, sched := [e], inst := st.map k, key := key }
  let lead := mkRecord [0x10005, 0, 0, 1, 0x200000]
  let vs := valuesOf lead
  let a := s 0x04200000 none none
  let b := s 0x04200000 (some .waitReq) (some 1)
  let d := s 0x02200000 (some .waitLead) (some 1)
  let o := s 0x04200000 none (some 9)
  let cut := ((s 0x06200000 (some .waitLead) (some 1)).updGroup 0 fun g =>
    { g with sched := [0x06200000, 0x08200000], req := some (mkRecord [0x10005, 0, 0, 1, 0]) })
  a.rduReady 0 && b.rduReady 0 && d.rduReady 0 && o.rduReady 0 && !d.unopened 0 (leadKey vs) && !(d.group 0).cutting (k .waitLead)
    && (cut.group 0).cutting (k .waitLead) && !cut.unopened 0 1 && cut.rduReady 0 && decide (cut.slotOf (recVal vs 0 % 2 ^ 16) = some 0)
    && decide (a.ccu.power = .on) && (recValues (Vector.replicate 8 1)).isNone && (recValues lead).isSome
    && decide (a.slotOf (recVal vs 0 % 2 ^ 16) = some 0) && decide ((a.group 0).sender = some (leadFrom vs))
    && decide (leadKey vs = 1 ∧ postKeyOf post = 1) && !(keyLater 1 9) && decide (o.slotOf (recVal vs 0 % 2 ^ 16) = some 0)
    && decide ((b.group 0).inst = some (k .waitReq)) && decide ((d.group 0).sched[0]? = some 0x02200000)
    && entryRecv 0x02200000 && decide (entryPartner 0x02200000 = leadFrom vs) && leadFits post vs
    && !(leadFits post (valuesOf (mkRecord [0x10005, 0, 0, 2, 0x200000])))) = true := by decide

set_option maxRecDepth 20000 in
/-- States and operands that meet the hypotheses of `Obligations.ReductionEndsInAStatusRecord`. -/
theorem witness_reduction_ends_in_a_status_record : (
  let post : Vector Dword 8 := #v[0x100, 0, 0x1000, 0x2000, 0x3000, 0, 0, 0]
  let z := mkRecord []
  let k := fun (st : InstState) => (⟨post, 0, st, .src, ⟨1, 0, false, false, false, false⟩, 0, 0, 0, .src, z, z, false⟩ : Inst)
  let s := fun (es : List Word32) (st : Option InstState) (key : Option (BitVec 48)) => ((at0 id).setReg 8 0x600 0x40005).updGroup 0 fun g =>
    { g with en := true, sched := es, inst := st.map k, key := key, req := some (mkRecord [0x10005, 0, 0, 1, 0]) }
  let lead := mkRecord [0x10005, 0, 0, 0x4001, 0x200000]
  let vs := valuesOf lead
  let a := s [0x02200000, 0x0A000000] (some .waitLead) (some 1)
  let x := s [0x02200000, 0x0A000000] (some (.adding lead 0 false)) (some 1)
  let y := s [0x06200000, 0x08200000] (some (.adding lead 0 true)) (some 1)
  let n := s [0x04200000] none none
  let w := s [0x04200000] (some .waitResult) (some 1)
  decide ((a.group 0).inst = some (k .waitLead)) && a.rduReady (a.home 0) && x.rduReady 0 && y.rduReady 0 && n.rduReady 0 && w.rduReady 0 && decide ((a.group 0).sched[0]? = some 0x02200000)
    && decide ((x.group 0).inst = some (k (.adding lead 0 false)) ∧ (y.group 0).inst = some (k (.adding lead 0 true)))
    && keyLater 1 0
    && decide ((w.group 0).inst = some (k .waitResult)) && decide ((k .deliver).st = .deliver) && decide (n.ccu.power = .on)
    && (recValues lead).isSome && (recValues z).isSome && decide (n.slotOf (recVal vs 0 % 2 ^ 16) = some 0)
    && decide ((n.group 0).sender = some (leadFrom vs)) && decide ((w.group 0).sender = some (leadFrom vs))
    && decide ((w.group 0).key = some (leadKey vs)) && decide (leadKind vs = 1) && decide (256 ≤ n.areaSize 0)
    && decide (postLen post = 1)) = true := by decide

set_option maxRecDepth 20000 in
/-- States and operands that meet the hypotheses of `Obligations.PacketsAreCheckedAndDelivered`. -/
theorem witness_packets_are_checked_and_delivered : (
  let s0 := at0 id
  let s := ({ s0 with ccu := { s0.ccu with readyS := true }, ports := s0.ports.set 0 { s0.ports[(0 : PortId)] with link := .up, rxSeq := 0xFFFF } } : State)
  let k := ({ Packet.blank 0 2 0 with spec := 8, addr := 0x8000000000000000 } : Packet).seal
  let far := ({ Packet.blank 0 2 0x00010000 with spec := 8, hops := 1 } : Packet).seal
  let r := s.setReg 8 0x150 0x2000000
  let out := ({ Packet.blank 0 2 0x00200000 with spec := 8 } : Packet).seal
  let thru := ({ Packet.blank 0 2 0x00200000 with spec := 8, hops := 3 } : Packet).seal
  let late := fun (n : BitVec 16) => ({ Packet.blank 0 2 0 with spec := 8, seq := n } : Packet).seal
  let f := ({ r with inbox := List.replicate 16 (some 0, k) } : State)
  r.portLive 0 && r.linkReceives 0 k && decide (k.type ≠ 0xB ∧ k.type ≠ 0xF) && !(r.entersBy k && r.portFull 0 k) && !(r.transits k && r.memHalted)
    && decide (({ k with hchk := k.hchk + 1 } : Packet).hchk ≠ ({ k with hchk := k.hchk + 1 } : Packet).headCheck)
    && decide (k.hchk = k.headCheck ∧ k.crc = k.bodyCheck ∧ ({ k with crc := k.crc + 1 } : Packet).crc ≠ ({ k with crc := k.crc + 1 } : Packet).bodyCheck)
    && decide (k.seq = r.ports[(0 : PortId)].rxSeq + 1) && !(typeReserved k) && decide (k.payload.length ≤ 2048 ∧ k.tc ≠ 0 ∧ k.sr = false)
    && decide (r.ccu.readyS = true) && takesIn k && isRequest far && decide (((r.pm 8 2 2).linkTakes 0 k).route k.dst k.mem k.yx = .deliver)
    && decide (((r.pm 8 2 2).linkTakes 0 far).route far.dst far.mem far.yx = .noroute ∧ far.hops ≠ 0) && decide (out.hops = 0)
    && f.portLive 0 && f.linkReceives 0 k && decide (k.seq = f.ports[(0 : PortId)].rxSeq + 1) && f.entersBy k && f.portFull 0 k
    && decide ((late 7).seq ≠ r.ports[(0 : PortId)].rxSeq + 1 ∧ ((late 7).seq - r.ports[(0 : PortId)].rxSeq).toNat ≤ 32768
      ∧ (late 7).seq ≠ r.ports[(0 : PortId)].rxSeq ∧ (late 0xFFFF).seq = r.ports[(0 : PortId)].rxSeq
      ∧ (late 0xFFFF).seq ≠ r.ports[(0 : PortId)].rxSeq + 1)
    && !(r.entersBy far && r.portFull 0 far) && !(r.transits far && r.memHalted) && !(r.entersBy thru && r.portFull 0 thru)
    && !(r.transits thru && r.memHalted) && decide (((r.pm 8 2 2).linkTakes 0 thru).route thru.dst thru.mem thru.yx = .out 1 false ∧ thru.hops ≠ 0)
    && !(r.entersBy out && r.portFull 0 out) && !(r.transits out && r.memHalted)
    && (match ((r.pm 8 2 2).linkTakes 0 out).route out.dst out.mem out.yx with
      | .out _ _ => true
      | _ => false)) = true := by decide

set_option maxRecDepth 20000 in
/-- States and operands that meet the hypotheses of `Obligations.RequestsAreServedAndAnswersFreeTags`. -/
theorem witness_requests_are_served_and_answers_free_tags : (
  let s := at0 id
  let k := fun (n : BitVec 4) (sp : BitVec 48) => ({ Packet.blank 0 2 0 with type := n, spec := sp, payload := if n = 1 then [1] else [] } : Packet)
  let inb := fun (x : Packet) => ({ s with inbox := [(some 1, x)] } : State)
  let ok := fun (n : BitVec 4) (sp : BitVec 48) => decide (((inb (k n sp)).takeIn n (k n sp)) = some (some 1, s))
  let p := (s.servedBy (some 1)).1
  let tag : Tag := ⟨9, .plain 9, 0, 1, false, false⟩
  let t := ({ s with rqt := ⟨[(0, some tag)], []⟩ } : State)
  let held := fun (x : Packet) => ({ inb x with rqt := ⟨[(0, some tag)], []⟩ } : State)
  let got := fun (n : BitVec 4) (x : Packet) => decide ((held x).takeIn n x = some (some 1, t))
  let late := ({ s with rqt := ⟨[], [(0, tag)]⟩ } : State)
  let m := ({ Packet.blank 8 0 0 with addr := 0x800000300000000 } : Packet)
  let bad := ({ Packet.blank 8 0 0 with addr := 1 } : Packet)
  let w := s.setReg 8 0x150 0x2000000
  let rd := ({ Packet.blank 0 2 0 with addr := 0x800000000000, spec := 8 } : Packet)
  ok 0 8 && ok 1 0
    && (match (w.servedBy (some 1)).2.rqtPass (8 + p.val) rd.addr.toNat with
      | some u => !u.memDead && (u.serveRd p rd).err == none && ((u.serveRd p (k 0 8)).err).isSome
        && (u.serveWr p { rd with type := 1, spec := 0, payload := [1] }).err == none && ((u.serveWr p (k 1 0)).err).isSome
      | none => false)
    && ok 2 0 && ok 3 0 && ok 4 3 && !s.memDead && s.ccuAlive && ((inb m).takePacket (· == m)).isSome
    && ((inb bad).mgmtTarget bad).isNone && ((inb { m with sr := true }).mgmtTarget { m with sr := true }).isSome
    && decide (tget none t.rqt.tags 0 = some tag ∧ tag.sent ≤ 1) && !t.memDead && got 2 (k 2 0) && got 3 (k 3 2) && got 3 (k 3 0) && got 4 (k 4 3)
    && ((k 3 2).byte 24).getLsbD 1 && !((k 3 0).byte 24).getLsbD 1 && !((k 3 0).byte 24).getLsbD 0
    && !(t.answersMsg (k 4 3)) && decide ((k 4 3).tc ≠ 1) && !(t.errWaits tag) && !(t.forgotten tag)
    && late.rqt.late.any (fun e => e.1 == (k 2 0).tag)
    && decide (({ inb (k 2 0) with rqt := late.rqt } : State).takeIn 2 (k 2 0) = some (some 1, late))) = true := by decide

set_option maxRecDepth 20000 in
/-- States and operands that meet the hypotheses of `Obligations.RegisterAccessesAreAnswered`. -/
theorem witness_register_accesses_are_answered : (
  let s := at0 id
  let a : RegAccess := ⟨0x18, false, 0, .command⟩
  let b : RegAccess := ⟨0x18, true, 0, .command⟩
  let none_ := ({ s with fuses := ⟨0, []⟩ } : State)
  s.regReady 0 && (blockOf 0).isSome && (blockOf 0x20).isNone && (s.waitingAt 0x20).isEmpty && (blockOf 0x47).isSome
    && !(none_.present (pageCore 0x47)) && decide (takeFirst (fun (x : RegAccess) => !x.write) ((s.setWaiting 0x47 [b, a]).waitingAt 0x47) = some (a, [b]))
    && decide (takeFirst (fun (x : RegAccess) => x.write && x.who != .entered) ((s.setWaiting 0x47 [a, b]).waitingAt 0x47) = some (b, [a])) && decide (crc8 [7] ≠ 0 ∧ ([7] : List Byte).headD 0 = 7)
    && (let u := (s.setWaiting 0 [⟨0x158, true, 5, .command⟩]).setWaiting 0 []
        (u.pageWrite 0 0x158 5).1 == 0)) = true := by decide

set_option maxRecDepth 20000 in
/-- States and operands that meet the hypotheses of `Obligations.LinkFlitsAcknowledgeAndReplay`. -/
theorem witness_link_flits_acknowledge_and_replay : (
  let s0 := at0 id
  let k := ({ Packet.blank 0 1 0 with seq := 4 } : Packet)
  let s := fun (n : Nat) => ({ s0 with ports := s0.ports.set 0 { s0.ports[(0 : PortId)] with
    link := .up, replay := [k], oldest := some 4, retries := n, txq := Vector.replicate 4 [k] } } : State)
  let body : List Byte := natLe 2 0xF ++ natLe 2 4 ++ List.replicate 56 0
  let flit := body ++ natLe 4 (crc32c body).toNat
  let bad := body ++ natLe 4 ((crc32c body).toNat + 1)
  let nakB : List Byte := natLe 2 0x1F ++ natLe 2 4 ++ List.replicate 56 0
  let nak := nakB ++ natLe 4 (crc32c nakB).toNat
  (s 15).portLive 0 && lcfPasses (s 15).ports[(0 : PortId)].link && decide (flit.length = 64 ∧ bad.length = 64)
    && decide (crc32c (flit.take 60) = BitVec.ofNat 32 (leNat (flit.drop 60)))
    && decide (nak.length = 64 ∧ crc32c (nak.take 60) = BitVec.ofNat 32 (leNat (nak.drop 60)) ∧ (nak.headD 0).toNat % 16 = 0xF
      ∧ (nak.headD 0).getLsbD 4 = true)
    && decide (crc32c (bad.take 60) ≠ BitVec.ofNat 32 (leNat (bad.drop 60)))
    && decide ((flit.headD 0).toNat % 16 = 0xF ∧ (flit.headD 0).getLsbD 4 = false ∧ ackCount [k] 4 = 1)
    && decide ((s 15).ports[(0 : PortId)].replay = [k] ∧ (s 15).ports[(0 : PortId)].retries = 15 ∧ (s 3).ports[(0 : PortId)].retries < 15
      ∧ (s 3).ports[(0 : PortId)].oldest = some k.seq ∧ vget [] (s 3).ports[(0 : PortId)].txq 3 = [k])) = true := by decide

set_option maxRecDepth 20000 in
/-- States and operands that meet the hypotheses of `Obligations.LinksComeUpAndRoutesAreReplaced`. -/
theorem witness_links_come_up_and_routes_are_replaced : (
  let s0 := at0 id
  let s := fun (l : LinkState) => ({ s0 with ports := s0.ports.set 1 { s0.ports[(1 : PortId)] with link := l, news := true } } : State).setReg 8 0x150 0x2000000
  let ws : Vector Dword 4 := #v[husked 0x2200000, husked 0xB, husked 0x300, husked 0]
  (s .down).portLive 1 && (s .down).coordValid && decide ((s .down).ports[(1 : PortId)].link = .down ∧ (s .hello).ports[(1 : PortId)].link = .hello)
    && (ws.toList.mapM huskValue).isSome && (s .hello).helloOk 1 ((ws.toList.mapM huskValue).getD [])
    && ((#v[1, 2, 3, 4] : Vector Dword 4).toList.mapM huskValue).isNone && decide ((s .failed).ports[(1 : PortId)].link = .failed ∧ (s .failed).ports[(1 : PortId)].news = true ∧ (s .up).ports[(1 : PortId)].news = true)
    && decide ((1 : Nat) ≠ (s .failed).ownCluster ∧ (s .failed).rf 8 0x188 0 2 = 0 ∧ sideTowards (s .failed).ownCluster 1 false = 1)
    && decide (((s .up).setReg 8 0x188 0x10).rf 8 0x188 4 1 = 1)) = true := by decide

set_option maxRecDepth 20000 in
/-- States and operands that meet the hypotheses of `Obligations.LinksComeUpAndRoutesAreReplaced`. -/
theorem witness_links_come_up_and_routes_are_replaced_2 : (
  let s0 := at0 id
  let s := fun (l : LinkState) => ({ s0 with ports := s0.ports.set 1 { s0.ports[(1 : PortId)] with link := l } } : State).setReg 8 0x150 0x2000000
  let r := ({ s0 with ccu := { s0.ccu with readyS := true } } : State)
  let f := ({ s0 with ccu := { s0.ccu with readyS := false, st := .idle, step := 4 } } : State)
  (s .disabled).regReady 9 && (s .disabled).coordValid && !(bitAt ((s .down).reg 9 0x100) 0) && s0.regReady 8
    && (huskValue (husked 0x2000000)).isSome && decide (r.ccu.readyS = true ∧ r.ports[(1 : PortId)].link ≠ .disabled)
    && decide (f.ccu.readyS = false ∧ f.ccu.st ≠ .fault ∧ f.ccu.step = 4) && bitAt (0x2000000 : Word32) 25 && f.regReady 8) = true := by decide

end Sys2Proof.Tests
end

/-! SUPPORT. The PID of every page (R5). The release field stands above the type, version and instance fields, each of
which stays within its own width on a page that exists, so nothing carries into it. -/

namespace Sys2Proof.Machine

theorem pidType_lt (b : Block) : pidType b < 2 ^ 8 := by
  cases b <;> decide

/-- The last page that exists is 0xBF, the last of core 7 (R485). -/
theorem page_lt_of_blockOf {page : Nat} {b : Block} (hb : blockOf page = some b) : page < 0xC0 := by
  by_contra hge
  have hnone : blockOf page = none := by
    unfold blockOf
    iterate 9 rw [if_neg (by omega)]
    exact if_neg (by omega)
  simp [hnone] at hb

theorem pageInstance_lt {page : Nat} (hpage : page < 0xC0) : pageInstance page < 2 ^ 8 := by
  unfold pageInstance
  split
  · omega
  · split <;> omega

/-- Bits of a word given by a number, as a quotient and a remainder. -/
theorem fld_ofNat (n v lo w : Nat) (hv : v < 2 ^ n) : fld (BitVec.ofNat n v) lo w = v / 2 ^ lo % 2 ^ w := by
  simp [fld, BitVec.extractLsb'_toNat, Nat.mod_eq_of_lt hv, Nat.shiftRight_eq_div_pow]

/-- The PID word holds the release number 3.0 in its bits 55 to 40 (R5). -/
theorem pidOf_release {page : Nat} {b : Block} (hb : blockOf page = some b) :
    fld (BitVec.ofNat 64 (pidOf page b)) 40 16 = 0x0300 := by
  have htype := pidType_lt b
  have hinst := pageInstance_lt (page_lt_of_blockOf hb)
  rw [fld_ofNat _ _ _ _ (by unfold pidOf; omega)]
  unfold pidOf
  omega

theorem State.view_pid (s : State) {page : Nat} {b : Block} (hb : blockOf page = some b) :
    s.view page 0 = BitVec.ofNat 64 (pidOf page b) := by
  simp [State.view, hb]

theorem State.shellView_pid (s : State) {page : Nat} {b : Block} (hb : blockOf page = some b) :
    s.shellView page 0 = BitVec.ofNat 64 (pidOf page b) := by
  simp [State.shellView, hb]

/-- Settles O10: the block and the page shell read the same PID word, and neither consults the state of the block. -/
theorem pagesAreIdentified : Obligations.PagesAreIdentified := by
  intro s page hpage
  obtain ⟨b, hb⟩ := Option.ne_none_iff_exists'.mp hpage
  rw [s.view_pid hb, s.shellView_pid hb]
  exact ⟨pidOf_release hb, pidOf_release hb⟩

end Sys2Proof.Machine

/-! What every command does to memory. A function that stores nothing has a frame `<function>_mem`: it leaves the bytes of
memory as they are. A function that may store has `<function>_wf`: it keeps memory in its canonical form. A command
completes and keeps it in that form (`CompletesWf`). Each follows by going through the branches of the function: a branch is
made of functions that have such a lemma. Together they settle O18. The order is that of the model's files. -/

namespace Sys2Proof.Machine

/-- A command completes, and what it leaves keeps memory canonical. -/
def CompletesWf (o : Ans) : Prop := ∃ t, o = .next t ∧ t.memWf = true

@[simp] theorem completesWf_next {t : State} : CompletesWf (.next t) ↔ t.memWf = true := by
  simp [CompletesWf]

theorem memWf_of_mem {s t : State} (h : s.memWf = true) (ht : t.mem = s.mem) : t.memWf = true := by
  rw [State.memWf, ht]; exact h

theorem completesWf_of_mem {s t : State} (h : s.memWf = true) (ht : t.mem = s.mem) : CompletesWf (.next t) :=
  completesWf_next.2 (memWf_of_mem h ht)

/-! Machine/Mem -/

/-- Sending the packets of a request, wherever each is addressed, leaves memory as it is. -/
theorem sendRequests_mem (ps : List (Nat × Packet)) (addr : State → Nat × Packet → Nat) (s : State) :
    (ps.foldl (fun (t : State) p => t.sendRequest (addr t p) p.2) s).mem = s.mem :=
  foldl_mem _ _ _ (by simp)

theorem State.cscWaits_mem (s : State) (unit : Nat) (user : TagUser) (lines : List Nat) :
    ∀ out, s.cscWaits unit user lines = some out → out.mem = s.mem := by
  intro out ho
  unfold State.cscWaits at ho
  split at ho
  · cases ho; rfl
  · split at ho
    · cases ho
    · next line _ =>
      have hl := State.cscLook_mem (s.updFills fun l => l.map fun x => if x.line = line then x.leave user else x) user line
      dsimp only at ho
      split at ho
      · next t ht => cases ho; rw [ht] at hl; exact hl
      · next t ht =>
        rw [ht] at hl
        split at ho
        · cases ho; rfl
        · next tag t1 hm => cases ho; rw [sendRequests_mem, State.moreTag_mem _ _ _ _ _ _ hm]; exact hl

/-! Machine/Mxe -/

/-- What an MXE instruction does keeps memory canonical when its effect does. -/
theorem State.mxIssue_wf (s : State) (c : CoreId) (op : Nat) (f : State → QEntry → State)
    (hf : ∀ t e, t.memWf = true → (f t e).memWf = true) (h : s.memWf = true) : (s.mxIssue c op f).memWf = true := by
  unfold State.mxIssue
  grind [State.memWf, State.updSeq_mem, State.mxHeadErr_mem]

theorem execMma_wf (c : CoreId) (s : State) (h : s.memWf = true) : CompletesWf (execMma c s) :=
  completesWf_next.2 (State.mxIssue_wf _ _ _ _ (fun _ _ ht => memWf_of_mem ht (by simp)) h)

theorem execMmac_wf (c : CoreId) (s : State) (h : s.memWf = true) : CompletesWf (execMmac c s) :=
  completesWf_next.2 (State.mxIssue_wf _ _ _ _ (fun _ _ ht => memWf_of_mem ht (by simp)) h)

theorem execHrmm_wf (c : CoreId) (s : State) (h : s.memWf = true) : CompletesWf (execHrmm c s) :=
  completesWf_next.2 (State.mxIssue_wf _ _ _ _ (fun _ _ ht => memWf_of_mem ht (by simp)) h)

theorem execHrld_wf (c : CoreId) (s : State) (h : s.memWf = true) : CompletesWf (execHrld c s) :=
  completesWf_next.2 (State.mxIssue_wf _ _ _ _ (fun _ _ ht => memWf_of_mem ht (by simp)) h)

theorem execPassStart_wf (c : CoreId) (s : State) (h : s.memWf = true) : CompletesWf (execPassStart c s) := by
  unfold execPassStart
  dsimp only
  (repeat' split) <;> exact completesWf_of_mem h (by simp)

theorem execPassEnd_wf (c : CoreId) (s : State) (h : s.memWf = true) : CompletesWf (execPassEnd c s) := by
  have hf : ∀ (r : MxRun) (ps : List Nat), (ps.foldl (fun (t : Option EdgeLatch × State) p => t.2.endPass c r t.1 p) (none,
    s)).2.mem = s.mem :=
    fun r ps => foldl_mem_of _ _ Prod.snd _ fun _ _ => by simp
  unfold execPassEnd
  dsimp only
  (repeat' split) <;> exact completesWf_of_mem h (by simp [hf])

theorem execBankDrainComplete_wf (c : CoreId) (s : State) (h : s.memWf = true) : CompletesWf (execBankDrainComplete c s) := by
  unfold execBankDrainComplete
  dsimp only
  (repeat' split) <;> exact completesWf_of_mem h (by simp)

theorem execDrain_wf (c : CoreId) (s : State) (h : s.memWf = true) : CompletesWf (execDrain c s) := by
  refine completesWf_next.2 (State.mxIssue_wf _ _ _ _ (fun t e ht => memWf_of_mem ht ?_) h)
  dsimp only
  (repeat' split) <;> simp

theorem execShape_wf (c : CoreId) (s : State) (h : s.memWf = true) : CompletesWf (execShape c s) := by
  refine completesWf_next.2 (State.mxIssue_wf _ _ _ _ (fun t e ht => memWf_of_mem ht ?_) h)
  dsimp only
  (repeat' split) <;> simp

theorem execShapeDone_wf (c : CoreId) (s : State) (h : s.memWf = true) : CompletesWf (execShapeDone c s) := by
  unfold execShapeDone
  (repeat' split) <;> exact completesWf_of_mem h (by simp)

theorem execHrldDone_wf (c : CoreId) (s : State) (h : s.memWf = true) : CompletesWf (execHrldDone c s) := by
  unfold execHrldDone
  dsimp only
  (repeat' split) <;> exact completesWf_of_mem h (by simp)

theorem execAscl_wf (c : CoreId) (s : State) (h : s.memWf = true) : CompletesWf (execAscl c s) :=
  completesWf_next.2 (State.mxIssue_wf _ _ _ _ (fun _ _ ht => memWf_of_mem ht (by simp)) h)

theorem execAsclDone_wf (c : CoreId) (s : State) (h : s.memWf = true) : CompletesWf (execAsclDone c s) := by
  unfold execAsclDone
  dsimp only
  (repeat' split) <;> exact completesWf_of_mem h (by simp)

theorem execMode_wf (c : CoreId) (s : State) (h : s.memWf = true) : CompletesWf (execMode c s) := by
  refine completesWf_next.2 (State.mxIssue_wf _ _ _ _ (fun t e ht => memWf_of_mem ht ?_) h)
  dsimp only
  (repeat' split) <;> simp

theorem execMxeHoldTmo_wf (c : CoreId) (s : State) (h : s.memWf = true) : CompletesWf (execMxeHoldTmo c s) := by
  unfold execMxeHoldTmo
  split <;> exact completesWf_of_mem h (by simp)

theorem execMxeCfgTmo_wf (c : CoreId) (s : State) (h : s.memWf = true) : CompletesWf (execMxeCfgTmo c s) := by
  unfold execMxeCfgTmo
  dsimp only
  (repeat' split) <;> exact completesWf_of_mem h (by simp)

/-! Machine/Tlu -/

/-- What an LS instruction does keeps memory canonical when its effect does. -/
theorem State.lsStart_wf (s : State) (c : CoreId) (op : Nat) (f : State → QEntry → Option State)
    (hf : ∀ t e, t.memWf = true → ∀ out, f t e = some out → out.memWf = true) (h : s.memWf = true) :
    (s.lsStart c op f).memWf = true := by
  unfold State.lsStart
  grind [State.memWf, State.updSeq_mem, State.lsShapeBad_mem]

theorem requestAll_mem (f : State → Nat → Option State) (hf : ∀ t i out, f t i = some out → out.mem = t.mem) (is : List Nat)
    (s : State) : ∀ out, requestAll f is s = some out → out.mem = s.mem := by
  fun_induction requestAll f is s <;> grind

theorem execTld_wf (c : CoreId) (s : State) (h : s.memWf = true) : CompletesWf (execTld c s) := by
  refine completesWf_next.2 (State.lsStart_wf _ _ _ _ (fun t e ht out ho => memWf_of_mem ht ?_) h)
  rw [requestAll_mem _ (fun u i => State.tldRequest_mem u c e _ i) _ _ _ ho, State.updTrf_mem]

theorem State.tstRows_mem (s : State) (c : CoreId) (e : QEntry) (tile : Nat) (x : TileCfg) (x0 : List Nat) :
    ∀ out, s.tstRows c e tile x x0 = some out → out.mem = s.mem := by
  fun_induction State.tstRows s c e tile x x0 <;> grind [State.trfLoad_mem, State.trfUe_mem, State.tstRequest_mem,
    State.updOp_mem]

theorem execTst_wf (c : CoreId) (s : State) (h : s.memWf = true) : CompletesWf (execTst c s) := by
  refine completesWf_next.2 (State.lsStart_wf _ _ _ _ (fun t e ht out ho => memWf_of_mem ht ?_) h)
  obtain ⟨u, hu, rfl⟩ := Option.map_eq_some_iff.mp ho
  rw [State.tstFinish_mem, State.tstRows_mem _ _ _ _ _ _ _ hu, State.updTrf_mem, State.satRf_mem]

theorem execTcfg_wf (c : CoreId) (s : State) (h : s.memWf = true) : CompletesWf (execTcfg c s) :=
  completesWf_next.2 (State.lsStart_wf _ _ _ _ (fun _ _ ht _ ho => memWf_of_mem ht (by cases ho; simp)) h)

theorem execTinv_wf (c : CoreId) (s : State) (h : s.memWf = true) : CompletesWf (execTinv c s) :=
  completesWf_next.2 (State.lsStart_wf _ _ _ _ (fun _ _ ht _ ho => memWf_of_mem ht (by cases ho; simp)) h)

theorem execTldRowReturn_wf (c : CoreId) (op : Fin 2) (row : Byte) (r : Reply) (s : State) (h : s.memWf = true) :
    CompletesWf (execTldRowReturn c op row r s) := by
  unfold execTldRowReturn Option.getD
  grind [completesWf_next, State.memWf, State.tldRequest_mem, State.cscWaits_mem, State.tldRead_wf, State.takeTag_mem,
    State.landRow_mem, State.tluAbort_mem, State.poisonRow_mem]

theorem execTldRowTmo_wf (c : CoreId) (op : Fin 2) (row : Byte) (s : State) (h : s.memWf = true) :
    CompletesWf (execTldRowTmo c op row s) := by
  unfold execTldRowTmo
  dsimp only
  (repeat' split) <;> exact completesWf_of_mem h (by simp)

theorem execTstRowAccept_wf (c : CoreId) (row : Byte) (r : Reply) (s : State) (h : s.memWf = true) :
    CompletesWf (execTstRowAccept c row r s) := by
  unfold execTstRowAccept Option.getD
  grind [completesWf_next, State.memWf, State.tstRequest_mem, State.cscWaits_mem, State.tstWrite_wf, State.takeTag_mem,
    State.rowAccepted_mem, State.tstFault_mem]

theorem execLsHoldTmo_wf (c : CoreId) (s : State) (h : s.memWf = true) : CompletesWf (execLsHoldTmo c s) := by
  unfold execLsHoldTmo
  split <;> exact completesWf_of_mem h (by simp)

theorem execTluCfgTmo_wf (c : CoreId) (s : State) (h : s.memWf = true) : CompletesWf (execTluCfgTmo c s) := by
  unfold execTluCfgTmo
  (repeat' split) <;> exact completesWf_of_mem h (by simp)

/-! Machine/ChanOps -/

/-- The state a try to send leaves, where it leaves one, has the memory of `s`. -/
def SendTry.Keeps (s : State) : SendTry → Prop
  | .ready t => t.mem = s.mem
  | .wait _ t => t.mem = s.mem
  | .unbound => True
  | .tooBig => True

theorem State.trySend_keeps (s : State) (c : CoreId) (n units : Nat) (cw : CsIndex) : (s.trySend c n units cw).Keeps s := by
  unfold State.trySend
  grind [SendTry.Keeps, State.emit_mem]

/-! Machine/VxeStage -/

@[simp] theorem State.gather_mem (s : State) (c : CoreId) (i : Nat) (base : Int) (w : Nat) (x0 : List (Int × Bool)) :
    (s.gather c i base w x0).2.2.mem = s.mem := by
  fun_induction State.gather s c i base w x0 <;> grind [State.cspLoad_mem]

@[simp] theorem Chain.step_mem (h : Chain) (c : CoreId) (x : BeatIn) (mask : List Bool) (y : BeatOut) (i : Nat) :
    (h.step c x mask y i).s.mem = y.s.mem := by
  unfold Chain.step
  dsimp only
  (repeat' split) <;> simp

@[simp] theorem State.runBeat_mem (s : State) (c : CoreId) (h : Chain) (x : BeatIn) (mask : List Bool) :
    (s.runBeat c h x mask).s.mem = s.mem :=
  foldl_mem_of _ _ BeatOut.s _ fun y i => h.step_mem c x mask y i

/-! Machine/Vxe -/

@[simp] theorem State.streamRead_mem (s : State) (c : CoreId) (off n : Nat) (ring : Option (Nat × Nat)) :
    (s.streamRead c off n ring).s.mem = s.mem := by
  unfold State.streamRead
  dsimp only
  (repeat' split) <;> simp

/-- What a VXE instruction does keeps memory canonical when its effect does. -/
theorem State.vxIssue_wf (s : State) (c : CoreId) (op : Nat) (f : State → QEntry → State)
    (hf : ∀ t e, t.memWf = true → (f t e).memWf = true) (h : s.memWf = true) : (s.vxIssue c op f).memWf = true := by
  unfold State.vxIssue
  grind [State.memWf, State.updSeq_mem, State.vxHeadErr_mem]

@[simp] theorem State.vxUe_mem (s : State) (c : CoreId) (e : QEntry) (stage off : Nat) : (s.vxUe c e stage off).mem = s.mem := by
  simp [State.vxUe]

@[simp] theorem State.vxTrfUe_mem (s : State) (c : CoreId) (e : QEntry) (tile line : Nat) :
    (s.vxTrfUe c e tile line).mem = s.mem := by
  simp [State.vxTrfUe]

@[simp] theorem State.ftqParity_mem (s : State) (c : CoreId) (e : QEntry) (i : Fin 4) : (s.ftqParity c e i).mem = s.mem := by
  simp [State.ftqParity]

/-- The state a fetch leaves, where it leaves one, has the memory of `s`. -/
def VxFetch.Keeps (s : State) : VxFetch → Prop
  | .stall => True
  | .got _ t => t.mem = s.mem
  | .failed t => t.mem = s.mem

theorem State.vxReadFtq_keeps (s : State) (c : CoreId) (a : VxAct) : (s.vxReadFtq c a).Keeps s := by
  unfold State.vxReadFtq
  dsimp only
  (repeat' split) <;> simp [VxFetch.Keeps]

theorem State.vxReadLand_keeps (s : State) (c : CoreId) (a : VxAct) (p want : Nat) : (s.vxReadLand c a p want).Keeps s := by
  unfold State.vxReadLand
  dsimp only
  (repeat' split) <;> simp [VxFetch.Keeps]

theorem State.vxReadStream_keeps (s : State) (c : CoreId) (a : VxAct) (x : VxStream) (ring : Option (Nat × Nat)) (have_ : Nat) :
    (s.vxReadStream c a x ring have_).Keeps s := by
  unfold State.vxReadStream
  grind [VxFetch.Keeps, State.streamRead_mem, State.vxUe_mem, State.trfLoad_mem, State.vxTrfUe_mem, State.vxReadFtq_keeps,
    State.vxReadLand_keeps]

theorem State.vxFetch_keeps (s : State) (c : CoreId) (a : VxAct) (l : VxLack) : (s.vxFetch c a l).Keeps s := by
  unfold State.vxFetch
  grind [VxFetch.Keeps, State.cspLoad_mem, State.vxUe_mem, State.vxReadStream_keeps]

@[simp] theorem State.vxOutTrf_mem (s : State) (c : CoreId) (h : Chain) (a : VxAct) (els : List (Nat × Bool)) :
    (s.vxOutTrf c h a els).s.mem = s.mem := by
  simp [State.vxOutTrf]

@[simp] theorem State.vxOutSb_mem (s : State) (c : CoreId) (h : Chain) (a : VxAct) (els : List (Nat × Bool)) :
    (s.vxOutSb c h a els).mem = s.mem := rfl

theorem State.vxOut_wf (s : State) (c : CoreId) (h : Chain) (a : VxAct) (x : List Nat × List Bool) :
    s.memWf = true → (s.vxOut c h a x).memWf = true := by
  intro hwf
  unfold State.vxOut
  grind [State.memWf, State.updReading_mem, State.vxAbort_mem, State.vxOutCsp_wf, State.vxOutSb_mem, State.vxOutTrf_mem]

theorem State.vxBeat_wf (s : State) (c : CoreId) (a : VxAct) : s.memWf = true → (s.vxBeat c a).memWf = true := by
  intro hwf
  unfold State.vxBeat
  dsimp only
  (repeat' split)
  · exact memWf_of_mem hwf (by simp)
  · exact memWf_of_mem hwf (by simp)
  · exact memWf_of_mem hwf (by simp)
  · exact memWf_of_mem hwf (by simp)
  · exact memWf_of_mem hwf (by simp)
  · exact State.vxOut_wf _ _ _ _ _ (memWf_of_mem hwf (by simp))
  · exact State.vxOut_wf _ _ _ _ _ (memWf_of_mem hwf (by simp))

@[simp] theorem State.vxSend_mem (s : State) (c : CoreId) (a : VxAct) (m : List Byte) : (s.vxSend c a m).2.mem = s.mem := by
  unfold State.vxSend
  grind [State.trySend_keeps, SendTry.Keeps, State.sendRefused_mem, State.updReading_mem, State.emit_mem]

theorem State.vxStep_wf (s : State) (c : CoreId) : s.memWf = true → (s.vxStep c).2.memWf = true := by
  intro hwf
  unfold State.vxStep
  grind [State.memWf, State.pm_mem, State.updReading_mem, State.vxBeat_wf, State.vxFetch_keeps, State.vxSend_mem, VxFetch.Keeps]

theorem State.vxSteps_wf (s : State) (c : CoreId) (x0 : Nat) : s.memWf = true → (s.vxSteps c x0).memWf = true := by
  fun_induction State.vxSteps s c x0 <;> grind [State.memWf, State.vxStep_wf]

theorem State.vxPump_wf (s : State) (c : CoreId) : s.memWf = true → (s.vxPump c).memWf = true :=
  fun hwf => State.vxSteps_wf _ _ _ hwf

@[simp] theorem State.vxClaim_mem (s : State) (c : CoreId) (h : Chain) (e : QEntry) : (s.vxClaim c h e).mem = s.mem := by
  unfold State.vxClaim
  split <;> simp

theorem State.vxStart_wf (s : State) (c : CoreId) (e : QEntry) : s.memWf = true → (s.vxStart c e).memWf = true := by
  intro hwf
  unfold State.vxStart
  grind [State.memWf, State.spillOvf_mem, State.updVxe_mem, State.vxClaim_mem, State.vxPump_wf, State.vxRings_mem]

theorem execVrun_wf (c : CoreId) (s : State) (h : s.memWf = true) : CompletesWf (execVrun c s) :=
  completesWf_next.2 (State.vxIssue_wf _ _ _ _ (fun _ _ => State.vxStart_wf _ _ _) h)

theorem execVred_wf (c : CoreId) (s : State) (h : s.memWf = true) : CompletesWf (execVred c s) :=
  completesWf_next.2 (State.vxIssue_wf _ _ _ _ (fun _ _ => State.vxStart_wf _ _ _) h)

theorem execVstat_wf (c : CoreId) (s : State) (h : s.memWf = true) : CompletesWf (execVstat c s) :=
  completesWf_next.2 (State.vxIssue_wf _ _ _ _ (fun _ _ => State.vxStart_wf _ _ _) h)

theorem execFtqTileSelect_wf (c : CoreId) (s : State) (h : s.memWf = true) : CompletesWf (execFtqTileSelect c s) := by
  unfold execFtqTileSelect
  grind [completesWf_next, State.memWf, State.updReading_mem, State.vxAbort_mem, State.vxPump_wf]

@[simp] theorem State.vxResults_mem (s : State) (c : CoreId) (h : Chain) (a : VxAct) : (s.vxResults c h a).mem = s.mem := by
  unfold State.vxResults
  (repeat' split) <;> simp

@[simp] theorem State.vxFinish_mem (s : State) (c : CoreId) : (s.vxFinish c).mem = s.mem := by
  unfold State.vxFinish
  (repeat' split) <;> simp

theorem execVxComplete_wf (c : CoreId) (s : State) (h : s.memWf = true) : CompletesWf (execVxComplete c s) := by
  unfold execVxComplete
  grind [completesWf_next, State.memWf, State.vxFinish_mem, State.vxPump_wf]

theorem execVclrClear_wf (c : CoreId) (s : State) (h : s.memWf = true) : CompletesWf (execVclrClear c s) := by
  unfold execVclrClear
  split
  · exact completesWf_next.2 h
  · split
    · exact completesWf_next.2 h
    · exact completesWf_next.2 (State.vxIssue_wf _ _ _ _ (fun _ _ ht => memWf_of_mem ht (by simp)) h)

/-- A VCLR that loads keeps memory canonical when what it does with the bytes leaves memory as it is. -/
theorem State.vclrLoad_wf (s : State) (c : CoreId) (sub n align : Nat) (f : State → QEntry → List Byte → State)
    (hf : ∀ t e bs, (f t e bs).mem = t.mem) (h : s.memWf = true) : (s.vclrLoad c sub n align f).memWf = true := by
  unfold State.vclrLoad
  split
  · exact h
  · split
    · exact h
    · refine State.vxIssue_wf _ _ _ _ (fun t e ht => memWf_of_mem ht ?_) h
      dsimp only
      (repeat' split) <;> simp [hf]

theorem execVclrLoadc_wf (c : CoreId) (s : State) (h : s.memWf = true) : CompletesWf (execVclrLoadc c s) :=
  completesWf_next.2 (State.vclrLoad_wf _ _ _ _ _ _
    (fun _ _ _ => (State.setRf_mem _ _ _ _ _ _).trans (foldl_mem _ _ _ (by simp))) h)

theorem execVclrSetk_wf (c : CoreId) (s : State) (h : s.memWf = true) : CompletesWf (execVclrSetk c s) := by
  unfold execVclrSetk
  split
  · exact completesWf_next.2 h
  · split
    · exact completesWf_next.2 h
    · exact completesWf_next.2 (State.vxIssue_wf _ _ _ _ (fun _ _ ht => memWf_of_mem ht (by simp)) h)

theorem execVclrLoadp_wf (c : CoreId) (s : State) (h : s.memWf = true) : CompletesWf (execVclrLoadp c s) :=
  completesWf_next.2 (State.vclrLoad_wf _ _ _ _ _ _ (by simp) h)

theorem execVxeHoldTmo_wf (c : CoreId) (s : State) (h : s.memWf = true) : CompletesWf (execVxeHoldTmo c s) := by
  unfold execVxeHoldTmo
  (repeat' split) <;> exact completesWf_of_mem h (by simp)

theorem execVxeCfgTmo_wf (c : CoreId) (s : State) (h : s.memWf = true) : CompletesWf (execVxeCfgTmo c s) := by
  unfold execVxeCfgTmo
  (repeat' split) <;> exact completesWf_of_mem h (by simp)

/-! Machine/Chan -/

/-- What a CH instruction does keeps memory canonical when its effect leaves memory as it is. -/
theorem State.chHead_mem (s : State) (c : CoreId) (op : Nat) (f : State → QEntry → State) (hf : ∀ t e, (f t e).mem = t.mem) :
    (s.chHead c op f).mem = s.mem := by
  unfold State.chHead
  (repeat' split) <;> simp [hf]

/-- The state that reading a record leaves has the memory of `s`. -/
def RecordRead.Keeps (s : State) : RecordRead → Prop
  | .ok _ t => t.mem = s.mem
  | .bad t => t.mem = s.mem

theorem State.chRecord_keeps (s : State) (c : CoreId) (e : QEntry) (ch port : Nat) : (s.chRecord c e ch port).Keeps s := by
  unfold State.chRecord
  dsimp only
  (repeat' split) <;> simp [RecordRead.Keeps]

theorem execSend_wf (c : CoreId) (s : State) (h : s.memWf = true) : CompletesWf (execSend c s) := by
  refine completesWf_of_mem h (State.chHead_mem _ _ _ _ fun t e => ?_)
  grind [State.trySend_keeps, SendTry.Keeps, State.sendRefused_mem, State.chnAbort_mem, State.cspLoad_mem, State.chLeave_mem,
    State.emit_mem]

theorem execBind_wf (c : CoreId) (s : State) (h : s.memWf = true) : CompletesWf (execBind c s) := by
  refine completesWf_of_mem h (State.chHead_mem _ _ _ _ fun t e => ?_)
  grind [State.chRecord_keeps, RecordRead.Keeps, State.chnAbort_mem, State.updBind_mem, State.chLeave_mem, State.done_mem]

theorem execUnbind_wf (c : CoreId) (s : State) (h : s.memWf = true) : CompletesWf (execUnbind c s) := by
  refine completesWf_of_mem h (State.chHead_mem _ _ _ _ fun t e => ?_)
  dsimp only
  split <;> simp

@[simp] theorem State.portOp_mem (s : State) (c : CoreId) : (s.portOp c).mem = s.mem := by
  refine State.chHead_mem _ _ _ _ fun t e => ?_
  grind [State.chRecord_keeps, RecordRead.Keeps, State.chnAbort_mem, State.updPortOf_mem, State.chLeave_mem, State.done_mem]

theorem execPort_wf (c : CoreId) (s : State) (h : s.memWf = true) : CompletesWf (execPort c s) :=
  completesWf_of_mem h (by simp)

theorem execEpochSpacingDone_wf (c : CoreId) (p : LandId) (s : State) (h : s.memWf = true) :
    CompletesWf (execEpochSpacingDone c p s) := by
  unfold execEpochSpacingDone
  (repeat' split) <;> exact completesWf_of_mem h (by simp)

theorem execCrel_wf (c : CoreId) (s : State) (h : s.memWf = true) : CompletesWf (execCrel c s) := by
  refine completesWf_of_mem h (State.chHead_mem _ _ _ _ fun t e => ?_)
  dsimp only
  (repeat' split) <;> simp

theorem execDisarm_wf (c : CoreId) (s : State) (h : s.memWf = true) : CompletesWf (execDisarm c s) :=
  completesWf_of_mem h (State.chHead_mem _ _ _ _ fun _ _ => by simp)

theorem State.arrive_wf (s : State) (c : CoreId) (sender : Option CoreId) (src : BitVec 32) (tag : BitVec 11) (m : Msg) :
    s.memWf = true → (s.arrive c sender src tag m).memWf = true := by
  intro hwf
  unfold State.arrive
  grind [State.memWf, State.ackBack_mem, State.bumpRf_mem, State.landBytes_wf, State.pm_mem, State.releasePads_mem,
    State.satRf_mem, State.updPortOf_mem, State.vxPump_wf]

@[simp] theorem State.cutLanding_mem (s : State) (c : CoreId) (p : Nat) (mine : LogRec → Bool) :
    (s.cutLanding c p mine).mem = s.mem := by
  unfold State.cutLanding
  split <;> simp

theorem State.linkTake_some_mem {s t : State} {a b : CoreId} {m : LinkMsg} (h : s.linkTake a b = some (m, t)) : t.mem = s.mem :=
  s.linkTake_mem a b _ h

theorem State.takeMesh_some_mem {s t : State} {c : CoreId} {src : BitVec 32} {m : Msg} {tag : BitVec 11}
    (h : s.takeMesh c src m = some (tag, t)) : t.mem = s.mem := s.takeMesh_mem c src m _ h

theorem State.takePacket_some_mem {s t : State} {f : Packet → Bool} {x : Option PortId × Packet}
    (h : s.takePacket f = some (x, t)) : t.mem = s.mem := s.takePacket_mem f _ h

theorem execMsgArrival_wf (c : CoreId) (a : MsgArrive) (s : State) (h : s.memWf = true) : CompletesWf (execMsgArrival c a s) := by
  unfold execMsgArrival
  grind [completesWf_next, State.memWf, State.linkTake_some_mem, State.takeMesh_some_mem, State.bumpRf_mem, State.arrive_wf,
    State.meshPut_mem, State.updChn_mem, State.cutLanding_mem]

theorem execLandingDone_wf (c : CoreId) (p : LandId) (s : State) (h : s.memWf = true) : CompletesWf (execLandingDone c p s) := by
  unfold execLandingDone
  dsimp only
  (repeat' split) <;> exact completesWf_of_mem h (by simp)

theorem execMsgCut_wf (c : CoreId) (sender : CoreId) (s : State) (h : s.memWf = true) : CompletesWf (execMsgCut c sender s) := by
  unfold execMsgCut
  grind [completesWf_next, State.memWf, State.linkTake_some_mem, State.cutLanding_mem]

theorem execCack_wf (c : CoreId) (a : AckArrive) (s : State) (h : s.memWf = true) : CompletesWf (execCack c a s) := by
  unfold execCack
  grind [completesWf_next, State.memWf, State.linkTake_some_mem, State.takeCack_mem, State.acked_mem]

theorem execCreditReturn_wf (c : CoreId) (a : CreditArrive) (s : State) (h : s.memWf = true) :
    CompletesWf (execCreditReturn c a s) := by
  unfold execCreditReturn
  grind [completesWf_next, State.memWf, State.linkTake_some_mem, State.takePacket_some_mem, State.credited_mem, State.vxPump_wf]

theorem execChCreditTmo_wf (c : CoreId) (s : State) (h : s.memWf = true) : CompletesWf (execChCreditTmo c s) := by
  unfold execChCreditTmo
  dsimp only
  (repeat' split) <;> exact completesWf_of_mem h (by simp)

theorem execChAckTmo_wf (c : CoreId) (ch : ChanId) (s : State) (h : s.memWf = true) : CompletesWf (execChAckTmo c ch s) := by
  unfold execChAckTmo
  dsimp only
  (repeat' split) <;> exact completesWf_of_mem h (by simp)

theorem execChnHoldTmo_wf (c : CoreId) (s : State) (h : s.memWf = true) : CompletesWf (execChnHoldTmo c s) := by
  unfold execChnHoldTmo
  grind [completesWf_next, State.memWf, RecordRead.Keeps, State.chRecord_keeps, State.chnAbort_mem]

/-! Machine/Rdu -/

@[simp] theorem State.sendLanes_mem (s : State) (g : GroupId) (is : List Nat) (code : Nat) (tail : RedRecord) (bs : List Byte) :
    (s.sendLanes g is code tail bs).mem = s.mem := by
  simp [State.sendLanes, foldl_mem]

theorem State.holdResult_wf (s : State) (g : GroupId) (n : Nat) (lead tail : RedRecord) (bs : List Byte)
    (e : Word32) (count reason : Nat) (post : Vector Dword 8) :
    s.memWf = true → (s.holdResult g n lead tail bs e count reason post).memWf = true := by
  intro hwf
  unfold State.holdResult
  extract_lets is s1 s2
  have h2 : s2.memWf = true := memWf_of_mem hwf (by simp [s2, s1, foldl_mem])
  split
  · exact State.rduStore_wf _ _ _ _ h2
  · exact h2

theorem State.rootDecide_wf (s : State) (g : GroupId) (k : Inst) : s.memWf = true → (s.rootDecide g k).memWf = true :=
  fun hwf => State.holdResult_wf _ _ _ _ _ _ _ _ _ _ (memWf_of_mem hwf (by simp))

@[simp] theorem State.sendBody_mem (s : State) (g : GroupId) (i : Nat) (h : RedHeader) (bs : List Byte) :
    (s.sendBody g i h bs).mem = s.mem := by
  simp [State.sendBody]

@[simp] theorem State.sendP_mem (s : State) (g : GroupId) (k : Inst) : (s.sendP g k).mem = s.mem := by
  simp [State.sendP]

theorem State.enterEntry_wf (s : State) (g : GroupId) : s.memWf = true → (s.enterEntry g).memWf = true := by
  intro hwf
  unfold State.enterEntry
  (repeat' split)
  · exact hwf
  · exact hwf
  · exact memWf_of_mem hwf (by simp)
  · exact memWf_of_mem hwf (by simp)
  · exact hwf
  · exact State.rootDecide_wf _ _ _ hwf

theorem State.nextEntry_wf (s : State) (g : GroupId) : s.memWf = true → (s.nextEntry g).memWf = true :=
  fun hwf => State.enterEntry_wf _ _ hwf

theorem State.missed_wf (s : State) (g : GroupId) (k : Inst) (partner : Nat) :
    s.memWf = true → (s.missed g k partner).memWf = true := by
  intro hwf
  unfold State.missed
  grind [State.memWf, State.bumpRf_mem, State.logPair_wf, State.pm_mem, State.updInst_mem]

theorem State.resolveMissing_wf (s : State) (g : GroupId) (k : Inst) (partner : Nat) :
    s.memWf = true → (s.resolveMissing g k partner).memWf = true := by
  intro hwf
  unfold State.resolveMissing
  grind [State.memWf, State.missed_wf, State.nextEntry_wf]

theorem State.partialSum_wf (s : State) (p : PortId) (g : GroupId) (k : Inst) :
    s.memWf = true → (s.partialSum p g k).2.memWf = true :=
  fun hwf => State.rduStore_wf _ _ _ _ hwf

theorem State.failPair_wf (s : State) (p : PortId) (g : GroupId) (k : Inst) (cut : Bool) (partner : Nat) :
    s.memWf = true → (s.failPair p g k cut partner).memWf = true := by
  intro hwf
  unfold State.failPair
  grind [State.memWf, State.missed_wf, State.nextEntry_wf, State.partialSum_wf, State.readLanes_mem, State.sendBody_mem]

theorem State.postOrHold_wf (s : State) (p : PortId) (r : Vector Dword 8) : s.memWf = true → (s.postOrHold p r).memWf = true := by
  intro hwf
  unfold State.postOrHold
  (repeat' split)
  · exact hwf
  · exact hwf
  · exact State.rduPost_wf _ _ _ hwf _ ‹_›

theorem State.takeHeld_wf (s : State) (p : PortId) (n : Nat) : s.memWf = true → (s.takeHeld p n).memWf = true := by
  induction n generalizing s with
  | zero => exact id
  | succ n ih =>
    intro hwf
    unfold State.takeHeld
    split
    · exact hwf
    · next x rest _ =>
      have hrest : ({ s with heldPosts := rest } : State).memWf = true := hwf
      split
      · exact hwf
      · next t ht => exact ih t (State.rduPost_wf _ _ _ hrest _ ht)

theorem execRedPost_wf (p : PortId) (record : Vector Dword 8) (s : State) (h : s.memWf = true) :
    CompletesWf (execRedPost p record s) := by
  unfold execRedPost
  (repeat' split)
  · exact completesWf_next.2 h
  · exact completesWf_next.2 (State.postOrHold_wf _ _ _ h)

theorem execInstanceOpen_wf (g : GroupId) (s : State) (h : s.memWf = true) : CompletesWf (execInstanceOpen g s) := by
  unfold execInstanceOpen
  grind [completesWf_next, State.memWf, State.enterEntry_wf, State.holdResult_wf, State.logPair_wf, State.readLanes_mem,
    State.takeHeld_wf, State.updGroup_mem]

theorem execReqArrival_wf (p : PortId) (lead : RedRecord) (s : State) (h : s.memWf = true) :
    CompletesWf (execReqArrival p lead s) := by
  unfold execReqArrival
  dsimp only
  (repeat' split) <;> exact completesWf_of_mem h (by simp)

@[simp] theorem State.acceptLead_mem (s : State) (p : PortId) (g : GroupId) (k : Inst) (lead : RedRecord) :
    (s.acceptLead p g k lead).mem = s.mem := by
  unfold State.acceptLead
  dsimp only
  split <;> simp

theorem execLeadArrival_wf (p : PortId) (lead : RedRecord) (s : State) (h : s.memWf = true) :
    CompletesWf (execLeadArrival p lead s) := by
  unfold execLeadArrival
  dsimp only
  (repeat' split) <;>
    grind [completesWf_next, State.memWf, State.acceptLead_mem, State.failPair_wf, State.lateDrop_wf, State.logPair_wf,
      State.strayAsleep_mem, State.stray_mem]

theorem execContributionComplete_wf (g : GroupId) (lanes : List Byte) (tail : RedRecord) (s : State) (h : s.memWf = true) :
    CompletesWf (execContributionComplete g lanes tail s) := by
  unfold execContributionComplete
  grind [completesWf_next, State.memWf, State.failPair_wf, State.logPair_wf, State.nextEntry_wf, State.pm_mem, State.rduStore_wf,
    State.readLanes_mem, State.sendBody_mem, State.stray_mem, State.updInst_mem]

theorem execPairDeadline_wf (g : GroupId) (s : State) (h : s.memWf = true) : CompletesWf (execPairDeadline g s) := by
  unfold execPairDeadline
  dsimp only
  (repeat' split)
  · exact completesWf_next.2 h
  · exact completesWf_next.2 (State.resolveMissing_wf _ _ _ _ h)
  · exact completesWf_next.2 h
  · exact completesWf_next.2 h

theorem execXferTmoExpiry_wf (g : GroupId) (s : State) (h : s.memWf = true) : CompletesWf (execXferTmoExpiry g s) := by
  unfold execXferTmoExpiry
  dsimp only
  (repeat' split)
  · exact completesWf_next.2 h
  · exact completesWf_next.2 h
  · exact completesWf_next.2 (State.failPair_wf _ _ _ _ _ _ (memWf_of_mem h (by simp)))
  · exact completesWf_next.2 h

theorem execResultArrival_wf (p : PortId) (lead : RedRecord) (lanes : List Byte) (tail : RedRecord) (s : State)
    (h : s.memWf = true) : CompletesWf (execResultArrival p lead lanes tail s) := by
  unfold execResultArrival
  grind [completesWf_next, State.memWf, State.holdResult_wf, State.rduStore_wf, State.strayAsleep_mem, State.stray_mem,
    State.updGroup_mem, State.updInst_mem]

theorem execResultTmo_wf (g : GroupId) (s : State) (h : s.memWf = true) : CompletesWf (execResultTmo g s) := by
  unfold execResultTmo
  grind [completesWf_next, State.memWf, State.closeInst_wf, State.logPair_wf, State.rduErr_mem]

theorem execDeliveryDone_wf (g : GroupId) (s : State) (h : s.memWf = true) : CompletesWf (execDeliveryDone g s) := by
  unfold execDeliveryDone
  dsimp only
  (repeat' split)
  · exact completesWf_next.2 h
  · exact completesWf_next.2 (State.closeInst_wf _ _ _ (memWf_of_mem h (by simp)))
  · exact completesWf_next.2 (State.closeInst_wf _ _ _ h)
  · exact completesWf_next.2 h

theorem execGroupEnable_wf (p : PortId) (g : GroupId) (value : Dword) (s : State) (h : s.memWf = true) :
    CompletesWf (execGroupEnable p g value s) := by
  unfold execGroupEnable
  grind [completesWf_next, State.memWf, State.errBit_mem, State.huskErr_mem, State.rduErr_mem, State.setReg_mem,
    State.setupFault_mem, State.updGroup_mem]

theorem execGroupDisable_wf (p : PortId) (g : GroupId) (value : Dword) (s : State) (h : s.memWf = true) :
    CompletesWf (execGroupDisable p g value s) := by
  unfold execGroupDisable
  split
  · exact completesWf_of_mem h (by simp)
  · split
    · exact completesWf_next.2 h
    · split
      · exact completesWf_of_mem h (by simp)
      · exact completesWf_next.2 (foldl_wf _ _ _ (fun _ _ => State.takeHeld_wf _ _ _) (memWf_of_mem h (by simp)))

/-! Machine/Streams -/

@[simp] theorem State.outPiece_mem (s : State) (c : CoreId) (a : ActDesc) (p : Piece) : (s.outPiece c a p).2.mem = s.mem := by
  unfold State.outPiece
  dsimp only
  split <;> simp

@[simp] theorem State.outPieces_mem (s : State) (c : CoreId) (a : ActDesc) (x0 : List Piece) :
    (s.outPieces c a x0).2.mem = s.mem := by
  fun_induction State.outPieces s c a x0 <;> grind [State.outPiece_mem]

theorem State.outPieces_some_mem {s t : State} {c : CoreId} {a : ActDesc} {ps : List Piece} {x : Sum Nat (List (Nat × Byte))}
    (h : s.outPieces c a ps = (x, t)) : t.mem = s.mem := by
  rw [← s.outPieces_mem c a ps, h]

theorem State.strIssue_mem (s : State) (c : CoreId) (u : UnitId) (a : ActDesc) (r : FarReq) (starve : Bool) :
    ∀ out, s.strIssue c u a r starve = some out → out.mem = s.mem := by
  intro out ho
  unfold State.strIssue at ho
  extract_lets dev sys id user finish at ho
  have hfin : ∀ t q, (finish t q).mem = t.mem := by
    intro t q
    simp only [finish]
    split <;> simp
  split at ho
  · cases ho
  · split at ho
    · cases ho
      rw [State.actFault_mem]
      split <;> simp
    · split at ho
      · cases ho
      · split at ho
        · cases ho
        · split at ho
          · split at ho
            · next w t ht => cases ho; rw [State.actFault_mem, State.outPieces_some_mem ht]
            · next xs t ht =>
              dsimp only at ho
              split at ho
              · cases ho; rw [hfin, State.outPieces_some_mem ht]
              · obtain ⟨t1, h1, rfl⟩ := Option.map_eq_some_iff.mp ho
                rw [hfin, State.launchWrite_mem _ _ _ _ _ _ _ h1, State.outPieces_some_mem ht]
          · obtain ⟨t1, h1, rfl⟩ := Option.map_eq_some_iff.mp ho
            rw [hfin, State.launchRead_mem _ _ _ _ _ _ _ h1]

@[simp] theorem State.readIndex_mem (s : State) (c : CoreId) (a : ActDesc) : (s.readIndex c a).2.mem = s.mem := by
  unfold State.readIndex
  dsimp only
  (repeat' split) <;> simp

@[simp] theorem State.agStep_mem (s : State) (c : CoreId) (u : UnitId) (a : ActDesc) : (s.agStep c u a).mem = s.mem := by
  unfold State.agStep
  grind [State.agFault_mem, State.modAct_mem, State.readIndex_mem, State.strEmit_mem]

theorem State.strStep_mem (s : State) (c : CoreId) (u : UnitId) : ∀ out, s.strStep c u = some out → out.mem = s.mem := by
  unfold State.strStep
  grind [State.agStep_mem, State.modAct_mem, State.pm_mem, State.strIssue_mem]

@[simp] theorem State.strRun_mem (s : State) (c : CoreId) (u : UnitId) (x0 : Nat) : (s.strRun c u x0).mem = s.mem := by
  fun_induction State.strRun s c u x0 <;> grind [State.strStep_mem]

@[simp] theorem State.strPump_mem (s : State) (c : CoreId) : (s.strPump c).mem = s.mem := by
  have hrun : ∀ (nl : Bool) (us : List UnitId) (t : State),
      (us.foldl (fun (t : State) u => if (t.unit c u).nl = nl then t.strRun c u strFuel else t) t).mem = t.mem := by
    intro nl us t
    refine foldl_mem _ _ _ fun x u => ?_
    split <;> simp
  unfold State.strPump
  rw [hrun, hrun]

theorem State.stHead_some_mem {s t : State} {c : CoreId} {u : UnitId} {op : Nat} {e : QEntry}
    (h : s.stHead c u op = some (e, t)) : t.mem = s.mem := s.stHead_mem c u op _ h

theorem execStSub_wf (c : CoreId) (u : UnitId) (s : State) (h : s.memWf = true) : CompletesWf (execStSub c u s) := by
  unfold execStSub
  grind [completesWf_next, State.memWf, State.stHead_some_mem, State.strFault_mem, State.cspLoad_mem, State.updUnit_mem]

/-- Writing a run of registers leaves memory as it is. -/
theorem setRegs_mem (l : List Nat) (page : Nat) (off : Nat → Nat) (v : Nat → Dword) (s : State) :
    (l.foldl (fun (t : State) i => t.setReg page (off i) (v i)) s).mem = s.mem :=
  foldl_mem _ _ _ (by simp)

theorem execLdpg_wf (c : CoreId) (u : UnitId) (s : State) (h : s.memWf = true) : CompletesWf (execLdpg c u s) := by
  unfold execLdpg
  split
  · exact completesWf_next.2 h
  · next e t ht =>
    have hm : t.mem = s.mem := State.stHead_some_mem ht
    dsimp only
    (repeat' split) <;> exact completesWf_of_mem h (by simp [setRegs_mem, hm])

theorem execLdpgDone_wf (c : CoreId) (u : UnitId) (s : State) (h : s.memWf = true) : CompletesWf (execLdpgDone c u s) := by
  unfold execLdpgDone
  (repeat' split) <;> exact completesWf_of_mem h (by simp)

theorem execDescriptorStart_wf (c : CoreId) (u : UnitId) (s : State) (h : s.memWf = true) :
    CompletesWf (execDescriptorStart c u s) := by
  unfold execDescriptorStart
  grind [completesWf_next, State.memWf, State.strFault_mem, State.strPump_mem, State.updStr_mem, State.updUnit_mem]

theorem execTbufGrant_wf (c : CoreId) (s : State) (h : s.memWf = true) : CompletesWf (execTbufGrant c s) := by
  unfold execTbufGrant
  grind [completesWf_next, State.memWf, State.strPump_mem, State.updStr_mem, State.updUnit_mem]

theorem execMergeTimeout_wf (c : CoreId) (u : UnitId) (s : State) (h : s.memWf = true) :
    CompletesWf (execMergeTimeout c u s) := by
  unfold execMergeTimeout
  grind [completesWf_next, State.memWf, State.strIssue_mem, State.strPump_mem]

theorem execNlStarve_wf (c : CoreId) (u : UnitId) (s : State) (h : s.memWf = true) : CompletesWf (execNlStarve c u s) := by
  unfold execNlStarve
  grind [completesWf_next, State.memWf, State.strIssue_mem, State.strPump_mem]

theorem execDescriptorComplete_wf (c : CoreId) (u : UnitId) (s : State) (h : s.memWf = true) :
    CompletesWf (execDescriptorComplete c u s) := by
  unfold execDescriptorComplete
  (repeat' split) <;> exact completesWf_of_mem h (by simp)

theorem State.nearStore_wf (s : State) (c t : CoreId) (x0 : List (List (Nat × Byte))) :
    s.memWf = true → (s.nearStore c t x0).2.memWf = true := by
  fun_induction State.nearStore s c t x0 <;> grind [State.memWf, State.cspWrite_wf, State.pm_mem]

theorem State.nearStores_wf (s : State) (c : CoreId) (d : Desc) (runs : List (List (Nat × Byte))) :
    s.memWf = true → (s.nearStores c d runs).2.memWf = true := by
  intro hwf
  have hput : ∀ (ts : List CoreId) (x : Option MemErr × State), x.2.memWf = true →
      (ts.foldl (fun (x : Option MemErr × State) (t : CoreId) =>
        if !x.2.reachable t then (x.1, (x.2.bumpRf 0 0x170 0 32 1).pm (pgStr c) 0x0C 1)
        else
          let y := x.2.nearStore c t runs
          (match x.1 with
            | some e => some e
            | none => y.1, y.2)) x).2.memWf = true := by
    intro ts
    induction ts with
    | nil => exact fun _ => id
    | cons t ts ih =>
      intro x hx
      rw [List.foldl_cons]
      refine ih _ ?_
      split
      · exact memWf_of_mem hx (by simp)
      · exact State.nearStore_wf _ _ _ _ hx
  unfold State.nearStores
  dsimp only
  split
  · exact State.nearStore_wf _ _ _ _ hwf
  · split
    · exact hwf
    · exact hput _ _ hwf

theorem State.readData_wf (s : State) (c : CoreId) (u : UnitId) (a : ActDesc) (r : FarReq) (rep : Reply) :
    s.memWf = true → (s.readData c u a r rep).memWf = true := by
  intro hwf
  unfold State.readData
  grind [State.memWf, State.nearStores_wf, State.readFar_mem, State.strFault_mem, State.strPump_mem, State.takeTag_mem,
    State.updOut_mem]

theorem State.readReply_wf (s : State) (c : CoreId) (u : UnitId) (a : ActDesc) (r : FarReq) (rep : Reply) :
    s.memWf = true → (s.readReply c u a r rep).memWf = true := by
  intro hwf
  unfold State.readReply
  (repeat' split)
  · exact memWf_of_mem hwf (State.cscWaits_mem _ _ _ _ _ ‹_›)
  · exact State.readData_wf _ _ _ _ _ _ hwf

theorem State.writeReply_wf (s : State) (c : CoreId) (dev : Nat) (ack : Bool) (r : FarReq) (rep : Reply) :
    s.memWf = true → ∀ out, s.writeReply c dev ack r rep = some out → out.s.memWf = true := by
  intro hwf out ho
  unfold State.writeReply at ho
  split at ho
  · split at ho
    · split at ho
      · cases ho
      · obtain ⟨t, ht, rfl⟩ := Option.map_eq_some_iff.mp ho
        exact State.rduPost_wf _ _ _ hwf _ ht
    · cases ho
      exact memWf_of_mem hwf (by simp)
  · have hw := State.writeFar_wf s c dev r.bytes rep hwf
    dsimp only at ho
    split at ho
    · cases ho
      exact memWf_of_mem hw (by simp)
    · cases ho
      exact hw

theorem State.writeDone_wf (s : State) (c : CoreId) (u : UnitId) (a : ActDesc) (r : FarReq) (rep : Reply) :
    s.memWf = true → (s.writeDone c u a r rep).memWf = true := by
  intro hwf
  unfold State.writeDone
  grind [State.memWf, State.strFault_mem, State.strPump_mem, State.takeTag_mem, State.updOut_mem, State.updUnit_mem,
    State.writeReply_wf]

@[simp] theorem State.postedEnds_mem (s : State) (c : CoreId) (u : UnitId) (req : Nat) : (s.postedEnds c u req).mem = s.mem := rfl

@[simp] theorem State.postedFault_mem (s : State) (c : CoreId) (u : UnitId) (p : Posted) (f : StrFault) :
    (s.postedFault c u p f).mem = s.mem := by
  unfold State.postedFault
  dsimp only
  split <;> simp

@[simp] theorem State.postedDev_mem (s : State) (c : CoreId) (u : UnitId) (req : Nat) : (s.postedDev c u req).mem = s.mem := rfl

theorem execStreamReply_wf (c : CoreId) (u : UnitId) (req : Nat) (r : Reply) (s : State) (h : s.memWf = true) :
    CompletesWf (execStreamReply c u req r s) := by
  unfold execStreamReply
  grind [completesWf_next, State.memWf, State.postedEnds_mem, State.postedFault_mem, State.readReply_wf, State.strPump_mem,
    State.writeDone_wf]

theorem execStreamElementTmo_wf (c : CoreId) (u : UnitId) (req : Nat) (s : State) (h : s.memWf = true) :
    CompletesWf (execStreamElementTmo c u req s) := by
  unfold execStreamElementTmo
  (repeat' split) <;> exact completesWf_of_mem h (by simp)

/-! Machine/Cache -/

@[simp] theorem State.cchDrop_mem (s : State) (c : CoreId) (line : Nat) (counted : Bool) :
    (s.cchDrop c line counted).mem = s.mem := by
  unfold State.cchDrop
  split <;> simp

theorem State.sweep_wf (s : State) (c : CoreId) (inv counted : Bool) (cw op : Nat) (ls : List CchLine) :
    s.memWf = true → ∀ out, s.sweep c inv counted cw op ls = some out → out.s.memWf = true := by
  induction ls generalizing s with
  | nil => intro hwf out ho; cases ho; exact hwf
  | cons l ls ih =>
    intro hwf out ho
    unfold State.sweep at ho
    split at ho
    · refine ih _ ?_ _ ho
      split
      · exact memWf_of_mem hwf (by simp)
      · exact hwf
    · have hw := State.writeBack_wf s c l cw op hwf
      dsimp only at ho
      split at ho
      · cases ho
      · obtain ⟨r, hr, rfl⟩ := Option.map_eq_some_iff.mp ho
        have hd : (if (s.writeBack c l cw op).ue || inv then (s.writeBack c l cw op).s.cchDrop c l.line counted
            else (s.writeBack c l cw op).s.updCch c fun k => k.clean l.line).mem = (s.writeBack c l cw op).s.mem := by
          split <;> simp
        exact ih _ (memWf_of_mem hw ((State.writeBackFails_mem _ _ _ _ _ _).trans hd)) r hr

@[simp] theorem State.cacheStart_mem (c : CoreId) (e : QEntry) (r : Swept) : (State.cacheStart c e r).mem = r.s.mem := by
  simp [State.cacheStart]

theorem State.cacheHead_some_mem {s t : State} {c : CoreId} {op : Nat} {e : QEntry}
    (h : s.cacheHead c op = some (e, t)) : t.mem = s.mem := s.cacheHead_mem c op _ h

theorem execCfl_wf (c : CoreId) (s : State) (h : s.memWf = true) : CompletesWf (execCfl c s) := by
  unfold execCfl
  split
  · exact completesWf_next.2 h
  · next e t ht =>
    have hm := memWf_of_mem h (State.cacheHead_some_mem ht)
    dsimp only
    split
    · exact completesWf_next.2 h
    · next r hr => exact completesWf_of_mem (State.sweep_wf _ _ _ _ _ _ _ hm _ hr) (by simp)

@[simp] theorem State.noFills_mem (s : State) (c : CoreId) (e : QEntry) : (s.noFills c e).mem = s.mem := by
  unfold State.noFills
  split <;> simp

theorem execCiv_wf (c : CoreId) (s : State) (h : s.memWf = true) : CompletesWf (execCiv c s) := by
  unfold execCiv
  split
  · exact completesWf_next.2 h
  · next e t ht =>
    have hm := memWf_of_mem h (State.cacheHead_some_mem ht)
    split
    · exact completesWf_next.2 h
    · next r hr => exact completesWf_of_mem (State.sweep_wf _ _ _ _ _ _ _ hm _ hr) (by simp)

theorem execFence_wf (c : CoreId) (s : State) (h : s.memWf = true) : CompletesWf (execFence c s) := by
  unfold execFence
  grind [completesWf_next, State.memWf, State.cacheHead_some_mem, State.updCch_mem]

@[simp] theorem State.freeBacks_mem (s : State) (c : CoreId) (o : CacheOp) (lines : List Nat) :
    (s.freeBacks c o lines).mem = s.mem := by
  unfold State.freeBacks
  refine foldl_mem _ _ _ ?_
  simp

@[simp] theorem State.cscSweep_mem (s : State) (lo hi : Nat) : (s.cscSweep lo hi).mem = s.mem := by
  refine foldl_mem _ _ _ fun t l => ?_
  dsimp only
  split <;> simp

theorem execCacheOpDone_wf (c : CoreId) (r : Reply) (s : State) (h : s.memWf = true) : CompletesWf (execCacheOpDone c r s) := by
  unfold execCacheOpDone
  dsimp only
  (repeat' split) <;> exact completesWf_of_mem h (by simp)

theorem execCchOpTmo_wf (c : CoreId) (s : State) (h : s.memWf = true) : CompletesWf (execCchOpTmo c s) := by
  unfold execCchOpTmo
  (repeat' split) <;> exact completesWf_of_mem h (by simp)

theorem execWprCfgTmo_wf (c : CoreId) (s : State) (h : s.memWf = true) : CompletesWf (execWprCfgTmo c s) := by
  unfold execWprCfgTmo
  split <;> exact completesWf_of_mem h (by simp)

theorem execCspInbound_wf (c : CoreId) (who : Inbound) (write : Bool) (off : BitVec 19) (bytes : List Byte) (s : State)
    (h : s.memWf = true) : CompletesWf (execCspInbound c who write off bytes s) := by
  unfold execCspInbound
  dsimp only
  (repeat' split)
  · exact completesWf_next.2 h
  · exact completesWf_next.2 (State.cspWrite_wf _ _ _ _ h)
  · exact completesWf_next.2 (State.cspWrite_wf _ _ _ _ h)
  · exact completesWf_of_mem h (by simp)

/-! Machine/Seq -/

theorem execHeadWordIssue_wf (c : CoreId) (s : State) (h : s.memWf = true) : CompletesWf (execHeadWordIssue c s) := by
  unfold execHeadWordIssue
  grind [completesWf_next, State.memWf, State.badWord_mem, State.fetchCw_mem, State.seqRaise_mem, State.tableWord_mem,
    State.tryIssue_mem]

theorem execImmediateTableWord_wf (c : CoreId) (s : State) (h : s.memWf = true) : CompletesWf (execImmediateTableWord c s) := by
  unfold execImmediateTableWord
  dsimp only
  (repeat' split) <;> exact completesWf_of_mem h (by simp)

theorem execAgAddi_wf (c : CoreId) (s : State) (h : s.memWf = true) : CompletesWf (execAgAddi c s) :=
  completesWf_of_mem h (by simp)

theorem execAgAdd_wf (c : CoreId) (s : State) (h : s.memWf = true) : CompletesWf (execAgAdd c s) :=
  completesWf_of_mem h (by simp)

theorem execAgSub_wf (c : CoreId) (s : State) (h : s.memWf = true) : CompletesWf (execAgSub c s) :=
  completesWf_of_mem h (by simp)

theorem execAgShl_wf (c : CoreId) (s : State) (h : s.memWf = true) : CompletesWf (execAgShl c s) :=
  completesWf_of_mem h (by simp)

theorem execAgShr_wf (c : CoreId) (s : State) (h : s.memWf = true) : CompletesWf (execAgShr c s) :=
  completesWf_of_mem h (by simp)

theorem execAgAnd_wf (c : CoreId) (s : State) (h : s.memWf = true) : CompletesWf (execAgAnd c s) :=
  completesWf_of_mem h (by simp)

theorem execSeti_wf (c : CoreId) (s : State) (h : s.memWf = true) : CompletesWf (execSeti c s) :=
  completesWf_of_mem h (by simp)

theorem execMov_wf (c : CoreId) (s : State) (h : s.memWf = true) : CompletesWf (execMov c s) :=
  completesWf_of_mem h (by simp)

theorem execCmp_wf (c : CoreId) (s : State) (h : s.memWf = true) : CompletesWf (execCmp c s) :=
  completesWf_of_mem h (by simp)

theorem execAgMin_wf (c : CoreId) (s : State) (h : s.memWf = true) : CompletesWf (execAgMin c s) :=
  completesWf_of_mem h (by simp)

theorem execAgMax_wf (c : CoreId) (s : State) (h : s.memWf = true) : CompletesWf (execAgMax c s) :=
  completesWf_of_mem h (by simp)

theorem execLda_wf (c : CoreId) (s : State) (h : s.memWf = true) : CompletesWf (execLda c s) :=
  completesWf_of_mem h (by simp)

theorem execSta_wf (c : CoreId) (s : State) (h : s.memWf = true) : CompletesWf (execSta c s) :=
  completesWf_of_mem h (by simp)

theorem execLdaWrite_wf (c : CoreId) (s : State) (h : s.memWf = true) : CompletesWf (execLdaWrite c s) := by
  unfold execLdaWrite
  dsimp only
  (repeat' split) <;> exact completesWf_of_mem h (by simp)

theorem execStaMade_wf (c : CoreId) (s : State) (h : s.memWf = true) : CompletesWf (execStaMade c s) := by
  unfold execStaMade
  dsimp only
  (repeat' split)
  · exact completesWf_next.2 h
  · exact completesWf_next.2 h
  · exact completesWf_next.2 h
  · exact completesWf_next.2 (State.cspStore_wf _ _ _ _ _ h)

theorem execLoop_wf (c : CoreId) (s : State) (h : s.memWf = true) : CompletesWf (execLoop c s) :=
  completesWf_of_mem h (by simp)

theorem execEndl_wf (c : CoreId) (s : State) (h : s.memWf = true) : CompletesWf (execEndl c s) := by
  unfold execEndl
  (repeat' split) <;> exact completesWf_of_mem h (by simp)

theorem execBr_wf (c : CoreId) (s : State) (h : s.memWf = true) : CompletesWf (execBr c s) :=
  completesWf_of_mem h (by simp)

theorem execBrp_wf (c : CoreId) (s : State) (h : s.memWf = true) : CompletesWf (execBrp c s) :=
  completesWf_of_mem h (by simp)

theorem execCall_wf (c : CoreId) (s : State) (h : s.memWf = true) : CompletesWf (execCall c s) :=
  completesWf_of_mem h (by simp)

theorem execRet_wf (c : CoreId) (s : State) (h : s.memWf = true) : CompletesWf (execRet c s) :=
  completesWf_of_mem h (by simp)

theorem execBrk_wf (c : CoreId) (s : State) (h : s.memWf = true) : CompletesWf (execBrk c s) :=
  completesWf_of_mem h (by simp)

theorem execLayer_wf (c : CoreId) (s : State) (h : s.memWf = true) : CompletesWf (execLayer c s) :=
  completesWf_of_mem h (by simp)

theorem execTend_wf (c : CoreId) (s : State) (h : s.memWf = true) : CompletesWf (execTend c s) :=
  completesWf_of_mem h (by simp)

theorem execHalt_wf (c : CoreId) (s : State) (h : s.memWf = true) : CompletesWf (execHalt c s) :=
  completesWf_of_mem h (by simp)

theorem execLayerBarrierComplete_wf (c : CoreId) (s : State) (h : s.memWf = true) :
    CompletesWf (execLayerBarrierComplete c s) := by
  unfold execLayerBarrierComplete
  dsimp only
  split <;> exact completesWf_of_mem h (by simp)

theorem execBrkHit_wf (c : CoreId) (s : State) (h : s.memWf = true) : CompletesWf (execBrkHit c s) := by
  unfold execBrkHit
  split <;> exact completesWf_of_mem h (by simp)

theorem execWatchdogExpiry_wf (c : CoreId) (s : State) (h : s.memWf = true) : CompletesWf (execWatchdogExpiry c s) := by
  unfold execWatchdogExpiry
  split <;> exact completesWf_of_mem h (by simp)

theorem execWaitTmoExpiry_wf (c : CoreId) (s : State) (h : s.memWf = true) : CompletesWf (execWaitTmoExpiry c s) := by
  unfold execWaitTmoExpiry
  dsimp only
  (repeat' split) <;> exact completesWf_of_mem h (by simp)

/-! Machine/TaskFlow -/

theorem execClaim_wf (c : CoreId) (s : State) (h : s.memWf = true) : CompletesWf (execClaim c s) := by
  unfold execClaim
  grind [completesWf_next, State.memWf, State.answer_mem, State.popCcu_mem, State.readSeqWord_mem, State.rqtPass_mem,
    State.serveClaim_mem]

theorem execTaskPollExpiry_wf (c : CoreId) (s : State) (h : s.memWf = true) : CompletesWf (execTaskPollExpiry c s) := by
  unfold execTaskPollExpiry
  dsimp only
  (repeat' split) <;> exact completesWf_of_mem h (by simp)

theorem execTaskGrant_wf (c : CoreId) (s : State) (h : s.memWf = true) : CompletesWf (execTaskGrant c s) := by
  unfold execTaskGrant
  dsimp only
  (repeat' split) <;> exact completesWf_of_mem h (by simp)

theorem execDescriptorReceived_wf (c : CoreId) (s : State) (h : s.memWf = true) : CompletesWf (execDescriptorReceived c s) := by
  unfold execDescriptorReceived
  split
  · split
    · exact completesWf_next.2 h
    · dsimp only
      split
      · exact completesWf_next.2 h
      · next p hp =>
        have hm : p.mem = s.mem := State.rqtPass_mem _ _ _ _ hp
        (repeat' split) <;> exact completesWf_of_mem h (by simp [hm])
  all_goals exact completesWf_next.2 h

theorem execImageLoadDone_wf (c : CoreId) (s : State) (h : s.memWf = true) : CompletesWf (execImageLoadDone c s) := by
  unfold execImageLoadDone
  split
  · split
    · exact completesWf_next.2 h
    · dsimp only
      split
      · exact completesWf_of_mem h (by simp)
      · split
        · exact completesWf_next.2 h
        · next p hp =>
          have hm : p.mem = s.mem := State.rqtPass_mem _ _ _ _ hp
          split <;> exact completesWf_of_mem h (by simp [hm])
  · exact completesWf_next.2 h

theorem execEndReport_wf (c : CoreId) (s : State) (h : s.memWf = true) : CompletesWf (execEndReport c s) := by
  unfold execEndReport
  (repeat' split) <;> exact completesWf_of_mem h (by simp)

theorem execTaskEnd_wf (c : CoreId) (s : State) (h : s.memWf = true) : CompletesWf (execTaskEnd c s) := by
  unfold execTaskEnd
  dsimp only
  (repeat' split) <;> exact completesWf_of_mem h (by simp)

theorem execAbort_wf (c : CoreId) (s : State) (h : s.memWf = true) : CompletesWf (execAbort c s) := by
  unfold execAbort
  dsimp only
  (repeat' split) <;> exact completesWf_of_mem h (by simp)

theorem execAbortEnd_wf (c : CoreId) (s : State) (h : s.memWf = true) : CompletesWf (execAbortEnd c s) := by
  unfold execAbortEnd
  dsimp only
  split <;> exact completesWf_of_mem h (by simp)

theorem execAbortDrainTmo_wf (c : CoreId) (s : State) (h : s.memWf = true) : CompletesWf (execAbortDrainTmo c s) := by
  unfold execAbortDrainTmo
  dsimp only
  split <;> exact completesWf_of_mem h (by simp)

/-! Machine/Txu -/

theorem State.txHead_some_wf {s t : State} {c : CoreId} {op : Nat} {e : QEntry} (h : s.memWf = true)
    (ht : s.txHead c op = some (e, t)) : t.memWf = true := s.txHead_wf c op h _ ht

theorem execTxb_wf (c : CoreId) (s : State) (h : s.memWf = true) : CompletesWf (execTxb c s) := by
  unfold execTxb
  split
  · exact completesWf_next.2 h
  · next e t ht =>
    have hm := State.txHead_some_wf h ht
    (repeat' split)
    · exact completesWf_of_mem hm (by simp)
    · exact completesWf_next.2 h
    · exact completesWf_of_mem hm (by simp)

theorem execTxbSlotTmo_wf (c : CoreId) (s : State) (h : s.memWf = true) : CompletesWf (execTxbSlotTmo c s) := by
  unfold execTxbSlotTmo
  (repeat' split) <;> exact completesWf_of_mem h (by simp)

/-- The state a merge leaves, where it leaves one, has the memory of `s`. -/
def Merged.Keeps (s : State) : Merged → Prop
  | .ok t => t.mem = s.mem
  | .wait => True
  | .limit _ _ t => t.mem = s.mem

theorem State.txMerge_keeps (s : State) (c : CoreId) (i : SlotId) (line : Nat) (cs : List (Nat × Byte)) :
    (s.txMerge c i line cs).Keeps s := by
  unfold State.txMerge
  dsimp only
  (repeat' split) <;> simp [Merged.Keeps]

theorem Merged.Keeps.of_mem {s t : State} {m : Merged} (h : m.Keeps t) (ht : t.mem = s.mem) : m.Keeps s := by
  cases m <;> simp_all [Merged.Keeps]

theorem State.txMergeRow_keeps (s : State) (c : CoreId) (i : SlotId) (cells : List (Nat × Byte)) (ls : List Nat) :
    (s.txMergeRow c i cells ls).Keeps s := by
  induction ls generalizing s with
  | nil => rfl
  | cons l ls ih =>
    have hl := s.txMerge_keeps c i l (lineCells l cells)
    unfold State.txMergeRow
    split
    · next t ht => rw [ht] at hl; exact (ih t).of_mem hl
    · trivial
    · next t ht => rw [ht] at hl; exact hl

theorem State.txEvictCch_wf (s : State) (c : CoreId) (cw : Nat) (x0 : List Nat) :
    s.memWf = true → ∀ out, s.txEvictCch c cw x0 = some out → out.memWf = true := by
  fun_induction State.txEvictCch s c cw x0 <;> grind [State.memWf, State.updCch_mem, State.writeBackFails_mem, State.writeBack_wf]

theorem execTxStore_wf (c : CoreId) (row : Byte) (s : State) (h : s.memWf = true) : CompletesWf (execTxStore c row s) := by
  unfold execTxStore
  split
  · exact completesWf_next.2 h
  · next i o _ =>
    dsimp only
    split
    · exact completesWf_next.2 h
    · split
      · exact completesWf_next.2 h
      · next t ht =>
        have hm := State.txEvictCch_wf _ _ _ _ h _ ht
        split
        · exact completesWf_of_mem hm (by simp)
        · next slot _ =>
          have hk := t.txMergeRow_keeps c slot (cellsAt (o.e.rowAddr row.toNat) (o.rowBytes row.toNat))
            (linesOf (o.e.rowAddr row.toNat) (o.rowBytes row.toNat).length)
          split
          · next t1 h1 => rw [h1] at hk; exact completesWf_of_mem hm (by rw [State.rowAccepted_mem]; exact hk)
          · exact completesWf_next.2 h
          · next kind line t1 h1 =>
            rw [h1] at hk
            refine completesWf_of_mem hm ?_
            simp only [State.cause_mem, State.dropRow_mem, State.txDiscard_mem, State.txErr_mem]
            exact hk

theorem execTxOverwrite_wf (line : BitVec 41) (s : State) (h : s.memWf = true) : CompletesWf (execTxOverwrite line s) :=
  completesWf_of_mem h (by simp)

theorem execTxAged_wf (slot : SlotId) (s : State) (h : s.memWf = true) : CompletesWf (execTxAged slot s) := by
  unfold execTxAged
  split <;> exact completesWf_of_mem h (by simp)

theorem State.txStatus_wf (s : State) (c : CoreId) (e : QEntry) (outcome handle lines holder value : Nat) :
    s.memWf = true → (s.txStatus c e outcome handle lines holder value).memWf = true := by
  intro hwf
  unfold State.txStatus
  grind [State.memWf, State.cspStore_wf, State.done_mem]

theorem State.txEnd_wf (s : State) (c : CoreId) (i : SlotId) (e : QEntry) (outcome scope : Nat) :
    s.memWf = true → (s.txEnd c i e outcome scope).memWf = true :=
  fun hwf => State.txStatus_wf _ _ _ _ _ _ _ _ hwf

theorem State.commitLine_mem (s : State) (c : CoreId) (i : SlotId) (l : TxLine) :
    ∀ out, s.commitLine c i l = some out → out.mem = s.mem := by
  have hread : ∀ (ws : List Nat) (a : Bool × State), (ws.foldl (fun (a : Bool × State) w =>
      let r := a.2.readWord 13 (cscWord l.line w).1 (cscWord l.line w).2
      (a.1 || r.ue, r.s)) a).2.mem = a.2.mem :=
    fun _ _ => foldl_mem_of _ _ Prod.snd _ fun _ _ => State.readWord_mem _ _ _ _
  intro out ho
  unfold State.commitLine at ho
  extract_lets words rest at ho
  have hs := hread words (false, s)
  split at ho
  next ue s1 h1 =>
  rw [h1] at hs
  split at ho
  · cases ho
    exact (State.txErr_mem _ _ _ _ _ _).trans hs
  · obtain ⟨t, ht, rfl⟩ := Option.map_eq_some_iff.mp ho
    exact (State.launch_mem _ _ _ _ _ _ _ ht).trans hs

theorem State.commitLines_mem (s : State) (c : CoreId) (i : SlotId) (x0 : List TxLine) :
    ∀ out, s.commitLines c i x0 = some out → out.mem = s.mem := by
  fun_induction State.commitLines s c i x0 <;> grind [State.commitLine_mem]

theorem execTxc_wf (c : CoreId) (s : State) (h : s.memWf = true) : CompletesWf (execTxc c s) := by
  unfold execTxc
  split
  · exact completesWf_next.2 h
  · next e t ht =>
    have hm := State.txHead_some_wf h ht
    grind [completesWf_next, State.memWf, State.cause_mem, State.txStatus_wf, State.txLeave_mem, State.txEnd_wf,
      State.txDiscard_mem,
      State.txErr_mem, State.commitLines_mem, State.bumpRf_mem, State.pm_mem, State.updSlot_mem, State.txLog_mem,
        State.txFinish_mem]

theorem execTxa_wf (c : CoreId) (s : State) (h : s.memWf = true) : CompletesWf (execTxa c s) := by
  unfold execTxa
  split
  · exact completesWf_next.2 h
  · next e t ht =>
    have hm := State.txHead_some_wf h ht
    (repeat' split)
    · exact completesWf_of_mem hm (by simp)
    · exact completesWf_next.2 (State.txStatus_wf _ _ _ _ _ _ _ _ (memWf_of_mem hm (by simp)))
    all_goals exact completesWf_next.2 (State.txEnd_wf _ _ _ _ _ _ hm)

theorem State.durEnd_wf (s : State) (i : SlotId) (outcome : Nat) : s.memWf = true → (s.durEnd i outcome).memWf = true := by
  intro hwf
  unfold State.durEnd
  grind [State.memWf, State.txFinish_mem, State.txLeave_mem, State.txLog_mem, State.txStatus_wf, State.updSlot_mem]

theorem State.durFail_wf (s : State) (i : SlotId) (kind sys : Nat) : s.memWf = true → (s.durFail i kind sys).memWf = true :=
  fun hwf => State.durEnd_wf _ _ _ (memWf_of_mem hwf (by simp))

@[simp] theorem State.releaseLine_mem (s : State) (l : TxLine) (rest : List TxLine) : (s.releaseLine l rest).mem = s.mem := by
  unfold State.releaseLine
  dsimp only
  (repeat' split) <;> simp

theorem State.txLineFails_wf (s : State) (i : SlotId) (gen : BitVec 6) (line kind : Nat) :
    s.memWf = true → (s.txLineFails i gen line kind).memWf = true := by
  intro hwf
  unfold State.txLineFails
  grind [State.memWf, State.durFail_wf, State.releaseLine_mem, State.txErr_mem, State.txFinish_mem]

theorem execCommittingLineAck_wf (line : BitVec 41) (r : Reply) (s : State) (h : s.memWf = true) :
    CompletesWf (execCommittingLineAck line r s) := by
  unfold execCommittingLineAck
  dsimp only
  (repeat' split)
  · exact completesWf_next.2 h
  · exact completesWf_of_mem h (by simp)
  · exact completesWf_next.2 (State.txLineFails_wf _ _ _ _ _ h)
  · exact completesWf_next.2 h
  · exact completesWf_next.2 h
  · exact completesWf_next.2 (State.txLineFails_wf _ _ _ _ _ h)

theorem execDurableLinesAcked_wf (slot : SlotId) (s : State) (h : s.memWf = true) :
    CompletesWf (execDurableLinesAcked slot s) := by
  unfold execDurableLinesAcked
  grind [completesWf_next, State.memWf, State.durEnd_wf, State.launchWrite_mem, State.updSlot_mem]

theorem execCommitWordAck_wf (slot : SlotId) (r : Reply) (s : State) (h : s.memWf = true) :
    CompletesWf (execCommitWordAck slot r s) := by
  unfold execCommitWordAck
  dsimp only
  (repeat' split)
  · exact completesWf_next.2 h
  · exact completesWf_next.2 (State.durEnd_wf _ _ _ (memWf_of_mem h (by simp)))
  · exact completesWf_next.2 (State.durEnd_wf _ _ _ (memWf_of_mem h (by simp)))
  · exact completesWf_next.2 (State.durEnd_wf _ _ _ (memWf_of_mem h (by simp)))
  · exact completesWf_next.2 (State.durEnd_wf _ _ _ (memWf_of_mem h (by simp)))
  · exact completesWf_next.2 h
  · exact completesWf_next.2 h

theorem execDurTmoExpiry_wf (slot : SlotId) (s : State) (h : s.memWf = true) : CompletesWf (execDurTmoExpiry slot s) := by
  unfold execDurTmoExpiry
  (repeat' split)
  · exact completesWf_next.2 h
  · exact completesWf_next.2 h
  · exact completesWf_next.2 h
  · exact completesWf_next.2 (State.durFail_wf _ _ _ _ h)
  · exact completesWf_next.2 h
  · exact completesWf_next.2 (State.durFail_wf _ _ _ _ h)
  · exact completesWf_next.2 h
  · exact completesWf_next.2 (State.durFail_wf _ _ _ _ h)

theorem execTxCmdAbort_wf (handle : BitVec 12) (s : State) (h : s.memWf = true) : CompletesWf (execTxCmdAbort handle s) := by
  unfold execTxCmdAbort
  dsimp only
  split <;> exact completesWf_of_mem h (by simp)

/-- The state an explicit write leaves, where it leaves one, has canonical memory. -/
def WroteOut.Wf : WroteOut → Prop
  | .done t => t.memWf = true
  | .sent t => t.memWf = true
  | .refused t => t.memWf = true
  | .wait => True

theorem State.moreTag_some_mem {s t : State} {r : Nat} {user : TagUser} {addr n : Nat} {tag : BitVec 11}
    (h : s.moreTag r user addr n = some (tag, t)) : t.mem = s.mem := s.moreTag_mem r user addr n _ h

theorem State.writeOut_wf (s : State) (unit : Nat) (user : TagUser) (sys : Nat) (bs : List Byte) :
    s.memWf = true → (s.writeOut unit user sys bs).Wf := by
  intro hwf
  unfold State.writeOut
  extract_lets dev loc send
  have hsend : ∀ t, send s = some t → t.memWf = true := by
    intro t ht
    simp only [send] at ht
    split at ht
    · cases ht
    · next tag t1 h1 => cases ht; exact memWf_of_mem hwf (by rw [sendRequests_mem, State.moreTag_some_mem h1])
  split
  · split
    · exact State.store_wf _ _ _ _ hwf
    · exact hwf
  · split
    · exact State.cspStore_wf _ _ _ _ _ hwf
    · exact hwf
  · split
    · exact hwf
    · split
      · trivial
      · next t ht => exact memWf_of_mem (hsend t ht) (by simp [foldl_mem])
  · split
    · trivial
    · next t ht => exact hsend t ht
  · exact hwf
  · exact hwf

/-- A copy of a privileged unit keeps memory canonical when marking it as begun leaves memory as it is. -/
theorem State.copyStart_wf (s : State) (u : CopyUnit) (unit loc : Nat) (bs : List Byte) (mark : State → State)
    (hm : ∀ t, (mark t).mem = t.mem) (h : s.memWf = true) : (s.copyStart u unit loc bs mark).memWf = true := by
  have hw := s.writeOut_wf unit (.copy u) (s.ownSys loc) bs h
  unfold State.copyStart
  grind [State.memWf, WroteOut.Wf]

theorem execTxuLogCopy_wf (s : State) (h : s.memWf = true) : CompletesWf (execTxuLogCopy s) := by
  unfold execTxuLogCopy
  split
  · exact completesWf_next.2 h
  · exact completesWf_next.2 (State.copyStart_wf _ _ _ _ _ _ (by simp) h)

theorem execMirrorCopy_wf (s : State) (h : s.memWf = true) : CompletesWf (execMirrorCopy s) := by
  unfold execMirrorCopy
  split
  · exact completesWf_next.2 h
  · exact completesWf_next.2 (State.copyStart_wf _ _ _ _ _ _ (by simp) h)

theorem execEcmLogCopy_wf (s : State) (h : s.memWf = true) : CompletesWf (execEcmLogCopy s) := by
  unfold execEcmLogCopy
  split
  · exact completesWf_next.2 h
  · exact completesWf_next.2 (State.copyStart_wf _ _ _ _ _ _ (by simp) h)

theorem execCopyDone_wf (u : CopyUnit) (s : State) (h : s.memWf = true) : CompletesWf (execCopyDone u s) := by
  unfold execCopyDone
  (repeat' split) <;> exact completesWf_of_mem h (by simp)

/-! Machine/Evx -/

@[simp] theorem State.evErr_mem (s : State) (b kind region addr : Nat) : (s.evErr b kind region addr).mem = s.mem := by
  simp [State.evErr]

@[simp] theorem State.evEnd_mem (s : State) (result : Nat) : (s.evEnd result).mem = s.mem := by
  unfold State.evEnd
  dsimp only
  split <;> simp

@[simp] theorem State.evFail_mem (s : State) (b kind region addr : Nat) : (s.evFail b kind region addr).mem = s.mem := by
  simp [State.evFail]

@[simp] theorem State.evWriteFails_mem (s : State) (b kind : Nat) : (s.evWriteFails b kind).mem = s.mem := by
  unfold State.evWriteFails
  dsimp only
  split <;> simp

@[simp] theorem State.evWriteRemote_mem (s : State) (dev loc : Nat) : (s.evWriteRemote dev loc).mem = s.mem := by
  unfold State.evWriteRemote
  split <;> simp

theorem execEvict_wf (s : State) (h : s.memWf = true) : CompletesWf (execEvict s) := by
  unfold execEvict
  dsimp only
  (repeat' split)
  · exact completesWf_next.2 h
  · exact completesWf_of_mem h (by simp)
  all_goals exact completesWf_of_mem h ((foldl_mem _ _ _ (by simp)).trans (by simp))

theorem State.evSweep_wf (s : State) (cs : List CoreId) :
    s.memWf = true → ∀ out, s.evSweep cs = some out → out.2.memWf = true := by
  induction cs generalizing s with
  | nil => intro hwf out ho; cases ho; exact hwf
  | cons c cs ih =>
    intro hwf out ho
    unfold State.evSweep at ho
    split at ho
    · split at ho
      · cases ho
      · next r hr =>
        obtain ⟨x, hx, rfl⟩ := Option.map_eq_some_iff.mp ho
        exact ih r.s (State.sweep_wf _ _ _ _ _ _ _ hwf _ hr) x hx
    · exact ih s hwf out ho

theorem State.evFlush_wf (s : State) : s.memWf = true → s.evFlush.memWf = true := by
  intro hwf
  unfold State.evFlush
  dsimp only
  split
  · exact hwf
  · split
    · exact hwf
    · next l t ht => exact s.evSweep_wf _ hwf _ ht

theorem execEvictAck_wf (s : State) (h : s.memWf = true) : CompletesWf (execEvictAck s) := by
  unfold execEvictAck
  (repeat' split)
  · exact completesWf_next.2 (State.evFlush_wf _ (memWf_of_mem h (by simp)))
  · exact completesWf_next.2 h

@[simp] theorem State.readExt_mem (s : State) (unit loc n base : Nat) (rep : Reply) :
    (s.readExt unit loc n base rep).s.mem = s.mem :=
  foldl_mem_of _ _ Got.s _ fun _ _ => State.extLine_mem _ _ _ _ _ _

@[simp] theorem State.readOut_mem (s : State) (dev loc n base : Nat) (rep : Reply) :
    (s.readOut dev loc n base rep).s.mem = s.mem := by
  unfold State.readOut
  (repeat' split) <;> simp

@[simp] theorem State.stage_mem (s : State) (i : Nat) (bs : List Byte) : (s.stage i bs).mem = s.mem := rfl

@[simp] theorem State.evCount_mem (s : State) (n : Nat) : (s.evCount n).mem = s.mem := by
  simp [State.evCount]

@[simp] theorem State.evSent_mem (s : State) (n sys : Nat) : (s.evSent n sys).mem = s.mem := rfl

/-- The state a copy leaves, where it leaves one, has canonical memory. -/
def Copied.Wf : Copied → Prop
  | .ok _ t => t.memWf = true
  | .fail _ _ _ t => t.memWf = true
  | .wait => True

theorem State.copyBlocks_wf (s : State) (reg srcDev src dst n base : Nat) (rep : Reply) (crc : BitVec 32) (i k : Nat) :
    s.memWf = true → (s.copyBlocks reg srcDev src dst n base rep crc i k).Wf := by
  fun_induction State.copyBlocks s reg srcDev src dst n base rep crc i k <;>
    grind [Copied.Wf, State.memWf, WroteOut.Wf, State.writeOut_wf, State.stage_mem, State.readOut_mem, State.evCount_mem,
      State.evSent_mem]

theorem State.copyRegion_wf (s : State) (reg srcDev src dst n base : Nat) (rep : Reply) :
    s.memWf = true → (s.copyRegion reg srcDev src dst n base rep).Wf := State.copyBlocks_wf _ _ _ _ _ _ _ _ _ _ _

theorem State.writeRecords_wf (s : State) (ext : List (Nat × Reply)) (pos : Nat) (x0 : List (Nat × Region)) :
    s.memWf = true → ∀ out, s.writeRecords ext pos x0 = some out → out.memWf = true := by
  fun_induction State.writeRecords s ext pos x0 <;> grind [State.memWf, Copied.Wf, State.copyRegion_wf, State.evCount_mem,
    State.evFail_mem, State.evSent_mem, State.writeOut_wf, WroteOut.Wf]

theorem execEvictFlushDone_wf (ext : List (Nat × Reply)) (s : State) (h : s.memWf = true) :
    CompletesWf (execEvictFlushDone ext s) := by
  unfold execEvictFlushDone
  extract_lets t ev t1 rs go
  have hf : t.memWf = true := s.evFlush_wf h
  have hgo : ∀ u, u.memWf = true → (go u).memWf = true := by
    intro u hu
    simp only [go]
    cases hw : (u.evCount 128).writeRecords ext 128 rs with
    | none => exact hf
    | some x => exact State.writeRecords_wf _ _ _ _ (memWf_of_mem hu (by simp)) _ hw
  split
  · exact completesWf_next.2 hf
  · split
    · exact completesWf_of_mem hf (by simp)
    · have hw := t1.writeOut_wf 12 .evx t1.evTarget t1.ckptHeader hf
      split
      · exact completesWf_next.2 hf
      · next hu => rw [hu] at hw; exact completesWf_of_mem hw (by simp)
      · next hu => rw [hu] at hw; exact completesWf_next.2 (hgo _ hw)
      · next hu => rw [hu] at hw; exact completesWf_next.2 (hgo _ (memWf_of_mem hw (by simp)))

theorem execCkptWritesAcked_wf (r : Reply) (s : State) (h : s.memWf = true) : CompletesWf (execCkptWritesAcked r s) := by
  unfold execCkptWritesAcked
  grind [completesWf_next, State.memWf, State.evFail_mem, State.evSent_mem, State.evWriteFails_mem, State.freeUser_mem,
    State.writeOut_wf, WroteOut.Wf]

theorem execCkptCommitAck_wf (r : Reply) (s : State) (h : s.memWf = true) : CompletesWf (execCkptCommitAck r s) := by
  unfold execCkptCommitAck
  (repeat' split) <;> exact completesWf_of_mem h (by simp)

theorem execEvxTmoExpiry_wf (s : State) (h : s.memWf = true) : CompletesWf (execEvxTmoExpiry s) := by
  unfold execEvxTmoExpiry
  split <;> exact completesWf_of_mem h (by simp)

@[simp] theorem State.readCkpt_mem (s : State) (off n : Nat) (image : Reply) : (s.readCkpt off n image).s.mem = s.mem := by
  simp [State.readCkpt]

@[simp] theorem State.readRecords_mem (s : State) (image : Reply) (pos : Nat) (x0 : Nat) :
    (s.readRecords image pos x0).2.2.mem = s.mem := by
  fun_induction State.readRecords s image pos x0 <;> grind [State.readCkpt_mem]

@[simp] theorem State.restoreErr_mem (s : State) (e : MemErr) (n addr : Nat) : (s.restoreErr e n addr).mem = s.mem := by
  unfold State.restoreErr
  split <;> simp

theorem State.restoreData_wf (s : State) (image : Reply) (x0 : List CkptRecord) :
    s.memWf = true → ∀ out, s.restoreData image x0 = some out → out.memWf = true := by
  fun_induction State.restoreData s image x0 <;> grind [State.memWf, Copied.Wf, State.copyRegion_wf, State.evEnd_mem,
    State.evErr_mem, State.evFail_mem, State.pm_mem]

@[simp] theorem State.restoreBegin_mem (s : State) : (s.restoreBegin).mem = s.mem := by
  unfold State.restoreBegin
  dsimp only
  split <;> simp

theorem State.restoreRun_wf (s : State) (image : Reply) :
    s.memWf = true → ∀ out, s.restoreRun image = some out → out.memWf = true := by
  intro hwf out ho
  unfold State.restoreRun at ho
  extract_lets ev s3 t g ws head commit at ho
  have hg : g.s.memWf = true := memWf_of_mem hwf (State.readCkpt_mem _ _ _ _)
  have hr := g.s.readRecords_mem image 128 (huskAt ws 5)
  split at ho
  · cases ho; exact memWf_of_mem hg (by simp)
  · split at ho
    · cases ho; exact memWf_of_mem hg (by simp)
    · split at ho
      · cases ho; exact memWf_of_mem hg (by simp)
      · split at ho
        · next u hu => rw [hu] at hr; cases ho; exact memWf_of_mem hg ((State.restoreErr_mem _ _ _ _).trans hr)
        · next u hu => rw [hu] at hr; cases ho; exact memWf_of_mem hg (by simpa using hr)
        · next u hu => rw [hu] at hr; exact State.restoreData_wf _ _ _ (memWf_of_mem hg hr) _ ho

theorem execRestore_wf (image : Reply) (s : State) (h : s.memWf = true) : CompletesWf (execRestore image s) := by
  unfold execRestore
  extract_lets s1
  have h1 : s1.memWf = true := by
    simp only [s1]
    split
    · exact memWf_of_mem h (by simp)
    · exact h
  split
  · exact completesWf_next.2 h
  · split
    · exact completesWf_of_mem h (by simp)
    · split
      · cases hr : s1.restoreRun image with
        | none => exact completesWf_next.2 h1
        | some u => exact completesWf_next.2 (s1.restoreRun_wf image h1 u hr)
      · exact completesWf_next.2 h1

theorem execRestoreDone_wf (r : Reply) (s : State) (h : s.memWf = true) : CompletesWf (execRestoreDone r s) := by
  unfold execRestoreDone
  (repeat' split) <;> exact completesWf_of_mem h (by simp)

/-! Machine/Ecm -/

@[simp] theorem State.wordData_mem (s : State) (g i : Nat) : (s.wordData g i).2.mem = s.mem := by
  unfold State.wordData
  dsimp only
  (repeat' split) <;> simp

@[simp] theorem State.remapStart_mem (s : State) (op : RemapOp) : (s.remapStart op).mem = s.mem := rfl

@[simp] theorem State.fillFor_mem (s : State) (g i : Nat) (byUe : Bool) : (s.fillFor g i byUe).mem = s.mem := by
  unfold State.fillFor
  split <;> simp

@[simp] theorem State.spareShow_mem (s : State) (g k : Nat) (d : Dword) : (s.spareShow g k d).mem = s.mem := rfl

@[simp] theorem State.fillNow_mem (s : State) (o : RemapOp) : (s.fillNow o).mem = s.mem := by
  unfold State.fillNow
  dsimp only
  (repeat' split) <;> simp

@[simp] theorem State.releaseNow_mem (s : State) (o : RemapOp) : (s.releaseNow o).mem = s.mem := rfl

@[simp] theorem State.untrack_mem (s : State) (g i : Nat) (byUe : Bool) : (s.untrack g i byUe).mem = s.mem := by
  unfold State.untrack
  split <;> simp

@[simp] theorem State.askFill_mem (s : State) (g i : Nat) : (s.askFill g i).mem = s.mem := by
  unfold State.askFill
  split <;> simp

@[simp] theorem State.fillIfDue_mem (s : State) (g i : Nat) (byUe : Bool) : (s.fillIfDue g i byUe).mem = s.mem := by
  unfold State.fillIfDue
  split <;> simp

@[simp] theorem State.track_mem (s : State) (g i : Nat) : (s.track g i).mem = s.mem := by
  unfold State.track
  split <;> simp

theorem execCeReport_wf (s : State) (h : s.memWf = true) : CompletesWf (execCeReport s) := by
  unfold execCeReport
  (repeat' split) <;> exact completesWf_of_mem h (by simp)

theorem execUeReport_wf (s : State) (h : s.memWf = true) : CompletesWf (execUeReport s) := by
  unfold execUeReport
  (repeat' split) <;> exact completesWf_of_mem h (by simp)

theorem execRemapFill_wf (group : BitVec 7) (index : BitVec 17) (byUe : Bool) (s : State) (h : s.memWf = true) :
    CompletesWf (execRemapFill group index byUe s) := by
  unfold execRemapFill
  split <;> exact completesWf_of_mem h (by simp)

theorem execRemapFillDone_wf (s : State) (h : s.memWf = true) : CompletesWf (execRemapFillDone s) := by
  unfold execRemapFillDone
  (repeat' split) <;> exact completesWf_of_mem h (by simp)

theorem execEcmTmoExpiry_wf (s : State) (h : s.memWf = true) : CompletesWf (execEcmTmoExpiry s) := by
  unfold execEcmTmoExpiry
  (repeat' split) <;> exact completesWf_of_mem h (by simp)

@[simp] theorem State.remapWrite_mem (s : State) (v : Word32) : (s.remapWrite v).2.mem = s.mem := by
  unfold State.remapWrite
  dsimp only
  (repeat' split) <;> simp

@[simp] theorem State.scrubWord_mem (s : State) (g i : Nat) : (s.scrubWord g i).mem = s.mem := by
  unfold State.scrubWord
  (repeat' split) <;> simp

theorem execScrubRead_wf (who : Fin 9) (s : State) (h : s.memWf = true) : CompletesWf (execScrubRead who s) := by
  unfold execScrubRead
  dsimp only
  (repeat' split) <;> exact completesWf_of_mem h (by simp [foldl_mem])

theorem execScrubLate_wf (who : Fin 9) (s : State) (h : s.memWf = true) : CompletesWf (execScrubLate who s) := by
  unfold execScrubLate
  (repeat' split) <;> exact completesWf_of_mem h (by simp)

@[simp] theorem State.flipWrite_mem (s : State) (v : Dword) : (s.flipWrite v).mem = s.mem := rfl

theorem execFlipApply_wf (s : State) (h : s.memWf = true) : CompletesWf (execFlipApply s) := by
  unfold execFlipApply
  dsimp only
  split <;> exact completesWf_of_mem h (by simp)

theorem execStorageUpset_wf (t : UpsetTarget) (s : State) (h : s.memWf = true) : CompletesWf (execStorageUpset t s) := by
  unfold execStorageUpset
  dsimp only
  (repeat' split) <;> exact completesWf_of_mem h (by simp)

/-! Machine/Link -/

@[simp] theorem State.portErr_mem (s : State) (p : PortId) (b kind code : Nat) (k : Packet) :
    (s.portErr p b kind code k).mem = s.mem := by
  simp [State.portErr]

@[simp] theorem State.linkEvt_mem (s : State) : (s.linkEvt).mem = s.mem := by
  simp [State.linkEvt]

@[simp] theorem State.pumpAll_mem (s : State) (p : PortId) : (s.pumpAll p).mem = s.mem := by
  simp [State.pumpAll]

@[simp] theorem State.linkFail_mem (s : State) (p : PortId) : (s.linkFail p).mem = s.mem := by
  simp [State.linkFail]

@[simp] theorem State.replay_mem (s : State) (p : PortId) : (s.replay p).mem = s.mem := by
  unfold State.replay
  dsimp only
  (repeat' split) <;> simp

theorem execLinkReplayTmo_wf (p : PortId) (s : State) (h : s.memWf = true) : CompletesWf (execLinkReplayTmo p s) := by
  unfold execLinkReplayTmo
  (repeat' split) <;> exact completesWf_of_mem h (by simp)

@[simp] theorem State.lcfOut_mem (s : State) (p : PortId) : (s.lcfOut p).mem = s.mem := by
  simp [State.lcfOut]

theorem execLcfSend_wf (p : PortId) (s : State) (h : s.memWf = true) : CompletesWf (execLcfSend p s) := by
  unfold execLcfSend
  split <;> exact completesWf_of_mem h (by simp)

theorem execLcfReceive_wf (p : PortId) (flit : List Byte) (s : State) (h : s.memWf = true) :
    CompletesWf (execLcfReceive p flit s) := by
  unfold execLcfReceive
  (repeat' split) <;> exact completesWf_of_mem h (by simp)

theorem execHoldTmoDrop_wf (p : PortId) (tc : BitVec 2) (s : State) (h : s.memWf = true) :
    CompletesWf (execHoldTmoDrop p tc s) := by
  unfold execHoldTmoDrop
  (repeat' split) <;> exact completesWf_of_mem h (by simp)

@[simp] theorem State.replaceRoutes_mem (s : State) (p : PortId) : (s.replaceRoutes p).mem = s.mem := by
  refine foldl_mem _ _ _ fun t d => ?_
  dsimp only
  split <;> simp

@[simp] theorem State.restoreRoutes_mem (s : State) : (s.restoreRoutes).mem = s.mem := by
  unfold State.restoreRoutes
  refine foldl_mem _ _ _ fun t x => ?_
  split <;> simp

theorem execRouteReplace_wf (p : PortId) (s : State) (h : s.memWf = true) : CompletesWf (execRouteReplace p s) := by
  unfold execRouteReplace
  (repeat' split) <;> exact completesWf_of_mem h (by simp)

@[simp] theorem State.startHello_mem (s : State) (p : PortId) : (s.startHello p).mem = s.mem := rfl

@[simp] theorem State.endStep5_mem (s : State) : (s.endStep5).mem = s.mem := by
  unfold State.endStep5
  dsimp only
  split <;> simp

theorem execHelloSend_wf (p : PortId) (s : State) (h : s.memWf = true) : CompletesWf (execHelloSend p s) := by
  unfold execHelloSend
  dsimp only
  split <;> exact completesWf_of_mem h (by simp)

theorem execHello_wf (p : PortId) (words : Vector Dword 4) (s : State) (h : s.memWf = true) :
    CompletesWf (execHello p words s) := by
  unfold execHello
  extract_lets q vals ok w c v nbr s1 s2 k
  split
  · exact completesWf_next.2 h
  · split
    · refine completesWf_of_mem h ?_
      rw [State.pumpAll_mem, State.endStep5_mem, State.updPort_mem, State.setReg_mem, State.pm_mem]
    · refine completesWf_of_mem h ?_
      rw [State.portErr_mem, State.updPort_mem, State.pm_mem]

theorem execHelloTmo_wf (p : PortId) (s : State) (h : s.memWf = true) : CompletesWf (execHelloTmo p s) := by
  unfold execHelloTmo
  split <;> exact completesWf_of_mem h (by simp)

@[simp] theorem State.helloAll_mem (s : State) : s.helloAll.mem = s.mem := by
  refine foldl_mem _ _ _ fun t p => ?_
  split
  · rfl
  · rw [State.startHello_mem]

@[simp] theorem State.coordStep_mem (s : State) (same : Bool) : (s.coordStep same).mem = s.mem := by
  have hroutes : ((List.finRange 4).foldl (fun (t : State) (p : PortId) => if t.portUp p then t else
      (t.replaceRoutes p).updPort p fun q => { q with fell := true }) s).mem = s.mem := by
    refine foldl_mem _ _ _ fun t p => ?_
    split
    · rfl
    · rw [State.updPort_mem, State.replaceRoutes_mem]
  unfold State.coordStep
  split
  · split
    · rw [State.endStep5_mem, State.helloAll_mem, State.updCcu_mem]
    · rfl
  · split
    · rw [State.endStep5_mem, State.helloAll_mem, State.updCcu_mem]
    · split
      · rw [State.updCcu_mem, hroutes]
      · rfl

@[simp] theorem State.coordWrite_mem (s : State) (page : Nat) (v : Word32) : (s.coordWrite page v).2.mem = s.mem := by
  unfold State.coordWrite
  grind [State.coordStep_mem, State.errBit_mem, State.helloAll_mem, State.setReg_mem]

@[simp] theorem State.linkCtlWrite_mem (s : State) (p : PortId) (v : Dword) : (s.linkCtlWrite p v).mem = s.mem := by
  unfold State.linkCtlWrite
  dsimp only
  (repeat' split) <;> simp

/-! Machine/Recovery -/

@[simp] theorem State.updWatch_mem (s : State) (c : CoreId) (f : CoreWatch → CoreWatch) : (s.updWatch c f).mem = s.mem := rfl

@[simp] theorem State.ccuErr_mem (s : State) (b kind island : Nat) (page off : Nat) (detail : Dword) :
    (s.ccuErr b kind island page off detail).mem = s.mem := by
  simp [State.ccuErr]

@[simp] theorem State.clusterFault_mem (s : State) (code : Nat) : (s.clusterFault code).mem = s.mem := by
  unfold State.clusterFault
  dsimp only
  rw [State.evt_mem, State.ccuErr_mem]
  refine (foldl_mem _ _ _ fun t c => ?_).trans (State.updCcu_mem _ _)
  split <;> simp

theorem State.fenceFlush_wf (s : State) (c : CoreId) : s.memWf = true → (s.fenceFlush c).memWf = true := by
  intro hwf
  unfold State.fenceFlush
  dsimp only
  (repeat' split)
  · exact State.sweep_wf _ _ _ _ _ _ _ hwf _ ‹_›
  · exact hwf
  · exact hwf
  · exact hwf
  · exact hwf

@[simp] theorem State.fenceReport_mem (s : State) (c : CoreId) : (s.fenceReport c).mem = s.mem := by
  unfold State.fenceReport
  dsimp only
  (repeat' split) <;> simp

@[simp] theorem State.startTest_mem (s : State) (c : CoreId) (manual : Bool) : (s.startTest c manual).mem = s.mem := by
  simp [State.startTest]

theorem State.fenceCore_wf (s : State) (c : CoreId) (reason : Nat) : s.memWf = true → (s.fenceCore c reason).memWf = true := by
  intro hwf
  unfold State.fenceCore
  grind [State.memWf, State.barriersRecompute_mem, State.ccuErr_mem, State.err_mem, State.evt_mem, State.fenceFlush_wf,
    State.fenceReport_mem, State.logEvent_mem, State.pm_mem, State.setRf_mem, State.startTest_mem, State.txDiscard_mem,
    State.updCcu_mem, State.updWatch_mem]

theorem execCoreFence_wf (c : CoreId) (reason : BitVec 4) (s : State) (h : s.memWf = true) :
    CompletesWf (execCoreFence c reason s) := by
  unfold execCoreFence
  grind [completesWf_next, State.memWf, State.fenceCore_wf]

theorem execAbftMissReport_wf (c : CoreId) (s : State) (h : s.memWf = true) : CompletesWf (execAbftMissReport c s) := by
  unfold execAbftMissReport
  grind [completesWf_next, State.memWf, State.fenceCore_wf, State.popCcu_mem, State.updWatch_mem]

theorem execParityAbortReport_wf (c : CoreId) (s : State) (h : s.memWf = true) : CompletesWf (execParityAbortReport c s) := by
  unfold execParityAbortReport
  grind [completesWf_next, State.memWf, State.fenceCore_wf, State.popCcu_mem, State.updWatch_mem]

@[simp] theorem State.rejoin_mem (s : State) (c : CoreId) : (s.rejoin c).mem = s.mem := by
  unfold State.rejoin
  dsimp only
  rw [State.evt_mem, State.barriersRecompute_mem, State.becomeIdle_mem, State.answer_mem, State.logEvent_mem, State.setRf_mem]

theorem State.fenceAsked_wf (s : State) (c : CoreId) (req : Option Bool) :
    s.memWf = true → (s.fenceAsked c req).memWf = true := by
  intro hwf
  unfold State.fenceAsked
  grind [State.memWf, State.fenceCore_wf]

theorem execSelftestDone_wf (c : CoreId) (pass : Bool) (s : State) (h : s.memWf = true) :
    CompletesWf (execSelftestDone c pass s) := by
  unfold execSelftestDone
  grind [completesWf_next, State.memWf, State.barriersRecompute_mem, State.ccuErr_mem, State.err_mem, State.evt_mem,
    State.fenceAsked_wf, State.logEvent_mem, State.pm_mem, State.rejoin_mem, State.setRf_mem, State.startTest_mem,
    State.updSeq_mem, State.updWatch_mem]

theorem State.fenceBit_wf (s : State) (c : CoreId) (v : Word32) : s.memWf = true → (s.fenceBit c v).memWf = true := by
  intro hwf
  unfold State.fenceBit
  grind [State.memWf, State.fenceCore_wf, State.startTest_mem, State.updWatch_mem]

theorem State.fenceWrite_wf (s : State) (v : Word32) : s.memWf = true → (s.fenceWrite v).memWf = true :=
  foldl_wf _ _ _ fun _ _ => State.fenceBit_wf _ _ _

theorem execHeartbeatToken_wf (island : Fin 13) (s : State) (h : s.memWf = true) : CompletesWf (execHeartbeatToken island s) := by
  unfold execHeartbeatToken
  split <;> exact completesWf_of_mem h (by simp)

theorem execHeartbeatReceive_wf (island : Fin 13) (s : State) (h : s.memWf = true) :
    CompletesWf (execHeartbeatReceive island s) := by
  unfold execHeartbeatReceive
  split <;> exact completesWf_of_mem h (by simp)

theorem execHeartbeatMiss_wf (island : Fin 13) (s : State) (h : s.memWf = true) : CompletesWf (execHeartbeatMiss island s) := by
  unfold execHeartbeatMiss
  grind [completesWf_next, State.memWf, State.ccuErr_mem, State.clusterFault_mem, State.fenceCore_wf, State.linkFail_mem,
    State.orReg_mem, State.updCcu_mem]

theorem execIslandLogicStop_wf (island : IslandId) (s : State) (h : s.memWf = true) :
    CompletesWf (execIslandLogicStop island s) :=
  completesWf_of_mem h rfl

/-! Machine/Bond -/

@[simp] theorem State.updBond_mem (s : State) (g : Nat) (f : BondGroup → BondGroup) : (s.updBond g f).mem = s.mem := rfl

@[simp] theorem State.bondEvt_mem (s : State) : (s.bondEvt).mem = s.mem := by
  simp [State.bondEvt]

@[simp] theorem State.retireGroup_mem (s : State) (g : Nat) : (s.retireGroup g).mem = s.mem := by
  unfold State.retireGroup
  dsimp only
  split <;> simp

@[simp] theorem State.retireLane_mem (s : State) (g lane : Nat) : (s.retireLane g lane).mem = s.mem := by
  unfold State.retireLane
  dsimp only
  (repeat' split) <;> simp

@[simp] theorem State.bondCmd_mem (s : State) (v : Word32) : (s.bondCmd v).mem = s.mem := by
  unfold State.bondCmd
  dsimp only
  (repeat' split) <;> simp

@[simp] theorem State.laneCount_mem (s : State) (g lane : Nat) : (s.laneCount g lane).mem = s.mem := rfl

@[simp] theorem State.beatCount_mem (s : State) (g : Nat) (r : List (List Nat)) : (s.beatCount g r).mem = s.mem :=
  (foldl_mem _ _ _ fun _ l => foldl_mem l _ _ fun u lane => u.laneCount_mem g lane).trans (s.bumpRf_mem _ _ _ _ _)

/-- The state after a command that completes with canonical memory. -/
theorem State.after_wf {s : State} {o : Ans} (ho : CompletesWf o) : (s.after o).memWf = true := by
  obtain ⟨t, rfl, ht⟩ := ho
  exact ht

theorem State.beatLost_wf (s : State) (tag : BitVec 11) : s.memWf = true → (s.beatLost tag).memWf = true := by
  intro hwf
  unfold State.beatLost
  grind [State.memWf, State.after_wf, State.cscDrop_mem, State.evWriteFails_mem, State.freeUser_mem, State.lineFails_mem,
    State.postedFault_mem, State.txLineFails_wf, execCommitWordAck_wf, execCopyDone_wf]

theorem State.beatFail_wf (s : State) (tag : BitVec 11) : s.memWf = true → (s.beatFail tag).memWf = true :=
  fun hwf => State.beatLost_wf _ _ (memWf_of_mem hwf (by simp))

theorem execBondBeat_wf (group : Byte) (tag : BitVec 11) (first second : List (BitVec 80)) (s : State) (h : s.memWf = true) :
    CompletesWf (execBondBeat group tag first second s) := by
  unfold execBondBeat
  dsimp only
  (repeat' split)
  · exact completesWf_next.2 h
  · exact completesWf_of_mem h (by simp)
  · exact completesWf_next.2 (State.beatFail_wf _ _ (memWf_of_mem h (by simp)))
  · exact completesWf_of_mem h (by simp)

theorem execBondLaneRetire_wf (group : Byte) (lane : BitVec 10) (s : State) (h : s.memWf = true) :
    CompletesWf (execBondLaneRetire group lane s) := by
  unfold execBondLaneRetire
  split <;> exact completesWf_of_mem h (by simp)

theorem execBondGroupReturn_wf (group : Byte) (s : State) (h : s.memWf = true) : CompletesWf (execBondGroupReturn group s) := by
  unfold execBondGroupReturn
  dsimp only
  split <;> exact completesWf_of_mem h (by simp)

theorem execBondGroupRetire_wf (group : Byte) (s : State) (h : s.memWf = true) : CompletesWf (execBondGroupRetire group s) := by
  unfold execBondGroupRetire
  dsimp only
  split <;> exact completesWf_of_mem h (by simp)

theorem State.reclaimed_wf (s : State) (u : TagUser) : s.memWf = true → (s.reclaimed u).memWf = true := by
  intro hwf
  unfold State.reclaimed
  grind [State.memWf, State.after_wf, State.evWriteFails_mem, State.lineFails_mem, State.txLineFails_wf, execCchOpTmo_wf,
    execCopyDone_wf, execDurTmoExpiry_wf, execStreamElementTmo_wf, execTldRowTmo_wf]

theorem execTagReclaim_wf (tag : BitVec 11) (s : State) (h : s.memWf = true) : CompletesWf (execTagReclaim tag s) := by
  unfold execTagReclaim
  (repeat' split)
  · exact completesWf_next.2 h
  · exact completesWf_next.2 h
  · exact completesWf_next.2 (State.reclaimed_wf _ _ (memWf_of_mem h (by simp)))

/-! Machine/Fabric -/

@[simp] theorem State.sendAnswer_mem (s : State) (k : Packet) : (s.sendAnswer k).mem = s.mem := by
  unfold State.sendAnswer
  grind [State.bumpRf_mem, State.drawChoice_mem, State.sendMesh_mem]

@[simp] theorem State.portAnswers_mem (s : State) (p : PortId) (k : Packet) (code : Nat) :
    (s.portAnswers p k code).mem = s.mem := by
  simp [State.portAnswers]

@[simp] theorem State.linkBad_mem (s : State) (p : PortId) (kind : Nat) (k : Packet) : (s.linkBad p kind k).mem = s.mem := by
  simp [State.linkBad]

@[simp] theorem State.linkTakes_mem (s : State) (p : PortId) (k : Packet) : (s.linkTakes p k).mem = s.mem := by
  unfold State.linkTakes
  dsimp only
  split <;> simp

@[simp] theorem State.linkDrops_mem (s : State) (p : PortId) : (s.linkDrops p).mem = s.mem := rfl

@[simp] theorem State.sourceRouted_mem (s : State) (p : PortId) (k : Packet) : (s.sourceRouted p k).mem = s.mem := by
  unfold State.sourceRouted
  (repeat' split) <;> simp

@[simp] theorem State.hopDrops_mem (s : State) (p : PortId) (k : Packet) : (s.hopDrops p k).mem = s.mem := by
  simp [State.hopDrops]

@[simp] theorem State.routed_mem (s : State) (p : PortId) (k : Packet) : (s.routed p k).mem = s.mem := by
  unfold State.routed
  (repeat' split) <;> simp

@[simp] theorem State.packetIn_mem (s : State) (p : PortId) (k : Packet) : (s.packetIn p k).mem = s.mem := by
  unfold State.packetIn
  (repeat' split) <;> simp

theorem execPacketRoute_wf (p : PortId) (pkt : Packet) (s : State) (h : s.memWf = true) :
    CompletesWf (execPacketRoute p pkt s) := by
  unfold execPacketRoute
  dsimp only
  (repeat' split) <;> exact completesWf_of_mem h (by simp)

theorem State.takeIn_some_mem {s t : State} {type : BitVec 4} {k : Packet} {p : Option PortId}
    (h : s.takeIn type k = some (p, t)) : t.mem = s.mem := by
  unfold State.takeIn at h
  split at h
  · cases h
  · obtain ⟨r, hr, hrt⟩ := Option.map_eq_some_iff.mp h
    cases hrt
    exact s.takePacket_mem _ _ hr

@[simp] theorem State.servedBy_mem (s : State) (x0 : Option PortId) : (s.servedBy x0).2.mem = s.mem := by
  unfold State.servedBy
  split <;> simp

@[simp] theorem State.answerTo_mem (s : State) (k : Packet) (g : Option MemErr) (ok : Packet) :
    (s.answerTo k g ok).mem = s.mem := by
  unfold State.answerTo
  split <;> simp

@[simp] theorem State.serveRd_mem (s : State) (p : PortId) (k : Packet) : (s.serveRd p k).s.mem = s.mem := by
  unfold State.serveRd
  dsimp only
  (repeat' split) <;> simp

theorem execRd_wf (pkt : Packet) (s : State) (h : s.memWf = true) : CompletesWf (execRd pkt s) := by
  unfold execRd
  split
  · exact completesWf_next.2 h
  · next from_ t ht =>
    dsimp only
    split
    · exact completesWf_next.2 h
    · next t2 h2 =>
      have hp : t2.mem = s.mem := by rw [State.rqtPass_mem _ _ _ _ h2, State.servedBy_mem, State.takeIn_some_mem ht]
      split
      · exact completesWf_next.2 h
      · exact completesWf_of_mem h (by rw [State.answerTo_mem, State.serveRd_mem, hp])

theorem State.serveWr_wf (s : State) (p : PortId) (k : Packet) : s.memWf = true → (s.serveWr p k).s.memWf = true := by
  intro hwf
  unfold State.serveWr
  (repeat' split)
  · exact hwf
  · exact hwf
  · exact State.storeCells_wf _ _ _ hwf
  · exact State.cspWrite_wf _ _ _ _ hwf
  · exact hwf
  · exact hwf
  · exact hwf
  · exact hwf
  · exact hwf

theorem execWr_wf (pkt : Packet) (s : State) (h : s.memWf = true) : CompletesWf (execWr pkt s) := by
  unfold execWr
  split
  · exact completesWf_next.2 h
  · next from_ t ht =>
    dsimp only
    split
    · exact completesWf_next.2 h
    · next t2 h2 =>
      have hp : t2.mem = s.mem := by rw [State.rqtPass_mem _ _ _ _ h2, State.servedBy_mem, State.takeIn_some_mem ht]
      split
      · exact completesWf_next.2 h
      · exact completesWf_of_mem (State.serveWr_wf _ _ _ (memWf_of_mem h hp)) (by rw [State.answerTo_mem])

@[simp] theorem State.dropTag_mem (s : State) (tag : BitVec 11) : (s.dropTag tag).mem = s.mem := rfl

@[simp] theorem State.lateReply_mem (s : State) (tag : BitVec 11) : (s.lateReply tag).mem = s.mem := by
  unfold State.lateReply
  split <;> simp

/-- A reply to an own request keeps memory canonical when its effect on the held tag does. -/
theorem State.replyFor_wf (s : State) (tag : BitVec 11) (f : Tag → State) (hf : ∀ g, (f g).memWf = true) (h : s.memWf = true) :
    (s.replyFor tag f).memWf = true := by
  unfold State.replyFor
  grind [State.memWf, State.lateReply_mem]

@[simp] theorem State.answered_mem (s : State) (tag : BitVec 11) (g : Tag) : (s.answered tag g).mem = s.mem := by
  unfold State.answered
  split <;> simp

theorem execRsp_wf (pkt : Packet) (s : State) (h : s.memWf = true) : CompletesWf (execRsp pkt s) := by
  unfold execRsp
  split
  · exact completesWf_next.2 h
  · next from_ t ht =>
    have hm := memWf_of_mem h (State.takeIn_some_mem ht)
    split
    · exact completesWf_next.2 h
    · refine completesWf_next.2 (State.replyFor_wf _ _ _ (fun g => memWf_of_mem hm ?_) hm)
      rw [State.answered_mem]
      split <;> simp

@[simp] theorem State.deviceAck_mem (s : State) (tag : BitVec 11) (g : Tag) : (s.deviceAck tag g).mem = s.mem := by
  unfold State.deviceAck
  split <;> simp

@[simp] theorem State.systemAck_mem (s : State) (tag : BitVec 11) (g : Tag) : (s.systemAck tag g).mem = s.mem := by
  unfold State.systemAck
  (repeat' split) <;> simp

theorem execAck_wf (pkt : Packet) (s : State) (h : s.memWf = true) : CompletesWf (execAck pkt s) := by
  unfold execAck
  split
  · exact completesWf_next.2 h
  · next from_ t ht =>
    have hm := memWf_of_mem h (State.takeIn_some_mem ht)
    split
    · exact completesWf_next.2 h
    · refine completesWf_next.2 (State.replyFor_wf _ _ _ (fun g => memWf_of_mem hm ?_) hm)
      dsimp only
      (repeat' split) <;> simp

@[simp] theorem State.writeBackRemote_mem (s : State) (c : CoreId) (line cw op : Nat) :
    (s.writeBackRemote c line cw op).mem = s.mem := by
  unfold State.writeBackRemote
  split <;> simp

theorem State.remoteErr_wf (s : State) (g : Tag) (loc : Nat) (code : Byte) :
    s.memWf = true → (s.remoteErr g loc code).memWf = true := by
  intro hwf
  unfold State.remoteErr
  grind [State.memWf, State.after_wf, State.evWriteRemote_mem, State.txLineFails_wf, State.writeBackRemote_mem,
    execCommitWordAck_wf, execCopyDone_wf, execStreamReply_wf, execTldRowReturn_wf, execTstRowAccept_wf]

theorem State.redRemote_wf (s : State) (g : GroupId) (i : Nat) : s.memWf = true → (s.redRemote g i).memWf = true := by
  intro hwf
  unfold State.redRemote
  (repeat' split) <;> exact State.stepLog_wf _ _ _ _ _ _ _ _ _ (memWf_of_mem hwf (by simp))

theorem execErr_wf (pkt : Packet) (s : State) (h : s.memWf = true) : CompletesWf (execErr pkt s) := by
  unfold execErr
  split
  · exact completesWf_next.2 h
  · next from_ t ht =>
    have hm := memWf_of_mem h (State.takeIn_some_mem ht)
    dsimp only
    split
    · exact completesWf_next.2 h
    · split
      · refine completesWf_of_mem hm ?_
        split <;> simp
      · split
        · exact completesWf_next.2 (State.redRemote_wf _ _ _ hm)
        · split
          · exact completesWf_next.2 (State.replyFor_wf _ _ _ (fun _ => hm) hm)
          · split
            · exact completesWf_next.2 h
            · refine completesWf_next.2 (State.replyFor_wf _ _ _ (fun _ => State.remoteErr_wf _ _ _ _ (memWf_of_mem hm ?_)) hm)
              rw [State.dropTag_mem]
              split <;> simp

/-! Machine/SoftReset -/

@[simp] theorem State.resume_mem (s : State) (c : CoreId) : (s.resume c).mem = s.mem := by
  unfold State.resume
  dsimp only
  (repeat' split) <;> simp

@[simp] theorem State.pauseCore_mem (s : State) (c : CoreId) (v : Bool) : (s.pauseCore c v).mem = s.mem := by
  unfold State.pauseCore
  dsimp only
  (repeat' split) <;> simp

@[simp] theorem State.pauseEngine_mem (s : State) (c : CoreId) (b : Nat) (v : Bool) : (s.pauseEngine c b v).mem = s.mem := rfl

theorem execPauseReached_wf (c : CoreId) (block : Fin 8) (s : State) (h : s.memWf = true) :
    CompletesWf (execPauseReached c block s) := by
  unfold execPauseReached
  dsimp only
  (repeat' split) <;> exact completesWf_of_mem h (by simp)

@[simp] theorem State.stepCore_mem (s : State) (c : CoreId) : (s.stepCore c).mem = s.mem := by
  unfold State.stepCore
  dsimp only
  split <;> simp

@[simp] theorem State.stepCores_mem (s : State) (v : Dword) : (s.stepCores v).mem = s.mem := by
  unfold State.stepCores
  refine foldl_mem _ _ _ fun t x => ?_
  split <;> simp

@[simp] theorem State.softSeq_mem (s : State) (c : CoreId) : (s.softSeq c).mem = s.mem := by
  unfold State.softSeq
  dsimp only
  (repeat' split) <;> simp

@[simp] theorem State.softEngine_mem (s : State) (c : CoreId) (b : Nat) : (s.softEngine c b).mem = s.mem := by
  unfold State.softEngine
  split <;> simp

@[simp] theorem State.softBlock_mem (s : State) (page : Nat) (b : Block) : (s.softBlock page b).mem = s.mem := by
  unfold State.softBlock
  dsimp only
  (repeat' split) <;> simp

@[simp] theorem State.softReset_mem (s : State) (page : Nat) : (s.softReset page).2.mem = s.mem := by
  unfold State.softReset
  dsimp only
  (repeat' split) <;> simp

/-! Machine/Power -/

@[simp] theorem State.clearGroup_mem (s : State) (g : Nat) : (s.clearGroup g).mem = s.mem := rfl

@[simp] theorem State.zeroGroup_mem (s : State) (g : Nat) : (s.zeroGroup g).mem = s.mem := by
  unfold State.zeroGroup
  dsimp only
  split <;> simp

theorem State.zeroCore_wf (s : State) (c : CoreId) : s.memWf = true → (s.zeroCore c).memWf = true := by
  intro hwf
  unfold State.zeroCore
  extract_lets inCsp s1
  have h1 : s1.memWf = true := tabWf_filter _ hwf
  refine memWf_of_mem h1 ?_
  rw [State.zeroGroup_mem, State.zeroGroup_mem, State.updSeq_mem]

@[simp] theorem State.pwrAnswer_mem (s : State) (c : CoreId) (granted : Bool) : (s.pwrAnswer c granted).mem = s.mem := rfl

theorem State.powerDown_wf (s : State) (c : CoreId) (ret : Bool) :
    s.memWf = true → ∀ out, s.powerDown c ret = some out → out.memWf = true := by
  intro hwf out ho
  unfold State.powerDown at ho
  extract_lets s1 at ho
  split at ho
  · cases ho
  · next r hr =>
    cases ho
    have hs : r.s.memWf = true := State.sweep_wf _ _ _ _ _ _ _ (memWf_of_mem hwf (State.updCcu_mem _ _)) _ hr
    refine memWf_of_mem hs ?_
    rw [State.pwrAnswer_mem, State.updCore_mem]
    split
    · rfl
    · exact foldl_mem _ _ _ (by simp)

theorem State.pwrRequest_wf (s : State) (c : CoreId) (code : BitVec 2) (ret : Bool) :
    s.memWf = true → (s.pwrRequest c code ret).memWf = true := by
  intro hwf
  unfold State.pwrRequest
  extract_lets s1
  have h1 : s1.memWf = true := memWf_of_mem hwf (State.updCore_mem _ _ _)
  split
  · exact hwf
  · split
    · exact memWf_of_mem h1 (by simp)
    · cases hp : s1.powerDown c ret with
      | none => exact h1
      | some t => exact s1.powerDown_wf c ret h1 t hp

theorem State.wake_wf (s : State) (c : CoreId) : s.memWf = true → (s.wake c).memWf = true := by
  intro hwf
  unfold State.wake
  extract_lets q pauses s1 s2 s3 s4 s5 s6
  have h1 : s1.memWf = true := memWf_of_mem hwf (State.coreReset_mem _ _ _)
  have h2 : s2.memWf = true := by
    simp only [s2]
    split
    · exact h1
    · exact State.zeroCore_wf _ _ (memWf_of_mem h1 (foldl_mem _ _ _ (by simp)))
  have h3 : s3.mem = s2.mem := foldl_mem _ _ _ fun _ _ => State.setRf_mem _ _ _ _ _ _
  have h5 : s5.mem = s2.mem := by rw [State.updCore_mem, State.updCcu_mem, h3]
  have h6 : s6.mem = s2.mem := by
    simp only [s6]
    split
    · rw [State.updSeq_mem, h5]
    · rw [State.becomeIdle_mem, State.answer_mem, h5]
  exact memWf_of_mem h2 (by rw [State.pwrAnswer_mem, h6])

theorem State.pwrOn_wf (s : State) (c : CoreId) : s.memWf = true → (s.pwrOn c).memWf = true := by
  intro hwf
  unfold State.pwrOn
  (repeat' split)
  · exact hwf
  · exact hwf
  · exact hwf
  · exact State.wake_wf _ _ hwf
  · exact hwf

theorem State.pwrServe_wf (s : State) (c : CoreId) (code : BitVec 2) : s.memWf = true → (s.pwrServe c code).memWf = true := by
  intro hwf
  unfold State.pwrServe
  (repeat' split)
  · exact State.pwrRequest_wf _ _ _ _ hwf
  · exact State.pwrRequest_wf _ _ _ _ hwf
  · exact State.pwrOn_wf _ _ hwf

theorem State.pwrAsk_wf (s : State) (c : CoreId) (code : BitVec 2) : s.memWf = true → (s.pwrAsk c code).memWf = true := by
  intro hwf
  unfold State.pwrAsk
  (repeat' split)
  · exact hwf
  · exact State.pwrServe_wf _ _ _ hwf

theorem State.pwrPoll_wf (s : State) (c : CoreId) : s.memWf = true → (s.pwrPoll c).memWf = true := by
  intro hwf
  unfold State.pwrPoll
  grind [State.memWf, State.pwrServe_wf, State.updCore_mem]

theorem execPwrReqRetain_wf (c : CoreId) (s : State) (h : s.memWf = true) : CompletesWf (execPwrReqRetain c s) :=
  completesWf_next.2 (State.pwrAsk_wf _ _ _ h)

theorem execPwrReqOff_wf (c : CoreId) (s : State) (h : s.memWf = true) : CompletesWf (execPwrReqOff c s) :=
  completesWf_next.2 (State.pwrAsk_wf _ _ _ h)

theorem execPwrReqOn_wf (c : CoreId) (s : State) (h : s.memWf = true) : CompletesWf (execPwrReqOn c s) :=
  completesWf_next.2 (State.pwrAsk_wf _ _ _ h)

theorem execFreqChange_wf (c : CoreId) (code : BitVec 4) (s : State) (h : s.memWf = true) :
    CompletesWf (execFreqChange c code s) :=
  completesWf_of_mem h rfl

/-- What is left when nothing is kept is a memory built anew, byte by byte. -/
theorem State.wreck_wf (s : State) : s.wreck.memWf = true := by
  have hmem : s.wreck.mem = memPuts [] (wreckedState s.draws).mem := by
    unfold State.wreck
    exact foldl_mem _ _ _ (by simp)
  rw [State.memWf, hmem]
  exact memPuts_wf _ rfl

@[simp] theorem State.clAnswer_mem (s : State) (granted : Bool) : (s.clAnswer granted).mem = s.mem := rfl

theorem execClReqSleep_wf (s : State) (h : s.memWf = true) : CompletesWf (execClReqSleep s) := by
  unfold execClReqSleep
  dsimp only
  (repeat' split) <;> exact completesWf_of_mem h (by simp)

theorem execClReqOn_wf (s : State) (h : s.memWf = true) : CompletesWf (execClReqOn s) := by
  unfold execClReqOn
  (repeat' split) <;> exact completesWf_of_mem h (by simp)

theorem execClReqOff_wf (s : State) (h : s.memWf = true) : CompletesWf (execClReqOff s) := by
  unfold execClReqOff
  grind [completesWf_next, State.memWf, State.clAnswer_mem, State.updCcu_mem, State.wreck_wf]

theorem execRstCold_wf (s : State) (_ : s.memWf = true) : CompletesWf (execRstCold s) := completesWf_next.2 rfl

theorem execRstWarm_wf (s : State) (h : s.memWf = true) : CompletesWf (execRstWarm s) := by
  unfold execRstWarm
  split
  · exact completesWf_next.2 h
  · exact completesWf_next.2 (tabWf_filter _ h)

@[simp] theorem State.sproutFault_mem (s : State) : (s.sproutFault).mem = s.mem := rfl

@[simp] theorem State.startupRetire_mem (s : State) (x : Nat) : (s.startupRetire x).mem = s.mem := by
  unfold State.startupRetire
  dsimp only
  (repeat' split) <;> simp

theorem execFusesLatched_wf (ok : Bool) (s : State) (h : s.memWf = true) : CompletesWf (execFusesLatched ok s) := by
  unfold execFusesLatched
  extract_lets s1 s2
  have h1 : s1.memWf = true := memWf_of_mem h (foldl_mem _ _ _ State.startupRetire_mem)
  have h2 : s2.memWf = true := by
    refine foldl_wf _ _ _ (fun t c ht => ?_) h1
    have hz := t.zeroCore_wf c ht
    dsimp only
    split
    · exact memWf_of_mem hz (by simp)
    · exact hz
  (repeat' split)
  · exact completesWf_next.2 h
  · exact completesWf_of_mem h (by simp)
  · exact completesWf_of_mem h2 (by simp)
  · exact completesWf_of_mem h2 (by simp)

@[simp] theorem State.mbistFill_mem (s : State) (g : Nat) (words : List Nat) : (s.mbistFill g words).mem = s.mem := by
  unfold State.mbistFill
  refine foldl_mem _ _ _ fun t x => ?_
  split <;> simp

theorem State.zeroMemTile_wf (s : State) : s.memWf = true → s.zeroMemTile.memWf = true := by
  intro hwf
  have h1 : ({ s with mem := s.mem.filter fun e => !decide (e.1 < cmSize), csc := [] } : State).memWf = true := tabWf_filter _ hwf
  exact memWf_of_mem h1 (foldl_mem _ _ _ State.clearGroup_mem)

theorem execCmMbistDone_wf (fails : List (Nat × Nat)) (s : State) (h : s.memWf = true) :
    CompletesWf (execCmMbistDone fails s) := by
  unfold execCmMbistDone
  extract_lets real s1
  (repeat' split)
  · exact completesWf_next.2 h
  · exact completesWf_of_mem h (by simp)
  · refine completesWf_of_mem (s.zeroMemTile_wf h) ?_
    rw [State.updCcu_mem]
    exact foldl_mem _ _ _ (by simp)

theorem execBondCheckDone_wf (fails : List Nat) (clocks : BitVec 4) (s : State) (h : s.memWf = true) :
    CompletesWf (execBondCheckDone fails clocks s) := by
  unfold execBondCheckDone
  extract_lets s0 s1 gone
  have h1 : s1.memWf = true := memWf_of_mem h (foldl_mem _ _ _ State.startupRetire_mem)
  (repeat' split)
  · exact completesWf_next.2 h
  · exact completesWf_of_mem h1 (by simp)
  · exact completesWf_of_mem h1 (by simp)

theorem execSproutHelloTmo_wf (s : State) (h : s.memWf = true) : CompletesWf (execSproutHelloTmo s) := by
  unfold execSproutHelloTmo
  dsimp only
  split
  · exact completesWf_next.2 h
  · refine completesWf_of_mem h ((State.updCcu_mem _ _).trans (foldl_mem _ _ _ fun t p => ?_))
    split <;> simp

theorem execReady_wf (s : State) (h : s.memWf = true) : CompletesWf (execReady s) := by
  unfold execReady
  dsimp only
  split
  · exact completesWf_next.2 h
  · refine completesWf_of_mem h ((foldl_mem _ _ _ fun t c => ?_).trans (by simp))
    split <;> simp

theorem State.wrapper_wf (s : State) (i : Wir) : s.memWf = true → (s.wrapper i).memWf = true := by
  intro hwf
  unfold State.wrapper
  grind [State.memWf, State.wreck_wf]

theorem execWsBypass_wf (s : State) (h : s.memWf = true) : CompletesWf (execWsBypass s) :=
  completesWf_of_mem h rfl

theorem execWsExtest_wf (s : State) (h : s.memWf = true) : CompletesWf (execWsExtest s) :=
  completesWf_next.2 (State.wrapper_wf _ _ h)

theorem execWsIntest_wf (s : State) (h : s.memWf = true) : CompletesWf (execWsIntest s) :=
  completesWf_next.2 (State.wrapper_wf _ _ h)

theorem execWsScan_wf (s : State) (h : s.memWf = true) : CompletesWf (execWsScan s) :=
  completesWf_next.2 (State.wrapper_wf _ _ h)

theorem execWsMbist_wf (s : State) (h : s.memWf = true) : CompletesWf (execWsMbist s) :=
  completesWf_next.2 (State.wrapper_wf _ _ h)

theorem execWsBond_wf (s : State) (h : s.memWf = true) : CompletesWf (execWsBond s) :=
  completesWf_next.2 (State.wrapper_wf _ _ h)

theorem execWsFuse_wf (s : State) (h : s.memWf = true) : CompletesWf (execWsFuse s) :=
  completesWf_next.2 (State.wrapper_wf _ _ h)

/-! Machine/Regs -/

@[simp] theorem State.put_mem (s : State) (page off : Nat) (mask v : Dword) : (s.put page off mask v).2.mem = s.mem := rfl

@[simp] theorem State.w1c_mem (s : State) (page off : Nat) (mask v : Dword) : (s.w1c page off mask v).2.mem = s.mem := rfl

theorem State.husk_mem (s : State) (page : Nat) (v : Dword) (f : Word32 → Wrote) (hf : ∀ w, (f w).2.mem = s.mem) :
    (s.husk page v f).2.mem = s.mem := by
  unfold State.husk
  split <;> simp [hf]

theorem State.husk_wf (s : State) (page : Nat) (v : Dword) (f : Word32 → Wrote) (hf : ∀ w, (f w).2.memWf = true)
    (h : s.memWf = true) : (s.husk page v f).2.memWf = true := by
  unfold State.husk
  split
  · exact memWf_of_mem h (by simp)
  · exact hf _

@[simp] theorem State.putHusk_mem (s : State) (page off : Nat) (mask v : Dword) : (s.putHusk page off mask v).2.mem = s.mem := by
  unfold State.putHusk
  grind [State.husk_mem, State.put_mem]

theorem State.guardW_mem (s : State) (page : Nat) (ok : Bool) (w : Wrote) (hw : w.2.mem = s.mem) :
    (s.guardW page ok w).2.mem = s.mem := by
  unfold State.guardW
  split <;> simp [hw]

theorem State.guardW_wf (s : State) (page : Nat) (ok : Bool) (w : Wrote) (hw : w.2.memWf = true) (h : s.memWf = true) :
    (s.guardW page ok w).2.memWf = true := by
  unfold State.guardW
  split
  · exact hw
  · exact memWf_of_mem h (by simp)

@[simp] theorem State.readOnly_mem (s : State) : (s.readOnly).2.mem = s.mem := rfl

@[simp] theorem State.ctlWrite_mem (s : State) (page : Nat) (v : Dword) : (s.ctlWrite page v).2.mem = s.mem := by
  unfold State.ctlWrite
  (repeat' split) <;> simp

@[simp] theorem State.setTmo_mem (s : State) (page : Nat) (v : Dword) : (s.setTmo page v).mem = s.mem := by
  unfold State.setTmo
  split <;> simp

@[simp] theorem State.commonWrite_mem (s : State) (page off : Nat) (v : Dword) : (s.commonWrite page off v).2.mem = s.mem := by
  unfold State.commonWrite
  (repeat' split) <;> simp

@[simp] theorem State.csCommand_mem (s : State) (c : CoreId) (v : Dword) : (s.csCommand c v).2.mem = s.mem := by
  unfold State.csCommand
  extract_lets pg st i s1 s2 f
  have h2 : s2.mem = s.mem := by
    simp only [s2]
    split <;> simp [s1]
  split
  · exact State.errBit_mem _ _ _
  · split
    · exact (foldl_mem _ _ _ (by simp)).trans ((State.fetchCw_mem _ _ _).trans h2)
    · exact h2

@[simp] theorem State.seqWrite_mem (s : State) (c : CoreId) (off : Nat) (v : Dword) : (s.seqWrite c off v).2.mem = s.mem := by
  have hguard := fun (ok : Bool) (i : Nat) => s.guardW_mem (pgSeq c) ok
    (0, s.updSeq c fun q => { q with a := vset q.a i (v.setWidth 48) }) (State.updSeq_mem _ _ _)
  unfold State.seqWrite
  dsimp only
  (repeat' split)
  · exact State.put_mem _ _ _ _ _
  · exact State.put_mem _ _ _ _ _
  · exact State.csCommand_mem _ _ _
  · exact State.updSeq_mem _ _ _
  · exact State.updSeq_mem _ _ _
  · exact State.w1c_mem _ _ _ _ _
  · exact State.put_mem _ _ _ _ _
  · exact State.put_mem _ _ _ _ _
  · exact hguard _ _
  · exact State.updSeq_mem _ _ _
  · exact State.readOnly_mem _

@[simp] theorem State.shapeWrite_mem (s : State) (c : CoreId) (v : Dword) : (s.shapeWrite c v).2.mem = s.mem := by
  unfold State.shapeWrite
  grind [State.guardW_mem, State.updMxe_mem]

@[simp] theorem State.mxeWrite_mem (s : State) (c : CoreId) (off : Nat) (v : Dword) : (s.mxeWrite c off v).2.mem = s.mem := by
  unfold State.mxeWrite
  (repeat' split) <;> simp

@[simp] theorem State.chtWrite_mem (s : State) (c : CoreId) (off : Nat) (v : Dword) : (s.chtWrite c off v).2.mem = s.mem := by
  unfold State.chtWrite
  grind [State.guardW_mem, State.orReg_mem, State.setReg_mem]

@[simp] theorem State.vxeWrite_mem (s : State) (c : CoreId) (off : Nat) (v : Dword) : (s.vxeWrite c off v).2.mem = s.mem := by
  unfold State.vxeWrite
  grind [State.chtWrite_mem, State.guardW_mem, State.put_mem, State.readOnly_mem, State.updVxe_mem]

@[simp] theorem State.trfWrite_mem (s : State) (c : CoreId) (off : Nat) (v : Dword) : (s.trfWrite c off v).2.mem = s.mem := by
  unfold State.trfWrite
  grind [State.guardW_mem, State.put_mem, State.readOnly_mem, State.updTrf_mem]

@[simp] theorem State.strWrite_mem (s : State) (c : CoreId) (off : Nat) (v : Dword) : (s.strWrite c off v).2.mem = s.mem := by
  unfold State.strWrite
  grind [State.guardW_mem, State.orReg_mem, State.put_mem, State.readOnly_mem, State.setReg_mem]

theorem State.hostSweep_wf (s : State) (c : CoreId) : s.memWf = true → (s.hostSweep c).memWf = true := by
  intro hwf
  unfold State.hostSweep
  dsimp only
  (repeat' split)
  · exact hwf
  · exact State.sweep_wf _ _ _ _ _ _ _ hwf _ ‹_›

theorem State.cchCommand_wf (s : State) (c : CoreId) (v : Dword) : s.memWf = true → (s.cchCommand c v).2.memWf = true := by
  intro hwf
  unfold State.cchCommand
  (repeat' split)
  · exact memWf_of_mem hwf (by simp)
  · exact hwf
  · exact State.hostSweep_wf _ _ hwf

theorem State.cchWrite_wf (s : State) (c : CoreId) (off : Nat) (v : Dword) :
    s.memWf = true → (s.cchWrite c off v).2.memWf = true := by
  intro hwf
  unfold State.cchWrite
  (repeat' split)
  · exact State.cchCommand_wf _ _ _ hwf
  · exact memWf_of_mem hwf (by simp)
  · exact memWf_of_mem hwf (by simp)
  · exact memWf_of_mem hwf (by simp)
  · exact hwf

@[simp] theorem State.ringsSettle_mem (s : State) (c : CoreId) (n : Nat) : (s.ringsSettle c n).mem = s.mem := rfl

@[simp] theorem State.ringWrite_mem (s : State) (c : CoreId) (n : Nat) (v : Dword) : (s.ringWrite c n v).2.mem = s.mem := by
  unfold State.ringWrite
  grind [State.guardW_mem, State.ringsSettle_mem, State.setReg_mem]

@[simp] theorem State.cspWritePage_mem (s : State) (c : CoreId) (off : Nat) (v : Dword) :
    (s.cspWritePage c off v).2.mem = s.mem := by
  unfold State.cspWritePage
  (repeat' split) <;> simp

@[simp] theorem State.chnWrite_mem (s : State) (c : CoreId) (off : Nat) (v : Dword) : (s.chnWrite c off v).2.mem = s.mem := by
  unfold State.chnWrite
  (repeat' split) <;> simp

@[simp] theorem State.setCfs_mem (s : State) (m : Dword) (v : Bool) : (s.setCfs m v).mem = s.mem := by
  unfold State.setCfs
  refine foldl_mem _ _ _ fun t x => ?_
  split <;> simp

@[simp] theorem State.cfBarMask_mem (s : State) (n : Nat) (v : Dword) : (s.cfBarMask n v).mem = s.mem := by
  simp [State.cfBarMask]

/-- A write chosen by a condition keeps memory canonical when both choices do. -/
theorem wrote_ite_wf {p : Prop} [Decidable p] {a b : Wrote} (ha : a.2.memWf = true) (hb : b.2.memWf = true) :
    (if p then a else b).2.memWf = true := by
  split
  · exact ha
  · exact hb

/-- A register write that answers 0 and goes to a state with canonical memory. -/
theorem State.husk_zero_wf (s : State) (page : Nat) (v : Dword) (f : Word32 → State) (hf : ∀ w, (f w).memWf = true)
    (h : s.memWf = true) : (s.husk page v fun w => (0, f w)).2.memWf = true :=
  s.husk_wf page v (fun w => (0, f w)) hf h

theorem State.ccuWrite_wf (s : State) (off : Nat) (v : Dword) : s.memWf = true → (s.ccuWrite off v).2.memWf = true := by
  intro hwf
  have hfence (w : Word32) : (s.fenceWrite w).memWf = true := s.fenceWrite_wf w hwf
  have hput mask := memWf_of_mem hwf (s.put_mem 0 off mask v)
  have hw1c mask := memWf_of_mem hwf (s.w1c_mem 0 off mask v)
  have hcfs b := memWf_of_mem hwf (s.setCfs_mem v b)
  have hcopy : (if bitAt v 0 then s.after (execMirrorCopy s) else s).memWf = true := by
    split
    · exact State.after_wf (execMirrorCopy_wf s hwf)
    · exact hwf
  unfold State.ccuWrite
  refine wrote_ite_wf (s.husk_zero_wf 0 v s.fenceWrite hfence hwf) ?_
  refine wrote_ite_wf (hput _) <| wrote_ite_wf (hput _) <| wrote_ite_wf (hput _) <| wrote_ite_wf (hw1c _) ?_
  refine wrote_ite_wf (hput _) <| wrote_ite_wf (memWf_of_mem hwf (s.putHusk_mem _ _ _ _)) <| wrote_ite_wf (hput _) ?_
  refine wrote_ite_wf hcopy <| wrote_ite_wf (hput _) <| wrote_ite_wf (hput _) <| wrote_ite_wf (hw1c _) ?_
  refine wrote_ite_wf (hput _) <| wrote_ite_wf (hcfs _) <| wrote_ite_wf (hcfs _) ?_
  split
  · exact memWf_of_mem hwf (s.cfBarMask_mem _ _)
  · exact hwf

@[simp] theorem State.cmcWrite_mem (s : State) (off : Nat) (v : Dword) : (s.cmcWrite off v).2.mem = s.mem := by
  unfold State.cmcWrite
  grind [State.bondCmd_mem, State.husk_mem, State.put_mem, State.readOnly_mem, State.setReg_mem]

@[simp] theorem State.cscWritePage_mem (s : State) (off : Nat) (v : Dword) : (s.cscWritePage off v).2.mem = s.mem := by
  unfold State.cscWritePage
  (repeat' split) <;> simp

theorem State.txuWrite_wf (s : State) (off : Nat) (v : Dword) : s.memWf = true → (s.txuWrite off v).2.memWf = true := by
  intro hwf
  unfold State.txuWrite
  (repeat' split)
  · exact State.after_wf (execTxCmdAbort_wf _ _ hwf)
  · exact hwf
  · exact hwf
  · exact hwf
  · exact State.after_wf (execTxuLogCopy_wf _ hwf)
  · exact hwf
  · exact hwf

theorem State.evCommand_wf (s : State) (w : Word32) : s.memWf = true → (s.evCommand w).2.memWf = true := by
  intro hwf
  unfold State.evCommand
  extract_lets op busy s1
  have h1 : s1.memWf = true := hwf
  (repeat' split)
  · exact memWf_of_mem hwf (State.errBit_mem _ _ _)
  · exact State.after_wf (execEvict_wf s1 h1)
  · exact memWf_of_mem h1 (State.restoreBegin_mem s1)
  · exact h1

theorem State.evxWrite_wf (s : State) (off : Nat) (v : Dword) : s.memWf = true → (s.evxWrite off v).2.memWf = true := by
  intro hwf
  unfold State.evxWrite
  extract_lets idle guarded
  have hg : ∀ mask, (guarded mask).2.memWf = true := fun mask => memWf_of_mem hwf
    (State.husk_mem _ _ _ _ fun w => State.guardW_mem _ _ _ _ (State.put_mem _ _ _ _ _))
  split
  · exact State.husk_wf _ _ _ _ (fun w => s.evCommand_wf w hwf) hwf
  split
  · exact memWf_of_mem hwf (State.guardW_mem _ _ _ _ (State.put_mem _ _ _ _ _))
  split
  · exact memWf_of_mem hwf (State.put_mem _ _ _ _ _)
  split
  · exact hg _
  split
  · exact hg _
  · exact hwf

@[simp] theorem State.rqtWrite_mem (s : State) (off : Nat) (v : Dword) : (s.rqtWrite off v).2.mem = s.mem := by
  unfold State.rqtWrite
  split <;> simp

theorem State.ecmWrite_wf (s : State) (off : Nat) (v : Dword) : s.memWf = true → (s.ecmWrite off v).2.memWf = true := by
  intro hwf
  have hguard := fun (ok : Bool) (mask x : Dword) => s.guardW_mem 6 ok (s.put 6 off mask x) (State.put_mem _ _ _ _ _)
  unfold State.ecmWrite
  dsimp only
  (repeat' split)
  · exact memWf_of_mem hwf (State.put_mem _ _ _ _ _)
  · exact memWf_of_mem hwf (State.put_mem _ _ _ _ _)
  · exact memWf_of_mem hwf (State.put_mem _ _ _ _ _)
  · exact memWf_of_mem hwf (State.husk_mem _ _ _ _ fun w => State.remapWrite_mem _ _)
  · exact memWf_of_mem hwf (hguard _ _ _)
  · exact memWf_of_mem hwf (hguard _ _ _)
  · exact memWf_of_mem hwf (State.husk_mem _ _ _ _ fun w => hguard _ _ _)
  · exact memWf_of_mem hwf (State.flipWrite_mem _ _)
  · exact State.after_wf (execEcmLogCopy_wf s hwf)
  · exact hwf
  · exact memWf_of_mem hwf (State.put_mem _ _ _ _ _)
  · exact memWf_of_mem hwf (State.readOnly_mem _)

@[simp] theorem State.putShared_mem (s : State) (page off : Nat) (mask v : Dword) :
    (s.putShared page off mask v).2.mem = s.mem := by
  unfold State.putShared
  grind [State.husk_mem, State.put_mem]

theorem State.grpWrite_wf (s : State) (p : PortId) (g : GroupId) (k off : Nat) (v : Dword) :
    s.memWf = true → (s.grpWrite p g k off v).2.memWf = true := by
  intro hwf
  refine State.husk_wf _ _ _ _ (fun w => ?_) hwf
  split
  · refine State.guardW_wf _ _ _ _ (State.after_wf ?_) hwf
    split
    · exact execGroupEnable_wf p g v s hwf
    · exact execGroupDisable_wf p g v s hwf
  · exact State.guardW_wf _ _ _ _ (memWf_of_mem hwf (State.put_mem _ _ _ _ _)) hwf

theorem State.postWrite_wf (s : State) (p : PortId) (k : Nat) (v : Dword) :
    s.memWf = true → (s.postWrite p k v).2.memWf = true := by
  intro hwf
  unfold State.postWrite
  extract_lets pg s1
  have h1 : s1.memWf = true := hwf
  (repeat' split)
  · exact h1
  · exact hwf
  · exact hwf
  · next t ht => exact State.rduPost_wf _ _ _ h1 _ ht

theorem State.mpWrite_wf (s : State) (p : PortId) (off : Nat) (v : Dword) :
    s.memWf = true → (s.mpWrite p off v).2.memWf = true := by
  intro hwf
  unfold State.mpWrite
  dsimp only
  (repeat' split)
  · exact memWf_of_mem hwf (State.linkCtlWrite_mem _ _ _)
  · exact memWf_of_mem hwf ((State.pumpAll_mem _ _).trans (State.setReg_mem _ _ _ _))
  · exact memWf_of_mem hwf (State.husk_mem _ _ _ _ fun w => State.coordWrite_mem _ _ _)
  · exact memWf_of_mem hwf (State.putShared_mem _ _ _ _ _)
  · exact memWf_of_mem hwf (State.putShared_mem _ _ _ _ _)
  · exact memWf_of_mem hwf (State.putShared_mem _ _ _ _ _)
  · exact memWf_of_mem hwf (State.putShared_mem _ _ _ _ _)
  · exact memWf_of_mem hwf (State.put_mem _ _ _ _ _)
  · exact memWf_of_mem hwf (State.putShared_mem _ _ _ _ _)
  · exact memWf_of_mem hwf (State.w1c_mem _ _ _ _ _)
  · exact memWf_of_mem hwf (State.put_mem _ _ _ _ _)
  · exact s.postWrite_wf p _ v hwf
  · exact s.grpWrite_wf p _ _ off v hwf
  · exact memWf_of_mem hwf (State.readOnly_mem _)

@[simp] theorem State.takeSnap_mem (s : State) : (s.takeSnap).mem = s.mem := rfl

@[simp] theorem State.dbgWrite_mem (s : State) (off : Nat) (v : Dword) : (s.dbgWrite off v).2.mem = s.mem := by
  unfold State.dbgWrite
  (repeat' split) <;> simp

theorem State.blockWrite_wf (s : State) (page off : Nat) (v : Dword) (x0 : Block) :
    s.memWf = true → (s.blockWrite page off v x0).2.memWf = true := by
  intro hwf
  unfold State.blockWrite
  grind [State.memWf, State.cchWrite_wf, State.ccuWrite_wf, State.chnWrite_mem, State.cmcWrite_mem, State.cscWritePage_mem,
    State.cspWritePage_mem, State.dbgWrite_mem, State.ecmWrite_wf, State.evxWrite_wf, State.mpWrite_wf, State.mxeWrite_mem,
    State.rqtWrite_mem, State.seqWrite_mem, State.strWrite_mem, State.trfWrite_mem, State.txuWrite_wf, State.vxeWrite_mem]

theorem State.pageWrite_wf (s : State) (page off : Nat) (v : Dword) :
    s.memWf = true → (s.pageWrite page off v).2.memWf = true := by
  intro hwf
  unfold State.pageWrite
  (repeat' split)
  · exact hwf
  · exact hwf
  · exact memWf_of_mem hwf (by simp)
  · exact State.blockWrite_wf _ _ _ _ _ hwf

/-! Machine/Router -/

@[simp] theorem State.ccuPut_mem (s : State) (k : Packet) : (s.ccuPut k).mem = s.mem := by
  unfold State.ccuPut
  grind [State.bumpRf_mem, State.drawChoice_mem, State.enqueue_mem, State.sendMesh_mem]

@[simp] theorem State.regReply_mem (s : State) (page : Nat) (a : RegAccess) (r : RegAnswer) :
    (s.regReply page a r).mem = s.mem := by
  unfold State.regReply
  (repeat' split) <;> simp

theorem State.blockAccess_wf (s : State) (page : Nat) (a : RegAccess) :
    s.memWf = true → ∀ out, s.blockAccess page a = some out → out.memWf = true := by
  intro hwf
  unfold State.blockAccess
  grind [State.memWf, State.pageWrite_wf, State.regReply_mem]

@[simp] theorem State.shellAccess_mem (s : State) (page : Nat) (a : RegAccess) : (s.shellAccess page a).mem = s.mem := by
  unfold State.shellAccess
  split <;> simp

theorem State.tryAccess_wf (s : State) (page : Nat) (a : RegAccess) :
    s.memWf = true → ∀ out, s.tryAccess page a = some out → out.memWf = true := by
  intro hwf
  unfold State.tryAccess
  grind [State.memWf, State.blockAccess_wf, State.bumpRf_mem, State.regReply_mem, State.setRf_mem, State.shellAccess_mem]

@[simp] theorem State.setWaiting_mem (s : State) (page : Nat) (l : List RegAccess) : (s.setWaiting page l).mem = s.mem := rfl

theorem State.serveWaiting_wf (s : State) (page n : Nat) : s.memWf = true → (s.serveWaiting page n).memWf = true := by
  induction n generalizing s with
  | zero => exact id
  | succ n ih =>
    intro hwf
    unfold State.serveWaiting
    split
    · exact hwf
    · split
      · exact hwf
      · next t ht => exact ih t (State.tryAccess_wf _ _ _ (memWf_of_mem hwf (State.setWaiting_mem _ _ _)) _ ht)

theorem State.access_wf (s : State) (page : Nat) (a : RegAccess) : s.memWf = true → (s.access page a).memWf = true := by
  intro hwf
  unfold State.access
  (repeat' split)
  · exact hwf
  · exact State.serveWaiting_wf _ _ _ hwf

theorem State.hostWrite_wf (s : State) (page off : Nat) (v : Dword) : s.memWf = true → (s.hostWrite page off v).memWf = true :=
  fun hwf => State.access_wf _ _ _ hwf

theorem execMgmt_wf (pkt : Packet) (s : State) (h : s.memWf = true) : CompletesWf (execMgmt pkt s) := by
  unfold execMgmt
  grind [completesWf_next, State.memWf, State.takePacket_some_mem, State.ccuPut_mem, State.access_wf]

theorem execSidebandRequest_wf (frame : List Byte) (s : State) (h : s.memWf = true) :
    CompletesWf (execSidebandRequest frame s) := by
  unfold execSidebandRequest
  dsimp only
  (repeat' split)
  · exact completesWf_next.2 h
  · exact completesWf_next.2 h
  · exact completesWf_next.2 h
  · exact completesWf_next.2 (State.access_wf _ _ _ h)

theorem execRegisterWrite_wf (page : Byte) (off : BitVec 12) (value : Dword) (s : State) (h : s.memWf = true) :
    CompletesWf (execRegisterWrite page off value s) :=
  completesWf_next.2 (State.hostWrite_wf _ _ _ _ h)

theorem execShellReadTmo_wf (page : Byte) (s : State) (h : s.memWf = true) : CompletesWf (execShellReadTmo page s) := by
  unfold execShellReadTmo
  (repeat' split) <;> exact completesWf_of_mem h (by simp)

theorem execRegisterWriteTmo_wf (page : Byte) (s : State) (h : s.memWf = true) : CompletesWf (execRegisterWriteTmo page s) := by
  unfold execRegisterWriteTmo
  dsimp only
  (repeat' split) <;> exact completesWf_of_mem h (by simp)

theorem execLinkRetrain_wf (p : PortId) (s : State) (h : s.memWf = true) : CompletesWf (execLinkRetrain p s) :=
  completesWf_next.2 (State.hostWrite_wf _ _ _ _ h)

theorem execLinkCtlDisable_wf (p : PortId) (v : Bool) (s : State) (h : s.memWf = true) :
    CompletesWf (execLinkCtlDisable p v s) :=
  completesWf_next.2 (State.hostWrite_wf _ _ _ _ h)

theorem execCoordWrite_wf (value : Dword) (s : State) (h : s.memWf = true) : CompletesWf (execCoordWrite value s) :=
  completesWf_next.2 (State.hostWrite_wf _ _ _ _ h)

theorem State.hostHusk_wf (s : State) (page off : Nat) (v : Dword) (p : Word32 → Bool) :
    s.memWf = true → (s.hostHusk page off v p).memWf = true := by
  intro hwf
  unfold State.hostHusk
  (repeat' split)
  · exact State.hostWrite_wf _ _ _ _ hwf
  · exact State.hostWrite_wf _ _ _ _ hwf
  · exact hwf

theorem execRemapRelease_wf (value : Dword) (s : State) (h : s.memWf = true) : CompletesWf (execRemapRelease value s) :=
  completesWf_next.2 (State.hostHusk_wf _ _ _ _ _ h)

theorem execRemapHostFill_wf (value : Dword) (s : State) (h : s.memWf = true) : CompletesWf (execRemapHostFill value s) :=
  completesWf_next.2 (State.hostHusk_wf _ _ _ _ _ h)

theorem execFlipArm_wf (s : State) (h : s.memWf = true) : CompletesWf (execFlipArm s) :=
  completesWf_next.2 (State.hostWrite_wf _ _ _ _ h)

theorem execFlipDisarm_wf (s : State) (h : s.memWf = true) : CompletesWf (execFlipDisarm s) :=
  completesWf_next.2 (State.hostWrite_wf _ _ _ _ h)

theorem execCoreFenceWrite_wf (value : Dword) (s : State) (h : s.memWf = true) : CompletesWf (execCoreFenceWrite value s) :=
  completesWf_next.2 (State.hostWrite_wf _ _ _ _ h)

theorem execSeqPause_wf (c : CoreId) (v : Bool) (s : State) (h : s.memWf = true) : CompletesWf (execSeqPause c v s) :=
  completesWf_next.2 (State.hostWrite_wf _ _ _ _ h)

theorem execEnginePause_wf (c : CoreId) (block : Fin 8) (v : Bool) (s : State) (h : s.memWf = true) :
    CompletesWf (execEnginePause c block v s) := by
  unfold execEnginePause
  (repeat' split)
  · exact completesWf_next.2 h
  · exact completesWf_next.2 (State.hostWrite_wf _ _ _ _ h)

theorem execSrst_wf (page : Byte) (s : State) (h : s.memWf = true) : CompletesWf (execSrst page s) :=
  completesWf_next.2 (State.hostWrite_wf _ _ _ _ h)

theorem execCsCmdWrite_wf (c : CoreId) (index : CsIndex) (s : State) (h : s.memWf = true) :
    CompletesWf (execCsCmdWrite c index s) :=
  completesWf_next.2 (State.hostWrite_wf _ _ _ _ h)

theorem execCsCmdRead_wf (c : CoreId) (index : CsIndex) (s : State) (h : s.memWf = true) :
    CompletesWf (execCsCmdRead c index s) :=
  completesWf_next.2 (State.hostWrite_wf _ _ _ _ h)

theorem execTcfgPageWrite_wf (c : CoreId) (t : Fin 16) (value : Dword) (s : State) (h : s.memWf = true) :
    CompletesWf (execTcfgPageWrite c t value s) :=
  completesWf_next.2 (State.hostWrite_wf _ _ _ _ h)

theorem execShapePageWrite_wf (c : CoreId) (value : Dword) (s : State) (h : s.memWf = true) :
    CompletesWf (execShapePageWrite c value s) :=
  completesWf_next.2 (State.hostWrite_wf _ _ _ _ h)

theorem execChtPageWrite_wf (c : CoreId) (off : BitVec 12) (value : Dword) (s : State) (h : s.memWf = true) :
    CompletesWf (execChtPageWrite c off value s) := by
  unfold execChtPageWrite
  (repeat' split)
  · exact completesWf_next.2 (State.hostWrite_wf _ _ _ _ h)
  · exact completesWf_next.2 h

theorem execPgmPageWrite_wf (c : CoreId) (p i : Fin 16) (value : Dword) (s : State) (h : s.memWf = true) :
    CompletesWf (execPgmPageWrite c p i value s) :=
  completesWf_next.2 (State.hostWrite_wf _ _ _ _ h)

theorem execFlagSet_wf (c : CoreId) (value : Dword) (s : State) (h : s.memWf = true) : CompletesWf (execFlagSet c value s) :=
  completesWf_next.2 (State.hostWrite_wf _ _ _ _ h)

theorem execFlagClr_wf (c : CoreId) (value : Dword) (s : State) (h : s.memWf = true) : CompletesWf (execFlagClr c value s) :=
  completesWf_next.2 (State.hostWrite_wf _ _ _ _ h)

theorem execCntWrite_wf (c : CoreId) (n : Fin 16) (value : Dword) (s : State) (h : s.memWf = true) :
    CompletesWf (execCntWrite c n value s) :=
  completesWf_next.2 (State.hostWrite_wf _ _ _ _ h)

theorem execCthWrite_wf (c : CoreId) (n : Fin 16) (value : Dword) (s : State) (h : s.memWf = true) :
    CompletesWf (execCthWrite c n value s) :=
  completesWf_next.2 (State.hostWrite_wf _ _ _ _ h)

theorem execCfSet_wf (value : Dword) (s : State) (h : s.memWf = true) : CompletesWf (execCfSet value s) :=
  completesWf_next.2 (State.hostWrite_wf _ _ _ _ h)

theorem execCfClr_wf (value : Dword) (s : State) (h : s.memWf = true) : CompletesWf (execCfClr value s) :=
  completesWf_next.2 (State.hostWrite_wf _ _ _ _ h)

theorem execCfBarWrite_wf (n : Fin 32) (value : Dword) (s : State) (h : s.memWf = true) :
    CompletesWf (execCfBarWrite n value s) :=
  completesWf_next.2 (State.hostWrite_wf _ _ _ _ h)

theorem execCchInvall_wf (c : CoreId) (s : State) (h : s.memWf = true) : CompletesWf (execCchInvall c s) :=
  completesWf_next.2 (State.hostWrite_wf _ _ _ _ h)

theorem execCchFlushall_wf (c : CoreId) (s : State) (h : s.memWf = true) : CompletesWf (execCchFlushall c s) :=
  completesWf_next.2 (State.hostWrite_wf _ _ _ _ h)

theorem execCscInvall_wf (s : State) (h : s.memWf = true) : CompletesWf (execCscInvall s) :=
  completesWf_next.2 (State.hostWrite_wf _ _ _ _ h)

theorem execCacheCmdDone_wf (w : CacheCmd) (s : State) (h : s.memWf = true) : CompletesWf (execCacheCmdDone w s) := by
  unfold execCacheCmdDone
  dsimp only
  (repeat' split)
  · exact completesWf_next.2 h
  · exact completesWf_next.2 (State.hostSweep_wf _ _ h)
  · exact completesWf_next.2 (State.hostSweep_wf _ _ h)
  · exact completesWf_next.2 h
  · exact completesWf_next.2 h
  · exact completesWf_next.2 h
  · exact completesWf_of_mem h (by simp)

theorem execBondCmdRetireLane_wf (value : Dword) (s : State) (h : s.memWf = true) :
    CompletesWf (execBondCmdRetireLane value s) :=
  completesWf_next.2 (State.hostHusk_wf _ _ _ _ _ h)

theorem execBondCmdRetireGroup_wf (value : Dword) (s : State) (h : s.memWf = true) :
    CompletesWf (execBondCmdRetireGroup value s) :=
  completesWf_next.2 (State.hostHusk_wf _ _ _ _ _ h)

theorem execDbgStep_wf (value : Dword) (s : State) (h : s.memWf = true) : CompletesWf (execDbgStep value s) :=
  completesWf_next.2 (State.hostWrite_wf _ _ _ _ h)

theorem execSnap_wf (s : State) (h : s.memWf = true) : CompletesWf (execSnap s) :=
  completesWf_next.2 (State.hostWrite_wf _ _ _ _ h)

theorem execPmfreeze_wf (v : Bool) (s : State) (h : s.memWf = true) : CompletesWf (execPmfreeze v s) :=
  completesWf_next.2 (State.hostWrite_wf _ _ _ _ h)

theorem execPmcntClr_wf (page : Byte) (n : Fin 8) (s : State) (h : s.memWf = true) : CompletesWf (execPmcntClr page n s) :=
  completesWf_next.2 (State.hostWrite_wf _ _ _ _ h)

theorem execDbgSnapTmo_wf (s : State) (h : s.memWf = true) : CompletesWf (execDbgSnapTmo s) := by
  unfold execDbgSnapTmo
  split <;> exact completesWf_of_mem h (by simp)

/-! Machine/Sync -/

theorem execSignalRelease_wf (c : CoreId) (s : State) (h : s.memWf = true) : CompletesWf (execSignalRelease c s) := by
  unfold execSignalRelease
  dsimp only
  (repeat' split) <;> exact completesWf_of_mem h (by simp)

theorem execCfSignal_wf (c : CoreId) (s : State) (h : s.memWf = true) : CompletesWf (execCfSignal c s) := by
  unfold execCfSignal
  (repeat' split) <;> exact completesWf_of_mem h (by simp)

theorem execCfTakeRequest_wf (c : CoreId) (s : State) (h : s.memWf = true) : CompletesWf (execCfTakeRequest c s) := by
  unfold execCfTakeRequest
  dsimp only
  (repeat' split) <;> exact completesWf_of_mem h (by simp)

theorem execTakeReply_wf (c : CoreId) (s : State) (h : s.memWf = true) : CompletesWf (execTakeReply c s) := by
  unfold execTakeReply
  dsimp only
  (repeat' split) <;> exact completesWf_of_mem h (by simp)

theorem execCfShadowUpdate_wf (c : CoreId) (s : State) (h : s.memWf = true) : CompletesWf (execCfShadowUpdate c s) := by
  unfold execCfShadowUpdate
  dsimp only
  (repeat' split) <;> exact completesWf_of_mem h (by simp)

/-! Machine/Dispatch -/

/-- No command stops the machine, and every one keeps memory canonical. -/
theorem exec_completes (i : Instr) (s : State) (h : s.memWf = true) : CompletesWf (exec i s) := by
  cases i with
  | taskPollExpiry c => exact execTaskPollExpiry_wf c s h
  | claim c => exact execClaim_wf c s h
  | taskGrant c => exact execTaskGrant_wf c s h
  | descriptorReceived c => exact execDescriptorReceived_wf c s h
  | imageLoadDone c => exact execImageLoadDone_wf c s h
  | endReport c => exact execEndReport_wf c s h
  | headWordIssue c => exact execHeadWordIssue_wf c s h
  | immediateTableWord c => exact execImmediateTableWord_wf c s h
  | agAddi c => exact execAgAddi_wf c s h
  | agAdd c => exact execAgAdd_wf c s h
  | agSub c => exact execAgSub_wf c s h
  | agShl c => exact execAgShl_wf c s h
  | agShr c => exact execAgShr_wf c s h
  | agAnd c => exact execAgAnd_wf c s h
  | seti c => exact execSeti_wf c s h
  | mov c => exact execMov_wf c s h
  | cmp c => exact execCmp_wf c s h
  | agMin c => exact execAgMin_wf c s h
  | agMax c => exact execAgMax_wf c s h
  | lda c => exact execLda_wf c s h
  | ldaWrite c => exact execLdaWrite_wf c s h
  | sta c => exact execSta_wf c s h
  | staMade c => exact execStaMade_wf c s h
  | loop c => exact execLoop_wf c s h
  | endl c => exact execEndl_wf c s h
  | br c => exact execBr_wf c s h
  | brp c => exact execBrp_wf c s h
  | call c => exact execCall_wf c s h
  | ret c => exact execRet_wf c s h
  | brk c => exact execBrk_wf c s h
  | layer c => exact execLayer_wf c s h
  | layerBarrierComplete c => exact execLayerBarrierComplete_wf c s h
  | tend c => exact execTend_wf c s h
  | halt c => exact execHalt_wf c s h
  | taskEnd c => exact execTaskEnd_wf c s h
  | brkHit c => exact execBrkHit_wf c s h
  | watchdogExpiry c => exact execWatchdogExpiry_wf c s h
  | waitTmoExpiry c => exact execWaitTmoExpiry_wf c s h
  | abort c => exact execAbort_wf c s h
  | abortEnd c => exact execAbortEnd_wf c s h
  | abortDrainTmo c => exact execAbortDrainTmo_wf c s h
  | signalRelease c => exact execSignalRelease_wf c s h
  | cfSignal c => exact execCfSignal_wf c s h
  | cfTakeRequest c => exact execCfTakeRequest_wf c s h
  | takeReply c => exact execTakeReply_wf c s h
  | cfShadowUpdate c => exact execCfShadowUpdate_wf c s h
  | mma c => exact execMma_wf c s h
  | mmac c => exact execMmac_wf c s h
  | hrld c => exact execHrld_wf c s h
  | hrmm c => exact execHrmm_wf c s h
  | shape c => exact execShape_wf c s h
  | shapeDone c => exact execShapeDone_wf c s h
  | drain c => exact execDrain_wf c s h
  | ascl c => exact execAscl_wf c s h
  | mode c => exact execMode_wf c s h
  | passStart c => exact execPassStart_wf c s h
  | bankDrainComplete c => exact execBankDrainComplete_wf c s h
  | abftMissReport c => exact execAbftMissReport_wf c s h
  | parityAbortReport c => exact execParityAbortReport_wf c s h
  | mxeHoldTmo c => exact execMxeHoldTmo_wf c s h
  | mxeCfgTmo c => exact execMxeCfgTmo_wf c s h
  | tld c => exact execTld_wf c s h
  | tldRowReturn c op row r => exact execTldRowReturn_wf c op row r s h
  | tldRowTmo c op row => exact execTldRowTmo_wf c op row s h
  | tst c => exact execTst_wf c s h
  | tstRowAccept c row r => exact execTstRowAccept_wf c row r s h
  | tcfg c => exact execTcfg_wf c s h
  | tinv c => exact execTinv_wf c s h
  | lsHoldTmo c => exact execLsHoldTmo_wf c s h
  | tluCfgTmo c => exact execTluCfgTmo_wf c s h
  | vrun c => exact execVrun_wf c s h
  | vred c => exact execVred_wf c s h
  | vstat c => exact execVstat_wf c s h
  | vclrClear c => exact execVclrClear_wf c s h
  | vclrLoadc c => exact execVclrLoadc_wf c s h
  | vclrSetk c => exact execVclrSetk_wf c s h
  | vclrLoadp c => exact execVclrLoadp_wf c s h
  | ftqTileSelect c => exact execFtqTileSelect_wf c s h
  | vxComplete c => exact execVxComplete_wf c s h
  | vxeHoldTmo c => exact execVxeHoldTmo_wf c s h
  | vxeCfgTmo c => exact execVxeCfgTmo_wf c s h
  | stSub c u => exact execStSub_wf c u s h
  | ldpg c u => exact execLdpg_wf c u s h
  | descriptorStart c u => exact execDescriptorStart_wf c u s h
  | tbufGrant c => exact execTbufGrant_wf c s h
  | mergeTimeout c u => exact execMergeTimeout_wf c u s h
  | nlStarve c u => exact execNlStarve_wf c u s h
  | streamReply c u req r => exact execStreamReply_wf c u req r s h
  | descriptorComplete c u => exact execDescriptorComplete_wf c u s h
  | streamElementTmo c u req => exact execStreamElementTmo_wf c u req s h
  | cfl c => exact execCfl_wf c s h
  | civ c => exact execCiv_wf c s h
  | fence c => exact execFence_wf c s h
  | cacheOpDone c r => exact execCacheOpDone_wf c r s h
  | cchOpTmo c => exact execCchOpTmo_wf c s h
  | wprCfgTmo c => exact execWprCfgTmo_wf c s h
  | cspInbound c who write off bytes => exact execCspInbound_wf c who write off bytes s h
  | send c => exact execSend_wf c s h
  | bind c => exact execBind_wf c s h
  | unbind c => exact execUnbind_wf c s h
  | port c => exact execPort_wf c s h
  | epochSpacingDone c p => exact execEpochSpacingDone_wf c p s h
  | crel c => exact execCrel_wf c s h
  | disarm c => exact execDisarm_wf c s h
  | msgArrival c a => exact execMsgArrival_wf c a s h
  | landingDone c p => exact execLandingDone_wf c p s h
  | msgCut c sender => exact execMsgCut_wf c sender s h
  | cack c a => exact execCack_wf c a s h
  | creditReturn c a => exact execCreditReturn_wf c a s h
  | chCreditTmo c => exact execChCreditTmo_wf c s h
  | chAckTmo c ch => exact execChAckTmo_wf c ch s h
  | chnHoldTmo c => exact execChnHoldTmo_wf c s h
  | txb c => exact execTxb_wf c s h
  | txbSlotTmo c => exact execTxbSlotTmo_wf c s h
  | txStore c row => exact execTxStore_wf c row s h
  | txOverwrite line => exact execTxOverwrite_wf line s h
  | txAged slot => exact execTxAged_wf slot s h
  | txc c => exact execTxc_wf c s h
  | txa c => exact execTxa_wf c s h
  | committingLineAck line r => exact execCommittingLineAck_wf line r s h
  | durableLinesAcked slot => exact execDurableLinesAcked_wf slot s h
  | commitWordAck slot r => exact execCommitWordAck_wf slot r s h
  | durTmoExpiry slot => exact execDurTmoExpiry_wf slot s h
  | txCmdAbort handle => exact execTxCmdAbort_wf handle s h
  | txuLogCopy => exact execTxuLogCopy_wf s h
  | evict => exact execEvict_wf s h
  | evictAck => exact execEvictAck_wf s h
  | evictFlushDone ext => exact execEvictFlushDone_wf ext s h
  | ckptWritesAcked r => exact execCkptWritesAcked_wf r s h
  | ckptCommitAck r => exact execCkptCommitAck_wf r s h
  | evxTmoExpiry => exact execEvxTmoExpiry_wf s h
  | restore image => exact execRestore_wf image s h
  | restoreDone r => exact execRestoreDone_wf r s h
  | redPost p record => exact execRedPost_wf p record s h
  | instanceOpen g => exact execInstanceOpen_wf g s h
  | reqArrival p lead => exact execReqArrival_wf p lead s h
  | leadArrival p lead => exact execLeadArrival_wf p lead s h
  | contributionComplete g lanes tail => exact execContributionComplete_wf g lanes tail s h
  | pairDeadline g => exact execPairDeadline_wf g s h
  | xferTmoExpiry g => exact execXferTmoExpiry_wf g s h
  | resultArrival p lead lanes tail => exact execResultArrival_wf p lead lanes tail s h
  | resultTmo g => exact execResultTmo_wf g s h
  | deliveryDone g => exact execDeliveryDone_wf g s h
  | groupEnable p g value => exact execGroupEnable_wf p g value s h
  | groupDisable p g value => exact execGroupDisable_wf p g value s h
  | packetRoute p pkt => exact execPacketRoute_wf p pkt s h
  | rd pkt => exact execRd_wf pkt s h
  | wr pkt => exact execWr_wf pkt s h
  | rsp pkt => exact execRsp_wf pkt s h
  | ack pkt => exact execAck_wf pkt s h
  | err pkt => exact execErr_wf pkt s h
  | mgmt pkt => exact execMgmt_wf pkt s h
  | registerWrite page off value => exact execRegisterWrite_wf page off value s h
  | shellReadTmo page => exact execShellReadTmo_wf page s h
  | registerWriteTmo page => exact execRegisterWriteTmo_wf page s h
  | sidebandRequest frame => exact execSidebandRequest_wf frame s h
  | lcfReceive p flit => exact execLcfReceive_wf p flit s h
  | lcfSend p => exact execLcfSend_wf p s h
  | linkReplayTmo p => exact execLinkReplayTmo_wf p s h
  | routeReplace p => exact execRouteReplace_wf p s h
  | holdTmoDrop p tc => exact execHoldTmoDrop_wf p tc s h
  | helloSend p => exact execHelloSend_wf p s h
  | hello p words => exact execHello_wf p words s h
  | helloTmo p => exact execHelloTmo_wf p s h
  | linkRetrain p => exact execLinkRetrain_wf p s h
  | coordWrite value => exact execCoordWrite_wf value s h
  | bondBeat group tag first second => exact execBondBeat_wf group tag first second s h
  | bondLaneRetire group lane => exact execBondLaneRetire_wf group lane s h
  | bondGroupReturn group => exact execBondGroupReturn_wf group s h
  | bondGroupRetire group => exact execBondGroupRetire_wf group s h
  | tagReclaim tag => exact execTagReclaim_wf tag s h
  | ceReport => exact execCeReport_wf s h
  | ueReport => exact execUeReport_wf s h
  | remapFill group index byUe => exact execRemapFill_wf group index byUe s h
  | remapFillDone => exact execRemapFillDone_wf s h
  | remapRelease value => exact execRemapRelease_wf value s h
  | remapHostFill value => exact execRemapHostFill_wf value s h
  | ecmTmoExpiry => exact execEcmTmoExpiry_wf s h
  | scrubRead who => exact execScrubRead_wf who s h
  | scrubLate who => exact execScrubLate_wf who s h
  | flipArm => exact execFlipArm_wf s h
  | flipDisarm => exact execFlipDisarm_wf s h
  | flipApply => exact execFlipApply_wf s h
  | ecmLogCopy => exact execEcmLogCopy_wf s h
  | heartbeatToken island => exact execHeartbeatToken_wf island s h
  | heartbeatReceive island => exact execHeartbeatReceive_wf island s h
  | heartbeatMiss island => exact execHeartbeatMiss_wf island s h
  | coreFence c reason => exact execCoreFence_wf c reason s h
  | selftestDone c pass => exact execSelftestDone_wf c pass s h
  | coreFenceWrite value => exact execCoreFenceWrite_wf value s h
  | seqPause c v => exact execSeqPause_wf c v s h
  | enginePause c block v => exact execEnginePause_wf c block v s h
  | pauseReached c block => exact execPauseReached_wf c block s h
  | srst page => exact execSrst_wf page s h
  | csCmdWrite c index => exact execCsCmdWrite_wf c index s h
  | csCmdRead c index => exact execCsCmdRead_wf c index s h
  | tcfgPageWrite c t value => exact execTcfgPageWrite_wf c t value s h
  | shapePageWrite c value => exact execShapePageWrite_wf c value s h
  | chtPageWrite c off value => exact execChtPageWrite_wf c off value s h
  | pgmPageWrite c p k value => exact execPgmPageWrite_wf c p k value s h
  | flagSet c value => exact execFlagSet_wf c value s h
  | flagClr c value => exact execFlagClr_wf c value s h
  | cntWrite c n value => exact execCntWrite_wf c n value s h
  | cthWrite c n value => exact execCthWrite_wf c n value s h
  | cfSet value => exact execCfSet_wf value s h
  | cfClr value => exact execCfClr_wf value s h
  | cfBarWrite n value => exact execCfBarWrite_wf n value s h
  | mirrorCopy => exact execMirrorCopy_wf s h
  | copyDone u => exact execCopyDone_wf u s h
  | cchInvall c => exact execCchInvall_wf c s h
  | cchFlushall c => exact execCchFlushall_wf c s h
  | cscInvall => exact execCscInvall_wf s h
  | cacheCmdDone w => exact execCacheCmdDone_wf w s h
  | bondCmdRetireLane value => exact execBondCmdRetireLane_wf value s h
  | bondCmdRetireGroup value => exact execBondCmdRetireGroup_wf value s h
  | dbgStep value => exact execDbgStep_wf value s h
  | snap => exact execSnap_wf s h
  | pmfreeze v => exact execPmfreeze_wf v s h
  | pmcntClr page n => exact execPmcntClr_wf page n s h
  | pwrReqRetain c => exact execPwrReqRetain_wf c s h
  | pwrReqOff c => exact execPwrReqOff_wf c s h
  | pwrReqOn c => exact execPwrReqOn_wf c s h
  | freqChange c code => exact execFreqChange_wf c code s h
  | clReqSleep => exact execClReqSleep_wf s h
  | clReqOn => exact execClReqOn_wf s h
  | clReqOff => exact execClReqOff_wf s h
  | rstCold => exact execRstCold_wf s h
  | rstWarm => exact execRstWarm_wf s h
  | cmMbistDone fails => exact execCmMbistDone_wf fails s h
  | bondCheckDone fails clocks => exact execBondCheckDone_wf fails clocks s h
  | sproutHelloTmo => exact execSproutHelloTmo_wf s h
  | ready => exact execReady_wf s h
  | wsBypass => exact execWsBypass_wf s h
  | wsExtest => exact execWsExtest_wf s h
  | wsIntest => exact execWsIntest_wf s h
  | wsScan => exact execWsScan_wf s h
  | wsMbist => exact execWsMbist_wf s h
  | wsBond => exact execWsBond_wf s h
  | wsFuse => exact execWsFuse_wf s h
  | passEnd c => exact execPassEnd_wf c s h
  | hrldDone c => exact execHrldDone_wf c s h
  | asclDone c => exact execAsclDone_wf c s h
  | ldpgDone c u => exact execLdpgDone_wf c u s h
  | fusesLatched ok => exact execFusesLatched_wf ok s h
  | islandLogicStop island => exact execIslandLogicStop_wf island s h
  | storageUpset t => exact execStorageUpset_wf t s h
  | linkCtlDisable p v => exact execLinkCtlDisable_wf p v s h
  | dbgSnapTmo => exact execDbgSnapTmo_wf s h

/-! Machine/Tick -/

@[simp] theorem State.countStall_mem (s : State) (c : CoreId) (n : Nat) : (s.countStall c n).mem = s.mem := by
  unfold State.countStall
  extract_lets chs s1 s2
  have h1 : s1.mem = s.mem := foldl_mem chs _ s fun t ch => t.bumpRf_mem _ _ _ _ _
  have h2 : s2.mem = s.mem := by
    unfold s2
    split
    · exact h1
    · rw [State.pm_mem, h1]
  split
  · rw [State.pm_mem, h2]
  · exact h2

@[simp] theorem State.pmIf_mem (s : State) (b : Bool) (page code n : Nat) : (s.pmIf b page code n).mem = s.mem := by
  unfold State.pmIf
  split <;> simp

@[simp] theorem State.countHolds_mem (s : State) (c : CoreId) (n : Nat) : (s.countHolds c n).mem = s.mem := by
  unfold State.countHolds
  dsimp only
  (repeat' split) <;> simp

@[simp] theorem State.coreTick_mem (s : State) (c : CoreId) : (s.coreTick c).mem = s.mem := by
  unfold State.coreTick
  dsimp only
  (repeat' split) <;> simp

@[simp] theorem State.cscTick_mem (s : State) : (s.cscTick).mem = s.mem := by
  unfold State.cscTick
  split <;> simp

@[simp] theorem State.memTick_mem (s : State) : (s.memTick).mem = s.mem := by
  unfold State.memTick
  split <;> simp

@[simp] theorem State.portTick_mem (s : State) (p : PortId) : (s.portTick p).mem = s.mem := by
  unfold State.portTick
  split <;> simp

@[simp] theorem State.snapPoll_mem (s : State) : (s.snapPoll).mem = s.mem := by
  unfold State.snapPoll
  split <;> simp

theorem State.ccuTick_wf (s : State) (h : s.memWf = true) : s.ccuTick.memWf = true := by
  unfold State.ccuTick
  extract_lets s1 s2 s3 s4
  split
  · exact h
  · have h2 : s2.memWf = true := memWf_of_mem h (by simp [s2, s1])
    have h3 : s3.memWf = true := foldl_wf _ _ _ (fun t e => t.serveWaiting_wf _ _) h2
    have h4 : s4.memWf = true := memWf_of_mem h3 (by simp [s4])
    exact foldl_wf _ _ _ (fun t c => t.pwrPoll_wf c) (State.evFlush_wf _ h4)

/-- The passing of a cycle keeps memory canonical. -/
theorem State.tick_wf (s : State) (h : s.memWf = true) : s.tick.memWf = true := by
  have hcores := foldl_mem (List.finRange 8) State.coreTick s fun t c => t.coreTick_mem c
  have hports := foldl_mem (List.finRange 4) State.portTick ((List.finRange 8).foldl State.coreTick s) fun t p => t.portTick_mem p
  exact State.ccuTick_wf _ (memWf_of_mem h ((State.memTick_mem _).trans (hports.trans hcores)))

/-! Machine/Step -/

theorem step_completes (s : State) (h : s.memWf = true) : CompletesWf (step s) := by
  unfold step
  split
  · exact completesWf_next.2 (s.tick_wf h)
  · exact exec_completes _ _ h

/-- Settles O18: every command, and the passing of a cycle, is made of functions that leave memory alone or keep it canonical. -/
theorem memoryStaysCanonical : Obligations.MemoryStaysCanonical := by
  unfold Obligations.MemoryStaysCanonical
  exact fun s h => ⟨step_completes s h, fun i => exec_completes i s h⟩

end Sys2Proof.Machine

namespace Sys2Proof.Machine

/-! ### Claims and grants (R30, R34) -/

/-- A field reads back the low bits of what was written to it. -/
theorem fld_setFld_same {n : Nat} (v : BitVec n) {lo w : Nat} (x : Nat) (h : lo + w ≤ n) :
    fld (setFld v lo w x) lo w = x % 2 ^ w := by
  have hbits : (setFld v lo w x).extractLsb' lo w = BitVec.ofNat w x := by
    ext i hi
    have hlo : lo + i < n := by omega
    simp [setFld, hlo, hi]
  rw [fld, hbits, BitVec.toNat_ofNat]

theorem State.reg_setReg_same (s : State) (page off : Nat) (v : Dword) : (s.setReg page off v).reg page off = v :=
  tget_tput_same _ _ _ _

theorem State.rf_setRf_same (s : State) (page off : Nat) {lo w : Nat} (x : Nat) (h : lo + w ≤ 64) :
    (s.setRf page off lo w x).rf page off lo w = x % 2 ^ w := by
  rw [State.setRf, State.modReg, State.rf, State.reg_setReg_same, fld_setFld_same _ _ h]

/-- Only a "none" answer at the front of the crossing is seen by itself. -/
theorem State.seeNone_of_head {s : State} {c : CoreId} (h : s.ccu.toCore[c].head? ≠ some .noTask) : s.seeNone c = s := by
  unfold State.seeNone
  split
  · next rest hq => exact absurd (by rw [hq]; rfl) h
  · rfl

theorem State.alive_of_idle {s : State} {c : CoreId} (hst : (s.core c).seq.st = .idle) (hruns : s.coreRuns c) :
    s.alive c = true := by
  simp [State.alive, hst, hruns]

/-- No claim of the same cycle stands before core c's when no lower core that can be reached wrote one. -/
theorem State.claimBehind_eq_false {s : State} {c : CoreId}
    (h : ∀ d : CoreId, d < c → s.reachable d = true → s.claimAt d ≠ s.claimAt c) : s.claimBehind c = false := by
  simpa [State.claimBehind] using h

/-- What the CCU reads of the descriptor at the cursor. -/
def State.descRead (s : State) : Loaded :=
  ((s.rqtPass 12 (s.ownLoc (s.entryAt s.cursor))).getD s).load 12 (s.entryAt s.cursor) 64

/-- With a descriptor listed at the cursor and its class enabled, the claim is answered with a grant of it. -/
theorem State.serveClaim_grants {s : State} (c : CoreId) {n : Nat} (k : Nat)
    (hsome : 0 < (n + 2 ^ 32 - s.cursor) % 2 ^ 32) (hlist : (n + 2 ^ 32 - s.cursor) % 2 ^ 32 ≤ 2 ^ s.tlistLog2)
    (hbad : s.descRead.bad = []) (hcls : bitAt (s.reg 0 0x198) (leNat (s.descRead.bytes.take 8) / 2 ^ 13 % 2) = true) :
    let t := s.serveClaim c n (k + 1)
    t.cursor = (s.cursor + 1) % 2 ^ 32 ∧
    t.ccu.toCore[c] = s.descRead.s.ccu.toCore[c] ++ [.grant (BitVec.ofNat 32 s.cursor)] ∧
    t.ccu.holds[c] = some (BitVec.ofNat 32 s.cursor) := by
  rw [Nat.add_comm n] at hsome hlist
  unfold State.descRead at hbad hcls
  simp only [State.serveClaim, hsome.ne', Nat.not_lt.2 hlist, or_self, if_false, hbad, List.isEmpty_nil, if_true, hcls]
  exact ⟨State.rf_setRf_same _ 0 0x188 _ (by decide), Vector.getElem_set_self _, Vector.getElem_set_self _⟩

theorem execTaskPollExpiry_of_polling {s : State} {c : CoreId} (hpoll : (s.core c).seq.dispatch = .polling)
    (hidle : (s.core c).seq.st = .idle) (hruns : s.coreRuns c) (hq : s.ccu.toCore[c] = []) :
    exec (.taskPollExpiry c) s = .next (s.claimNow c) := by
  have hsee : s.seeNone c = s := State.seeNone_of_head (by simp [hq])
  show execTaskPollExpiry c s = _
  simp [execTaskPollExpiry, hsee, hpoll, hidle, State.alive_of_idle hidle hruns]

theorem execTaskGrant_of_grant {s : State} {c : CoreId} {j : Word32} {rest : List CoreMsg}
    (hq : s.ccu.toCore[c] = .grant j :: rest) (halive : s.alive c = true) :
    exec (.taskGrant c) s = .next ((s.popCore c).updSeq c fun q => { q with dispatch := .reading j }) := by
  have hsee : s.seeNone c = s := State.seeNone_of_head (by simp [hq])
  show execTaskGrant c s = _
  simp [execTaskGrant, hsee, hq, halive]

theorem execClaim_of_word {s u : State} {c : CoreId} {at_ : Dword} {rest : List CcuMsg} {n : Nat}
    (hq : s.ccu.toCcu[c] = .claim at_ :: rest) (halive : s.ccuAlive = true) (hmem : s.memDead = false)
    (hrun : s.ccu.st = .run) (hheld : s.ccuHeld = false)
    (hfirst : ∀ d : CoreId, d < c → s.reachable d = true → s.claimAt d ≠ some at_)
    (htag : (s.rqtPass 12 0).isSome = true) (hreach : s.reachable c = true)
    (hword : (s.popCcu c).readSeqWord = (some n, u)) :
    exec (.claim c) s = .next (u.serveClaim c n (2 ^ s.tlistLog2 + 1)) := by
  have hat : s.claimAt c = some at_ := by simp [State.claimAt, hq]
  have hbehind : s.claimBehind c = false := State.claimBehind_eq_false (by rwa [hat])
  have htag' : (s.rqtPass 12 0).isNone = false := by simpa using htag
  show execClaim c s = _
  simp [execClaim, hq, halive, hmem, hrun, hheld, hbehind, htag', hreach, hword]

/-- Settles O26: a core that has nothing claims, a claim the CCU takes is granted, a grant is read. -/
theorem tasksAreClaimedAndGranted : Obligations.TasksAreClaimedAndGranted := by
  unfold Obligations.TasksAreClaimedAndGranted
  intro s c
  refine ⟨fun hpoll hidle hruns hq => execTaskPollExpiry_of_polling hpoll hidle hruns hq, ?_, ?_⟩
  · intro at_ rest n u hq halive hmem hrun hheld hfirst htag hreach hword left hsome hlist r hbad hcls
    exact ⟨_, execClaim_of_word hq halive hmem hrun hheld hfirst htag hreach hword,
      State.serveClaim_grants c _ hsome hlist hbad hcls⟩
  · intro j rest hq halive
    refine ⟨_, execTaskGrant_of_grant hq halive, ?_, ?_, fun a => rfl⟩
    · have hpop : (s.popCore c).ccu.toCore[c] = s.ccu.toCore[c].tail := Vector.getElem_set_self _
      exact hpop.trans (by rw [hq]; rfl)
    · simp [State.popCore]

end Sys2Proof.Machine

namespace Sys2Proof.Machine

/-! ### Requests served, and answers that free their tag (R426, R441, R478) -/

theorem execRd_of_served {s t t2 : State} {fr : Option PortId} {k : Packet} (hin : s.takeIn 0 k = some (fr, t))
    (hpass : (t.servedBy fr).2.rqtPass (8 + (t.servedBy fr).1.val) k.addr.toNat = some t2) (hmem : t2.memDead = false) :
    exec (.rd k) s = .next ((t2.serveRd (t.servedBy fr).1 k).s.answerTo k (t2.serveRd (t.servedBy fr).1 k).err
      { Packet.blank 2 k.tc.toNat 0 with payload := (t2.serveRd (t.servedBy fr).1 k).bytes }) := by
  show execRd k s = _
  simp only [execRd, hin, hpass, hmem, Bool.false_eq_true, if_false]

theorem execWr_of_served {s t t2 : State} {fr : Option PortId} {k : Packet} (hin : s.takeIn 1 k = some (fr, t))
    (hpass : (t.servedBy fr).2.rqtPass (8 + (t.servedBy fr).1.val) k.addr.toNat = some t2) (hmem : t2.memDead = false) :
    exec (.wr k) s = .next ((t2.serveWr (t.servedBy fr).1 k).s.answerTo k (t2.serveWr (t.servedBy fr).1 k).err
      { Packet.blank 3 k.tc.toNat 0 with spec := 3 }) := by
  show execWr k s = _
  simp only [execWr, hin, hpass, hmem, Bool.false_eq_true, if_false]

theorem execMgmt_of_noTarget {s u : State} {x : Option PortId × Packet} {k : Packet} (halive : s.ccuAlive = true)
    (htype : k.type = 8) (hin : s.takePacket (· == k) = some (x, u)) (htarget : u.mgmtTarget k = none) :
    exec (.mgmt k) s = .next (u.ccuPut { mgmtHead k 4 with spec := 3 }) := by
  show execMgmt k s = _
  simp only [execMgmt, halive, htype, hin, htarget, Bool.not_true, bne_self_eq_false, Bool.or_self, Bool.false_eq_true, if_false]

theorem execMgmt_of_target {s u : State} {x : Option PortId × Packet} {k : Packet} {page off : Nat}
    (halive : s.ccuAlive = true) (htype : k.type = 8) (hin : s.takePacket (· == k) = some (x, u))
    (htarget : u.mgmtTarget k = some (page, off)) :
    exec (.mgmt k) s = .next (u.access page
      ⟨BitVec.ofNat 12 off, (k.byte 24).getLsbD 0, BitVec.ofNat 64 (leNat k.payload), .mgmt k⟩) := by
  show execMgmt k s = _
  simp only [execMgmt, halive, htype, hin, htarget, Bool.not_true, bne_self_eq_false, Bool.or_self, Bool.false_eq_true, if_false]

theorem State.dropTag_free (s : State) (tag : BitVec 11) : tget none (s.dropTag tag).rqt.tags tag.toNat = none :=
  tget_tdel_same _ _ _

theorem State.answered_last {s : State} {tag : BitVec 11} {g : Tag} (hlast : g.sent ≤ 1) :
    s.answered tag g = s.dropTag tag := if_pos hlast

/-- The system acknowledgement of a request's last packet frees the tag, whoever waits for it. -/
theorem State.systemAck_free {s : State} {tag : BitVec 11} {g : Tag} (hlast : g.sent ≤ 1) :
    tget none (s.systemAck tag g).rqt.tags tag.toNat = none := by
  unfold State.systemAck
  split
  · rw [if_neg (Nat.not_lt.2 hlast)]
    exact State.dropTag_free _ _
  · rw [State.answered_last hlast]
    exact State.dropTag_free _ _

/-- A reply whose tag has not been reclaimed goes to the request that holds the tag. -/
theorem State.replyFor_of_tag {s : State} {tag : BitVec 11} {g : Tag} (f : Tag → State)
    (hlate : ∀ e ∈ s.rqt.late, e.1 ≠ tag) (htag : tget none s.rqt.tags tag.toNat = some g) : s.replyFor tag f = f g := by
  have hany : s.rqt.late.any (fun e => e.1 == tag) = false := by simpa using hlate
  simp [State.replyFor, hany, htag]

theorem State.replyFor_of_late {s : State} {tag : BitVec 11} (f : Tag → State)
    (hlate : s.rqt.late.any (fun e => e.1 == tag) = true) : s.replyFor tag f = s.lateReply tag := if_pos hlate

/-- An RSP is a reply to the tag it names; the bytes nobody waits for go to the CSC before the tag is answered. -/
theorem execRsp_of_taken {s t : State} {fr : Option PortId} {k : Packet} (hin : s.takeIn 2 k = some (fr, t))
    (hmem : t.memDead = false) :
    exec (.rsp k) s = .next (t.replyFor k.tag fun g =>
      (if t.forgotten g then t.cscOrphan g.r g.user k.addr.toNat k.payload.length (.data k.payload) else t).answered k.tag g) := by
  show execRsp k s = _
  simp only [execRsp, hin, hmem, Bool.false_eq_true, if_false]

theorem execAck_of_taken {s t : State} {fr : Option PortId} {k : Packet} {g : Tag} (hin : s.takeIn 3 k = some (fr, t))
    (hmem : t.memDead = false) (hlate : ∀ e ∈ t.rqt.late, e.1 ≠ k.tag) (htag : tget none t.rqt.tags k.tag.toNat = some g) :
    exec (.ack k) s =
      let u := if (k.byte 24).getLsbD 0 then t.deviceAck k.tag g else t
      .next (if (k.byte 24).getLsbD 1 then u.systemAck k.tag { g with dev := g.dev || (k.byte 24).getLsbD 0 } else u) := by
  show execAck k s = _
  simp only [execAck, hin, hmem, Bool.false_eq_true, if_false, State.replyFor_of_tag _ hlate htag]

theorem execErr_of_request {s t : State} {fr : Option PortId} {k : Packet} {g : Tag} (hin : s.takeIn 4 k = some (fr, t))
    (hmem : t.memDead = false) (hlate : ∀ e ∈ t.rqt.late, e.1 ≠ k.tag) (htag : tget none t.rqt.tags k.tag.toNat = some g)
    (hmsg : t.answersMsg k = false) (htc : k.tc ≠ 1) (hwait : t.errWaits g = false) (hforgot : t.forgotten g = false) :
    exec (.err k) s = .next ((t.dropTag k.tag).remoteErr g k.addr.toNat (k.byte 24)) := by
  show execErr k s = _
  simp only [execErr, hin, hmem, hmsg, htc, htag, hwait, hforgot, Bool.false_eq_true, if_false, State.replyFor_of_tag _ hlate htag]

/-- Settles O57: each of the six commands is what its meaning says once the packet stands at the front of its crossing. -/
theorem requestsAreServedAndAnswersFreeTags : Obligations.RequestsAreServedAndAnswersFreeTags := by
  unfold Obligations.RequestsAreServedAndAnswersFreeTags
  intro s t fr k p t1
  refine ⟨?rd, ?wr, ?mgmt, ?answer, ?late⟩
  case rd =>
    intro hin t2 hpass hmem g
    rw [execRd_of_served hin hpass hmem]
    exact ⟨fun herr => by rw [herr]; rfl, fun e herr => by rw [herr]; rfl⟩
  case wr =>
    intro hin t2 hpass hmem g
    rw [execWr_of_served hin hpass hmem]
    exact ⟨fun herr => by rw [herr]; rfl, fun e herr => by rw [herr]; rfl⟩
  case mgmt =>
    intro x u halive htype hin
    exact ⟨execMgmt_of_noTarget halive htype hin, fun page off => execMgmt_of_target halive htype hin⟩
  case answer =>
    intro hmem hlate g htag
    refine ⟨fun hin hlast => ?_, fun hin hsys hlast => ?_, fun hin hsys hdev => ?_, fun hin hmsg htc hwait hforgot => ?_⟩
    · refine ⟨_, execRsp_of_taken hin hmem, ?_⟩
      rw [State.replyFor_of_tag _ hlate htag, State.answered_last hlast]
      exact ⟨State.dropTag_free _ _, fun hforgot => by rw [hforgot]; rfl⟩
    · refine ⟨_, execAck_of_taken hin hmem hlate htag, ?_⟩
      rw [hsys]
      exact State.systemAck_free hlast
    · rw [execAck_of_taken hin hmem hlate htag, hsys, hdev]
      rfl
    · exact execErr_of_request hin hmem hlate htag hmsg htc hwait hforgot
  case late =>
    intro hmem hlate hin
    rw [execRsp_of_taken hin hmem, State.replyFor_of_late _ hlate]

end Sys2Proof.Machine

namespace Sys2Proof.Machine

/-! ### What a notification leaves alone (R488, R491, R506)

Recording an error notifies host software, which may send a packet and count it. `SendsOnly` says what such an activity of
the cluster's own leaves alone, so that proofs about a core or about the CCU need not follow the packet. -/

/-- A register reads what it read before another one was written. -/
theorem State.reg_setReg_other (s : State) {page off page' off' : Nat} (v : Dword) (h : regKey page' off' ≠ regKey page off) :
    (s.setReg page off v).reg page' off' = s.reg page' off' := tget_tput_other' _ _ _ _ h

/-- The pages of the cores lie above those of the cluster's own blocks (R485). -/
theorem regKey_corePage_ge (c : CoreId) (b off : Nat) : 4096 * 0x40 ≤ regKey (corePage c b) off := by
  simp only [regKey, corePage]; omega

/-- The performance counters of a page are its registers 0xC0 to 0xF8; counting an event writes no other (R488). -/
theorem State.reg_pm_other (s : State) (page code n : Nat) {page' off : Nat}
    (h : ∀ k < 8, regKey page' off ≠ regKey page (0xC0 + 8 * k)) : (s.pm page code n).reg page' off = s.reg page' off := by
  have hfold : ∀ (l : List Nat), (∀ k ∈ l, k < 8) → ∀ t : State,
      (l.foldl (fun (t : State) k =>
        if t.rf page (0x80 + 8 * k) 0 8 = code then t.modReg page (0xC0 + 8 * k) (· + BitVec.ofNat 64 n) else t) t).reg
          page' off = t.reg page' off := by
    intro l
    induction l with
    | nil => intro _ t; rfl
    | cons k l ih =>
      intro hl t
      rw [List.foldl_cons, ih fun j hj => hl j (by simp [hj])]
      split
      · exact State.reg_setReg_other _ _ (h k (hl k (by simp)))
      · rfl
  unfold State.pm
  split
  · rfl
  · exact hfold _ (by simp) s

/-- What no fold step changes, the fold does not change. -/
theorem foldl_same {α β γ : Type} (f : β → γ) (g : β → α → β) (h : ∀ b x, f (g b x) = f b) (l : List α) (b : β) :
    f (l.foldl g b) = f b := by
  induction l generalizing b with
  | nil => rfl
  | cons x l ih => rw [List.foldl_cons, ih, h]

/-- Counting an event changes registers alone. -/
theorem State.pm_same {γ : Type} (f : State → γ) (h : ∀ s page off v, f (State.setReg s page off v) = f s) (s : State)
    (page code n : Nat) : f (s.pm page code n) = f s := by
  unfold State.pm
  split
  · rfl
  · refine foldl_same f _ (fun t k => ?_) _ s
    split
    · exact h _ _ _ _
    · rfl

@[simp] theorem State.pm_cores (s : State) (page code n : Nat) : (s.pm page code n).cores = s.cores :=
  s.pm_same (·.cores) (fun _ _ _ _ => rfl) page code n

@[simp] theorem State.core_pm (s : State) (page code n : Nat) (d : CoreId) : (s.pm page code n).core d = s.core d :=
  s.pm_same (·.core d) (fun _ _ _ _ => rfl) page code n

@[simp] theorem State.pm_ccu (s : State) (page code n : Nat) : (s.pm page code n).ccu = s.ccu :=
  s.pm_same (·.ccu) (fun _ _ _ _ => rfl) page code n

@[simp] theorem State.pm_ports (s : State) (page code n : Nat) : (s.pm page code n).ports = s.ports :=
  s.pm_same (·.ports) (fun _ _ _ _ => rfl) page code n

@[simp] theorem State.pm_stopped (s : State) (page code n : Nat) : (s.pm page code n).stopped = s.stopped :=
  s.pm_same (·.stopped) (fun _ _ _ _ => rfl) page code n

/-- `t` is `s` after activity of the cluster's own: the cores and their pages, the CCU and which islands run are as they were,
every link is in the state it was in, and one that has FAILED has sent nothing. -/
structure SendsOnly (s t : State) : Prop where
  cores : t.cores = s.cores
  ccu : t.ccu = s.ccu
  stopped : t.stopped = s.stopped
  reg : ∀ c b off, t.reg (corePage c b) off = s.reg (corePage c b) off
  link : ∀ p : PortId, t.ports[p].link = s.ports[p].link
  replay : ∀ p : PortId, s.ports[p].link = .failed → t.ports[p].replay = s.ports[p].replay

theorem SendsOnly.refl (s : State) : SendsOnly s s := ⟨rfl, rfl, rfl, fun _ _ _ => rfl, fun _ => rfl, fun _ _ => rfl⟩

theorem SendsOnly.trans {s t u : State} (h : SendsOnly s t) (g : SendsOnly t u) : SendsOnly s u where
  cores := g.cores.trans h.cores
  ccu := g.ccu.trans h.ccu
  stopped := g.stopped.trans h.stopped
  reg c b off := (g.reg c b off).trans (h.reg c b off)
  link p := (g.link p).trans (h.link p)
  replay p hp := (g.replay p ((h.link p).trans hp)).trans (h.replay p hp)

theorem SendsOnly.core {s t : State} (h : SendsOnly s t) (c : CoreId) : t.core c = s.core c := by
  rw [State.core, State.core, h.cores]

/-- A change of the state outside cores, CCU, registers and ports. -/
theorem SendsOnly.of_eq {s t : State} (hcores : t.cores = s.cores) (hccu : t.ccu = s.ccu) (hstop : t.stopped = s.stopped)
    (hregs : t.regs = s.regs) (hports : t.ports = s.ports) : SendsOnly s t where
  cores := hcores
  ccu := hccu
  stopped := hstop
  reg _ _ _ := by rw [State.reg, State.reg, hregs]
  link _ := by rw [hports]
  replay _ _ := by rw [hports]

/-- Writing a register of a page below the cores'. `modReg`, `orReg` and the fields of a register are such writes. -/
theorem State.setReg_sendsOnly (s : State) {page off : Nat} (v : Dword) (h : regKey page off < 4096 * 0x40) :
    SendsOnly s (s.setReg page off v) where
  cores := rfl
  ccu := rfl
  stopped := rfl
  reg c b o := s.reg_setReg_other v (by have := regKey_corePage_ge c b o; omega)
  link _ := rfl
  replay _ _ := rfl

theorem State.pm_sendsOnly (s : State) {page : Nat} (code n : Nat) (h : page < 0x40) : SendsOnly s (s.pm page code n) where
  cores := s.pm_cores page code n
  ccu := s.pm_ccu page code n
  stopped := s.pm_stopped page code n
  reg c b o := s.reg_pm_other page code n fun k _ => by
    have := regKey_corePage_ge c b o
    simp only [regKey] at *
    omega
  link p := by rw [State.pm_ports]
  replay p _ := by rw [State.pm_ports]

theorem pgMp_lt (p : PortId) : pgMp p < 0x40 := by simp only [pgMp]; omega

/-- A change of a port that keeps the state of its link and, once the link has FAILED, its replay buffer. -/
theorem State.updPort_sendsOnly (s : State) (p : PortId) (f : Port → Port) (hlink : (f s.ports[p]).link = s.ports[p].link)
    (hreplay : s.ports[p].link = .failed → (f s.ports[p]).replay = s.ports[p].replay) : SendsOnly s (s.updPort p f) where
  cores := rfl
  ccu := rfl
  stopped := rfl
  reg _ _ _ := rfl
  link q := by
    by_cases hq : p = q
    · subst hq; simpa [State.updPort] using hlink
    · simp [State.updPort, Vector.getElem_set_ne _ _ (Fin.val_ne_of_ne hq)]
  replay q hf := by
    by_cases hq : p = q
    · subst hq; simpa [State.updPort] using hreplay hf
    · simp [State.updPort, Vector.getElem_set_ne _ _ (Fin.val_ne_of_ne hq)]

/-- A FAILED link carries nothing. -/
theorem Port.canSend_of_failed {q : Port} (h : q.link = .failed) (tc : Nat) : q.canSend tc = false := by
  unfold Port.canSend
  split
  · rfl
  · rw [h]; rfl

theorem State.pickClass_of_failed {s : State} {p : PortId} (h : s.ports[p].link = .failed) : s.pickClass p = none := by
  unfold State.pickClass
  simp only [Port.canSend_of_failed h, Bool.false_and, Bool.false_eq_true, if_false]

theorem State.sendOne_sendsOnly (s : State) (p : PortId) : SendsOnly s (s.sendOne p) := by
  unfold State.sendOne
  split
  · exact .refl s
  · next tc turn used hpick =>
    split
    · exact .refl s
    · refine .trans (.trans (State.updPort_sendsOnly s p _ rfl fun hf => ?_) (State.pm_sendsOnly _ _ _ (pgMp_lt p)))
        (State.pm_sendsOnly _ _ _ (pgMp_lt p))
      rw [State.pickClass_of_failed hf] at hpick
      cases hpick

theorem State.pump_sendsOnly (s : State) (p : PortId) (n : Nat) : SendsOnly s (s.pump p n) := by
  induction n generalizing s with
  | zero => exact .refl s
  | succ n ih => exact (s.sendOne_sendsOnly p).trans (ih _)

theorem State.enqueue_sendsOnly (s : State) (p : PortId) (k : Packet) : SendsOnly s (s.enqueue p k) :=
  (s.updPort_sendsOnly p _ rfl fun _ => rfl).trans (State.pump_sendsOnly _ _ _)

theorem State.sendMesh_sendsOnly {s t : State} {k : Packet} (h : s.sendMesh k = some t) : SendsOnly s t := by
  unfold State.sendMesh at h
  split at h
  · cases h
  · cases h
    split
    · exact .of_eq rfl rfl rfl rfl rfl
    · exact .refl s
  · cases h
    refine .trans ?_ (State.enqueue_sendsOnly _ _ _)
    split
    · exact s.pm_sendsOnly _ _ (pgMp_lt _)
    · exact .refl s

theorem State.sendSys_sendsOnly {s t : State} {sys : Nat} {k : Packet} (h : s.sendSys sys k = some t) : SendsOnly s t := by
  unfold State.sendSys at h
  split at h
  · cases h
  · exact State.sendMesh_sendsOnly h

theorem State.evtPacket_sendsOnly {s t : State} {code : Nat} {detail : Dword} (h : s.evtPacket code detail = some t) :
    SendsOnly s t := by
  obtain ⟨u, hu, rfl⟩ := Option.map_eq_some_iff.mp h
  exact (State.sendSys_sendsOnly hu).trans (u.setReg_sendsOnly _ (by decide))

theorem State.evtPacketOr_sendsOnly (s : State) (code : Nat) (detail : Dword) {d : State} (hd : SendsOnly s d) :
    SendsOnly s ((s.evtPacket code detail).getD d) := by
  cases h : s.evtPacket code detail with
  | none => exact hd
  | some t => exact State.evtPacket_sendsOnly h

theorem State.evtOnce_sendsOnly (s : State) (code : Nat) (detail : Dword) : SendsOnly s (s.evtOnce code detail) := by
  unfold State.evtOnce
  have hpend : SendsOnly s (s.orReg 0 0x208 (1 <<< code)) := s.setReg_sendsOnly _ (by decide)
  split
  · dsimp only
    split
    · exact hpend.trans (State.evtPacketOr_sendsOnly _ _ _ (.refl _))
    · exact hpend
  · exact .refl s

theorem State.evtLost_sendsOnly (s : State) : SendsOnly s s.evtLost := by
  unfold State.evtLost
  have hcount := s.setReg_sendsOnly (page := 0) (off := 0x228) (setFld (s.reg 0 0x228) 32 32 (fld (s.reg 0 0x228) 32 32 + 1))
    (by decide)
  dsimp only
  split
  · exact hcount
  · refine hcount.trans (.trans (.trans ?_ (State.setReg_sendsOnly _ _ (by decide))) (State.evtOnce_sendsOnly _ _ _))
    split
    · exact (State.setReg_sendsOnly _ _ (by decide)).trans (State.setReg_sendsOnly _ _ (by decide))
    · exact .refl _

/-- Notifying host software changes no core, no register of a core's page and nothing of the CCU but its registers. -/
theorem State.evt_sendsOnly (s : State) (code : Nat) (detail : Dword) : SendsOnly s (s.evt code detail) := by
  unfold State.evt
  split
  · split
    · refine (s.setReg_sendsOnly _ (by decide) : SendsOnly s (s.orReg 0 0x208 (1 <<< code))).trans ?_
      exact State.evtPacketOr_sendsOnly _ _ _ (State.evtLost_sendsOnly _)
    · exact s.evtLost_sendsOnly
  · exact s.evtOnce_sendsOnly code detail

end Sys2Proof.Machine

namespace Sys2Proof.Machine

/-! ### Recording an error (R491) -/

/-- What an error does before it notifies: it captures, unless an earlier one has, and sets its bit. -/
theorem State.err_eq {s : State} {page b : Nat} (info0 info1 : Dword) (h : bitAt (s.reg page 0x28) b = false) :
    s.err page b info0 info1 =
      ((if fld (s.reg page 0x20) 3 61 = 0 then (s.setReg page 0x30 info0).setReg page 0x38 info1 else s).orReg page 0x20
        (1 <<< b)).evt 0xC (BitVec.ofNat 64 page) := by
  simp [State.err, h]

theorem State.err_masked {s : State} {page b : Nat} (info0 info1 : Dword) (h : bitAt (s.reg page 0x28) b = true) :
    s.err page b info0 info1 = s := if_pos h

/-- Recording an error on a page of the cluster's own blocks. -/
theorem State.err_sendsOnly (s : State) {page : Nat} (b : Nat) (info0 info1 : Dword) (h : page < 0x40) :
    SendsOnly s (s.err page b info0 info1) := by
  have hkey : ∀ off < 4096, regKey page off < 4096 * 0x40 := fun off hoff => by simp only [regKey]; omega
  cases hm : bitAt (s.reg page 0x28) b with
  | true => rw [State.err_masked _ _ hm]; exact .refl s
  | false =>
    rw [State.err_eq _ _ hm]
    refine .trans (.trans ?_ (State.setReg_sendsOnly _ _ (hkey 0x20 (by decide)))) (State.evt_sendsOnly _ _ _)
    split
    · exact (s.setReg_sendsOnly _ (hkey 0x30 (by decide))).trans (State.setReg_sendsOnly _ _ (hkey 0x38 (by decide)))
    · exact .refl s

/-- Recording an error changes registers, and what a notification changes. -/
theorem State.err_same {γ : Type} (f : State → γ) (hset : ∀ s page off v, f (State.setReg s page off v) = f s)
    (hsend : ∀ s t, SendsOnly s t → f t = f s) (s : State) (page b : Nat) (info0 info1 : Dword) :
    f (s.err page b info0 info1) = f s := by
  cases hm : bitAt (s.reg page 0x28) b with
  | true => rw [State.err_masked _ _ hm]
  | false =>
    rw [State.err_eq _ _ hm, hsend _ _ (State.evt_sendsOnly _ _ _)]
    refine (hset _ _ _ _).trans ?_
    split
    · rw [hset, hset]
    · rfl

@[simp] theorem State.core_err (s : State) (page b : Nat) (info0 info1 : Dword) (c : CoreId) :
    (s.err page b info0 info1).core c = s.core c :=
  s.err_same (·.core c) (fun _ _ _ _ => rfl) (fun _ _ h => h.core c) page b info0 info1

@[simp] theorem State.err_ccu (s : State) (page b : Nat) (info0 info1 : Dword) :
    (s.err page b info0 info1).ccu = s.ccu :=
  s.err_same (·.ccu) (fun _ _ _ _ => rfl) (fun _ _ h => h.ccu) page b info0 info1

/-- An error of a core's page that is not masked sets its ERR bit. -/
theorem State.errBit_err {s : State} {c : CoreId} {p b : Nat} (info0 info1 : Dword) (hb : b < 64)
    (h : bitAt (s.reg (corePage c p) 0x28) b = false) :
    bitAt ((s.err (corePage c p) b info0 info1).reg (corePage c p) 0x20) b = true := by
  rw [State.err_eq _ _ h, (State.evt_sendsOnly _ _ _).reg]
  rw [State.orReg, State.modReg, State.reg_setReg_same, bitAt, BitVec.getLsbD_or, BitVec.natCast_eq_ofNat,
    BitVec.getLsbD_ofNat, Nat.one_shiftLeft, Nat.testBit_two_pow_self]
  simp [hb]

end Sys2Proof.Machine

namespace Sys2Proof.Machine

/-! ### An abort cause with its ERR bit (R233, R491) -/

theorem State.cause_of_held {s : State} {c : CoreId} (code : Byte) (host : Bool) (hab : (s.core c).seq.abortTask = false)
    (hh : (s.core c).seq.holds = true) :
    s.cause c code host = s.updSeq c fun q => { q with causes := q.causes ++ [⟨code, host⟩] } := by
  simp [State.cause, hab, hh]

/-- An error recorded on a page of the core whose task it aborts. `u` is the state it is recorded in, `s` the one the command
found. -/
theorem raises_err_cause {s u : State} {c : CoreId} {p b : Nat} (code : Byte) (info0 info1 : Dword) (hb : b < 64)
    (hseq : (u.core c).seq = (s.core c).seq) (hmask : u.reg (corePage c p) 0x28 = s.reg (corePage c p) 0x28)
    (hmem : u.mem = s.mem) (hab : (s.core c).seq.abortTask = false) (hh : (s.core c).seq.holds = true) :
    Raises s ((u.err (corePage c p) b info0 info1).cause c code) c (corePage c p) b code := by
  have herr : ((u.err (corePage c p) b info0 info1).core c).seq = (s.core c).seq := by rw [State.core_err, hseq]
  rw [State.cause_of_held code false (by rw [herr, hab]) (by rw [herr, hh])]
  refine ⟨by simp [hseq], fun hm => ?_, by simp [hmem]⟩
  exact State.errBit_err info0 info1 hb (by rw [hmask, hm])

theorem raises_err {s : State} {c : CoreId} {p b : Nat} (code : Byte) (info0 info1 : Dword) (hb : b < 64)
    (hab : (s.core c).seq.abortTask = false) (hh : (s.core c).seq.holds = true) :
    Raises s ((s.err (corePage c p) b info0 info1).cause c code) c (corePage c p) b code :=
  raises_err_cause code info0 info1 hb rfl rfl rfl hab hh

/-! ### When a core may act -/

theorem State.mayExam_of_unpaused {s : State} {c : CoreId} {b : Nat} (h : s.unpaused c b = true) : s.mayExam c = true := by
  simp only [State.unpaused, Bool.and_eq_true] at h
  exact h.1.1.1

theorem State.noCauses_of_mayExam {s : State} {c : CoreId} (h : s.mayExam c = true) : (s.core c).seq.causes = [] := by
  simp only [State.mayExam, Bool.and_eq_true, List.isEmpty_iff] at h
  exact h.1.2

/-- A core that examines its queues is alive: it is in RUN, DRAIN or PAUSED, and its logic has not stopped. -/
theorem State.alive_of_mayExam {s : State} {c : CoreId} (h : s.mayExam c = true) : s.alive c = true := by
  unfold State.mayExam at h
  unfold State.alive
  cases hst : (s.core c).seq.st <;> simp_all

theorem State.strLive_iff {s : State} {c : CoreId} : s.strLive c = true ↔
    s.alive c = true ∧ (s.core c).seq.causes = [] ∧ (s.core c).seq.abortTask = false := by
  simp [State.strLive, and_assoc]

/-! ### The conditions a core's timeouts find (R88, R126, R134, R174, R311, R320, R343) -/

section Timeouts

variable {s : State} {c : CoreId}

theorem execMxeHoldTmo_of_held {x : Nat × Nat × Nat} (h : s.mxHeld c = some x) :
    exec (.mxeHoldTmo c) s = .next (s.mxErr c 3 0x03 x.2.1 x.2.2) := by
  show execMxeHoldTmo c s = _
  simp [execMxeHoldTmo, h]

theorem State.mxHeld_of_laterHold {r : MxRun} {cond bank : Nat} (h : (s.core c).mxe.laterHold = some (r, cond, bank))
    (hexam : s.mayExam c = true) : s.mxHeld c = some (cond, mxInfo (s.core c).mxe r.e 0 bank cond, r.next) := by
  simp [State.mxHeld, hexam, h]

/-- While the queue head is held and nothing pauses the MXE, its timeout counts a hold: that of a folded instruction's next
pass comes before the head's. -/
theorem State.mxHeld_isSome_of_head {e : QEntry} {rest : List QEntry} {cond tile bank : Nat}
    (hq : (s.core c).seq.mxq = e :: rest) (hx : (s.core c).mxExam = .hold cond tile bank) (hrun : s.unpaused c 1 = true) :
    (s.mxHeld c).isSome = true := by
  cases hl : (s.core c).mxe.laterHold with
  | some x =>
    obtain ⟨r, cond, bank⟩ := x
    rw [State.mxHeld_of_laterHold hl (State.mayExam_of_unpaused hrun)]
    rfl
  | none => simp [State.mxHeld, State.mayExam_of_unpaused hrun, hl, hrun, hq, hx]

theorem execMxeCfgTmo_of_cfg {e : QEntry} {rest : List QEntry} {tile : Nat} (hq : (s.core c).seq.mxq = e :: rest)
    (hx : (s.core c).mxExam = .cfg tile) (hexam : s.mayExam c = true) (hst : (s.core c).seq.st ≠ .paused) :
    exec (.mxeCfgTmo c) s = .next (s.mxErr c 12 0x11 (mxInfo (s.core c).mxe e tile (mxNamedBank e.bits) 5) 0) := by
  show execMxeCfgTmo c s = _
  simp [execMxeCfgTmo, hq, hx, hexam, hst]

theorem execLsHoldTmo_of_hold {e : QEntry} {rest : List QEntry} {cond tile : Nat} (hq : (s.core c).seq.lsq = e :: rest)
    (hx : s.lsExam c = .hold cond tile) (hrun : s.unpaused c 3 = true) :
    exec (.lsHoldTmo c) s = .next (s.tluAbort c 3 0x03 (tluInfo e tile 0 cond) e.aa.toNat) := by
  show execLsHoldTmo c s = _
  simp [execLsHoldTmo, State.lsHeld, hq, hx, hrun]

theorem execTluCfgTmo_of_cfg {e : QEntry} {rest : List QEntry} {tile : Nat} (hq : (s.core c).seq.lsq = e :: rest)
    (hx : s.lsExam c = .cfg tile) (hexam : s.mayExam c = true) (hst : (s.core c).seq.st ≠ .paused) :
    exec (.tluCfgTmo c) s = .next (s.tluAbort c 12 0x11 (tluInfo e tile 0 3) e.aa.toNat) := by
  show execTluCfgTmo c s = _
  simp [execTluCfgTmo, hq, hx, hexam, hst]

theorem execVxeHoldTmo_of_held {e : QEntry} {cond a : Nat} (h : s.vxHeld c = some (e, cond, a)) (hc : cond ≠ 9) :
    exec (.vxeHoldTmo c) s = .next (s.vxAbort c e 3 0x03 0 cond a) := by
  show execVxeHoldTmo c s = _
  simp [execVxeHoldTmo, h, hc]

theorem State.vxHeld_of_head {e : QEntry} {rest : List QEntry} {cond a : Nat} (hq : (s.core c).seq.vxq = e :: rest)
    (hstall : s.vxStall c = none) (hx : s.vxExam c = .hold cond a) (hrun : s.unpaused c 2 = true) :
    s.vxHeld c = some (e, cond, a) := by
  have hexam := State.mayExam_of_unpaused hrun
  simp [State.vxHeld, State.alive_of_mayExam hexam, State.noCauses_of_mayExam hexam, hstall, hrun, hq, hx]

theorem State.vxHeld_of_stall {a : VxAct} {cond : Nat} (h : s.vxStall c = some (a, cond)) (halive : s.alive c = true)
    (hcauses : (s.core c).seq.causes = []) : s.vxHeld c = some (a.e, cond, 0) := by
  simp [State.vxHeld, halive, hcauses, h]

/-- A beat stall waits for an FTQ slot, for landing data or for room in a ring, never for a predecessor. -/
theorem State.vxStall_cond {a : VxAct} {cond : Nat} (h : s.vxStall c = some (a, cond)) : cond ≠ 9 := by
  unfold State.vxStall at h
  split at h
  · cases h
  · dsimp only at h
    (repeat' split at h) <;> cases h <;> decide

theorem execVxeCfgTmo_of_cfg {e : QEntry} {rest : List QEntry} {stage : Nat} (hq : (s.core c).seq.vxq = e :: rest)
    (hx : s.vxExam c = .cfg stage) (hexam : s.mayExam c = true) (hst : (s.core c).seq.st ≠ .paused) :
    exec (.vxeCfgTmo c) s = .next (s.vxAbort c e 14 0x11 stage 6 0) := by
  show execVxeCfgTmo c s = _
  simp [execVxeCfgTmo, hq, hx, hexam, hst]

theorem execCchOpTmo_of_op {o : CacheOp} (hop : (s.core c).cch.op = some o) (hlive : s.strLive c = true) :
    exec (.cchOpTmo c) s = .next ((s.cchErr c 3 1 o.e.cw.toNat (op32 o.e.bits) (lsScope o.e.bits)
      (if op32 o.e.bits = 10 then 0 else o.e.rangeBase)).cause c 0x03) := by
  show execCchOpTmo c s = _
  simp [execCchOpTmo, hop, hlive]

/-- A range still inconsistent: the page captures the row that waits for it, if one does. -/
theorem execWprCfgTmo_of_broken (hbroken : s.wprBroken c = true) (hlive : s.strLive c = true)
    (htask : (s.core c).seq.task.isSome = true) (hst : (s.core c).seq.st ≠ .paused) :
    ∃ cw op addr, exec (.wprCfgTmo c) s = .next ((s.cchErr c 10 4 cw op 0 addr).cause c 0x11) := by
  show ∃ cw op addr, execWprCfgTmo c s = _
  simp only [execWprCfgTmo, hbroken, hlive, htask, bne_iff_ne.2 hst, Bool.and_self, if_true]
  exact ⟨_, _, _, rfl⟩

/-- One of the waits for credits is over, whichever the free choice takes. -/
theorem execChCreditTmo_of_wait (hwaits : s.creditWaits c ≠ []) (halive : s.alive c = true)
    (hcauses : (s.core c).seq.causes = []) :
    ∃ u w n need, SendsOnly s u ∧ u.mem = s.mem ∧ exec (.chCreditTmo c) s = .next (u.chnAbort c 8 0x05 w 1 (ch := n)
      (port := ((s.core c).chn.bind n).port.toNat) (need := need) (credits := ((s.core c).chn.bind n).credits)) := by
  have hpos : 0 < (s.creditWaits c).length := List.length_pos_iff.2 hwaits
  show ∃ u w n need, _ ∧ _ ∧ execChCreditTmo c s = _
  by_cases htwo : (s.creditWaits c).length < 2
  · rcases hx : (s.creditWaits c)[0] with ⟨w, n, need⟩
    refine ⟨s, w, n, need, .refl s, rfl, ?_⟩
    simp [execChCreditTmo, halive, hcauses, htwo, List.getElem?_eq_getElem hpos, hx]
  · have hi : (s.drawChoice (s.creditWaits c).length).1 < (s.creditWaits c).length := Nat.mod_lt _ hpos
    rcases hx : (s.creditWaits c)[(s.drawChoice (s.creditWaits c).length).1] with ⟨w, n, need⟩
    refine ⟨(s.drawChoice (s.creditWaits c).length).2, w, n, need, .of_eq rfl rfl rfl rfl rfl, State.drawChoice_mem _ _, ?_⟩
    simp [execChCreditTmo, halive, hcauses, htwo, List.getElem?_eq_getElem hi, hx]

theorem execChAckTmo_of_unacked {ch : ChanId} {u : Unacked} (hmem : u ∈ ((s.core c).chn.bind ch.val).unacked)
    (hpad : u.pad = false) (halive : s.alive c = true) (hcauses : (s.core c).seq.causes = []) :
    ∃ v : Unacked, exec (.chAckTmo c ch) s = .next (s.chnAbort c 8 0x05 v.who 2 (ch := ch.val)
      (port := ((s.core c).chn.bind ch.val).port.toNat) (need := v.units)
      (credits := ((s.core c).chn.bind ch.val).credits)) := by
  have hsome : (((s.core c).chn.bind ch.val).unacked.find? fun u => !u.pad).isSome = true :=
    List.find?_isSome.2 ⟨u, hmem, by simp [hpad]⟩
  obtain ⟨v, hv⟩ := Option.isSome_iff_exists.1 hsome
  refine ⟨v, show execChAckTmo c ch s = _ from ?_⟩
  simp [execChAckTmo, hv, halive, hcauses]

theorem execChnHoldTmo_of_crel {e : QEntry} {rest : List QEntry} (hq : (s.core c).seq.chq = e :: rest)
    (hrun : s.mayStart c 7 = true) (hop : op24 e.bits = 5) (hport : vxePort (chPort e.bits) = false)
    (hheld : (s.core c).crelHeld e = true) :
    exec (.chnHoldTmo c) s = .next (s.chnAbort c 3 0x03 e.chWho 9 (port := chPort e.bits)) := by
  show execChnHoldTmo c s = _
  simp [execChnHoldTmo, hq, hrun, hop, hport, hheld]

theorem execChnHoldTmo_of_port {e : QEntry} {rest : List QEntry} {v : Dword} {t : State}
    (hq : (s.core c).seq.chq = e :: rest) (hrun : s.mayStart c 7 = true) (hop : op24 e.bits = 4)
    (hrec : s.chRecord c e 0 (chPort e.bits) = .ok v t) (hcase : portCase (chPort e.bits) v = 0)
    (hheld : ((s.core c).chn.port (chPort e.bits)).portHeld v = true) :
    exec (.chnHoldTmo c) s = .next (t.chnAbort c 3 0x03 e.chWho 10 (port := chPort e.bits)) := by
  show execChnHoldTmo c s = _
  simp [execChnHoldTmo, hq, hrun, hop, hrec, hcase, hheld]

@[simp] theorem State.updUnit_core_seq (s : State) (c d : CoreId) (u : UnitId) (f : StrUnit → StrUnit) :
    ((s.updUnit c u f).core d).seq = (s.core d).seq := State.updStr_core_seq s c d _

@[simp] theorem State.core_freeUser (s : State) (user : TagUser) (d : CoreId) : (s.freeUser user).core d = s.core d := rfl

@[simp] theorem State.updOut_core_seq (s : State) (c d : CoreId) (u : UnitId) (req : Nat) (f : ActDesc → ActDesc) :
    ((s.updOut c u req f).core d).seq = (s.core d).seq := s.updUnit_core_seq c d u _

@[simp] theorem State.postedEnds_core_seq (s : State) (c d : CoreId) (u : UnitId) (req : Nat) :
    ((s.postedEnds c u req).core d).seq = (s.core d).seq := by
  rw [State.postedEnds, State.core_freeUser, State.updUnit_core_seq]

/-- A request of a live descriptor without reply: it leaves its descriptor with its tag, and the stream faults. -/
theorem execStreamElementTmo_of_request {u : UnitId} {a : ActDesc} {q : FarReq} (ha : a ∈ (s.unit c u).acts)
    (hq : q ∈ a.outs) (hlive : s.strLive c = true) (hdead : ∀ x ∈ (s.unit c u).acts, x.dead = false) :
    ∃ (x : ActDesc) (addr : Nat), exec (.streamElementTmo c u q.id) s =
      .next (((s.updOut c u q.id fun y => { y with outs := y.outs.filter (·.id != q.id) }).freeUser (.str c u q.id)).strFault c u
        x.d.e .tmo x.ag.pc addr) := by
  have hacts : ((s.unit c u).acts.find? fun a => a.outs.any (·.id == q.id)).isSome = true :=
    List.find?_isSome.2 ⟨a, ha, List.any_eq_true.2 ⟨q, hq, beq_self_eq_true _⟩⟩
  obtain ⟨x, hx⟩ := Option.isSome_iff_exists.1 hacts
  have houts : (x.outs.find? (·.id == q.id)).isSome = true := by
    rw [List.find?_isSome]
    have hany : x.outs.any (·.id == q.id) = true := List.find?_some (p := fun a : ActDesc => a.outs.any (·.id == q.id)) hx
    exact List.any_eq_true.1 hany
  obtain ⟨r, hr⟩ := Option.isSome_iff_exists.1 houts
  have hxd : x.dead = false := hdead x (List.mem_of_find?_eq_some hx)
  refine ⟨x, 2 ^ 48 * s.farDev x.d + r.lo, show execStreamElementTmo c u q.id s = _ from ?_⟩
  simp [execStreamElementTmo, hx, hr, hxd, hlive, (State.strLive_iff.1 hlive).1]

/-- A posted write leaves its unit with its tag; the streams of the core stay as live as they were. -/
theorem State.strLive_postedEnds (s : State) (c : CoreId) (u : UnitId) (req : Nat) :
    (s.postedEnds c u req).strLive c = s.strLive c := by
  have hstop : (s.postedEnds c u req).stopped = s.stopped := rfl
  simp only [State.strLive, State.alive, State.postedEnds_core_seq, hstop]

theorem execStreamElementTmo_of_posted {u : UnitId} {p : Posted} (hp : p ∈ (s.unit c u).posted)
    (houts : ∀ a ∈ (s.unit c u).acts, a.outs = []) (hdead : ∀ x ∈ (s.unit c u).posted, x.dead = false)
    (hlive : s.strLive c = true) :
    ∃ x : Posted, exec (.streamElementTmo c u p.id) s =
      .next ((s.postedEnds c u x.id).strFault c u x.e .tmo x.pc x.sys) := by
  have hacts : ((s.unit c u).acts.find? fun a => a.outs.any (·.id == p.id)) = none :=
    List.find?_eq_none.2 fun a ha => by simp [houts a ha]
  have hposted : (s.postedOf c u p.id).isSome = true := List.find?_isSome.2 ⟨p, hp, beq_self_eq_true _⟩
  obtain ⟨x, hx⟩ := Option.isSome_iff_exists.1 hposted
  have hxd : x.dead = false := hdead x (List.mem_of_find?_eq_some hx)
  refine ⟨x, show execStreamElementTmo c u p.id s = _ from ?_⟩
  simp [execStreamElementTmo, hacts, hx, State.postedFault, hxd, State.strLive_postedEnds, hlive,
    (State.strLive_iff.1 hlive).1]

end Timeouts

/-! ### Reading a port record (R330, R452) -/

theorem State.readWord_sendsOnly (s : State) (src g i : Nat) : SendsOnly s (s.readWord src g i).s := by
  have hce : ∀ fix, SendsOnly s (s.reportCe g i src fix) := fun fix => by
    unfold State.reportCe
    split
    · exact .of_eq rfl rfl rfl rfl rfl
    · exact (s.setReg_sendsOnly _ (by decide)).trans (State.err_sendsOnly _ _ _ _ (by decide))
  have hue : ∀ a, SendsOnly s (s.reportUe g i src a) := fun a => .of_eq rfl rfl rfl rfl rfl
  unfold State.readWord
  split
  · exact hue false
  · dsimp only
    split
    · exact .refl s
    · exact hce _
    · exact hue _

theorem State.loadWords_sendsOnly (s : State) (src off n : Nat) : SendsOnly s (s.loadWords src off n).s := by
  induction n generalizing s off with
  | zero => exact .refl s
  | succ n ih => exact (s.readWord_sendsOnly src _ _).trans (ih _ _)

theorem State.load_sendsOnly (s : State) (src off n : Nat) : SendsOnly s (s.load src off n).s :=
  s.loadWords_sendsOnly src _ _

/-- A record read without an uncorrectable word leaves the cores and memory as they are. -/
theorem State.chRecord_ok {s t : State} {c : CoreId} {e : QEntry} {ch port : Nat} {v : Dword}
    (h : s.chRecord c e ch port = .ok v t) : SendsOnly s t ∧ t.mem = s.mem := by
  unfold State.chRecord at h
  dsimp only at h
  split at h
  · cases h
  · next off _ =>
    split at h
    · cases h
    · split at h
      · next hbad =>
        cases h
        refine ⟨?_, State.cspLoad_mem s c .ownCore off 8⟩
        have hload : s.cspLoad c .ownCore off 8 = s.load c.val (cspOff c off) 8 := by
          unfold State.cspLoad cspLoaded at hbad ⊢
          dsimp only [State.inboundSource] at hbad ⊢
          split at hbad
          · rfl
          · next hcons => simp [hcons] at hbad
        rw [hload]
        exact s.load_sendsOnly _ _ _
      · cases h

/-- Settles O35: each timeout finds the condition it counts and records it on the page of its block. -/
theorem engineTimeoutsAbortTheTask : Obligations.EngineTimeoutsAbortTheTask := by
  unfold Obligations.EngineTimeoutsAbortTheTask
  intro s c hab hh
  refine ⟨?laterPass, ?mx, ?ls, ?vx, ?stall, ?cacheOp, ?wpr, ?credit, ?ack, ?chn, ?request, ?posted⟩
  case laterPass =>
    rintro ⟨r, cond, bank⟩ hl hexam
    exact ⟨_, execMxeHoldTmo_of_held (State.mxHeld_of_laterHold hl hexam), raises_err _ _ _ (by decide) hab hh⟩
  case mx =>
    refine fun e rest hq => ⟨fun cond tile bank hx hrun => ?_, fun tile hx hexam hst =>
      ⟨_, execMxeCfgTmo_of_cfg hq hx hexam hst, raises_err _ _ _ (by decide) hab hh⟩⟩
    obtain ⟨x, hx⟩ := Option.isSome_iff_exists.1 (State.mxHeld_isSome_of_head hq hx hrun)
    exact ⟨_, execMxeHoldTmo_of_held hx, raises_err _ _ _ (by decide) hab hh⟩
  case ls =>
    exact fun e rest hq =>
      ⟨fun cond tile hx hrun => ⟨_, execLsHoldTmo_of_hold hq hx hrun, raises_err _ _ _ (by decide) hab hh⟩,
        fun tile hx hexam hst => ⟨_, execTluCfgTmo_of_cfg hq hx hexam hst, raises_err _ _ _ (by decide) hab hh⟩⟩
  case vx =>
    exact fun e rest hq =>
      ⟨fun cond a hstall hx hc hrun =>
          ⟨_, execVxeHoldTmo_of_held (State.vxHeld_of_head hq hstall hx hrun) hc, raises_err _ _ _ (by decide) hab hh⟩,
        fun stage hx hexam hst => ⟨_, execVxeCfgTmo_of_cfg hq hx hexam hst, raises_err _ _ _ (by decide) hab hh⟩⟩
  case stall =>
    rintro ⟨a, cond⟩ hstall halive hcauses
    exact ⟨_, execVxeHoldTmo_of_held (State.vxHeld_of_stall hstall halive hcauses) (State.vxStall_cond hstall),
      raises_err _ _ _ (by decide) hab hh⟩
  case cacheOp =>
    exact fun o hop hlive => ⟨_, execCchOpTmo_of_op hop hlive, raises_err _ _ _ (by decide) hab hh⟩
  case wpr =>
    intro hbroken hlive htask hst
    obtain ⟨cw, op, addr, hexec⟩ := execWprCfgTmo_of_broken hbroken hlive htask hst
    exact ⟨_, hexec, raises_err _ _ _ (by decide) hab hh⟩
  case credit =>
    intro hwaits halive hcauses
    obtain ⟨u, w, n, need, hsends, hmem, hexec⟩ := execChCreditTmo_of_wait hwaits halive hcauses
    exact ⟨_, hexec, raises_err_cause _ _ _ (by decide) (by rw [hsends.core]) (hsends.reg c 7 _) hmem hab hh⟩
  case ack =>
    intro ch u hmem hpad halive hcauses
    obtain ⟨v, hexec⟩ := execChAckTmo_of_unacked hmem hpad halive hcauses
    exact ⟨_, hexec, raises_err _ _ _ (by decide) hab hh⟩
  case chn =>
    refine fun e rest hq hrun => ⟨fun hop hport hheld =>
      ⟨_, execChnHoldTmo_of_crel hq hrun hop hport hheld, raises_err _ _ _ (by decide) hab hh⟩, ?_⟩
    intro v t hop hrec hcase hheld
    obtain ⟨hsends, hmem⟩ := State.chRecord_ok hrec
    exact ⟨_, execChnHoldTmo_of_port hq hrun hop hrec hcase hheld,
      raises_err_cause _ _ _ (by decide) (by rw [hsends.core]) (hsends.reg c 7 _) hmem hab hh⟩
  case request =>
    intro u a q ha hq hlive hdead
    obtain ⟨x, addr, hexec⟩ := execStreamElementTmo_of_request ha hq hlive hdead
    exact ⟨_, hexec, raises_err_cause _ _ _ (by decide) (by simp) rfl rfl hab hh⟩
  case posted =>
    intro u p hp houts hdead hlive
    obtain ⟨x, hexec⟩ := execStreamElementTmo_of_posted hp houts hdead hlive
    exact ⟨_, hexec, raises_err_cause _ _ _ (by decide) (by simp) rfl rfl hab hh⟩

end Sys2Proof.Machine

namespace Sys2Proof.Machine

/-! ### Issuing an MX instruction (R86, R87) -/

theorem State.mayExam_of_mayStart {s : State} {c : CoreId} {b : Nat} (h : s.mayStart c b = true) : s.mayExam c = true := by
  simp only [State.mayStart, Bool.and_eq_true] at h
  exact State.mayExam_of_unpaused h.1

/-- A queue head that nothing holds back leaves the queue. -/
theorem State.mxIssue_of_go {s : State} {c : CoreId} {e : QEntry} {rest : List QEntry} {op : Nat} (f : State → QEntry → State)
    (hq : (s.core c).seq.mxq = e :: rest) (hrun : s.mayStart c 1 = true) (hgo : (s.core c).mxExam = .go)
    (hop : op40 e.bits = op) : s.mxIssue c op f = f (s.updSeq c fun q => { q with mxq := rest }) e := by
  simp [State.mxIssue, hq, hop, State.mayExam_of_mayStart hrun, hgo, hrun]

/-! ### Starting passes (R77 to R80, R86) -/

@[simp] theorem getElem_vmod_same {α : Type} {n : Nat} (v : Vector α n) {i : Nat} (f : α → α) (h : i < n) :
    (vmod v i f)[i] = f v[i] := by
  simp [vmod, h]

theorem getElem_vmod_other {α : Type} {n : Nat} (v : Vector α n) {i j : Nat} (f : α → α) (hj : j < n) (h : i ≠ j) :
    (vmod v i f)[j] = v[j] := by
  unfold vmod
  split
  · exact Vector.getElem_set_ne _ hj h
  · rfl

/-- The bank of pass `p` becomes BUSY with its number. -/
def Mxe.markBusy (b : BitVec 40) (m : Mxe) (p : Nat) : Mxe :=
  { m with banks := vmod m.banks (mxPassBank b p).val fun k => { k with st := .busy, pass := BitVec.ofNat 4 p } }

/-- Starting passes marks their banks, reserves their slots and records the run. -/
theorem Mxe.startPasses_eq (m : Mxe) (e : QEntry) (ps : List Nat) :
    m.startPasses e ps =
      { (if mxD e.bits then (ps.foldl (Mxe.markBusy e.bits) m).reserveN ps.length else ps.foldl (Mxe.markBusy e.bits) m) with
        run := some ⟨e, ps, ps.length + ps.headD 0, mxTotal e.bits⟩ } := rfl

theorem Mxe.markAll_frame (b : BitVec 40) (ps : List Nat) (m : Mxe) :
    ps.foldl (Mxe.markBusy b) m = { m with banks := (ps.foldl (Mxe.markBusy b) m).banks } := by
  induction ps generalizing m with
  | nil => rfl
  | cons p ps ih => rw [List.foldl_cons, ih]; rfl

theorem Mxe.markAll_bank_other {b : BitVec 40} {x : BankId} (ps : List Nat) (m : Mxe) (h : ∀ q ∈ ps, mxPassBank b q ≠ x) :
    (ps.foldl (Mxe.markBusy b) m).banks[x] = m.banks[x] := by
  induction ps generalizing m with
  | nil => rfl
  | cons p ps ih =>
    rw [List.foldl_cons, ih _ fun q hq => h q (List.mem_cons_of_mem _ hq)]
    exact getElem_vmod_other _ _ x.isLt (Fin.val_ne_of_ne (h p List.mem_cons_self))

/-- Passes that use different banks leave each of them BUSY with the number of its own pass. -/
theorem Mxe.markAll_bank {b : BitVec 40} {ps : List Nat} (m : Mxe)
    (hps : ps.Pairwise fun p q => mxPassBank b p ≠ mxPassBank b q) {q : Nat} (hq : q ∈ ps) :
    (ps.foldl (Mxe.markBusy b) m).banks[mxPassBank b q].st = .busy ∧
      (ps.foldl (Mxe.markBusy b) m).banks[mxPassBank b q].pass = BitVec.ofNat 4 q := by
  induction ps generalizing m with
  | nil => cases hq
  | cons p ps ih =>
    obtain ⟨hp, hps⟩ := List.pairwise_cons.1 hps
    rcases List.mem_cons.1 hq with rfl | hq
    · rw [List.foldl_cons, Mxe.markAll_bank_other ps _ fun r hr => (hp r hr).symm]
      simp [Mxe.markBusy]
    · exact ih _ hps hq

/-- The passes that start together use different banks: the second of a pair takes the other bank (R77). -/
theorem mxGroup_banks (b : BitVec 40) (p : Nat) : (mxGroup b p).Pairwise fun q r => mxPassBank b q ≠ mxPassBank b r := by
  have hother : ∀ x : BankId, x ≠ otherBank x := by decide
  unfold mxGroup
  dsimp only
  split
  · next h =>
    obtain ⟨hop, hpair, htotal, -⟩ := h
    refine List.pairwise_pair.2 ?_
    rcases Nat.mod_two_eq_zero_or_one p with hp | hp
    · have hp1 : (p + 1) % 2 = 1 := by omega
      simpa [mxPassBank, passBank, hop, hpair, htotal, hp, hp1] using hother _
    · have hp1 : (p + 1) % 2 = 0 := by omega
      simpa [mxPassBank, passBank, hop, hpair, htotal, hp, hp1] using (hother _).symm
  · exact List.pairwise_singleton _ _

theorem mxGroup_headD (b : BitVec 40) (p : Nat) : (mxGroup b p).headD 0 = p := by
  unfold mxGroup
  dsimp only
  split <;> rfl

/-! ### Reserving FTQ slots (R86) -/

theorem Mxe.reserve_frame (m : Mxe) : m.reserve = { m with ftq := m.reserve.ftq } := by
  unfold Mxe.reserve
  split <;> rfl

theorem Mxe.reserveN_frame (m : Mxe) (n : Nat) : m.reserveN n = { m with ftq := (m.reserveN n).ftq } := by
  induction n generalizing m with
  | zero => rfl
  | succ n ih => rw [Mxe.reserveN, ih, m.reserve_frame]

theorem Mxe.reserve_of_free {m : Mxe} {i : Fin 4} {l : List (Fin 4)} (h : m.freeSlots = i :: l) :
    m.reserve = { m with ftq := m.ftq.set i { m.ftq[i] with rsv := true } } := by
  simp [Mxe.reserve, h]

/-- Reserving takes the lowest free slot out of the free ones. -/
theorem Mxe.freeSlots_reserve {m : Mxe} {i : Fin 4} {l : List (Fin 4)} (h : m.freeSlots = i :: l) :
    m.reserve.freeSlots = l := by
  have hfree : m.reserve.freeSlots = m.freeSlots.filter (· ≠ i) := by
    rw [Mxe.reserve_of_free h, Mxe.freeSlots, Mxe.freeSlots, List.filter_filter]
    refine List.filter_congr fun j _ => ?_
    by_cases hj : j = i
    · subst hj; simp
    · simp [hj, Vector.getElem_set_ne _ _ (Fin.val_ne_of_ne (Ne.symm hj))]
  have hnodup : m.freeSlots.Nodup := (List.nodup_finRange 4).filter _
  rw [h] at hfree hnodup
  obtain ⟨hi, -⟩ := List.nodup_cons.1 hnodup
  rw [hfree, List.filter_cons_of_neg (by simp), List.filter_eq_self]
  intro j hj
  simpa using fun hji : j = i => hi (hji ▸ hj)

theorem Mxe.freeSlots_reserveN (m : Mxe) {n : Nat} (h : n ≤ m.freeSlots.length) :
    (m.reserveN n).freeSlots.length + n = m.freeSlots.length := by
  induction n generalizing m with
  | zero => rfl
  | succ n ih =>
    cases hf : m.freeSlots with
    | nil => simp [hf] at h
    | cons i l =>
      have hl := Mxe.freeSlots_reserve hf
      rw [hf, List.length_cons] at h
      have := ih m.reserve (by rw [hl]; omega)
      rw [hl] at this
      rw [Mxe.reserveN, List.length_cons]
      omega

/-! ### What starting passes leaves -/

theorem Mxe.markAll_freeSlots (b : BitVec 40) (ps : List Nat) (m : Mxe) :
    (ps.foldl (Mxe.markBusy b) m).freeSlots = m.freeSlots := by
  rw [Mxe.markAll_frame]
  rfl

theorem Mxe.startPasses_run (m : Mxe) (e : QEntry) (p : Nat) : (m.startPasses e (mxGroup e.bits p)).run =
    some ⟨e, mxGroup e.bits p, p + (mxGroup e.bits p).length, mxTotal e.bits⟩ := by
  rw [Mxe.startPasses_eq, mxGroup_headD, Nat.add_comm]

theorem Mxe.startPasses_banks (m : Mxe) (e : QEntry) (ps : List Nat) :
    (m.startPasses e ps).banks = (ps.foldl (Mxe.markBusy e.bits) m).banks := by
  rw [Mxe.startPasses_eq]
  split
  · rw [Mxe.reserveN_frame]
  · rfl

theorem Mxe.startPasses_ftq_of_hold (m : Mxe) {e : QEntry} (ps : List Nat) (h : mxD e.bits = false) :
    (m.startPasses e ps).ftq = m.ftq := by
  rw [Mxe.startPasses_eq, h, Mxe.markAll_frame]
  rfl

theorem Mxe.startPasses_freeSlots (m : Mxe) {e : QEntry} {ps : List Nat} (h : mxD e.bits = true)
    (hfree : ps.length ≤ m.freeSlots.length) :
    (m.startPasses e ps).freeSlots.length + ps.length = m.freeSlots.length := by
  rw [← Mxe.markAll_freeSlots e.bits ps m] at hfree ⊢
  rw [← Mxe.freeSlots_reserveN _ hfree, Mxe.startPasses_eq, h]
  rfl

theorem Mxe.startPasses_frame (m : Mxe) (e : QEntry) (ps : List Nat) :
    { m.startPasses e ps with run := m.run, banks := m.banks, ftq := m.ftq } = m := by
  rw [Mxe.startPasses_eq, Mxe.reserveN_frame, Mxe.markAll_frame]
  split <;> rfl

/-! ### MMA, MMAC, HRMM and PASS_START -/

theorem execPassStart_of_go {s : State} {c : CoreId} {r : MxRun} (hrun : (s.core c).mxe.run = some r) (hnow : r.now = [])
    (hnext : r.next < r.total) (halive : s.alive c = true)
    (hgo : (s.core c).mxe.passHold r.e.bits (mxGroup r.e.bits r.next) = .go) :
    exec (.passStart c) s = .next (s.updMxe c fun m => m.startPasses r.e (mxGroup r.e.bits r.next)) := by
  show execPassStart c s = _
  simp [execPassStart, hrun, hnow, hnext, halive, hgo]

/-- Settles O31: an instruction nothing holds back starts its first group, PASS_START each later one; a group marks its banks
and reserves its slots. -/
theorem matrixInstructionsStartTheirPasses : Obligations.MatrixInstructionsStartTheirPasses := by
  unfold Obligations.MatrixInstructionsStartTheirPasses
  refine ⟨?issue, ?later, ?starts⟩
  case issue =>
    intro s c e rest hq hrun hgo
    exact ⟨fun hop => congrArg Host.Outcome.next (State.mxIssue_of_go _ hq hrun hgo hop),
      fun hop => congrArg Host.Outcome.next (State.mxIssue_of_go _ hq hrun hgo hop),
      fun hop => congrArg Host.Outcome.next (State.mxIssue_of_go _ hq hrun hgo hop)⟩
  case later =>
    exact fun s c r hrun hnow hnext halive hgo => execPassStart_of_go hrun hnow hnext halive hgo
  case starts =>
    intro m e p hp ps t
    refine ⟨m.startPasses_run e p, fun q hq => ?_, fun b hb => ?_, m.startPasses_ftq_of_hold ps, m.startPasses_freeSlots,
      m.startPasses_frame e ps⟩
    · rw [m.startPasses_banks e ps]
      exact Mxe.markAll_bank m (mxGroup_banks e.bits p) hq
    · rw [m.startPasses_banks e ps]
      exact Mxe.markAll_bank_other ps m hb

end Sys2Proof.Machine

namespace Sys2Proof.Machine

/-! ### Drains (R79, R81, R84, R101) -/

/-- The drain at the head of the drain path passes its checks: its bank's values agree with their parity, and in a checked task
no check misses. -/
theorem execBankDrainComplete_of_pass {s : State} {c : CoreId} {d : Draining} {rest : List Draining}
    (hd : (s.core c).mxe.drains = d :: rest) (halive : s.alive c = true) (hcauses : (s.core c).seq.causes = [])
    (hbad : (s.core c).mxe.banks[d.bank].bad = []) (a : AbftResult)
    (ha : a = if (s.core c).mxe.banks[d.bank].checked then
      (s.core c).mxe.banks[d.bank].abft (s.core c).mxe.rows (s.core c).mxe.cols else ⟨0, none⟩) (hmiss : a.miss = none) :
    exec (.bankDrainComplete c) s =
      .next (let u := (s.satRf (pgMxe c) 0x120 16 16 a.skips).updMxe c fun y => y.finishDrain d
        if d.last then u.done c d.e else u) := by
  show execBankDrainComplete c s = _
  unfold execBankDrainComplete
  simp only [hd, halive, hcauses, hbad, ← ha, hmiss]
  rfl

/-- The slot a drain fills. -/
theorem Mxe.finishDrain_slot (m : Mxe) (d : Draining) : (m.finishDrain d).ftq[d.slot] =
    ⟨true, false, d.tid, m.banks[d.bank].org.row0, m.banks[d.bank].org.col0, m.banks[d.bank].pass, d.lr,
      m.banks[d.bank].org.int, m.chain, m.nextPush, m.shape, m.banks[d.bank].tile m.rows m.cols, []⟩ :=
  Vector.getElem_set_self _

theorem Mxe.finishDrain_otherSlot (m : Mxe) (d : Draining) {f : Fin 4} (h : f ≠ d.slot) :
    (m.finishDrain d).ftq[f] = m.ftq[f] := Vector.getElem_set_ne d.slot.isLt f.isLt (Fin.val_ne_of_ne h.symm)

theorem Mxe.finishDrain_banks_of_last {m : Mxe} {d : Draining} (h : m.drains = [d]) :
    (m.finishDrain d).banks = m.banks.set d.bank Bank.empty := by
  simp [Mxe.finishDrain, h]

theorem Mxe.finishDrain_banks_of_next {m : Mxe} {d n : Draining} {r : List Draining} (h : m.drains = d :: n :: r) :
    (m.finishDrain d).banks = vmod (m.banks.set d.bank Bank.empty) n.bank.val fun k => { k with st := .draining } := by
  simp [Mxe.finishDrain, h]

/-- Without checks a drain leaves the bank's accumulators as they are. -/
theorem Bank.tile_of_unchecked {b : Bank} (h : b.checked = false) (r c : Nat) : b.tile r c = b.acc := by
  simp [Bank.tile, h]

/-- DRAIN by the state of its bank and by DISCARD (R84). -/
theorem execDrain_of_go {s : State} {c : CoreId} {e : QEntry} {rest : List QEntry} (hq : (s.core c).seq.mxq = e :: rest)
    (hrun : s.mayStart c 1 = true) (hgo : (s.core c).mxExam = .go) (hop : op40 e.bits = 6) :
    exec (.drain c) s = .next (
      let t := s.updSeq c fun q => { q with mxq := rest }
      if (s.core c).mxe.banks[mxBank e.bits].st = .empty then t.done c e
      else if mxD e.bits then (t.updMxe c fun m => { m with banks := m.banks.set (mxBank e.bits) Bank.empty }).done c e
      else t.updMxe c fun m => m.reserve.queueDrain (mxBank e.bits) (mxLr e.bits) (mxTid e.bits) e true) := by
  show execDrain c s = _
  rw [execDrain, State.mxIssue_of_go _ hq hrun hgo hop]
  simp only [State.updSeq_core_mxe]

/-- Settles O33: a passing drain is `finishDrain`, which fills the slot and empties the bank; DRAIN splits on its bank's state. -/
theorem drainsFillTheFtqInOrder : Obligations.DrainsFillTheFtqInOrder := by
  unfold Obligations.DrainsFillTheFtqInOrder
  refine ⟨?complete, ?finish, ?drain⟩
  case complete =>
    exact fun s c d rest hd halive hcauses hbad hmiss => execBankDrainComplete_of_pass hd halive hcauses hbad _ rfl hmiss
  case finish =>
    intro m d rest hd
    refine ⟨m.finishDrain_slot d, fun h => Bank.tile_of_unchecked h _ _, rfl, congrArg List.tail hd,
      fun f hf => m.finishDrain_otherSlot d hf, fun hrest => ?_, fun n r hrest hn => ?_⟩
    · rw [Mxe.finishDrain_banks_of_last (hrest ▸ hd)]
      exact Vector.getElem_set_self _
    · rw [Mxe.finishDrain_banks_of_next (hrest ▸ hd)]
      refine ⟨(getElem_vmod_other _ _ d.bank.isLt (Fin.val_ne_of_ne hn)).trans (Vector.getElem_set_self _), ?_⟩
      exact congrArg Bank.st (getElem_vmod_same _ _ n.bank.isLt)
  case drain =>
    intro s c e rest hq hrun hgo hop
    rw [execDrain_of_go hq hrun hgo hop]
    exact ⟨fun hst => by rw [if_pos hst], fun hst hd => by rw [if_neg hst, if_pos hd],
      fun hst hd => by rw [if_neg hst, hd]; rfl⟩

/-! ### Held rows, shape, scaling, mode (R68, R69, R94, R95, R97, R98) -/

section MxOps

variable {s : State} {c : CoreId} {e : QEntry}

/-- SHAPE by whether the shape is the one in force. -/
theorem execShape_of_go {rest : List QEntry} (hq : (s.core c).seq.mxq = e :: rest)
    (hrun : s.mayStart c 1 = true) (hgo : (s.core c).mxExam = .go) (hop : op40 e.bits = 5) :
    exec (.shape c) s = .next (
      let t := s.updSeq c fun q => { q with mxq := rest }
      let code : BitVec 2 := e.bits.extractLsb' 34 2
      if code = (s.core c).mxe.shape then (t.updMxe c fun m => { m with shapeSrc := false }).done c e
      else t.updMxe c fun m => { m with op := some (.shape (some e) code) }) := by
  show execShape c s = _
  rw [execShape, State.mxIssue_of_go _ hq hrun hgo hop]
  simp only [State.updSeq_core_mxe]

theorem execShapeDone_of_op {o : Option QEntry} {code : BitVec 2} (hop : (s.core c).mxe.op = some (.shape o code))
    (hruns : s.coreRuns c) :
    exec (.shapeDone c) s =
      let u := ((s.updMxe c fun m =>
        { m with shape := code, shapeSrc := o.isNone, held := ⟨false, [], 0⟩, op := none }).bumpRf (pgMxe c) 0x100 32 32 1).pm
          (pgMxe c) 0x07 1
      .next (o.elim u fun q => u.done c q) := by
  have hstop : vget false s.stopped c.val = false := hruns
  show execShapeDone c s = _
  simp only [execShapeDone, hop, hstop, Bool.false_eq_true, if_false]
  cases o <;> rfl

theorem execHrldDone_of_loaded (hop : (s.core c).mxe.op = some (.hrld e)) (halive : s.alive c = true)
    (hcauses : (s.core c).seq.causes = []) (l : Loaded)
    (hl : s.tileRows c ((groupTiles (mxTa e.bits) (mxNa e.bits)).map fun t => (t, ((s.core c).trf.cfg t).nRows)) = l)
    (hbad : l.bad = []) :
    exec (.hrldDone c) s = .next ((l.s.updMxe c fun m =>
      { m with
        op := none
        held := ⟨true, (chunks ((s.core c).trf.cfg (mxTa e.bits)).rb l.bytes).take m.rows,
          ((s.core c).trf.cfg (mxTa e.bits)).fmt⟩ }).done c e) := by
  show execHrldDone c s = _
  simp only [execHrldDone, hop, halive, hcauses, hl, hbad]
  rfl

theorem execAsclDone_of_good (hop : (s.core c).mxe.op = some (.ascl e)) (halive : s.alive c = true)
    (hcauses : (s.core c).seq.causes = []) (hbad : (s.core c).mxe.banks[mxBank e.bits].bad = [])
    (hsb : (vget ⟨false, [], []⟩ (s.core c).mxe.sb (fld e.bits 34 1)).bad.any (· < (s.core c).mxe.rows) = false) :
    exec (.asclDone c) s = .next (
      let m := (s.core c).mxe
      let k := m.banks[mxBank e.bits]
      let f := if k.org.int then Config.asclInt else asclValue
      (s.updMxe c fun y => { y with
        op := none
        sb := vset y.sb (fld e.bits 34 1) ⟨false, [], []⟩
        banks := y.banks.set (mxBank e.bits) { k with
          acc := accTab ((accRows k.acc m.rows m.cols).mapIdx fun i row =>
            row.map fun v => f v (tget 0 (vget ⟨false, [], []⟩ m.sb (fld e.bits 34 1)).val i))
          scaled := true } }).done c e) := by
  show execAsclDone c s = _
  simp only [execAsclDone, hop, halive, hcauses, hbad, hsb]
  rfl

end MxOps

/-- Settles O34: HRLD, SHAPE, ASCL and MODE issue from the queue head; the three that take time end by commands of their own. -/
theorem heldRowsShapeScaleAndMode : Obligations.HeldRowsShapeScaleAndMode := by
  unfold Obligations.HeldRowsShapeScaleAndMode
  intro s c
  refine ⟨?issue, ?shapeDone, ?hrldDone, ?asclDone⟩
  case issue =>
    intro e rest hq hrun hgo
    refine ⟨fun hop => congrArg Host.Outcome.next (State.mxIssue_of_go _ hq hrun hgo hop), fun hop hcode => ?_,
      fun hop hcode => ?_, fun hop => congrArg Host.Outcome.next (State.mxIssue_of_go _ hq hrun hgo hop),
      fun hop => congrArg Host.Outcome.next (State.mxIssue_of_go _ hq hrun hgo hop)⟩
    · rw [execShape_of_go hq hrun hgo hop]
      exact congrArg Host.Outcome.next (if_pos hcode)
    · rw [execShape_of_go hq hrun hgo hop]
      exact congrArg Host.Outcome.next (if_neg hcode)
  case shapeDone =>
    intro e code hop hruns u
    rw [execShapeDone_of_op hop hruns]
    cases e <;> rfl
  case hrldDone => exact fun e hop halive hcauses hbad => execHrldDone_of_loaded hop halive hcauses _ rfl hbad
  case asclDone => exact fun e hop halive hcauses hbad hsb => execAsclDone_of_good hop halive hcauses hbad hsb

end Sys2Proof.Machine

namespace Sys2Proof.Machine

/-! ### Reading operands leaves the cores as they are -/

@[simp] theorem State.readWord_cores (s : State) (src g i : Nat) : (s.readWord src g i).s.cores = s.cores :=
  (s.readWord_sendsOnly src g i).cores

@[simp] theorem State.trfWords_cores (s : State) (c : CoreId) (src a n : Nat) : (s.trfWords c src a n).s.cores = s.cores := by
  induction n generalizing s a with
  | zero => rfl
  | succ n ih =>
    unfold State.trfWords
    split
    · exact (ih _ _).trans (s.readWord_cores _ _ _)
    · exact ih _ _

@[simp] theorem State.trfLoad_cores (s : State) (c : CoreId) (src a n : Nat) : (s.trfLoad c src a n).s.cores = s.cores := by
  simp [State.trfLoad]

@[simp] theorem State.tileRows_cores (s : State) (c : CoreId) (l : List (Nat × Nat)) :
    (s.tileRows c l).s.cores = s.cores := by
  induction l generalizing s with
  | nil => rfl
  | cons x l ih => exact (ih _).trans (s.trfLoad_cores c _ _ _)

@[simp] theorem State.edgeRead_cores (s : State) (c : CoreId) (latch : Option EdgeLatch) (edgeA : Bool) (block steps : Nat)
    (tiles : List (Nat × Nat)) : (s.edgeRead c latch edgeA block steps tiles).s.cores = s.cores := by
  unfold State.edgeRead
  split
  · split
    · exact s.pm_cores _ _ _
    · exact s.tileRows_cores c tiles
  · exact s.tileRows_cores c tiles

@[simp] theorem State.mmaPass_cores (s : State) (c : CoreId) (b : BitVec 40) (checked : Bool) (p : Nat)
    (latch : Option EdgeLatch) (p0 : PassAcc) : (s.mmaPass c b checked p latch p0).s.cores = s.cores := by
  unfold State.mmaPass
  dsimp only
  (repeat' split) <;> simp only [State.trfLoad_cores, State.edgeRead_cores]

@[simp] theorem State.hrPass_cores (s : State) (c : CoreId) (b : BitVec 40) (checked : Bool) (p0 : PassAcc) :
    (s.hrPass c b checked p0).s.cores = s.cores := s.tileRows_cores c _

theorem State.updMxe_updMxe (s : State) (c : CoreId) (f g : Mxe → Mxe) :
    (s.updMxe c f).updMxe c g = s.updMxe c fun m => g (f m) := by
  simp [State.updMxe, State.updCore]

/-! ### The end of a pass (R76, R79, R80, R82, R251) -/

/-- Whether a pass starts from +0: that of an MMA, or of an HRMM that does not continue (R82, R93). -/
def passFresh (b : BitVec 40) : Bool := op40 b == 1 || (op40 b == 4 && !mxPair b)

/-- What pass `p` of an instruction computes from the tiles, its bank and the reuse latch. -/
def State.passOut (s : State) (c : CoreId) (b : BitVec 40) (latch : Option EdgeLatch) (p : Nat) : PassOut :=
  let m := (s.core c).mxe
  let p0 := m.banks[mxPassBank b p].begin m.rows m.cols (passFresh b)
  if op40 b == 4 then s.hrPass c b (s.checkedTask c) p0 else s.mmaPass c b (s.checkedTask c) p latch p0

/-- The bank of pass `p` after it, and with D = 1 its drain queued, in the state the pass leaves. -/
def State.passKept (s : State) (c : CoreId) (r : MxRun) (p : Nat) (o : PassOut) : State :=
  let b := r.e.bits
  let x := mxPassBank b p
  let org := passOrigin (s.core c).mxe (s.core c).trf b (s.checkedTask c) p
  o.s.updMxe c fun m =>
    let m1 := { m with banks := vmod m.banks x.val fun k => k.finish o.acc org (passFresh b) (s.checkedTask c) o.k }
    if mxD b then m1.queueDrain x org.lr org.tid r.e (p + 1 == r.total) else m1

/-- The overflow bit of the pass's bank recorded, and the pass counted. -/
def State.passCounted (t : State) (c : CoreId) (r : MxRun) (p : Nat) (o : PassOut) : State :=
  (if o.acc.ovf then t.orReg (pgMxe c) 0x118 (1 <<< (mxPassBank r.e.bits p).val) else t).pm (pgMxe c) 0x08 1

/-- A pass that reads no bad value leaves its result. -/
theorem State.endPass_of_good {s : State} {c : CoreId} {r : MxRun} {latch : Option EdgeLatch} {p : Nat}
    (hcauses : (s.core c).seq.causes = [])
    (hbank : passFresh r.e.bits = true ∨ (s.core c).mxe.banks[mxPassBank r.e.bits p].bad = [])
    (hbad : (s.passOut c r.e.bits latch p).bad = []) :
    s.endPass c r latch p = ((s.passOut c r.e.bits latch p).latch,
      (s.passKept c r p (s.passOut c r.e.bits latch p)).passCounted c r p (s.passOut c r.e.bits latch p)) := by
  have hparity : (!passFresh r.e.bits && !(s.core c).mxe.banks[mxPassBank r.e.bits p].bad.isEmpty) = false := by
    rcases hbank with h | h
    · rw [h]; rfl
    · rw [h]; exact Bool.and_false _
  have hnone : (!(s.core c).seq.causes.isEmpty) = false := by simp [hcauses]
  unfold State.endPass
  rw [if_neg (by rw [hnone]; decide)]
  refine (if_neg (by rw [← passFresh, hparity]; decide)).trans ?_
  generalize ho : s.passOut c r.e.bits latch p = o at hbad ⊢
  simp only [State.passOut, passFresh] at ho
  simp only [ho, hbad]
  rfl

theorem State.endPass_core_seq {s : State} {c : CoreId} {r : MxRun} {p : Nat} {b : BitVec 40} {latch : Option EdgeLatch} :
    (((s.passKept c r p (s.passOut c b latch p)).passCounted c r p (s.passOut c b latch p)).core c).seq =
      (s.core c).seq := by
  have hout : (s.passOut c b latch p).s.cores = s.cores := by
    unfold State.passOut
    dsimp only
    split
    · exact s.hrPass_cores c b _ _
    · exact s.mmaPass_cores c b _ p latch _
  unfold State.passCounted
  rw [State.core_pm]
  split
  · rw [State.core_orReg, State.passKept, State.updMxe_core_seq, State.core, hout]
    rfl
  · rw [State.passKept, State.updMxe_core_seq, State.core, hout]
    rfl

theorem State.passKept_of_hold {s : State} {c : CoreId} {r : MxRun} (p : Nat) (o : PassOut) (h : mxD r.e.bits = false) :
    s.passKept c r p o =
      let org := passOrigin (s.core c).mxe (s.core c).trf r.e.bits (s.checkedTask c) p
      o.s.updMxe c fun y =>
        { y with banks := vmod y.banks (mxPassBank r.e.bits p).val fun k =>
          k.finish o.acc org (passFresh r.e.bits) (s.checkedTask c) o.k } := by
  simp only [State.passKept, h, Bool.false_eq_true, if_false]

theorem State.passKept_of_drain {s : State} {c : CoreId} {r : MxRun} (p : Nat) (o : PassOut) (h : mxD r.e.bits = true) :
    s.passKept c r p o =
      let org := passOrigin (s.core c).mxe (s.core c).trf r.e.bits (s.checkedTask c) p
      (o.s.updMxe c fun y =>
        { y with banks := vmod y.banks (mxPassBank r.e.bits p).val fun k =>
          k.finish o.acc org (passFresh r.e.bits) (s.checkedTask c) o.k }).updMxe c fun y =>
            y.queueDrain (mxPassBank r.e.bits p) org.lr org.tid r.e (p + 1 == r.total) := by
  simp only [State.passKept, h, if_true, State.updMxe_updMxe]

/-- PASS_END once its passes have ended and raised no cause. -/
theorem execPassEnd_of_ended {s s1 : State} {c : CoreId} {r : MxRun} (hrun : (s.core c).mxe.run = some r)
    (hnow : r.now ≠ []) (halive : s.alive c = true) (hcauses : (s.core c).seq.causes = [])
    (hend : (r.now.foldl (fun (t : Option EdgeLatch × State) p => t.2.endPass c r t.1 p) (none, s)).2 = s1)
    (hclean : (s1.core c).seq.causes = []) :
    exec (.passEnd c) s = .next (
      if r.next < r.total then s1.updMxe c fun m => { m with run := some { r with now := [] } }
      else
        let s2 := s1.updMxe c fun m => { m with run := none }
        if mxD r.e.bits then s2 else s2.done c r.e) := by
  show execPassEnd c s = _
  have hgo : (r.now.isEmpty || !s.alive c || !(s.core c).seq.causes.isEmpty) = false := by simp [hnow, halive, hcauses]
  have hkeep : (!(s1.core c).seq.causes.isEmpty) = false := by simp [hclean]
  simp only [execPassEnd, hrun, hgo, hend, hkeep, Bool.false_eq_true, if_false]
  split <;> rfl

/-- The first pass of a pair latches the edge it shares with the second (R78). -/
theorem State.mmaPass_latch (s : State) (c : CoreId) (b : BitVec 40) (checked : Bool) (p : Nat) (latch : Option EdgeLatch)
    (p0 : PassAcc) : ∃ f : EdgeLatch, (s.mmaPass c b checked p latch p0).latch = some f ∧ f.edgeA = decide (2 ≤ mxFn b) ∧
      f.block = (if 2 ≤ mxFn b then p / mxFn b else p % mxFn b) := by
  refine ⟨_, rfl, ?_, ?_⟩ <;> by_cases h : 2 ≤ mxFn b <;> simp [h]

/-- What the latch holds is not read again. -/
theorem State.edgeRead_latched (s : State) (c : CoreId) (l : EdgeLatch) (steps : Nat) (tiles : List (Nat × Nat)) :
    (s.edgeRead c (some l) l.edgeA l.block steps tiles).bytes = l.bytes := by
  simp [State.edgeRead]

/-- Settles O32: a pass that reads no bad value leaves `passKept`; PASS_END goes through its one or two passes in order. -/
theorem passesLeaveTheirResultInTheBank : Obligations.PassesLeaveTheirResultInTheBank := by
  unfold Obligations.PassesLeaveTheirResultInTheBank
  refine ⟨?one, ?pair, ?latch⟩
  case one =>
    intro s c r p hrun hnow halive hcauses b m x hr fresh checked p0 o hbank hbad org kept ovf
    have hone : s.endPass c r none p = (o.latch, (s.passKept c r p o).passCounted c r p o) :=
      State.endPass_of_good hcauses hbank hbad
    have hend : (r.now.foldl (fun (t : Option EdgeLatch × State) p => t.2.endPass c r t.1 p) (none, s)).2 =
        (s.passKept c r p o).passCounted c r p o := by rw [hnow]; exact congrArg Prod.snd hone
    have hclean : (((s.passKept c r p o).passCounted c r p o).core c).seq.causes = [] :=
      (congrArg Seq.causes State.endPass_core_seq).trans hcauses
    have hexec := execPassEnd_of_ended hrun (by simp [hnow]) halive hcauses hend hclean
    refine ⟨fun hd hnext => ?_, fun hd hnext => ?_, fun hd => ?_, fun k n => ⟨rfl, rfl⟩⟩
    · rw [hexec, if_pos hnext, State.passKept_of_hold p o hd]
      rfl
    · rw [hexec, if_neg (Nat.not_lt.2 hnext), State.passKept_of_hold p o hd, hd]
      rfl
    · rw [hexec, State.passKept_of_drain p o hd, hd]
      by_cases hnext : r.next < r.total
      · rw [if_pos hnext, if_pos hnext]
        rfl
      · rw [if_neg hnext, if_neg hnext]
        rfl
  case pair =>
    intro s c r p q hrun hnow halive hcauses one two hclean
    have hend : (r.now.foldl (fun (t : Option EdgeLatch × State) p => t.2.endPass c r t.1 p) (none, s)).2 = two.2 := by
      rw [hnow]; rfl
    rw [execPassEnd_of_ended hrun (by simp [hnow]) halive hcauses hend hclean]
    exact ⟨fun hnext => by rw [if_pos hnext], fun hnext => by rw [if_neg (Nat.not_lt.2 hnext)]⟩
  case latch =>
    intro s c b checked p p0 l
    obtain ⟨f, hf, hedge, hblock⟩ := s.mmaPass_latch c b checked p none p0
    exact ⟨f, hf, hedge, hblock, s.edgeRead_latched c l 1 []⟩

end Sys2Proof.Machine

namespace Sys2Proof.Machine

theorem regKey_ne {page off off' : Nat} (h : off ≠ off') : regKey page off ≠ regKey page off' := by
  simp only [regKey]; omega

theorem byteAt_of_mem {s t : State} (h : t.mem = s.mem) (a : Nat) : t.byteAt a = s.byteAt a := by
  rw [State.byteAt, State.byteAt, h]

/-! ### An abort takes effect (R105, R234, R236, R245) -/

theorem lowestCause_cons_cons (a b : Cause) (l : List Cause) :
    lowestCause (a :: b :: l) = lowestCause ((if b.code < a.code then b else a) :: l) := by
  unfold lowestCause
  simp only [List.foldl_cons]
  split <;> rfl

/-- The cause an abort records is one that arrived, of the lowest code. -/
theorem lowestCause_cons (a : Cause) (l : List Cause) :
    ∃ y ∈ a :: l, lowestCause (a :: l) = some y ∧ ∀ z ∈ a :: l, y.code ≤ z.code := by
  induction l generalizing a with
  | nil => exact ⟨a, by simp, rfl, by simp⟩
  | cons b l ih =>
    obtain ⟨y, hy, hlow, hle⟩ := ih (if b.code < a.code then b else a)
    rw [lowestCause_cons_cons, hlow]
    have hhead := hle _ List.mem_cons_self
    have hmem : y ∈ a :: b :: l := by
      rcases List.mem_cons.1 hy with rfl | hy
      · split <;> simp
      · simp [hy]
    refine ⟨y, hmem, rfl, fun z hz => ?_⟩
    rcases List.mem_cons.1 hz with rfl | hz
    · split at hhead <;> bv_omega
    · rcases List.mem_cons.1 hz with rfl | hz
      · split at hhead <;> bv_omega
      · exact hle z (List.mem_cons_of_mem _ hz)

theorem lowestCause_code {l : List Cause} {x : Cause} (hx : x ∈ l) (hmin : ∀ y ∈ l, x.code ≤ y.code) :
    ∃ y, lowestCause l = some y ∧ y.code = x.code := by
  obtain ⟨a, l, rfl⟩ := List.exists_cons_of_ne_nil (List.ne_nil_of_mem hx)
  obtain ⟨y, hy, hlow, hle⟩ := lowestCause_cons a l
  have hyx := hle x hx
  have hxy := hmin y hy
  exact ⟨y, hlow, by bv_omega⟩

theorem State.txLog_sendsOnly (s : State) (i : SlotId) (outcome scope : Nat) : SendsOnly s (s.txLog i outcome scope) := by
  unfold State.txLog State.setRf State.modReg
  dsimp only
  refine .trans ?_ (State.setReg_sendsOnly _ _ (by decide))
  exact .of_eq rfl rfl rfl rfl rfl

theorem State.txDiscard_sendsOnly (s : State) (c : CoreId) : SendsOnly s (s.txDiscard c) := by
  have hmode : SendsOnly s { s with txu := { s.txu with mode := s.txu.mode.set c false } } := .of_eq rfl rfl rfl rfl rfl
  have hcount (u : State) : SendsOnly u (u.bumpRf 3 0x118 32 32 1) := u.setReg_sendsOnly _ (by decide)
  have hfree (u : State) (i : SlotId) (f : TxSlot → TxSlot) : SendsOnly u ((u.dropLines i).updSlot i f) :=
    .of_eq rfl rfl rfl rfl rfl
  unfold State.txDiscard
  dsimp only
  split
  · exact hmode
  · next i _ =>
    have hdone := ((hmode.trans (State.txLog_sendsOnly _ i 8 0)).trans (hfree _ i fun k =>
      { k with st := .free, lines := 0, age := 0, reason := 0, dur := .none, tail := none })).trans (hcount _)
    split
    · exact hdone.trans (.of_eq rfl rfl rfl rfl rfl)
    · exact hdone

theorem State.txOrphan_sendsOnly (s : State) (c : CoreId) : SendsOnly s (s.txOrphan c) := .of_eq rfl rfl rfl rfl rfl

theorem State.sweepTags_sendsOnly (s : State) (c : CoreId) : SendsOnly s (s.sweepTags c) := .of_eq rfl rfl rfl rfl rfl

/-- The control core once an abort has emptied it: queues, loops, flags, counters and takes are gone; the task and the causes are
still there. -/
def Seq.emptied (q : Seq) : Seq :=
  { q with
    flags := 0
    cnt := Vector.replicate 16 0
    lf := 0
    loops := []
    rstk := []
    ag := none
    flow := none
    ldas := []
    stas := []
    layer := false
    draining := none
    takePend := false
    takeGrant := false
    takeVoid := q.takeVoid + bit q.takePend
    brkPassed := false
    stepping := false
    waitCnt := 0
    mxq := []
    vxq := []
    lsq := []
    chq := []
    stq := Vector.replicate 4 [] }

theorem State.core_ringsReset (s : State) (c d : CoreId) (start : Bool) : (s.ringsReset c start).core d = s.core d := by
  cases start <;> rfl

/-- The core after the flags and rings are reset and its transaction is discarded. -/
theorem State.abortEngines_core (s : State) (c : CoreId) :
    ((s.abortEngines c).core c).seq = (s.core c).seq.emptied ∧ ((s.abortEngines c).core c).mxe = (s.core c).mxe.drop := by
  unfold State.abortEngines
  dsimp only
  rw [(State.sweepTags_sendsOnly _ _).core, State.core_updCore_same, (State.txOrphan_sendsOnly _ _).core,
    (State.txDiscard_sendsOnly _ _).core, State.core_ringsReset, State.syncReset, State.core_updSeq_same]
  exact ⟨rfl, rfl⟩

/-- The pages of a core that an abort's clearing writes are those of the CSP and, for SYNC_STS, of the SEQ. -/
theorem State.reg_abortEngines (s : State) (c : CoreId) {off : Nat} (hoff : off < 4096) (h : off ≠ 0x328) :
    (s.abortEngines c).reg (pgSeq c) off = s.reg (pgSeq c) off := by
  have hring (u : State) {o : Nat} (ho : o < 4096) : (u.setReg (pgCsp c) o 0).reg (pgSeq c) off = u.reg (pgSeq c) off := by
    refine u.reg_setReg_other 0 ?_
    simp only [regKey, corePage]
    omega
  have hrings (u : State) : (u.ringsReset c false).reg (pgSeq c) off = u.reg (pgSeq c) off := by
    unfold State.ringsReset
    dsimp only
    rw [if_neg Bool.false_ne_true, if_neg Bool.false_ne_true, hring _ (by decide), hring _ (by decide), hring _ (by decide),
      hring _ (by decide)]
  have hsync : (s.syncReset c).reg (pgSeq c) off = s.reg (pgSeq c) off := s.reg_setReg_other _ (regKey_ne h)
  unfold State.abortEngines
  dsimp only
  rw [(State.sweepTags_sendsOnly _ _).reg, State.reg_updCore, (State.txOrphan_sendsOnly _ _).reg,
    (State.txDiscard_sendsOnly _ _).reg, hrings, hsync]

/-- The low bits of a field. -/
theorem fld_low {n : Nat} (v : BitVec n) (lo : Nat) {w w' : Nat} (hw : w' ≤ w) : fld v lo w' = fld v lo w % 2 ^ w' := by
  simp [fld, BitVec.extractLsb'_toNat, Nat.mod_mod_of_dvd _ (pow_dvd_pow 2 hw)]

/-- ABORT.CAUSE as the abort records it (R236). -/
theorem State.rf_abortReg (s : State) (c : CoreId) (x : Byte) (cause2 : Nat) (host : Bool) :
    (s.abortReg c x.toNat cause2 host).rf (pgSeq c) 0x1A0 0 8 = x.toNat := by
  have hx := x.isLt
  rw [State.abortReg, State.modReg, State.rf, State.reg_setReg_same, fld_low _ 0 (w := 48) (by decide),
    fld_setFld_same _ _ (by decide)]
  omega

theorem State.beginAbort_of_lowest {s : State} {c : CoreId} {y : Cause} (h : lowestCause (s.core c).seq.causes = some y) :
    ∃ second, s.beginAbort c = ((s.abortReg c y.code.toNat second y.host).abortEngines c).updSeq c fun q =>
      { q with st := .drain, causes := [], abortTask := true } := by
  unfold State.beginAbort
  simp only [h]
  exact ⟨_, rfl⟩

/-- What an abort does once its causes have arrived. -/
theorem State.beginAbort_spec {s : State} {c : CoreId} {x : Cause} (hx : x ∈ (s.core c).seq.causes)
    (hmin : ∀ y ∈ (s.core c).seq.causes, x.code ≤ y.code) :
    ((s.beginAbort c).core c).seq = { (s.core c).seq.emptied with st := .drain, causes := [], abortTask := true } ∧
      ((s.beginAbort c).core c).mxe = (s.core c).mxe.drop ∧
      (s.beginAbort c).rf (pgSeq c) 0x1A0 0 8 = x.code.toNat := by
  obtain ⟨y, hlow, hyx⟩ := lowestCause_code hx hmin
  obtain ⟨second, hbegin⟩ := State.beginAbort_of_lowest hlow
  obtain ⟨hseq, hmxe⟩ := (s.abortReg c y.code.toNat second y.host).abortEngines_core c
  rw [hbegin]
  refine ⟨?_, ?_, ?_⟩
  · rw [State.core_updSeq_same]
    simp only [hseq]
    rfl
  · rw [State.updSeq_core_mxe, hmxe]
    rfl
  · rw [State.rf_updSeq, State.rf, State.reg_abortEngines _ c (by decide) (by decide), ← State.rf, State.rf_abortReg, hyx]

theorem execAbort_of_causes {s : State} {c : CoreId} (halive : s.alive c = true) (hab : (s.core c).seq.abortTask = false)
    (hcross : s.ccu.toCore[c] = []) : exec (.abort c) s = .next (s.beginAbort c) := by
  have hsee : s.seeNone c = s := State.seeNone_of_head (by simp [hcross])
  have htake : s.takeCauses c = s := by
    unfold State.takeCauses
    rw [hcross]
  show execAbort c s = _
  simp [execAbort, halive, hsee, htake, hab]

/-! ### The end of an aborted task (R235, R255) -/

/-- The core stops being busy: IDLE, or PAUSED while CTL.PAUSE is 1. -/
theorem State.becomeIdle_seq (s : State) (c : CoreId) : ∃ d, ((s.becomeIdle c).core c).seq =
    { (s.core c).seq with st := if s.paused (pgSeq c) then .paused else .idle, dispatch := d } := by
  unfold State.becomeIdle
  split
  · exact ⟨.none, by simp⟩
  · dsimp only
    split
    · exact ⟨.sent, by simp [State.claimNow]⟩
    · exact ⟨.none, by simp⟩

theorem State.mem_toCcu_tell {s : State} {c : CoreId} {m k : CcuMsg} (h : m ∈ s.ccu.toCcu[c] ∨ m = k) :
    m ∈ (s.tell c k).ccu.toCcu[c] := by
  simpa [State.tell, State.updCcu] using h

/-- What the core has sent the CCU stays in the crossing when it claims. -/
theorem State.mem_toCcu_becomeIdle {s : State} {c : CoreId} {m : CcuMsg} (h : m ∈ s.ccu.toCcu[c]) :
    m ∈ (s.becomeIdle c).ccu.toCcu[c] := by
  unfold State.becomeIdle
  split
  · exact h
  · dsimp only
    split
    · exact State.mem_toCcu_tell (.inl h)
    · exact h

theorem State.endTask_seq (s : State) (c : CoreId) (kind : EndKind) (cause : Byte) :
    ((s.endTask c kind cause).core c).seq.task = none ∧ ((s.endTask c kind cause).core c).seq.abortTask = false := by
  unfold State.endTask
  dsimp only
  rw [State.core_updCore_same]
  exact ⟨rfl, rfl⟩

/-- The end report stands in the crossing. -/
theorem State.endTask_report (s : State) (c : CoreId) (kind : EndKind) (cause : Byte) :
    ∃ id, CcuMsg.report ⟨(s.core c).seq.descNum, id, kind, cause⟩ ∈ (s.endTask c kind cause).ccu.toCcu[c] := by
  unfold State.endTask
  dsimp only
  rw [State.updCore_ccu, State.pm_ccu, State.modReg_ccu]
  exact ⟨_, State.mem_toCcu_tell (.inr rfl)⟩

theorem State.reg_flushHeld (s : State) (c : CoreId) {off : Nat} (h : off ≠ 0x328) :
    (s.flushHeld c).reg (pgSeq c) off = s.reg (pgSeq c) off := by
  have htell (l : List HeldSig) : (l.foldl (fun (t : State) h => t.tell c (.signal h.cf h.op)) s).reg (pgSeq c) off =
      s.reg (pgSeq c) off :=
    foldl_same (·.reg (pgSeq c) off) (fun (t : State) (h : HeldSig) => t.tell c (.signal h.cf h.op)) (fun _ _ => rfl) l s
  unfold State.flushHeld
  dsimp only
  rw [State.reg_updSeq]
  split
  · exact htell _
  · exact (State.reg_setReg_other _ _ (regKey_ne h)).trans (htell _)

/-- The end of a task writes LAST, SYNC_STS and the performance counters of the SEQ page, and no other register of it. -/
theorem State.reg_endTask (s : State) (c : CoreId) (kind : EndKind) (cause : Byte) {off : Nat} (hoff : off < 0xC0) :
    (s.endTask c kind cause).reg (pgSeq c) off = s.reg (pgSeq c) off := by
  unfold State.endTask State.modReg
  dsimp only
  rw [State.reg_updCore, State.reg_pm_other _ _ _ _ fun k hk => regKey_ne (by omega),
    State.reg_setReg_other _ _ (regKey_ne (by omega)), State.reg_tell, State.reg_flushHeld _ c (by omega),
    (State.txOrphan_sendsOnly _ _).reg, (State.txDiscard_sendsOnly _ _).reg]

theorem execAbortEnd_of_done {s : State} {c : CoreId} (hab : (s.core c).seq.abortTask = true)
    (hdone : (s.core c).writesDone = true) (halive : s.alive c = true) :
    exec (.abortEnd c) s =
      .next ((s.endTask c .aborted (BitVec.ofNat 8 (s.rf (pgSeq c) 0x1A0 0 8))).becomeIdle c) := by
  show execAbortEnd c s = _
  simp [execAbortEnd, hab, hdone, halive]

theorem execAbortDrainTmo_of_late {s : State} {c : CoreId} (hab : (s.core c).seq.abortTask = true)
    (hdone : (s.core c).writesDone = false) (hst : (s.core c).seq.st = .drain) (halive : s.alive c = true) :
    exec (.abortDrainTmo c) s =
      .next ((s.seqErr c 14 (s.rf (pgSeq c) 0x1A0 0 8) 0 0 0 0 0).updSeq c fun q => { q with st := .fault }) := by
  show execAbortDrainTmo c s = _
  simp [execAbortDrainTmo, hab, hdone, hst, halive]

/-- Settles O25: the abort clears the engines and keeps the task, its end reports the task and frees the core, its limit stops
the core. -/
theorem abortDrainsAndReports : Obligations.AbortDrainsAndReports := by
  unfold Obligations.AbortDrainsAndReports
  intro s c halive q
  refine ⟨?begins, ?ends, ?limit⟩
  case begins =>
    intro x hx hmin hab hcross
    obtain ⟨hseq, hmxe, hcause⟩ := State.beginAbort_spec hx hmin
    refine ⟨_, execAbort_of_causes halive hab hcross, ?_⟩
    rw [hseq, hmxe]
    refine ⟨rfl, rfl, rfl, rfl, hcause, rfl, rfl, rfl, rfl, rfl, rfl, rfl, rfl, rfl, rfl, fun b => ?_, rfl,
      byteAt_of_mem (State.beginAbort_mem s c)⟩
    exact congrArg Bank.st (Vector.getElem_replicate b.isLt)
  case ends =>
    intro hab hdone
    obtain ⟨htask, habort⟩ := s.endTask_seq c .aborted (BitVec.ofNat 8 (s.rf (pgSeq c) 0x1A0 0 8))
    obtain ⟨id, hreport⟩ := s.endTask_report c .aborted (BitVec.ofNat 8 (s.rf (pgSeq c) 0x1A0 0 8))
    obtain ⟨d, hidle⟩ := (s.endTask c .aborted (BitVec.ofNat 8 (s.rf (pgSeq c) 0x1A0 0 8))).becomeIdle_seq c
    refine ⟨_, execAbortEnd_of_done hab hdone halive, ?_⟩
    have hpaused : (s.endTask c .aborted (BitVec.ofNat 8 (s.rf (pgSeq c) 0x1A0 0 8))).paused (pgSeq c) = s.paused (pgSeq c) := by
      simp only [State.paused, State.rf, State.reg_endTask s c _ _ (show 0x10 < 0xC0 by decide)]
    rw [hidle, hpaused]
    exact ⟨htask, habort, rfl, ⟨id, State.mem_toCcu_becomeIdle hreport⟩, byteAt_of_mem (by simp)⟩
  case limit =>
    intro hab hdone hst
    refine ⟨_, execAbortDrainTmo_of_late hab hdone hst halive, by simp, fun hmask => ?_, byteAt_of_mem (by simp)⟩
    rw [State.reg_updSeq]
    exact State.errBit_err _ _ (by decide) hmask

end Sys2Proof.Machine

namespace Sys2Proof.Machine

/-! ### What a change of the cluster's flags leaves alone (R245, R257, R258) -/

/-- Recomputing the barriers writes registers, the cluster flags and messages to the cores, and nothing else. -/
theorem State.barriersRecompute_same {γ : Type} (f : State → γ) (hreg : ∀ s page off v, f (State.setReg s page off v) = f s)
    (hcf : ∀ s v, f (State.updCcu s fun u => { u with cf := v }) = f s) (hmsg : ∀ s c m, f (State.answer s c m) = f s)
    (s : State) : f s.barriersRecompute = f s := by
  have hbroadcast (t : State) (m : CoreMsg) : f (t.broadcast m) = f t := by
    refine foldl_same f _ (fun u c => ?_) _ t
    split
    · exact hmsg _ _ _
    · rfl
  have hset (t : State) (n : BitVec 5) (v : Bool) : f (t.setCf n v) = f t := by
    unfold State.setCf
    split
    · rfl
    · exact (hbroadcast _ _).trans (hcf _ _)
  have hcheck (t : State) (n : BitVec 5) : f (t.barrierCheck n) = f t := by
    unfold State.barrierCheck
    dsimp only
    split
    · exact (hset _ _ _).trans (hreg _ _ _ _)
    · rfl
  refine foldl_same f _ (fun t n => ?_) _ s
  split
  · rfl
  · exact (hcheck _ _).trans (hreg _ _ _ _)

@[simp] theorem State.core_barriersRecompute (s : State) (c : CoreId) : s.barriersRecompute.core c = s.core c :=
  s.barriersRecompute_same (·.core c) (fun _ _ _ _ => rfl) (fun _ _ => rfl) (fun _ _ _ => rfl)

@[simp] theorem State.barriersRecompute_watch (s : State) : s.barriersRecompute.ccu.watch = s.ccu.watch :=
  s.barriersRecompute_same (·.ccu.watch) (fun _ _ _ _ => rfl) (fun _ _ => rfl) (fun _ _ _ => rfl)

/-! ### Fencing (R472, R473) -/

/-- A core whose self-test begins is FENCED until the test has ended. -/
theorem State.startTest_fenced (s : State) (c : CoreId) (manual : Bool) :
    ((s.startTest c manual).core c).seq.st = .fenced ∧ (s.startTest c manual).ccu.watch[c].test = .running := by
  have hcore : (s.startTest c manual).core c =
      ((s.coreReset c (s.paused (pgSeq c))).updSeq c fun q => { q with st := .fenced }).core c := rfl
  rw [hcore, State.core_updSeq_same]
  exact ⟨rfl, congrArg CoreWatch.test (Vector.getElem_set_self _)⟩

theorem State.fenceCore_fenced (s : State) (c : CoreId) (reason : Nat) :
    ((s.fenceCore c reason).core c).seq.st = .fenced ∧ (s.fenceCore c reason).ccu.watch[c].test = .running := by
  unfold State.fenceCore
  dsimp only
  rw [State.core_barriersRecompute, State.barriersRecompute_watch]
  exact State.startTest_fenced _ c false

theorem execCoreFence_of_due {s : State} {c : CoreId} {r : BitVec 4} (hmay : s.mayFence c = true)
    (hdue : s.fenceDue c r.toNat = true) : exec (.coreFence c r) s = .next (s.fenceCore c r.toNat) := by
  show execCoreFence c r s = _
  simp [execCoreFence, hmay, hdue]

theorem execAbftMissReport_of_report {s : State} {c : CoreId} {rest : List CcuMsg} (halive : s.ccuAlive = true)
    (hq : s.ccu.toCcu[c] = .abftMiss :: rest) :
    exec (.abftMissReport c) s =
      let u := (s.popCcu c).updWatch c fun w => { w with abft := s.ccu.cyc.toNat :: w.abft }
      .next (if decide (3 ≤ u.recent u.ccu.watch[c].abft) && u.mayFence c then u.fenceCore c 1 else u) := by
  show execAbftMissReport c s = _
  simp only [execAbftMissReport, hq, halive, Bool.not_true, Bool.false_eq_true, if_false]

theorem execParityAbortReport_of_report {s : State} {c : CoreId} {rest : List CcuMsg} (halive : s.ccuAlive = true)
    (hq : s.ccu.toCcu[c] = .parityAbort :: rest) :
    exec (.parityAbortReport c) s =
      let u := (s.popCcu c).updWatch c fun w => { w with parity := s.ccu.cyc.toNat :: w.parity }
      .next (if decide (3 ≤ u.recent u.ccu.watch[c].parity) && u.mayFence c then u.fenceCore c 2 else u) := by
  show execParityAbortReport c s = _
  simp only [execParityAbortReport, hq, halive, Bool.not_true, Bool.false_eq_true, if_false]

/-! ### Heartbeats (R471, R475) -/

theorem execHeartbeatToken_of_running {s : State} {i : Fin 13} (hexp : s.hbExpected i = true)
    (hruns : vget false s.stopped (hbStopped i) = false) :
    exec (.heartbeatToken i) s = .next (s.updCcu fun u => { u with tokens := u.tokens.set i true }) := by
  show execHeartbeatToken i s = _
  simp [execHeartbeatToken, hexp, hruns]

theorem execHeartbeatReceive_of_token {s : State} {i : Fin 13} (htoken : s.ccu.tokens[i] = true) (halive : s.ccuAlive = true) :
    exec (.heartbeatReceive i) s =
      .next (s.updCcu fun u => { u with tokens := u.tokens.set i false, hbCount := u.hbCount.set i 0 }) := by
  show execHeartbeatReceive i s = _
  simp only [execHeartbeatReceive, htoken, halive, Bool.and_self, if_true]

/-- A missed heartbeat recorded: its bit of HB_STS, the error, and the counter started again. -/
def State.hbMissed (s : State) (i : Fin 13) : State :=
  ((s.orReg 0 0x168 (1 <<< i.val)).ccuErr 10 3 i.val).updCcu fun x => { x with hbCount := x.hbCount.set i 0 }

theorem execHeartbeatMiss_of_late {s : State} {i : Fin 13} (halive : s.ccuAlive = true) (hexp : s.hbExpected i = true)
    (hlate : s.hbLate i = true) :
    exec (.heartbeatMiss i) s =
      let u := s.hbMissed i
      if i.val < 8 then
        .next (if u.mayFence (Fin.ofNat 8 i.val) then u.fenceCore (Fin.ofNat 8 i.val) 3 else u)
      else if i.val = 8 then .next (if u.ccu.st = .fault then u else u.clusterFault 1)
      else .next (if u.ports[(Fin.ofNat 4 (i.val - 9) : PortId)].link = .failed then u
        else u.linkFail (Fin.ofNat 4 (i.val - 9))) := by
  show execHeartbeatMiss i s = _
  simp only [execHeartbeatMiss, halive, hexp, hlate, Bool.not_true, Bool.or_self, Bool.false_eq_true, if_false]
  rfl

theorem State.hbMissed_st (s : State) (i : Fin 13) : (s.hbMissed i).ccu.st = s.ccu.st := by
  show (State.ccuErr (s.orReg 0 0x168 (1 <<< i.val)) 10 3 i.val).ccu.st = _
  rw [State.ccuErr, State.err_ccu, State.orReg_ccu]

theorem State.hbMissed_link (s : State) (i : Fin 13) (p : PortId) : (s.hbMissed i).ports[p].link = s.ports[p].link := by
  unfold State.hbMissed State.ccuErr
  exact (State.err_sendsOnly _ 10 _ _ (by decide)).link p

theorem State.clusterFault_st (s : State) (code : Nat) : (s.clusterFault code).ccu.st = .fault := by
  have htell (l : List CoreId) (u : State) : (l.foldl (fun (t : State) c =>
      if t.ccu.holds[c].isSome then t.answer c (.cause 0x08) else t) u).ccu.st = u.ccu.st :=
    foldl_same (fun t : State => t.ccu.st) _ (fun t c => by split <;> rfl) l u
  unfold State.clusterFault
  dsimp only
  rw [(State.evt_sendsOnly _ _ _).ccu, State.ccuErr, State.err_ccu, htell]
  rfl

/-- A link that fails holds nothing for its neighbour, and sends nothing while the failure is reported (R429). -/
theorem State.linkFail_port (s : State) (p : PortId) :
    (s.linkFail p).ports[p].link = .failed ∧ (s.linkFail p).ports[p].replay = [] := by
  unfold State.linkFail State.portErr
  dsimp only
  have hreport (u : State) (i j : Dword) := State.err_sendsOnly u 9 i j (pgMp_lt p)
  have hlink (s : State) (f : Port → Port) : (s.updPort p f).ports[p] = f s.ports[p] := Vector.getElem_set_self _
  refine ⟨((hreport _ _ _).link p).trans ?_, ((hreport _ _ _).replay p ?_).trans ?_⟩
  · rw [State.bumpRf_ports, State.bumpRf_ports, hlink]
  · rw [State.bumpRf_ports, State.bumpRf_ports, hlink]
  · rw [State.bumpRf_ports, State.bumpRf_ports, hlink]

/-- Settles O50: reports fence at three in the window, each island's miss has its own consequence. -/
theorem missesAndHeartbeatsFenceACore : Obligations.MissesAndHeartbeatsFenceACore := by
  unfold Obligations.MissesAndHeartbeatsFenceACore
  refine ⟨?reports, ?heartbeats, ?stop⟩
  case reports =>
    intro s c halive
    refine ⟨?abft, ?parity, fun r hmay hdue => ?_⟩
    case abft =>
      intro rest hq u due
      have hexec : exec (.abftMissReport c) s = .next (if due then u.fenceCore c 1 else u) :=
        execAbftMissReport_of_report halive hq
      exact ⟨fun hd => by rw [hexec, hd, if_neg Bool.false_ne_true],
        fun hd => ⟨u.fenceCore c 1, by rw [hexec, hd, if_pos rfl], rfl, (u.fenceCore_fenced c 1).1⟩⟩
    case parity =>
      intro rest hq u due
      have hexec : exec (.parityAbortReport c) s = .next (if due then u.fenceCore c 2 else u) :=
        execParityAbortReport_of_report halive hq
      exact ⟨fun hd => by rw [hexec, hd, if_neg Bool.false_ne_true],
        fun hd => ⟨u.fenceCore c 2, by rw [hexec, hd, if_pos rfl], rfl, (u.fenceCore_fenced c 2).1⟩⟩
    · obtain ⟨hst, htest⟩ := s.fenceCore_fenced c r.toNat
      exact ⟨_, execCoreFence_of_due hmay hdue, rfl, hst, htest⟩
  case heartbeats =>
    intro s i hexp
    refine ⟨fun hruns => ?_, fun htoken halive => ?_, ?miss⟩
    · exact ⟨_, execHeartbeatToken_of_running hexp hruns, Vector.getElem_set_self _, fun c => rfl, fun a => rfl⟩
    · exact ⟨_, execHeartbeatReceive_of_token htoken halive, Vector.getElem_set_self _, Vector.getElem_set_self _⟩
    case miss =>
      intro halive hlate u
      have hexec := execHeartbeatMiss_of_late halive hexp hlate
      refine ⟨fun hi hmay => ?_, fun hi hst => ?_, ?port⟩
      · exact hexec.trans ((if_pos hi).trans (congrArg Host.Outcome.next (if_pos hmay)))
      · have hst' : u.ccu.st ≠ .fault := by rw [show u.ccu.st = s.ccu.st from s.hbMissed_st i]; exact hst
        exact ⟨_, hexec.trans ((if_neg (by omega)).trans ((if_pos hi).trans (congrArg Host.Outcome.next (if_neg hst')))), rfl,
          u.clusterFault_st 1⟩
      case port =>
        intro hi p hlink
        have hlink' : u.ports[p].link ≠ .failed := by
          rw [show u.ports[p].link = s.ports[p].link from s.hbMissed_link i p]; exact hlink
        exact ⟨_, hexec.trans ((if_neg (by omega)).trans ((if_neg (by omega)).trans (congrArg Host.Outcome.next (if_neg hlink')))),
          u.linkFail_port p⟩
  case stop =>
    intro s i
    exact ⟨_, rfl, Vector.getElem_set_self _, fun j hj => Vector.getElem_set_ne i.isLt j.isLt (Fin.val_ne_of_ne hj.symm),
      fun c => rfl⟩

end Sys2Proof.Machine

namespace Sys2Proof.Machine

/-! ### The LS queue (R124, R126) -/

/-- A queue head that nothing holds back leaves the queue, once what starting it needs is there. -/
theorem State.lsStart_of_go {s t : State} {c : CoreId} {e : QEntry} {rest : List QEntry} {op : Nat}
    {f : State → QEntry → Option State} (hq : (s.core c).seq.lsq = e :: rest) (hrun : s.mayStart c 3 = true)
    (hgo : s.lsExam c = .go) (hop : op32 e.bits = op) (hf : f (s.updSeq c fun q => { q with lsq := rest }) e = some t) :
    s.lsStart c op f = t := by
  simp [State.lsStart, hq, hop, State.mayExam_of_mayStart hrun, hgo, hrun, hf]

/-! ### Ops of the TLU, by their word number -/

@[simp] theorem State.core_updOp_same (s : State) (c : CoreId) (num : Nat) (f : TluOp → TluOp) :
    (s.updOp c num f).core c = { s.core c with
      trf := { (s.core c).trf with ops := modFirst (fun o => o.e.num == num) f (s.core c).trf.ops } } :=
  s.core_updTrf_same c _

theorem State.trf_updOp_of_only {s : State} {c : CoreId} {o : TluOp} (f : TluOp → TluOp) (h : (s.core c).trf.ops = [o]) :
    ((s.updOp c o.e.num f).core c).trf = { (s.core c).trf with ops := [f o] } := by
  simp [h, modFirst]

/-- An instruction without a done signal ends without a trace. -/
theorem State.done_of_noSignal {s : State} {c : CoreId} {e : QEntry} (h : e.sig = none) : s.done c e = s := by
  simp [State.done, h]

/-! ### The end of a TST (R131) -/

/-- A TST with no row to come leaves the TLU and is done. -/
theorem State.tstFinish_of_last {s : State} {c : CoreId} {num : Nat} {o : TluOp}
    (hfind : ((s.core c).trf.ops.find? fun y => y.e.num == num) = some o) (hpend : o.pend = []) :
    s.tstFinish c num = (s.updTrf c fun k => { k with ops := k.ops.filter fun y => y.e.num != num }).done c o.e := by
  simp [State.tstFinish, hfind, hpend]

/-- An op whose word number no earlier op has is found behind them. -/
theorem find?_append_of_new {ops : List TluOp} {o : TluOp} {num : Nat} (h : ∀ y ∈ ops, y.e.num ≠ num) (ho : o.e.num = num) :
    ((ops ++ [o]).find? fun y => y.e.num == num) = some o := by
  have hnone : (ops.find? fun y => y.e.num == num) = none := by simpa using h
  simp [List.find?_append, hnone, ho]

/-- Dropping it again leaves them. -/
theorem filter_append_of_new {ops : List TluOp} {o : TluOp} {num : Nat} (h : ∀ y ∈ ops, y.e.num ≠ num) (ho : o.e.num = num) :
    ((ops ++ [o]).filter fun y => y.e.num != num) = ops := by
  have hall : (ops.filter fun y => y.e.num != num) = ops := List.filter_eq_self.2 (by simpa using h)
  simp [List.filter_append, hall, ho]

/-! ### Reading the rows of a TST (R131, R539) -/

theorem State.tstRows_cons {s t : State} {c : CoreId} {e : QEntry} {tile : Nat} {x : TileCfg} {r : Nat} (rs : List Nat)
    (hbad : (s.trfLoad c c.val (x.at_ + r * x.rb) x.rb).bad = [])
    (hreq : ((s.trfLoad c c.val (x.at_ + r * x.rb) x.rb).s.updOp c e.num fun o =>
      { o with
        pend := o.pend ++ [r]
        gather := tputs 0 o.gather (256 * r) (s.trfLoad c c.val (x.at_ + r * x.rb) x.rb).bytes }).tstRequest c e
          (s.trfLoad c c.val (x.at_ + r * x.rb) x.rb).bytes r = some t) :
    s.tstRows c e tile x (r :: rs) = t.tstRows c e tile x rs := by
  simp only [State.tstRows, hbad, hreq]

/-! ### TLD, TST, TCFG and TINV -/

/-- The rows of a tile that are not poisoned, in order. -/
def State.goodRows (s : State) (c : CoreId) (t : Nat) : List Nat :=
  (List.range ((s.core c).trf.cfg t).nRows).filter fun r => !(vget 0 (s.core c).trf.poison t).getLsbD r

/-- A TST that has left the queue: its poisoned rows are counted, none of its rows is read yet. -/
def State.tstStart (s : State) (c : CoreId) (e : QEntry) (rest : List QEntry) : State :=
  let x := (s.core c).trf.cfg (lsTile e.bits)
  ((s.updSeq c fun q => { q with lsq := rest }).satRf (pgTrf c) 0x210 16 16
    (x.nRows - (s.goodRows c (lsTile e.bits)).length)).updTrf c fun k =>
    { k with ops := k.ops ++ [TluOp.start e true (lsTile e.bits) x []] }

section Start

variable {s : State} {c : CoreId} {e : QEntry} {rest : List QEntry}

theorem execTst_of_go {u : State} (hq : (s.core c).seq.lsq = e :: rest) (hrun : s.mayStart c 3 = true)
    (hgo : s.lsExam c = .go) (hop : op32 e.bits = 2)
    (hrows : (s.tstStart c e rest).tstRows c e (lsTile e.bits) ((s.core c).trf.cfg (lsTile e.bits))
      (s.goodRows c (lsTile e.bits)) = some u) :
    exec (.tst c) s = .next (u.tstFinish c e.num) := by
  unfold State.tstStart State.goodRows at hrows
  refine congrArg Host.Outcome.next (State.lsStart_of_go hq hrun hgo hop ?_)
  simp only [State.updSeq_core_trf, hrows, Option.map_some]

/-- A TST with every row poisoned leaves the TRF and the other ops as they were. -/
theorem State.tstFinish_tstStart (hnew : ∀ o ∈ (s.core c).trf.ops, o.e.num ≠ e.num) :
    ∃ v : State, (s.tstStart c e rest).tstFinish c e.num = v.done c e ∧ (v.core c).trf = (s.core c).trf ∧
      (v.core c).seq.lsq = rest ∧ v.mem = s.mem := by
  have hops : ((s.tstStart c e rest).core c).trf.ops =
      (s.core c).trf.ops ++ [TluOp.start e true (lsTile e.bits) ((s.core c).trf.cfg (lsTile e.bits)) []] := by
    simp [State.tstStart]
  have hdone := State.tstFinish_of_last (num := e.num) (by rw [hops]; exact find?_append_of_new hnew rfl) rfl
  refine ⟨_, hdone, ?_, ?_, rfl⟩
  · rw [State.core_updTrf_same, hops, filter_append_of_new (o := TluOp.start e true _ _ []) hnew rfl]
    simp [State.tstStart]
  · simp [State.tstStart]

end Start

/-- Settles O36: an LS queue head that nothing holds back starts by `lsStart_of_go`; a TST reads its rows one after another. -/
theorem tileLoadsAndStoresStart : Obligations.TileLoadsAndStoresStart := by
  unfold Obligations.TileLoadsAndStoresStart
  refine ⟨?start, ?row, fun s c e tile x => rfl⟩
  case start =>
    intro s c e rest hq hrun hgo s1 b tile x
    have hstart {op : Nat} {f : State → QEntry → Option State} {t : State} (hop : op32 e.bits = op) (hf : f s1 e = some t) :
        s.lsStart c op f = t := State.lsStart_of_go hq hrun hgo hop hf
    refine ⟨?tld, ?tst, fun hop => congrArg Host.Outcome.next (hstart hop rfl),
      fun hop => congrArg Host.Outcome.next (hstart hop rfl)⟩
    case tld =>
      intro hop rows s2 u hreq
      refine congrArg Host.Outcome.next (hstart hop ?_)
      simpa only [s1, State.updSeq_core_trf] using hreq
    case tst =>
      intro hop rows s2
      refine ⟨fun u hrows => execTst_of_go hq hrun hgo hop hrows, fun hnone hnew => ?_⟩
      obtain ⟨v, hv, hframe⟩ := State.tstFinish_tstStart (rest := rest) hnew
      refine ⟨v, (execTst_of_go hq hrun hgo hop ?_).trans (congrArg Host.Outcome.next hv), hframe⟩
      rw [show s.goodRows c (lsTile e.bits) = [] from hnone]
      rfl
  case row => exact fun s c e tile x r rs => fun hbad u hreq => State.tstRows_cons rs hbad hreq

end Sys2Proof.Machine

namespace Sys2Proof.Machine

/-! ### Writing the TRF leaves the ops of the TLU as they are (R453) -/

theorem State.encodeWord_sendsOnly (s : State) (g i : Nat) : SendsOnly s (s.encodeWord g i) := by
  have hset : ∀ m, SendsOnly s (s.setUpset g i m) := fun m => by
    unfold State.setUpset
    split <;> exact .of_eq rfl rfl rfl rfl rfl
  have hreg : ∀ (t : State) (f : Dword → Dword), SendsOnly t (t.modReg 6 0x158 f) := fun t f =>
    t.setReg_sendsOnly _ (by decide)
  have htested : ∀ (t : State) (l : List Nat), SendsOnly t { t with ecm := { t.ecm with tested := l } } := fun _ _ =>
    .of_eq rfl rfl rfl rfl rfl
  unfold State.encodeWord
  dsimp only
  split
  · exact ((hset _).trans (htested _ _)).trans (hreg _ _)
  · exact (hset _).trans (htested _ _)

theorem State.writeWord_sendsOnly (s : State) (src g i : Nat) (full : Bool) : SendsOnly s (s.writeWord src g i full).s := by
  have hclear : SendsOnly s (s.clearPoison g i) := by
    unfold State.clearPoison
    split <;> exact .of_eq rfl rfl rfl rfl rfl
  have hread := s.readWord_sendsOnly src g i
  unfold State.writeWord
  dsimp only
  split
  · exact hclear.trans (State.encodeWord_sendsOnly _ _ _)
  · split
    · exact hread
    · exact hread.trans (State.encodeWord_sendsOnly _ _ _)

@[simp] theorem State.core_writeWord (s : State) (src g i : Nat) (full : Bool) (c : CoreId) :
    (s.writeWord src g i full).s.core c = s.core c := (s.writeWord_sendsOnly src g i full).core c

@[simp] theorem State.trfStoreWords_ops (s : State) (c : CoreId) (src : Nat) (ws : List (Nat × List (Nat × Byte))) :
    ((s.trfStoreWords c src ws).s.core c).trf.ops = (s.core c).trf.ops := by
  induction ws generalizing s with
  | nil => rfl
  | cons w ws ih =>
    unfold State.trfStoreWords
    dsimp only
    split
    · split
      · rw [ih, State.core_writeWord]
      · rw [ih, State.core_updTrf_same, State.core_writeWord]
    · exact ih s

@[simp] theorem State.trfStore_ops (s : State) (c : CoreId) (src : Nat) (cs : List (Nat × Byte)) :
    ((s.trfStore c src cs).s.core c).trf.ops = (s.core c).trf.ops := by
  simp [State.trfStore]

/-! ### VALID and TPOISON of a tile (R123) -/

theorem vget_vmod_same {α : Type} {n : Nat} (d : α) (v : Vector α n) {i : Nat} (f : α → α) (h : i < n) :
    vget d (vmod v i f) i = f (vget d v i) := by
  simp [vget, vmod, h]

theorem Trf.valid_setValid (k : Trf) (t : BitVec 4) (v : Bool) : ((k.setValid t.toNat v).cfg t.toNat).valid = v := by
  rw [Trf.setValid, Trf.cfg, vget_vmod_same _ _ _ t.isLt]

/-- A poisoned row is marked; TPOISON has 64 bits. -/
theorem Trf.poison_addPoison_row (k : Trf) (t : BitVec 4) (row : Nat) :
    bitAt (vget 0 (k.addPoison t.toNat (1 <<< row)).poison t.toNat) row = decide (row < 64) := by
  have hbit : (((1 <<< row : Nat) : Dword)).getLsbD row = decide (row < 64) := by
    rw [BitVec.natCast_eq_ofNat, BitVec.getLsbD_ofNat, Nat.one_shiftLeft, Nat.testBit_two_pow_self, Bool.and_true]
  rw [Trf.addPoison, vget_vmod_same _ _ _ t.isLt, bitAt, BitVec.getLsbD_or, hbit]
  cases hrow : decide (row < 64) with
  | true => simp
  | false => simp [BitVec.getLsbD_of_ge _ _ (Nat.not_lt.1 (of_decide_eq_false hrow))]

/-! ### The last row of an op that has no done signal (R123, R128, R131) -/

section LastRow

variable {s : State} {c : CoreId} {o : TluOp} {row : Nat}

theorem State.trf_tldFinish_of_last (hops : (s.core c).trf.ops = [o]) (hpend : o.pend = []) (htrans : tldTrans o.e.bits = false)
    (hsig : o.e.sig = none) : ((s.tldFinish c o.e.num).core c).trf =
      { (s.core c).trf.setValid o.tile.toNat true with ops := [] } := by
  simp [State.tldFinish, hops, hpend, htrans, State.done_of_noSignal hsig, Trf.setValid]

/-- A TLD with rows still to come goes on. -/
theorem State.tldFinish_of_pend (hops : (s.core c).trf.ops = [o]) (hpend : o.pend ≠ []) : s.tldFinish c o.e.num = s := by
  simp [State.tldFinish, hops, hpend]

theorem State.ops_tstFinish_of_last (hops : (s.core c).trf.ops = [o]) (hpend : o.pend = []) (hsig : o.e.sig = none) :
    ((s.tstFinish c o.e.num).core c).trf.ops = [] := by
  have hfind : ((s.core c).trf.ops.find? fun y => y.e.num == o.e.num) = some o := by simp [hops]
  rw [State.tstFinish_of_last hfind hpend, State.done_of_noSignal hsig]
  simp [hops]

/-- The row that leaves is the last: the op leaves with it. `f` says what becomes of the op as the row leaves. -/
theorem State.trf_updOp_tldFinish {f : TluOp → TluOp} (hops : (s.core c).trf.ops = [o]) (he : (f o).e = o.e)
    (htile : (f o).tile = o.tile) (hpend : (f o).pend = []) (htrans : tldTrans o.e.bits = false) (hsig : o.e.sig = none) :
    (((s.updOp c o.e.num f).tldFinish c o.e.num).core c).trf =
      { (s.core c).trf.setValid o.tile.toNat true with ops := [] } := by
  have hleft := State.trf_updOp_of_only f hops
  have hend := State.trf_tldFinish_of_last (congrArg Trf.ops hleft) hpend (he ▸ htrans) (he ▸ hsig)
  rwa [he, htile, hleft] at hend

theorem State.trf_poisonRow_last (kind : Nat) (hops : (s.core c).trf.ops = [o]) (hpend : o.pend = [row])
    (htrans : tldTrans o.e.bits = false) (hsig : o.e.sig = none) : ((s.poisonRow c o row kind).core c).trf =
      { ((s.core c).trf.addPoison o.tile.toNat (1 <<< row)).setValid o.tile.toNat true with ops := [] } := by
  simp only [State.poisonRow, htrans, Bool.false_eq_true, if_false, State.tluErr]
  rw [State.trf_updOp_tldFinish _ rfl rfl (by simp [hpend]) htrans hsig]
  · simp
  · simpa [Trf.addPoison] using hops

/-- The TRF bytes of a row that has its data: those of the reply, or converted (R129). -/
def State.tldBytes (s : State) (c : CoreId) (o : TluOp) (row : Nat) (bs : List Byte) : List Byte :=
  if tldCv o.e.bits then cvRow o.e o.cfg (s.seed c) row bs else bs

theorem State.trf_landRow_last (bs : List Byte) (hops : (s.core c).trf.ops = [o]) (hpend : o.pend = [row])
    (htrans : tldTrans o.e.bits = false) (hsig : o.e.sig = none) : ((s.landRow c o row bs).core c).trf =
      { (((s.trfStore c c.val (cellsAt (o.cfg.at_ + row * o.cfg.rb) (s.tldBytes c o row bs))).s.core c).trf.setValid
          o.tile.toNat true) with ops := [] } := by
  simp only [State.landRow, htrans, Bool.false_eq_true, if_false]
  rw [State.trf_updOp_tldFinish _ rfl rfl (by simp [hpend]) htrans hsig]
  · simp [State.tldBytes]
  · simpa using hops

theorem State.ops_rowAccepted_last (hops : (s.core c).trf.ops = [o]) (hpend : o.pend = [row]) (hsig : o.e.sig = none) :
    ((s.rowAccepted c o row).core c).trf.ops = [] :=
  State.ops_tstFinish_of_last (o := { o with pend := o.pend.filter (· != row) }) (by simp [hops, modFirst])
    (by simp [hpend]) hsig

/-- A source row of a transposing load that is not the last is gathered. -/
theorem State.ops_landRow_trans {next : Nat} (bs : List Byte) (hops : (s.core c).trf.ops = [o]) (hpend : o.pend = [row, next])
    (hne : row ≠ next) (htrans : tldTrans o.e.bits = true) :
    ((s.landRow c o row bs).core c).trf.ops = [{ o with pend := [next], gather := scatter o.cfg row o.gather bs }] := by
  have hrest : o.pend.filter (· != row) = [next] := by simp [hpend, hne.symm]
  have hleft := congrArg Trf.ops (State.trf_updOp_of_only (fun y : TluOp =>
    { y with pend := y.pend.filter (· != row), gather := scatter o.cfg row y.gather bs }) hops)
  simp only [State.landRow, htrans, if_true]
  rw [hrest] at hleft
  rw [State.tldFinish_of_pend (o := { o with pend := [next], gather := scatter o.cfg row o.gather bs }) hleft (by simp), hleft]

end LastRow

/-! ### TLD_ROW_RETURN, TLD_ROW_TMO and TST_ROW_ACCEPT (R127, R128, R131) -/

/-- What becomes of a TLD row, by what its read gives: it lands, is poisoned or aborts the task; a busy target changes
nothing. -/
def State.tldRowEnds (s : State) (c : CoreId) (o : TluOp) (i : Nat) (g : Got) : State :=
  let u := g.s.takeTag (.tlu c o.e.num i)
  match g.err with
  | none => u.landRow c o i g.bytes
  | some .busy => s
  | some x =>
    if x.kind = 5 then u.tluAbort c 13 0x09 (tluInfo o.e o.tile.toNat i 4) (o.e.rowAddr i + 2 ^ 48 * 5)
    else u.poisonRow c o i x.kind

theorem State.tldRowEnds_of_data {s : State} {c : CoreId} {o : TluOp} {i : Nat} {g : Got} (hg : g.err = none) :
    s.tldRowEnds c o i g = (g.s.takeTag (.tlu c o.e.num i)).landRow c o i g.bytes := by
  unfold State.tldRowEnds
  rw [hg]

theorem State.tldRowEnds_of_fault {s : State} {c : CoreId} {o : TluOp} {i : Nat} {g : Got} {x : MemErr} (hg : g.err = some x)
    (hx : x ≠ .busy) : s.tldRowEnds c o i g =
      if x.kind = 5 then
        (g.s.takeTag (.tlu c o.e.num i)).tluAbort c 13 0x09 (tluInfo o.e o.tile.toNat i 4) (o.e.rowAddr i + 2 ^ 48 * 5)
      else (g.s.takeTag (.tlu c o.e.num i)).poisonRow c o i x.kind := by
  unfold State.tldRowEnds
  rw [hg]
  cases x with
  | busy => exact absurd rfl hx
  | _ => rfl

/-- What becomes of a TST row, by what its target answers: it leaves or faults; a busy target changes nothing. -/
def State.tstRowEnds (s : State) (c : CoreId) (o : TluOp) (n : Nat) (g : Got) : State :=
  let u := g.s.takeTag (.tlu c o.e.num n)
  match g.err with
  | none => u.rowAccepted c o n
  | some .busy => s
  | some x => u.tstFault c o n x.kind x.tstCause

theorem State.tstRowEnds_of_taken {s : State} {c : CoreId} {o : TluOp} {n : Nat} {g : Got} (hg : g.err = none) :
    s.tstRowEnds c o n g = (g.s.takeTag (.tlu c o.e.num n)).rowAccepted c o n := by
  unfold State.tstRowEnds
  rw [hg]

theorem State.tstRowEnds_of_fault {s : State} {c : CoreId} {o : TluOp} {n : Nat} {g : Got} {x : MemErr} (hg : g.err = some x)
    (hx : x ≠ .busy) :
    s.tstRowEnds c o n g = (g.s.takeTag (.tlu c o.e.num n)).tstFault c o n x.kind x.tstCause := by
  unfold State.tstRowEnds
  rw [hg]
  cases x with
  | busy => exact absurd rfl hx
  | _ => rfl

section Rows

variable {s : State} {c : CoreId} {row : Byte} {o : TluOp}

/-- An outstanding row whose turn it is, and that waits for no fill, is read. -/
theorem execTldRowReturn_of_turn {op : Fin 2} (r : Reply) (hop : (s.core c).trf.ops[op.val]? = some o)
    (hload : o.store = false) (hpend : o.pend.contains row.toNat = true) (hheld : o.held.contains row.toNat = false)
    (hturn : s.rowTurn c op.val false = true) (hcauses : (s.core c).seq.causes = [])
    (hwaits : s.cscWaits c (.tlu c o.e.num row.toNat) (if o.denied.contains row.toNat then [] else
      s.rowLines c (o.e.rowAddr row.toNat) (tluLen false o.e.bits o.cfg)
        (linesOf (o.e.rowAddr row.toNat) (tluLen false o.e.bits o.cfg))) = none)
    (hbond : s.bondBad (.tlu c o.e.num row.toNat) = false) :
    exec (.tldRowReturn c op row r) s = .next
      (s.tldRowEnds c o row.toNat (s.tldRead c o row.toNat (tluLen false o.e.bits o.cfg) r)) := by
  show execTldRowReturn c op row r s = _
  generalize hread : s.tldRead c o row.toNat (tluLen false o.e.bits o.cfg) r = g
  simp only [execTldRowReturn, hread, hop, hload, hpend, hheld, hturn, hcauses, hwaits, hbond, Bool.not_true,
    List.isEmpty_nil, Bool.or_self, Bool.false_eq_true, if_false]
  obtain ⟨bytes, err, u⟩ := g
  cases err with
  | none => rfl
  | some x =>
    cases x with
    | busy => rfl
    | _ => exact (apply_ite Host.Outcome.next _ _ _).symm

/-- No reply in time: the row counts, and is poisoned or aborts (R128). -/
theorem execTldRowTmo_of_pend {op : Fin 2} (hop : (s.core c).trf.ops[op.val]? = some o)
    (hpend : o.pend.contains row.toNat = true) (hheld : o.held.contains row.toNat = false) (halive : s.alive c = true)
    (hcauses : (s.core c).seq.causes = []) : exec (.tldRowTmo c op row) s = .next
      ((if o.store then (s.satRf (pgTrf c) 0x210 32 16 1).tstFault c o row.toNat 3 0x03
        else (s.satRf (pgTrf c) 0x210 32 16 1).poisonRow c o row.toNat 3).freeUser (.tlu c o.e.num row.toNat)) := by
  show execTldRowTmo c op row s = _
  simp only [execTldRowTmo, hop, hpend, hheld, halive, hcauses, Bool.not_true, List.isEmpty_nil, Bool.or_self,
    Bool.false_eq_true, if_false]

/-- A row that is not transactional, in its turn, and that waits for no fill, is offered to its target. -/
theorem execTstRowAccept_of_turn {i : Nat} (r : Reply) (hrow : (s.core c).storeRow row.toNat = some (i, o))
    (hturn : s.storeTurn c i = true) (htx : o.tx.contains row.toNat = false) (hheld : o.held.contains row.toNat = false)
    (hwaits : s.cscWaits c (.tlu c o.e.num row.toNat) (if o.denied.contains row.toNat then [] else
      s.rowLines c (o.e.rowAddr row.toNat) (o.rowBytes row.toNat).length
        (partialLines (o.e.rowAddr row.toNat) (o.rowBytes row.toNat).length)) = none)
    (hbond : s.bondBad (.tlu c o.e.num row.toNat) = false) :
    exec (.tstRowAccept c row r) s = .next
      (s.tstRowEnds c o row.toNat (s.tstWrite c o row.toNat (o.rowBytes row.toNat) r)) := by
  show execTstRowAccept c row r s = _
  generalize hwrite : s.tstWrite c o row.toNat (o.rowBytes row.toNat) r = g
  simp only [execTstRowAccept, hwrite, hrow, hturn, htx, hheld, hwaits, hbond, Bool.not_true, Bool.or_self,
    Bool.false_eq_true, if_false]
  obtain ⟨bytes, err, u⟩ := g
  cases err with
  | none => rfl
  | some x => cases x <;> rfl

end Rows

/-- Settles O37: a row that returns, times out or is accepted ends as `tldRowEnds`, `execTldRowTmo_of_pend` and `tstRowEnds`
say; with the last one its op leaves the TLU. -/
theorem tileRowsReturnAndAreAccepted : Obligations.TileRowsReturnAndAreAccepted := by
  unfold Obligations.TileRowsReturnAndAreAccepted
  intro s c
  refine ⟨?returned, ?late, ?accepted, ?last, ?gathered⟩
  case returned =>
    intro op row r o hop hload hpend hheld hturn hcauses i n user hwaits hbond g
    rw [execTldRowReturn_of_turn r hop hload hpend hheld hturn hcauses hwaits hbond]
    refine ⟨fun hg => by rw [State.tldRowEnds_of_data hg], fun x hg hx hkind => ?poisoned, fun x hg hkind => ?window⟩
    case poisoned => rw [State.tldRowEnds_of_fault hg hx, if_neg hkind]
    case window =>
      have hx : x ≠ .busy := fun h => absurd (h ▸ hkind) (by decide)
      rw [State.tldRowEnds_of_fault hg hx, if_pos hkind]
  case late =>
    intro op row o hop hpend hheld halive hcauses s1 user
    rw [execTldRowTmo_of_pend hop hpend hheld halive hcauses]
    exact ⟨fun hload => by rw [hload]; rfl, fun hstore => by rw [hstore]; rfl⟩
  case accepted =>
    intro row r i o hrow hturn n htx hheld bs user loc hwaits hbond g
    rw [execTstRowAccept_of_turn r hrow hturn htx hheld hwaits hbond]
    exact ⟨fun hg => by rw [State.tstRowEnds_of_taken hg], fun x hg hx => by rw [State.tstRowEnds_of_fault hg hx]⟩
  case last =>
    intro o row bs hops hpend hsig p l w
    refine ⟨fun htrans => ?load, fun _ => State.ops_rowAccepted_last hops hpend hsig⟩
    case load =>
      have hp := State.trf_poisonRow_last 2 hops hpend htrans hsig
      have hl := State.trf_landRow_last bs hops hpend htrans hsig
      rw [show (p.core c).trf = _ from hp, show (l.core c).trf = _ from hl]
      exact ⟨⟨Trf.valid_setValid _ _ _, rfl, Trf.poison_addPoison_row _ _ _, rfl⟩, Trf.valid_setValid _ _ _, rfl, rfl⟩
  case gathered => exact fun o row next bs hops hpend hne htrans => State.ops_landRow_trans bs hops hpend hne htrans

end Sys2Proof.Machine

namespace Sys2Proof.Machine

/-! ### The VX queue (R161, R540) -/

/-- A queue head that nothing holds back leaves the queue. -/
theorem State.vxIssue_of_go {s : State} {c : CoreId} {e : QEntry} {rest : List QEntry} {op : Nat} (f : State → QEntry → State)
    (hq : (s.core c).seq.vxq = e :: rest) (hrun : s.mayStart c 2 = true) (hgo : s.vxExam c = .go) (hop : op40 e.bits = op) :
    s.vxIssue c op f = f (s.updSeq c fun q => { q with vxq := rest }) e := by
  simp [State.vxIssue, hq, hop, State.mayExam_of_mayStart hrun, hgo, hrun]

/-- What a VXE instruction does leaves memory as it is when its effect does. -/
theorem State.vxIssue_mem (s : State) (c : CoreId) (op : Nat) (f : State → QEntry → State)
    (hf : ∀ t e, (f t e).mem = t.mem) : (s.vxIssue c op f).mem = s.mem := by
  unfold State.vxIssue
  (repeat' split) <;> simp [hf]

/-! ### VCLR CLEAR (R178) -/

/-- A table after one value has been put at each of a list of keys. -/
theorem tget_foldl_tput {α : Type} [DecidableEq α] (d : α) (v : α) (ks : List Nat) (t : Tab α) (k : Nat) :
    tget d (ks.foldl (fun u i => tput d u i v) t) k = if k ∈ ks then v else tget d t k := by
  induction ks generalizing t with
  | nil => simp
  | cons i ks ih =>
    rw [List.foldl_cons, ih]
    by_cases hk : k = i
    · simp [hk]
    · simp [hk, tget_tput_other d t v hk]

theorem vget_vmap {α : Type} {n : Nat} (d : α) (f : Nat → α → α) (v : Vector α n) {i : Nat} (h : i < n) :
    vget d (vmap f v) i = f i (vget d v i) := by
  simp [vget, vmap, h]

/-- The RSS values that a CLEAR writes, by row × 4 + value. -/
def vclrKeys (e : QEntry) : List Nat :=
  (List.range (min 256 (e.va 28 % 512))).flatMap fun j =>
    (List.range 4).filterMap fun v => if e.bits.getLsbD (24 + v) then some (4 * ((vxRssb e.bits + j) % 256) + v) else none

/-- They are the values that k names of the rows from RSSB. -/
theorem mem_vclrKeys {e : QEntry} {row i : Nat} (hi : i < 4) : 4 * row + i ∈ vclrKeys e ↔
    (e.bits.getLsbD (24 + i) &&
      (List.range (min 256 (e.va 28 % 512))).any fun j => (vxRssb e.bits + j) % 256 == row) = true := by
  simp only [vclrKeys, List.mem_flatMap, List.mem_filterMap, List.mem_range, Option.ite_none_right_eq_some, Option.some.injEq,
    Bool.and_eq_true, List.any_eq_true, beq_iff_eq]
  constructor
  · rintro ⟨j, hj, v, hv, hbit, hkey⟩
    obtain ⟨rfl, hrow⟩ : v = i ∧ (vxRssb e.bits + j) % 256 = row := by omega
    exact ⟨hbit, j, hj, hrow⟩
  · rintro ⟨hbit, j, hj, rfl⟩
    exact ⟨j, hj, i, hi, hbit, rfl⟩

/-- INIT of a CLEAR. -/
def vclrInit (e : QEntry) : Word32 :=
  if fld e.bits 2 2 = 0 then 0 else if fld e.bits 2 2 = 1 then 0xFF800000 else 0x7F800000

/-- The vector engine after a CLEAR. -/
def Vxe.cleared (e : QEntry) (k : Vxe) : Vxe :=
  { k with
    vsum := vmap (fun i x => if e.bits.getLsbD (12 + i) then 0 else x) k.vsum
    anyNan := if e.bits.getLsbD 1 then false else k.anyNan
    anyInf := if e.bits.getLsbD 1 then false else k.anyInf
    ovf := if e.bits.getLsbD 1 then false else k.ovf
    allZero := if e.bits.getLsbD 1 then true else k.allZero
    p := if e.bits.getLsbD 0 then 0 else k.p
    rss := (vclrKeys e).foldl (fun t i => tput 0 t i (vclrInit e)) k.rss
    rssBad := k.rssBad.filter fun i => !(vclrKeys e).contains i }

theorem Vxe.sticky_cleared (e : QEntry) (k : Vxe) :
    ((k.cleared e).anyNan, (k.cleared e).anyInf, (k.cleared e).ovf, (k.cleared e).allZero) =
      if e.bits.getLsbD 1 then (false, false, false, true) else (k.anyNan, k.anyInf, k.ovf, k.allZero) := by
  unfold Vxe.cleared
  cases e.bits.getLsbD 1 <;> rfl

theorem Vxe.rss_cleared (e : QEntry) (k : Vxe) {row i : Nat} (hi : i < 4) : tget 0 (k.cleared e).rss (4 * row + i) =
    if e.bits.getLsbD (24 + i) &&
      (List.range (min 256 (e.va 28 % 512))).any (fun j => (vxRssb e.bits + j) % 256 == row) then vclrInit e
    else tget 0 k.rss (4 * row + i) := by
  rw [Vxe.cleared, tget_foldl_tput, if_congr (mem_vclrKeys hi) rfl rfl]

/-! ### A VCLR at the head of the VX queue (R178, R540) -/

section Vclr

variable {s : State} {c : CoreId} {e : QEntry} {rest : List QEntry}

/-- With every earlier VX instruction complete nothing holds a VCLR back. -/
theorem State.vxExam_of_vclr (hq : (s.core c).seq.vxq = e :: rest) (hacts : (s.core c).vxe.acts = [])
    (hop : op40 e.bits = 4) : s.vxExam c = .go := by
  simp [State.vxExam, hq, hacts, hop]

variable (hq : (s.core c).seq.vxq = e :: rest) (hrun : s.mayStart c 2 = true) (hacts : (s.core c).vxe.acts = [])
  (hop : op40 e.bits = 4)

include hq hrun hacts hop

theorem State.vxIssue_of_vclr (f : State → QEntry → State) :
    s.vxIssue c 4 f = f (s.updSeq c fun q => { q with vxq := rest }) e :=
  State.vxIssue_of_go f hq hrun (State.vxExam_of_vclr hq hacts hop) hop

theorem execVclrClear_of_head (hsub : fld e.bits 20 4 = 0) : exec (.vclrClear c) s = .next
    (((s.updSeq c fun q => { q with vxq := rest }).updVxe c (Vxe.cleared e)).done c e) := by
  show execVclrClear c s = _
  simp only [execVclrClear, hq, hsub, ne_eq, not_true, if_false]
  rw [State.vxIssue_of_vclr hq hrun hacts hop]
  rfl

theorem execVclrSetk_of_head (hsub : fld e.bits 20 4 = 2) : exec (.vclrSetk c) s = .next
    ((((s.updSeq c fun q => { q with vxq := rest }).setRf (pgVxe c)
      (chtAt (vxChain e.bits) + 0x48 + 8 * (fld e.bits 24 4 / 2)) (32 * (fld e.bits 24 4 % 2)) 32 (e.va 28)).setRf
        (pgVxe c) 0x1F8 (vxChain e.bits) 1 0).done c e) := by
  show execVclrSetk c s = _
  simp only [execVclrSetk, hq, hsub, ne_eq, not_true, if_false]
  rw [State.vxIssue_of_vclr hq hrun hacts hop]

/-- Its bytes lie in the own CSP and are good: it loads them and completes. -/
theorem State.vclrLoad_of_good {sub n align off : Nat} (f : State → QEntry → List Byte → State) (hsub : fld e.bits 20 4 = sub)
    (hoff : s.ownCsp c (e.va 28) = some off) (halign : e.va 28 % align = 0) (hend : off + n ≤ cspSize)
    (hbad : ((s.updSeq c fun q => { q with vxq := rest }).cspLoad c .ownCore off n).bad = []) :
    s.vclrLoad c sub n align f =
      let r := (s.updSeq c fun q => { q with vxq := rest }).cspLoad c .ownCore off n
      (f r.s e r.bytes).done c e := by
  have hown : (s.updSeq c fun q => { q with vxq := rest }).ownCsp c (e.va 28) = some off := hoff
  simp only [State.vclrLoad, hq, hsub, ne_eq, not_true, if_false]
  rw [State.vxIssue_of_vclr hq hrun hacts hop]
  simp [hown, halign, Nat.not_lt.2 hend, hbad]

/-- An address outside the own CSP or not aligned aborts with WINDOW. -/
theorem State.vclrLoad_of_window {sub n align : Nat} (f : State → QEntry → List Byte → State) (hsub : fld e.bits 20 4 = sub)
    (hout : s.ownCsp c (e.va 28) = none ∨ e.va 28 % align ≠ 0) : s.vclrLoad c sub n align f =
      (s.updSeq c fun q => { q with vxq := rest }).vxAbort c e 11 0x09 0 8 (e.va 28) := by
  have hown : (s.updSeq c fun q => { q with vxq := rest }).ownCsp c (e.va 28) = s.ownCsp c (e.va 28) := rfl
  simp only [State.vclrLoad, hq, hsub, ne_eq, not_true, if_false]
  rw [State.vxIssue_of_vclr hq hrun hacts hop]
  simp only [hown]
  cases hcase : s.ownCsp c (e.va 28) with
  | none => rfl
  | some off => exact if_pos (.inl (hout.resolve_left (by simp [hcase])))

end Vclr

/-! ### A VCLR stores nothing -/

theorem execVclrClear_mem {s t : State} {c : CoreId} (h : execVclrClear c s = .next t) : t.mem = s.mem := by
  unfold execVclrClear at h
  split at h
  · cases h; rfl
  · split at h
    · cases h; rfl
    · cases h
      exact State.vxIssue_mem _ _ _ _ fun t e => by simp

theorem execVclrSetk_mem {s t : State} {c : CoreId} (h : execVclrSetk c s = .next t) : t.mem = s.mem := by
  unfold execVclrSetk at h
  split at h
  · cases h; rfl
  · split at h
    · cases h; rfl
    · cases h
      exact State.vxIssue_mem _ _ _ _ fun t e => by simp

/-- A VCLR that loads leaves memory as it is when what it does with the bytes does. -/
theorem State.vclrLoad_mem (s : State) (c : CoreId) (sub n align : Nat) (f : State → QEntry → List Byte → State)
    (hf : ∀ t e bs, (f t e bs).mem = t.mem) : (s.vclrLoad c sub n align f).mem = s.mem := by
  unfold State.vclrLoad
  split
  · rfl
  · split
    · rfl
    · refine State.vxIssue_mem _ _ _ _ fun t e => ?_
      dsimp only
      (repeat' split) <;> simp [hf]

theorem execVclrLoadc_mem {s t : State} {c : CoreId} (h : execVclrLoadc c s = .next t) : t.mem = s.mem := by
  cases h
  exact State.vclrLoad_mem _ _ _ _ _ _ fun _ _ _ => (State.setRf_mem _ _ _ _ _ _).trans (foldl_mem _ _ _ (by simp))

theorem execVclrLoadp_mem {s t : State} {c : CoreId} (h : execVclrLoadp c s = .next t) : t.mem = s.mem := by
  cases h
  exact State.vclrLoad_mem _ _ _ _ _ _ (by simp)

/-- Settles O39: a VCLR at the head, with nothing in progress, issues; CLEAR leaves `Vxe.cleared`, the others load. -/
theorem vclrLoadsAndClears : Obligations.VclrLoadsAndClears := by
  unfold Obligations.VclrLoadsAndClears
  intro s c e rest hq hrun hacts hop s1 b n v count init
  refine ⟨?clear, fun hsub => execVclrSetk_of_head hq hrun hacts hop hsub, fun off hoff => ⟨?loadc, ?loadp⟩, ?windowc, ?windowp,
    ?memory⟩
  case clear =>
    intro hsub
    refine ⟨_, execVclrClear_of_head hq hrun hacts hop hsub, fun a => rfl, by simp, ?_⟩
    have hvxe : ((s1.updVxe c (Vxe.cleared e)).core c).vxe = v.cleared e := by simp [s1, v]
    rw [show (((s.updSeq c fun q => { q with vxq := rest }).updVxe c (Vxe.cleared e)).core c).vxe = _ from hvxe]
    exact ⟨fun i hi => vget_vmap _ _ _ hi, rfl, v.sticky_cleared e, fun row i _ hi => v.rss_cleared e hi⟩
  case loadc =>
    intro hsub halign hend r hbad
    exact congrArg Host.Outcome.next (State.vclrLoad_of_good hq hrun hacts hop _ hsub hoff halign hend hbad)
  case loadp =>
    intro hsub halign hend r hbad
    exact congrArg Host.Outcome.next (State.vclrLoad_of_good hq hrun hacts hop _ hsub hoff halign hend hbad)
  case windowc =>
    exact fun hout hsub => congrArg Host.Outcome.next (State.vclrLoad_of_window hq hrun hacts hop _ hsub hout)
  case windowp =>
    exact fun hout hsub => congrArg Host.Outcome.next (State.vclrLoad_of_window hq hrun hacts hop _ hsub hout)
  case memory =>
    simp only [List.mem_cons, List.not_mem_nil, or_false, forall_eq_or_imp, forall_eq]
    exact ⟨fun t => execVclrClear_mem, fun t => execVclrLoadc_mem, fun t => execVclrSetk_mem, fun t => execVclrLoadp_mem⟩

end Sys2Proof.Machine

namespace Sys2Proof.Machine

/-! ### Letting the chains in progress go on (R161) -/

/-- A head that may issue, other than a VCLR, finds no instruction with beats to read. -/
theorem State.noReading_of_go {s : State} {c : CoreId} {e : QEntry} {rest : List QEntry}
    (hq : (s.core c).seq.vxq = e :: rest) (hgo : s.vxExam c = .go) : (s.core c).vxe.acts.find? VxAct.reading = none := by
  have hnone : ¬ (s.core c).vxe.acts.any VxAct.reading = true := fun hany => by simp [State.vxExam, hq, hany] at hgo
  simpa using hnone

/-- With no instruction that has beats to read, to compute or to send there is nothing to do. -/
theorem State.vxStep_of_idle {s : State} {c : CoreId} (h : (s.core c).vxe.acts.find? VxAct.reading = none) :
    s.vxStep c = (false, s) := by
  simp only [State.vxStep, h]

theorem State.vxSteps_of_idle {s : State} {c : CoreId} (h : (s.core c).vxe.acts.find? VxAct.reading = none) (n : Nat) :
    s.vxSteps c n = s := by
  cases n with
  | zero => rfl
  | succ n => simp [State.vxSteps, State.vxStep_of_idle h]

theorem State.vxPump_of_idle {s : State} {c : CoreId} (h : (s.core c).vxe.acts.find? VxAct.reading = none) :
    s.vxPump c = s := State.vxSteps_of_idle h _

/-! ### Issue with N = 0 (R161) -/

/-- An instruction of no beats with no stream in the CSP is in progress, and reads nothing. -/
theorem State.vxStart_of_noBeats {s : State} {c : CoreId} {e : QEntry}
    (hidle : (s.core c).vxe.acts.find? VxAct.reading = none) (hn : e.beats = 0)
    (hin0 : (s.chain c (vxChain e.bits)).in0k ≠ 1) (hin1 : (s.chain c (vxChain e.bits)).in1k ≠ 1)
    (hout : (s.chain c (vxChain e.bits)).outk ≠ 1) :
    ∃ a, s.vxStart c e = (s.updVxe c fun v => { v with acts := v.acts ++ [a] }) ∧ a.e = e ∧ a.n = 0 ∧ a.reading = false := by
  unfold State.vxStart
  simp only [Chain.in0, Chain.in1, Chain.out, hin0, hin1, hout, if_false, List.append_nil, State.vxRings, hn, if_true]
  refine ⟨_, State.vxPump_of_idle ?_, rfl, rfl, rfl⟩
  rw [State.core_updVxe_same, List.find?_append, hidle]
  rfl

/-! ### FTQ tiles (R148, R149, R150) -/

section Ftq

variable {s : State} {c : CoreId} {a : VxAct} {i : Fin 4}

/-- A slot whose format is right is taken if it is in order and its shape is right; out of order it aborts. -/
theorem execFtqTileSelect_of_slot (hwant : (s.core c).wantsTile = some a) (halive : s.alive c = true)
    (hcauses : (s.core c).seq.causes = []) (hsel : (s.core c).mxe.select (a.chain.in0 a.e).a = some i)
    (hfmt : a.chain.in0f = if (s.core c).mxe.ftq[i].int then 8 else 0) : exec (.ftqTileSelect c) s = .next
      (let x := (s.core c).mxe.ftq[i]
       let np := (s.core c).mxe.nextPop
       if (a.chain.ord && x.seq != np) || (!a.chain.ord && x.chain) then
         s.vxAbort c a.e 15 0x12 0 7 (i.val + 2 ^ 16 * np.toNat + 2 ^ 48 * x.seq.toNat)
       else if a.chain.rowsBad a.e x then s.vxAbort c a.e 8 0x01 0 12 i.val
       else (s.updReading c fun y =>
         { y with slot := some i, tiles := y.tiles ++ [(y.rd * a.chain.epb, x.shape)] }).vxPump c) := by
  show execFtqTileSelect c s = _
  simp only [execFtqTileSelect, hwant, halive, hcauses, hsel, ← hfmt, List.isEmpty_nil, Bool.not_true, Bool.false_eq_true, or_self,
    if_false, ne_eq, not_true]
  split
  · rfl
  · split <;> rfl

/-- The order check as the model computes it. -/
theorem ftqOrderBad_iff {ord chain : Bool} {x np : BitVec 16} :
    ((ord && x != np) || (!ord && chain)) = true ↔ ¬ ((ord = true → x = np) ∧ (ord = false → chain = false)) := by
  cases ord <;> simp

/-- A slot read to its last word is popped. -/
theorem State.vxReadFtq_of_end (hslot : a.slot = some i) (hbad : (s.core c).mxe.ftq[i].bad = [])
    (hend : 4096 ≤ a.slotPos + a.chain.epb) :
    ∃ t : State, s.vxReadFtq c a = .got ((s.core c).mxe.ftq[i].bytes a.slotPos a.chain.epb) t ∧
      (t.core c).mxe.ftq[i] = FtqSlot.empty ∧ t.mem = s.mem := by
  simp only [State.vxReadFtq, hslot, hbad, List.any_nil, Bool.false_eq_true, if_false, Nat.not_lt.2 hend]
  refine ⟨_, rfl, ?_, by simp⟩
  simp [State.updReading]

end Ftq

/-! ### Beats (R170, R171) -/

theorem State.vxBeat_of_good {s : State} {c : CoreId} {a : VxAct}
    (hrss : (a.rssReads a.chain).any (s.core c).vxe.rssBad.contains = false)
    (hfault : (s.runBeat c a.chain (s.beatIn c a.chain a) (if a.chain.maskk = 1 then a.maskOf a.chain else [])).fault = none) :
    s.vxBeat c a =
      let h := a.chain
      let mask := if h.maskk = 1 then a.maskOf h else []
      let y := s.runBeat c h (s.beatIn c h a) mask
      let live := h.live mask y.outs
      let els := y.outs.getLastD []
      let s1 := (y.s.pm (pgVxe c) 0x0B (h.transStages * els.length)).pm (pgVxe c) 0x0C (live.filter (! ·)).length
      (s1.updVxe c fun v => v.sticky h (anyLive y.ovf live) (anyLive y.nan live) (List.zip els live)).vxOut c h a (els, live) := by
  simp only [State.vxBeat, hrss, hfault, Bool.false_eq_true, if_false]

/-! ### Completion (R161, R164, R168, R189) -/

@[simp] theorem State.acts_vxSum (s : State) (c : CoreId) (h : Chain) (a : VxAct) :
    ((s.vxSum c h a).core c).vxe.acts = (s.core c).vxe.acts := by
  simp [State.vxSum]

@[simp] theorem State.acts_vxRss (s : State) (c : CoreId) (h : Chain) (a : VxAct) :
    ((s.vxRss c h a).core c).vxe.acts = (s.core c).vxe.acts := by
  refine foldl_same (fun t : State => (t.core c).vxe.acts) _ (fun t x => ?_) _ s
  dsimp only
  split
  · rfl
  · simp

/-- The state with what the reduction of an instruction leaves: VSUM and P, or the RSS. -/
def State.vxReduced (s : State) (c : CoreId) (h : Chain) (a : VxAct) : State :=
  if op40 a.e.bits = 2 then s.vxSum c h a else if op40 a.e.bits = 3 then s.vxRss c h a else s

theorem State.acts_vxReduced (s : State) (c : CoreId) (h : Chain) (a : VxAct) :
    ((s.vxReduced c h a).core c).vxe.acts = (s.core c).vxe.acts := by
  unfold State.vxReduced
  split
  · exact s.acts_vxSum c h a
  · split
    · exact s.acts_vxRss c h a
    · rfl

/-- Beside its reduction the results of an instruction leave the vector engine as it is. -/
theorem State.vxe_vxResults (s : State) (c : CoreId) (h : Chain) (a : VxAct) :
    ((s.vxResults c h a).core c).vxe = ((s.vxReduced c h a).core c).vxe := by
  unfold State.vxResults State.vxReduced
  dsimp only
  split <;> simp

/-- An output tile becomes valid. -/
theorem State.tile_vxResults (s : State) (c : CoreId) {h : Chain} (a : VxAct) (hout : h.outk = 2) :
    (((s.vxResults c h a).core c).trf.cfg ((h.out a.e).a % 16)).valid = true := by
  have hvalid (k : Trf) := k.valid_setValid (BitVec.ofNat 4 (h.out a.e).a) true
  rw [BitVec.toNat_ofNat] at hvalid
  simp only [State.vxResults, hout, State.core_updTrf_same]
  exact hvalid _

/-- A scale-buffer entry becomes valid. -/
theorem State.sb_vxResults (s : State) (c : CoreId) {h : Chain} (a : VxAct) (hout : h.outk = 4) :
    (vget ⟨false, [], []⟩ ((s.vxResults c h a).core c).mxe.sb ((h.out a.e).a % 2)).valid = true := by
  simp only [State.vxResults, hout, State.core_updMxe_same]
  rw [vget_vmod_same _ _ _ (Nat.mod_lt _ (by decide))]

/-- Two changes of the vector engine that agree on what it holds are one. -/
theorem State.updVxe_congr {s : State} {c : CoreId} {f g : Vxe → Vxe} (h : f (s.core c).vxe = g (s.core c).vxe) :
    s.updVxe c f = s.updVxe c g := by
  rw [State.updVxe, State.updVxe, State.updCore, State.updCore, show f s.cores[c].vxe = g s.cores[c].vxe from h]

section Finish

variable {s : State} {c : CoreId} {a : VxAct} {rest : List VxAct}

theorem State.vxDone_of_front (hacts : (s.core c).vxe.acts = a :: rest) :
    s.vxDone c a = (s.updVxe c fun v => { v with acts := rest }).done c a.e := by
  rw [State.vxDone, State.updVxe_congr (g := fun v => { v with acts := rest }) (by rw [hacts, List.tail_cons])]

theorem State.vxFinish_of_noBeats (hacts : (s.core c).vxe.acts = a :: rest) (hread : a.reading = false)
    (hcauses : (s.core c).seq.causes = []) (hn : a.n = 0) : s.vxFinish c = s.vxDone c a := by
  simp [State.vxFinish, hacts, hread, hcauses, hn]

theorem State.vxFinish_of_beats (hacts : (s.core c).vxe.acts = a :: rest) (hread : a.reading = false)
    (hcauses : (s.core c).seq.causes = []) (hn : a.n ≠ 0)
    (hrss : (a.accReads a.chain).any (s.core c).vxe.rssBad.contains = false) :
    s.vxFinish c = (s.vxResults c a.chain a).vxDone c a := by
  simp only [State.vxFinish, hacts, hread, hcauses, List.isEmpty_nil, Bool.not_true, Bool.or_self, Bool.false_eq_true, if_false,
    hn, hrss]

end Finish

theorem execVxComplete_of_alive {s : State} {c : CoreId} (halive : s.alive c = true) (hcauses : (s.core c).seq.causes = []) :
    exec (.vxComplete c) s = .next ((s.vxPump c).vxFinish c) := by
  show execVxComplete c s = _
  simp [execVxComplete, halive, hcauses]

/-- Settles O38: a head that nothing holds back starts, a chosen slot feeds its stream until it is popped, and the front
instruction whose beats have left writes `vxResults` and is done. -/
theorem chainsIssueReadTilesAndComplete : Obligations.ChainsIssueReadTilesAndComplete := by
  unfold Obligations.ChainsIssueReadTilesAndComplete
  intro s c
  refine ⟨?issue, ?select, fun a i hslot => ?pop, fun a hrss => ?beat, ?complete⟩
  case issue =>
    intro e rest hq hrun hgo s1 h
    have hissue {op : Nat} (hop : op40 e.bits = op) : s.vxIssue c op (fun t e => t.vxStart c e) = s1.vxStart c e :=
      State.vxIssue_of_go _ hq hrun hgo hop
    refine ⟨fun hop => congrArg Host.Outcome.next (hissue hop), fun hop => congrArg Host.Outcome.next (hissue hop),
      fun hop => congrArg Host.Outcome.next (hissue hop), fun _ hn hin0 hin1 hout => ?_⟩
    have hidle : (s1.core c).vxe.acts.find? VxAct.reading = none := by
      rw [State.updSeq_core_vxe]
      exact State.noReading_of_go hq hgo
    exact State.vxStart_of_noBeats hidle hn hin0 hin1 hout
  case select =>
    intro a i hwant halive hcauses hsel x np inOrder hfmt
    rw [execFtqTileSelect_of_slot hwant halive hcauses hsel hfmt]
    refine ⟨fun horder hrows => ?_, fun horder => congrArg Host.Outcome.next (if_pos (ftqOrderBad_iff.2 horder))⟩
    exact congrArg Host.Outcome.next
      ((if_neg fun hbad => ftqOrderBad_iff.1 hbad horder).trans (if_neg (ne_true_of_eq_false hrows)))
  case pop => exact fun hbad hend => State.vxReadFtq_of_end hslot hbad hend
  case beat => exact fun hfault => State.vxBeat_of_good hrss hfault
  case complete =>
    intro halive hcauses t
    refine ⟨State.vxPump_of_idle, fun a rest hacts hread hpumped => ⟨fun hn => ?_, fun hn hrss => ?_⟩⟩
    · rw [execVxComplete_of_alive halive hcauses, State.vxFinish_of_noBeats hacts hread hpumped hn, State.vxDone_of_front hacts]
    · have hvxe := t.vxe_vxResults c a.chain a
      have hfront : ((t.vxResults c a.chain a).core c).vxe.acts = a :: rest := by rw [hvxe, State.acts_vxReduced, hacts]
      refine ⟨t.vxResults c a.chain a, ?_, State.vxResults_mem _ _ _ _, ?_, t.tile_vxResults c a, t.sb_vxResults c a⟩
      · rw [execVxComplete_of_alive halive hcauses, State.vxFinish_of_beats hacts hread hpumped hn hrss,
          State.vxDone_of_front hfront]
      · rw [hvxe]
        exact ⟨rfl, rfl, rfl⟩

end Sys2Proof.Machine

namespace Sys2Proof.Machine

/-! ### The AG operation of the issued word (R205, R208 to R213) -/

section Ag

variable {s : State} {c : CoreId} {l : AgLatch} {op : Nat}

/-- The latched operation takes effect and leaves the latch. -/
theorem State.agDo_of_latched (hl : (s.core c).seq.ag = some l) (hruns : s.coreRuns c) (hop : op24 l.bits = op)
    (f : AgLatch → Seq → Seq) : s.agDo c op f = s.updSeq c fun q => { f l q with ag := none } := by
  simp [State.agDo, hl, hop, hruns]

/-- An operation whose effect is one write of A[d] writes it and leaves the latch. -/
theorem next_agDo_setA (hl : (s.core c).seq.ag = some l) (hruns : s.coreRuns c) (hop : op24 l.bits = op)
    (v : AgLatch → Addr) : (Host.Outcome.next (s.agDo c op fun l q => q.setA l.d (v l)) : Ans) =
      .next (s.updSeq c fun q => { q with a := vset q.a (fld l.bits 16 4) (v l), ag := none }) := by
  rw [State.agDo_of_latched hl hruns hop]
  rfl

end Ag

/-- Settles O3: every operation that writes A[d] is `setA` of its value, completed by `agDo`. -/
theorem agOperationWritesItsDestination : Obligations.AgOperationWritesItsDestination := by
  unfold Obligations.AgOperationWritesItsDestination
  intro s c l hl hruns a writes
  have writesA {op : Nat} (v : AgLatch → Addr) (hop : op24 l.bits = op) :
      Host.Outcome.next (s.agDo c op fun l q => q.setA l.d (v l)) = writes (v l) :=
    next_agDo_setA hl hruns hop v
  exact ⟨writesA addiValue, writesA fun l => l.s1 + l.s2, writesA fun l => l.s1 - l.s2,
    writesA fun l => l.s1 <<< fld l.bits 0 6, writesA fun l => l.s1 >>> fld l.bits 0 6, writesA fun l => l.s1 &&& l.s2,
    writesA AgLatch.val, writesA AgLatch.val,
    fun hop => (writesA (fun l => if l.s1.ult l.s2 then l.s1 else l.s2) hop).trans (by simp only [BitVec.ult_iff_lt]; rfl),
    fun hop => (writesA (fun l => if l.s1.ult l.s2 then l.s2 else l.s1) hop).trans (by simp only [BitVec.ult_iff_lt]; rfl)⟩

/-- Settles O4: CMP sets what `cmpFlags` gives; a task starts with a fresh set of flags. -/
theorem compareSetsZNC : Obligations.CompareSetsZNC := by
  unfold Obligations.CompareSetsZNC
  refine ⟨?compares, ?starts⟩
  case compares =>
    intro s c l hl hruns hop x y
    exact congrArg Host.Outcome.next (State.agDo_of_latched hl hruns hop _)
  case starts =>
    intro s c t r q
    simp [q, State.startTask]

/-! ### LDA_WRITE and STA_MADE (R212, R213) -/

theorem State.updSeq_updSeq (s : State) (c : CoreId) (f g : Seq → Seq) :
    (s.updSeq c f).updSeq c g = s.updSeq c fun q => g (f q) := by
  simp [State.updSeq, State.updCore]

theorem execLdaWrite_of_good {s : State} {c : CoreId} {l : LdaPend} {rest : List LdaPend} {off : Nat}
    (hq : (s.core c).seq.ldas = l :: rest) (halive : s.alive c = true) (hsta : ∀ t ∈ (s.core c).seq.stas, l.num ≤ t.num)
    (hoff : s.ownCsp c l.addr.toNat = some off) (hgood : (s.cspLoad c .ownCore off 8).bad = []) :
    exec (.ldaWrite c) s = .next ((s.cspLoad c .ownCore off 8).s.updSeq c fun q =>
      { q with ldas := rest, a := vset q.a l.d.toNat (BitVec.ofNat 48 (leNat (s.cspLoad c .ownCore off 8).bytes)) }) := by
  have hnone : (s.core c).seq.stas.any (fun t => decide (t.num < l.num)) = false := by simpa using hsta
  show execLdaWrite c s = _
  unfold execLdaWrite
  simp only [hq, halive, hnone, hoff, hgood, List.isEmpty_nil, Bool.not_true, Bool.or_self, Bool.false_eq_true, if_false, if_true,
    State.updSeq_updSeq]
  rfl

theorem execStaMade_of_ready {s : State} {c : CoreId} {t : StaPend} {rest : List StaPend} {off : Nat}
    (hq : (s.core c).seq.stas = t :: rest) (halive : s.alive c = true) (hvxq : ∀ e ∈ (s.core c).seq.vxq, t.num ≤ e.num)
    (hacts : ∀ a ∈ (s.core c).vxe.acts, t.num ≤ a.e.num) (hoff : s.ownCsp c t.addr.toNat = some off) :
    exec (.staMade c) s = .next ((s.cspStore c .ownCore off (natLe 8 t.val.toNat)).s.updSeq c fun q =>
      { q with stas := rest }) := by
  have hqueued : (s.core c).seq.vxq.any (fun e => decide (e.num < t.num)) = false := by simpa using hvxq
  have hrunning : (s.core c).vxe.acts.any (fun a => decide (a.e.num < t.num)) = false := by simpa using hacts
  show execStaMade c s = _
  unfold execStaMade
  simp [hq, halive, hqueued, hrunning, hoff]

/-- Settles O5: LDA and STA only record; the two commands that follow make the access once nothing earlier is outstanding. -/
theorem ldaAndStaGoThroughTheCsp : Obligations.LdaAndStaGoThroughTheCsp := by
  unfold Obligations.LdaAndStaGoThroughTheCsp
  intro s c
  refine ⟨?records, ?loads, ?stores⟩
  case records =>
    intro l hl hruns at_
    exact ⟨fun hop => congrArg Host.Outcome.next (State.agDo_of_latched hl hruns hop _),
      fun hop => congrArg Host.Outcome.next (State.agDo_of_latched hl hruns hop _)⟩
  case loads =>
    intro l rest off hq halive hsta hoff r hgood
    exact execLdaWrite_of_good hq halive hsta hoff hgood
  case stores =>
    intro t rest off hq halive hvxq hacts hoff
    exact execStaMade_of_ready hq halive hvxq hacts hoff

end Sys2Proof.Machine

namespace Sys2Proof.Machine

/-! ### The FLOW operation of the issued word (R214 to R225) -/

/-- The latched operation takes effect and leaves the latch. -/
theorem State.flowDo_of_latched {s : State} {c : CoreId} {l : FlowLatch} {op : Nat} (hl : (s.core c).seq.flow = some l)
    (hruns : s.coreRuns c) (hop : op24 l.bits = op) (f : FlowLatch → Seq → Seq) :
    s.flowDo c op f = s.updSeq c fun q => { f l q with flow := none } := by
  simp [State.flowDo, hl, hop, hruns]

/-- Two changes of a control core that agree on what it holds leave the same state. -/
theorem State.updSeq_congr {s : State} {c : CoreId} {f g : Seq → Seq} (h : f (s.core c).seq = g (s.core c).seq) :
    s.updSeq c f = s.updSeq c g := by
  simp only [State.core] at h
  simp only [State.updSeq, State.updCore, h]

/-- A FLOW operation whose effect on the control core, with the latch cleared, is that of `g`. -/
theorem next_flowDo_of_latched {s : State} {c : CoreId} {l : FlowLatch} {op : Nat} (hl : (s.core c).seq.flow = some l)
    (hruns : s.coreRuns c) (hop : op24 l.bits = op) {f : FlowLatch → Seq → Seq} {g : Seq → Seq}
    (h : { f l (s.core c).seq with flow := none } = g (s.core c).seq) :
    (Host.Outcome.next (s.flowDo c op f) : Ans) = .next (s.updSeq c g) := by
  rw [State.flowDo_of_latched hl hruns hop]
  exact congrArg Host.Outcome.next (State.updSeq_congr h)

theorem execEndl_of_latched {s : State} {c : CoreId} {l : FlowLatch} {outer : List LoopLevel} {v : LoopLevel}
    (hl : (s.core c).seq.flow = some l) (hruns : s.coreRuns c) (hop : op24 l.bits = 2)
    (hloops : (s.core c).seq.loops = outer ++ [v]) :
    exec (.endl c) s = .next ((s.updSeq c fun q =>
      if v.remain = 0 then { q with pc := l.index + 1, loops := outer, flow := none }
      else { q with pc := v.start, loops := outer ++ [{ v with remain := v.remain - 1 }], flow := none }).pm (pgSeq c) 0x06 1) := by
  show execEndl c s = _
  simp only [execEndl, hl, hop, hruns, and_self, if_true, State.flowDo_of_latched hl hruns hop]
  refine congrArg (fun t : State => Host.Outcome.next (t.pm (pgSeq c) 0x06 1)) (State.updSeq_congr ?_)
  simp only [hloops, List.getLast?_concat, List.dropLast_concat]
  split <;> rfl

/-- Settles O20: LOOP splits on its latched count, ENDL on what the innermost level has left. -/
theorem loopAndEndlFollowTheCount : Obligations.LoopAndEndlFollowTheCount := by
  unfold Obligations.LoopAndEndlFollowTheCount
  intro s c l hl hruns end_
  refine ⟨fun hop hzero => ?skips, fun hop hcount => ?enters, fun outer v hop hloops => ⟨fun hlast => ?pops, fun hmore => ?repeats⟩⟩
  case skips => exact next_flowDo_of_latched hl hruns hop (by simp only [hzero, if_true]; rfl)
  case enters => exact next_flowDo_of_latched hl hruns hop (by simp only [hcount, if_false]; rfl)
  case pops => simpa only [hlast, if_true] using execEndl_of_latched hl hruns hop hloops
  case repeats => simpa only [hmore, if_false] using execEndl_of_latched hl hruns hop hloops

/-- Settles O21: each command is its effect on the control core, with the latch cleared. -/
theorem branchesCallsAndBreakMoveThePc : Obligations.BranchesCallsAndBreakMoveThePc := by
  unfold Obligations.BranchesCallsAndBreakMoveThePc
  intro s c l hl hruns target goes
  refine ⟨fun hop => ?br, fun hop => ?brp, fun hop => ?call, fun below r hop hstack => ?ret, fun hop hfalse => ?passes,
    fun outer v hop htrue hloops => ?leaves⟩
  case br => exact next_flowDo_of_latched hl hruns hop rfl
  case brp => exact next_flowDo_of_latched hl hruns hop rfl
  case call => exact next_flowDo_of_latched hl hruns hop rfl
  case ret =>
    exact next_flowDo_of_latched hl hruns hop (by simp only [hstack, List.getLast?_concat, List.dropLast_concat])
  case passes => exact next_flowDo_of_latched hl hruns hop (by simp only [hfalse])
  case leaves =>
    exact next_flowDo_of_latched hl hruns hop (by simp only [htrue, hloops, List.getLast?_concat, List.dropLast_concat])

end Sys2Proof.Machine

namespace Sys2Proof.Machine

/-! ### LAYER, TEND and HALT stop issue (R223 to R225) -/

/-- HALT by HALT_EN (R225). -/
theorem execHalt_of_latched {s : State} {c : CoreId} {l : FlowLatch} (hl : (s.core c).seq.flow = some l) (hruns : s.coreRuns c)
    (hop : op24 l.bits = 10) : exec (.halt c) s = .next (s.updSeq c fun q =>
      if s.rf (pgSeq c) 0x100 0 1 = 1 then { q with pc := l.index + 1, st := .drain, draining := some .haltPause, flow := none }
      else { q with st := .drain, draining := some .halt, flow := none }) :=
  next_flowDo_of_latched hl hruns hop (by dsimp only; split <;> rfl)

theorem execLayerBarrierComplete_of_quiet {s : State} {c : CoreId} (hlayer : (s.core c).seq.layer = true)
    (hquiet : s.enginesQuiet c = true) (hftq : ∀ t ∈ (s.core c).mxe.ftq.toList, t.valid = false)
    (hcauses : (s.core c).seq.causes = []) (halive : s.alive c = true) :
    exec (.layerBarrierComplete c) s = .next (s.updCore c fun k =>
      { k with
        seq := { k.seq with layer := false }
        str := { k.str with cur := !k.str.cur, swaps := k.str.swaps + 1 } }) := by
  have hnone : (s.core c).mxe.ftq.toList.all (fun t => !t.valid) = true :=
    List.all_eq_true.2 fun t ht => by simp [hftq t ht]
  show execLayerBarrierComplete c s = _
  simp only [execLayerBarrierComplete, hlayer, hquiet, hnone, hcauses, halive, List.isEmpty_nil, Bool.and_self, if_true]

/-! ### The end of a drain (R224, R225) -/

/-- A drain is over: the word's AG operation, the queues, the instructions and the writes are done. -/
structure Drained (s : State) (c : CoreId) : Prop where
  st     : (s.core c).seq.st = .drain
  causes : (s.core c).seq.causes = []
  quiet  : s.enginesQuiet c = true
  writes : (s.core c).writesDone = true
  ldas   : (s.core c).seq.ldas = []
  ag     : (s.core c).seq.ag = none
  alive  : s.alive c = true

/-- What a drain that is over leaves, by what began it (R224, R225). -/
def State.drainEnds (s : State) (c : CoreId) : DrainKind → State
  | .haltPause => (s.setRf (pgSeq c) 0x10 1 1 1).updSeq c fun q => { q with st := .paused, draining := none }
  | .tend => ((s.setRf (pgSeq c) 0x1A0 0 16 0).endTask c .tend 0).becomeIdle c
  | .halt => ((s.setRf (pgSeq c) 0x1A0 0 16 0).endTask c .halt 0).becomeIdle c

theorem execTaskEnd_of_drained {s : State} {c : CoreId} (h : Drained s c) {d : DrainKind}
    (hd : (s.core c).seq.draining = some d) : exec (.taskEnd c) s = .next (s.drainEnds c d) := by
  have hready : ((s.core c).seq.st == .drain && (s.core c).seq.causes.isEmpty && (s.core c).seq.ag.isNone && s.enginesQuiet c
      && (s.core c).writesDone && (s.core c).seq.ldas.isEmpty && s.alive c) = true := by
    simp [h.st, h.causes, h.quiet, h.writes, h.ldas, h.ag, h.alive]
  show execTaskEnd c s = _
  unfold execTaskEnd
  simp only [hready, hd, Bool.not_true, Bool.false_eq_true, if_false]
  cases d <;> rfl

/-- A field of another register. -/
theorem State.rf_setRf_other (s : State) {page off page' off' : Nat} (lo w x : Nat) {lo' w' : Nat}
    (h : regKey page' off' ≠ regKey page off) : (s.setRf page off lo w x).rf page' off' lo' w' = s.rf page' off' lo' w' := by
  rw [State.rf, State.setRf, State.modReg, State.reg_setReg_other _ _ h, State.rf]

/-- A task that ends by itself leaves the core IDLE, or PAUSED while CTL.PAUSE is 1, and its report in the crossing. -/
theorem State.endTask_becomeIdle_spec (s : State) (c : CoreId) (kind : EndKind) (cause : Byte) :
    let t := (s.endTask c kind cause).becomeIdle c
    (t.core c).seq.task = none ∧ (t.core c).seq.abortTask = false ∧
      (t.core c).seq.st = (if s.paused (pgSeq c) then .paused else .idle) ∧
      ∃ id, CcuMsg.report ⟨(s.core c).seq.descNum, id, kind, cause⟩ ∈ t.ccu.toCcu[c] := by
  intro t
  obtain ⟨htask, habort⟩ := s.endTask_seq c kind cause
  obtain ⟨id, hreport⟩ := s.endTask_report c kind cause
  obtain ⟨d, hidle⟩ := (s.endTask c kind cause).becomeIdle_seq c
  have hpaused : (s.endTask c kind cause).paused (pgSeq c) = s.paused (pgSeq c) := by
    simp only [State.paused, State.rf, State.reg_endTask s c _ _ (show 0x10 < 0xC0 by decide)]
  simp only [t, hidle, hpaused]
  exact ⟨htask, habort, trivial, id, State.mem_toCcu_becomeIdle hreport⟩

/-- Settles O22: LAYER, TEND and HALT are their effect on the control core; the barrier and the end of the drain end what they
began. -/
theorem layerTendAndHaltStopIssue : Obligations.LayerTendAndHaltStopIssue := by
  unfold Obligations.LayerTendAndHaltStopIssue
  intro s c
  refine ⟨?stops, ?barrier, ?drained⟩
  case stops =>
    intro l hl hruns
    refine ⟨fun hop => next_flowDo_of_latched hl hruns hop rfl, fun hop => next_flowDo_of_latched hl hruns hop rfl,
      fun hop hoff => ?_, fun hop hon => ?_⟩
    · simpa [hoff] using execHalt_of_latched hl hruns hop
    · simpa [hon] using execHalt_of_latched hl hruns hop
  case barrier =>
    intro hlayer hquiet hftq hcauses halive
    exact execLayerBarrierComplete_of_quiet hlayer hquiet hftq hcauses halive
  case drained =>
    intro hst hcauses hquiet hwrites hldas hag halive
    have hdrained : Drained s c := ⟨hst, hcauses, hquiet, hwrites, hldas, hag, halive⟩
    refine ⟨fun hpause => ?_, fun kind hdrain hkind _ => ?_⟩
    · refine ⟨_, execTaskEnd_of_drained hdrained hpause, ?_, ?_, ?_⟩
      · rw [State.drainEnds, State.core_updSeq_same]
      · rw [State.drainEnds, State.core_updSeq_same, State.core_setRf]
      · rw [State.drainEnds, State.rf_updSeq, State.rf_setRf_same _ _ _ _ (by decide)]
        rfl
    · have hpaused : (s.setRf (pgSeq c) 0x1A0 0 16 0).paused (pgSeq c) = s.paused (pgSeq c) := by
        simp only [State.paused, State.rf_setRf_other _ _ _ _ (regKey_ne (show 0x10 ≠ 0x1A0 by decide))]
      obtain ⟨htask, _, hidle, hreport⟩ := (s.setRf (pgSeq c) 0x1A0 0 16 0).endTask_becomeIdle_spec c kind 0
      rw [hpaused] at hidle
      have hend : exec (.taskEnd c) s = .next (((s.setRf (pgSeq c) 0x1A0 0 16 0).endTask c kind 0).becomeIdle c) := by
        rw [execTaskEnd_of_drained hdrained hdrain]
        rcases hkind with rfl | rfl <;> rfl
      refine ⟨_, hend, htask, ?_, hreport⟩
      rw [hidle]
      split <;> rfl

end Sys2Proof.Machine

namespace Sys2Proof.Machine

/-! ### Bits and fields of a register that a field write does not reach -/

/-- A bit outside the field that is written. -/
theorem getLsbD_setFld_other {n : Nat} (v : BitVec n) {lo w i : Nat} (x : Nat) (h : i < lo ∨ lo + w ≤ i) :
    (setFld v lo w x).getLsbD i = v.getLsbD i := by
  have hnew : ((BitVec.ofNat w x).setWidth n <<< lo).getLsbD i = false := by
    rw [BitVec.getLsbD_shiftLeft]
    rcases h with h | h
    · simp [h]
    · simp [BitVec.getLsbD_of_ge (BitVec.ofNat w x) (i - lo) (by omega)]
  have hmask : (((BitVec.allOnes w).setWidth n) <<< lo).getLsbD i = false := by
    rw [BitVec.getLsbD_shiftLeft]
    rcases h with h | h
    · simp [h]
    · simp [show ¬ i - lo < w by omega]
  rw [setFld, BitVec.getLsbD_or, BitVec.getLsbD_and, BitVec.getLsbD_not, hmask, hnew]
  by_cases hi : i < n
  · simp [hi]
  · simp [BitVec.getLsbD_of_ge v i (by omega)]

/-- A field outside the one that is written. -/
theorem fld_setFld_other {n : Nat} (v : BitVec n) {lo w lo' w' : Nat} (x : Nat) (h : lo' + w' ≤ lo ∨ lo + w ≤ lo') :
    fld (setFld v lo w x) lo' w' = fld v lo' w' := by
  have hbits : (setFld v lo w x).extractLsb' lo' w' = v.extractLsb' lo' w' := by
    refine BitVec.eq_of_getLsbD_eq fun i hi => ?_
    rw [BitVec.getLsbD_extractLsb', BitVec.getLsbD_extractLsb', getLsbD_setFld_other v x (by omega)]
  rw [fld, fld, hbits]

/-! ### What an error of a page leaves in its other registers (R491) -/

/-- Recording an error on a core's page writes ERR and ERR_INFO, and no other register of it. -/
theorem State.reg_err_other (s : State) {c : CoreId} {p b off : Nat} (info0 info1 : Dword) (herr : off ≠ 0x20)
    (hinfo0 : off ≠ 0x30) (hinfo1 : off ≠ 0x38) :
    (s.err (corePage c p) b info0 info1).reg (corePage c p) off = s.reg (corePage c p) off := by
  cases hm : bitAt (s.reg (corePage c p) 0x28) b with
  | true => rw [State.err_masked _ _ hm]
  | false =>
    rw [State.err_eq _ _ hm, (State.evt_sendsOnly _ _ _).reg, State.orReg, State.modReg,
      State.reg_setReg_other _ _ (regKey_ne herr)]
    split
    · rw [State.reg_setReg_other _ _ (regKey_ne hinfo1), State.reg_setReg_other _ _ (regKey_ne hinfo0)]
    · rfl

/-- A counter that saturates. -/
theorem State.rf_satRf_same (s : State) (page off : Nat) {lo w : Nat} (n : Nat) (h : lo + w ≤ 64) :
    (s.satRf page off lo w n).rf page off lo w = min (2 ^ w - 1) (s.rf page off lo w + n) := by
  rw [State.satRf, State.rf_setRf_same _ _ _ _ h]
  have := Nat.two_pow_pos w
  exact Nat.mod_eq_of_lt (by omega)

/-! ### The watchdog and the WAIT limit (R223, R232, R260) -/

theorem Seq.holds_of_task {q : Seq} (h : q.task.isSome = true) : q.holds = true := by
  simp [Seq.holds, h]

theorem State.coreRuns_of_alive {s : State} {c : CoreId} (h : s.alive c = true) : s.coreRuns c := by
  simp only [State.alive, Bool.and_eq_true, Bool.not_eq_true'] at h
  exact h.1.1.1

/-- A cause of the SEQ's own reaches the task it holds; `u` is the state it is raised in, `s` the one the command found. -/
theorem State.seqRaise_held {s u : State} {c : CoreId} {cause : Nat} (b slot addr detail cond0 cond1 : Nat)
    (hcore : u.core c = s.core c) (hab : (s.core c).seq.abortTask = false) (hh : (s.core c).seq.holds = true) :
    ((u.seqRaise c b cause slot addr detail cond0 cond1).core c).seq =
      { (s.core c).seq with causes := (s.core c).seq.causes ++ [⟨BitVec.ofNat 8 cause, false⟩] } := by
  have herr : (u.seqErr c b cause slot cond0 cond1 addr detail).core c = s.core c := by
    rw [State.seqErr, State.core_err, hcore]
  rw [State.seqRaise, State.cause_of_held _ _ (by rw [herr, hab]) (by rw [herr, hh]), State.core_updSeq_same, herr]

/-- A cause of the SEQ's own that comes in the drain of an abort is counted as lost (R236). -/
theorem State.seqRaise_aborting {s : State} {c : CoreId} {b cause slot addr detail cond0 cond1 : Nat}
    (hab : (s.core c).seq.abortTask = true) :
    s.seqRaise c b cause slot addr detail cond0 cond1 =
      (s.seqErr c b cause slot cond0 cond1 addr detail).satRf (pgSeq c) 0x1A0 48 16 1 := by
  simp [State.seqRaise, State.cause, State.seqErr, hab]

theorem execWatchdogExpiry_of_due {s : State} {c : CoreId} {k : Task} (hk : (s.core c).seq.task = some k)
    (hst : (s.core c).seq.st = .run ∨ (s.core c).seq.st = .drain) (hcnt : 2 ^ k.wdog.toNat ≤ (s.core c).seq.wdogCnt.toNat)
    (hhit : (s.core c).seq.wdogHit = false) (hruns : s.coreRuns c) :
    exec (.watchdogExpiry c) s = .next ((s.seqRaise c 10 0x0A 0).updSeq c fun q => { q with wdogHit := true }) := by
  have hdue : (s.core c).seq.wdogDue = true := by
    rcases hst with hst | hst <;> simp [Seq.wdogDue, hk, hst, hcnt, hhit]
  show execWatchdogExpiry c s = _
  simp [execWatchdogExpiry, hdue, hruns]

/-- The SEQ waits: its task is in RUN, no abort is under way and no word is half done. -/
structure WaitCounts (s : State) (c : CoreId) : Prop where
  st     : (s.core c).seq.st = .run
  causes : (s.core c).seq.causes = []
  ag     : (s.core c).seq.ag = none
  flow   : (s.core c).seq.flow = none
  alive  : s.alive c = true

section WaitTmo

variable {s : State} {c : CoreId} (h : WaitCounts s c)
include h

theorem WaitCounts.ready : ((s.core c).seq.st == .run && (s.core c).seq.causes.isEmpty && (s.core c).seq.ag.isNone
    && (s.core c).seq.flow.isNone && s.alive c) = true := by
  simp [h.st, h.causes, h.ag, h.flow, h.alive]

theorem State.waitsOn_of_layer (hlayer : (s.core c).seq.layer = true) :
    s.waitsOn c = some (11, (s.fetchCw c (s.core c).seq.pc).word) := by
  simp [State.waitsOn, h.ready, hlayer]

/-- A head word that decodes and whose WAIT does not hold, or whose take request is unanswered. -/
theorem State.waitsOn_of_head (hlayer : (s.core c).seq.layer = false) {f t : Fetched}
    (hf : s.fetchCw c (s.core c).seq.pc = f) (ht : f.s.tableWord c f.word = t) (hfue : f.ue = false) (hfmt : f.word.fmt = 1)
    (htue : t.ue = false) (hcheck : cwCheck (s.core c).seq (s.rf (pgSeq c) 0x100 0 1 == 1) f.word t.word = none)
    (hwaits : (s.core c).seq.takePend = true ∨ ((s.core c).seq.takeGrant = false ∧ s.waitHolds c f.word = false)) :
    s.waitsOn c = some (8, f.word) := by
  have hwait : ((s.core c).seq.takePend || (!(s.core c).seq.takeGrant && !s.waitHolds c f.word)) = true := by
    rcases hwaits with hpend | ⟨hgrant, hholds⟩
    · simp [hpend]
    · simp [hgrant, hholds]
  unfold State.waitsOn
  simp only [h.ready, hlayer, hf, ht, hfue, hfmt, htue, hcheck, hwait]
  rfl

end WaitTmo

/-- WAIT_TMO_EXPIRY raises WAIT_TMO in a state that differs at most in WAIT_SNAP. -/
theorem execWaitTmoExpiry_of_late {s : State} {c : CoreId} {slot : Nat} {w : Cw} (hwaits : s.waitsOn c = some (slot, w))
    (hlate : 2 ^ s.waitExp c ≤ (s.core c).seq.waitCnt) : ∃ (u : State) (cond0 cond1 : Nat),
    exec (.waitTmoExpiry c) s = .next (u.seqRaise c 3 0x03 slot 0 0 cond0 cond1) ∧ u.core c = s.core c ∧ u.mem = s.mem := by
  have hexec : exec (.waitTmoExpiry c) s = execWaitTmoExpiry c s := rfl
  rw [hexec, execWaitTmoExpiry, hwaits]
  simp only [Nat.not_lt.2 hlate, if_false]
  refine ⟨_, _, _, rfl, ?_, ?_⟩ <;> split <;> rfl

/-! ### Breakpoints (R511) -/

/-- BRK of a core after a hit: HIT is set, and ONCE clears EN. -/
def brkAfterHit (v : Dword) : Dword :=
  if fld v 13 1 = 1 then setFld (setFld v 14 1 1) 12 1 0 else setFld v 14 1 1

theorem brkAfterHit_hit (v : Dword) : fld (brkAfterHit v) 14 1 = 1 := by
  unfold brkAfterHit
  split
  · rw [fld_setFld_other _ _ (by decide), fld_setFld_same _ _ (by decide)]
    rfl
  · rw [fld_setFld_same _ _ (by decide)]
    rfl

theorem brkAfterHit_once {v : Dword} (h : fld v 13 1 = 1) : fld (brkAfterHit v) 12 1 = 0 := by
  rw [brkAfterHit, if_pos h, fld_setFld_same _ _ (by decide)]
  rfl

/-- The keys of the breakpoint registers and of the cores' pages differ. -/
theorem regKey_corePage_ne_brk (c d : CoreId) {b off : Nat} : regKey (corePage c b) off ≠ regKey 15 (0x180 + 8 * d.val) := by
  have := regKey_corePage_ge c b off
  have := d.isLt
  simp only [regKey] at *
  omega

theorem execBrkHit_of_armed {s : State} {c : CoreId} (hready : s.headReady c = true) (harmed : s.brkArmed c = true) :
    exec (.brkHit c) s = .next (((s.setRf (pgSeq c) 0x10 1 1 1).modReg 15 (0x180 + 8 * c.val) brkAfterHit).updSeq c fun q =>
      { q with brkPassed := true }) := by
  show execBrkHit c s = _
  simp only [execBrkHit, hready, harmed, Bool.and_self, if_true]
  rfl

/-- Settles O24: both timeouts raise their cause by `seqRaise`, a breakpoint writes CTL and BRK. -/
theorem seqTimeoutsAndBreakpointsTakeEffect : Obligations.SeqTimeoutsAndBreakpointsTakeEffect := by
  unfold Obligations.SeqTimeoutsAndBreakpointsTakeEffect
  intro s c halive q raises
  refine ⟨?watchdog, ?wait, ?breaks⟩
  case watchdog =>
    intro k hk hst hcnt hhit
    have hexec := execWatchdogExpiry_of_due hk hst hcnt hhit (State.coreRuns_of_alive halive)
    have hh : q.holds = true := Seq.holds_of_task (by rw [hk]; rfl)
    refine ⟨fun hab => ⟨_, hexec, ?_, byteAt_of_mem (by simp)⟩, fun hab => ⟨_, hexec, ?_, ?_⟩, ⟨_, hexec, by simp⟩⟩
    · rw [State.core_updSeq_same]
      exact congrArg Seq.causes (State.seqRaise_held 10 0 0 0 0 0 rfl hab hh)
    · rw [State.core_updSeq_same, State.seqRaise_aborting hab, State.core_satRf, State.seqErr, State.core_err]
    · rw [State.rf_updSeq, State.seqRaise_aborting hab, State.rf_satRf_same _ _ _ _ (by decide), State.rf, State.seqErr,
        State.reg_err_other _ _ _ (by decide) (by decide) (by decide), State.rf]
      rfl
  case wait =>
    intro htask hst hab hcauses hag hflow hlate
    have hcounts : WaitCounts s c := ⟨hst, hcauses, hag, hflow, halive⟩
    have hraises {slot : Nat} {w : Cw} (hwaits : s.waitsOn c = some (slot, w)) : raises (.waitTmoExpiry c) 0x03 := by
      obtain ⟨u, cond0, cond1, hexec, hcore, hmem⟩ := execWaitTmoExpiry_of_late hwaits hlate
      refine ⟨_, hexec, ?_, byteAt_of_mem (by rw [State.seqRaise_mem, hmem])⟩
      exact congrArg Seq.causes (State.seqRaise_held 3 slot 0 0 cond0 cond1 hcore hab (Seq.holds_of_task htask))
    refine ⟨fun hlayer => hraises (State.waitsOn_of_layer hcounts hlayer), ?_⟩
    intro f t hlayer hfue hfmt htue hcheck hwaits
    exact hraises (State.waitsOn_of_head hcounts hlayer rfl rfl hfue hfmt htue hcheck hwaits)
  case breaks =>
    intro hready harmed
    have hbrk : (s.setRf (pgSeq c) 0x10 1 1 1).reg 15 (0x180 + 8 * c.val) = s.reg 15 (0x180 + 8 * c.val) :=
      State.reg_setReg_other _ _ (regKey_corePage_ne_brk c c).symm
    refine ⟨_, execBrkHit_of_armed hready harmed, ?_, ?_, fun honce => ?_, by simp [q], byteAt_of_mem (by simp)⟩
    · rw [State.rf_updSeq, State.rf, State.modReg, State.reg_setReg_other _ _ (regKey_corePage_ne_brk c c), ← State.rf,
        State.rf_setRf_same _ _ _ _ (by decide)]
      rfl
    · rw [State.rf_updSeq, State.rf, State.modReg, State.reg_setReg_same, brkAfterHit_hit]
    · rw [State.rf_updSeq, State.rf, State.modReg, State.reg_setReg_same, hbrk, brkAfterHit_once honce]

end Sys2Proof.Machine

namespace Sys2Proof.Machine

/-! ### ARRIVED of the barrier flags (R257, R259) -/

theorem getLsbD_setBit_same {n : Nat} (v : BitVec n) (i : Nat) (b : Bool) (hi : i < n) : (setBit v i b).getLsbD i = b := by
  cases b <;> simp [setBit, setFld, bit, hi]

theorem State.arrived_setArrived_same (s : State) (n : BitVec 5) (a : Byte) : (s.setArrived n a).arrived n = a := by
  have hfld : fld ((s.setArrived n a).reg 0 (cfBar n)) 8 8 = a.toNat := by
    rw [State.setArrived, ← State.rf, State.rf_setRf_same _ _ _ _ (by decide)]
    exact Nat.mod_eq_of_lt a.isLt
  exact BitVec.eq_of_toNat_eq hfld

theorem State.arrived_setArrived_other (s : State) {n m : BitVec 5} (a : Byte) (h : n ≠ m) :
    (s.setArrived m a).arrived n = s.arrived n := by
  have hoff : cfBar n ≠ cfBar m := fun hoff => h (BitVec.eq_of_toNat_eq (by simp only [cfBar] at hoff; omega))
  rw [State.arrived, State.setArrived, State.setRf, State.modReg, State.reg_setReg_other _ _ (regKey_ne hoff), State.arrived]

/-- Core c's arrival is removed from a barrier flag (R259). -/
def State.withdraw (s : State) (c : CoreId) (n : BitVec 5) : State := s.setArrived n (setBit (s.arrived n) c false)

theorem State.withdraw_same (s : State) (c : CoreId) (n : BitVec 5) : ((s.withdraw c n).arrived n).getLsbD c.val = false := by
  rw [State.withdraw, State.arrived_setArrived_same, getLsbD_setBit_same _ _ _ c.isLt]

/-- A core that has not arrived at a flag has not after its arrival at any flag is removed. -/
theorem State.withdraw_keeps {s : State} {c : CoreId} (m : BitVec 5) {n : BitVec 5} (h : (s.arrived n).getLsbD c.val = false) :
    ((s.withdraw c m).arrived n).getLsbD c.val = false := by
  by_cases hnm : n = m
  · rw [hnm, State.withdraw_same]
  · rw [State.withdraw, State.arrived_setArrived_other _ _ hnm, h]

/-- Once core c's arrival is removed from the flags of a list, it has arrived at none of them. -/
theorem State.withdrawn_of_mem (l : List Nat) (s : State) (c : CoreId) (n : BitVec 5)
    (h : (∃ i ∈ l, BitVec.ofNat 5 i = n) ∨ (s.arrived n).getLsbD c.val = false) :
    ((l.foldl (fun (t : State) i => t.withdraw c (BitVec.ofNat 5 i)) s).arrived n).getLsbD c.val = false := by
  induction l generalizing s with
  | nil => exact h.resolve_left (by simp)
  | cons i l ih =>
    refine ih (s.withdraw c (BitVec.ofNat 5 i)) ?_
    rcases h with ⟨j, hj, hjn⟩ | h
    · rcases List.mem_cons.1 hj with rfl | hj
      · exact .inr (hjn ▸ s.withdraw_same c _)
      · exact .inl ⟨j, hj, hjn⟩
    · exact .inr (State.withdraw_keeps _ h)

/-! ### The CCU takes an end report (R230, R259, R368) -/

/-- The arrivals an end report removes: those of an aborted or rejected task's core. -/
def State.withdrawAll (s : State) (c : CoreId) (kind : EndKind) : State :=
  if kind = .aborted ∨ kind = .rejected then
    (List.range 32).foldl (fun (t : State) i => t.withdraw c (BitVec.ofNat 5 i)) s
  else s

theorem State.withdrawAll_same {γ : Type} (f : State → γ) (h : ∀ s page off v, f (State.setReg s page off v) = f s) (s : State)
    (c : CoreId) (kind : EndKind) : f (s.withdrawAll c kind) = f s := by
  unfold State.withdrawAll
  split
  · exact foldl_same f _ (fun t i => h t _ _ _) _ s
  · rfl

theorem State.withdrawAll_arrived (s : State) (c : CoreId) {kind : EndKind} (h : kind = .aborted ∨ kind = .rejected)
    (n : BitVec 5) : ((s.withdrawAll c kind).arrived n).getLsbD c.val = false := by
  rw [State.withdrawAll, if_pos h]
  exact State.withdrawn_of_mem _ s c n (.inl ⟨n.toNat, List.mem_range.2 n.isLt, by simp⟩)

/-- The state between the CCU's own records of a report, of which the core then holds no descriptor, and the removal of its
arrivals. -/
theorem State.takeReport_spec (s : State) (c : CoreId) (r : EndReport) : ∃ (u : State) (aborted : Byte),
    s.takeReport c r = (let t := u.withdrawAll c r.kind
      { t with evx := { t.evx with wait := t.evx.wait.filter (· != c), aborted := aborted } }) ∧
    u.ccu.toCcu = s.ccu.toCcu ∧ u.ccu.holds[c] = none ∧ u.cores = s.cores := by
  unfold State.takeReport
  refine ⟨_, _, rfl, ?_, ?_, ?_⟩
  · split <;> split <;> rfl
  · split <;> split <;> exact Vector.getElem_set_self _
  · split <;> split <;> rfl

theorem execEndReport_of_report {s : State} {c : CoreId} {r : EndReport} {rest : List CcuMsg}
    (hfront : s.ccu.toCcu[c] = .report r :: rest) (halive : s.ccuAlive = true) :
    exec (.endReport c) s = .next ((s.popCcu c).takeReport c r) := by
  show execEndReport c s = _
  unfold execEndReport
  rw [hfront]
  exact if_pos halive

/-- Settles O28: the report leaves the crossing, and the rest is what `takeReport` does. -/
theorem endReportsReachTheCcu : Obligations.EndReportsReachTheCcu := by
  unfold Obligations.EndReportsReachTheCcu
  intro s c r rest hfront halive
  obtain ⟨u, aborted, htake, hcross, hholds, hcores⟩ := (s.popCcu c).takeReport_spec c r
  have hccu : (u.withdrawAll c r.kind).ccu = u.ccu := State.withdrawAll_same (·.ccu) (fun _ _ _ _ => rfl) u c r.kind
  have hcores' : (u.withdrawAll c r.kind).cores = s.cores :=
    (State.withdrawAll_same (·.cores) (fun _ _ _ _ => rfl) u c r.kind).trans hcores
  refine ⟨_, execEndReport_of_report hfront halive, ?_, ?_, ?_, fun hkind n => ?_, fun d => ?_,
    byteAt_of_mem (by rw [State.takeReport_mem, State.popCcu_mem])⟩ <;> rw [htake]
  · show (u.withdrawAll c r.kind).ccu.toCcu[c] = rest
    rw [hccu, hcross, State.popCcu, State.updCcu]
    simp [hfront]
  · show (u.withdrawAll c r.kind).ccu.holds[c] = none
    rw [hccu, hholds]
  · simp
  · exact u.withdrawAll_arrived c hkind n
  · show (u.withdrawAll c r.kind).cores[d] = s.cores[d]
    rw [hcores']

end Sys2Proof.Machine

namespace Sys2Proof.Machine

/-! ### Releasing a committing line (R358, R360) -/

/-- Storing a code word in full leaves the TXU alone. -/
theorem State.writeWord_full_txu (s : State) (src g i : Nat) : (s.writeWord src g i true).s.txu = s.txu := by
  have hclear : (s.clearPoison g i).txu = s.txu := by
    unfold State.clearPoison
    split <;> rfl
  have hset (t : State) (m : BitVec 80) : (t.setUpset g i m).txu = t.txu := by
    unfold State.setUpset
    split <;> rfl
  have hencode (t : State) : (t.encodeWord g i).txu = t.txu := by
    unfold State.encodeWord
    split <;> exact hset t _
  exact (hencode _).trans hclear

theorem State.cscAlloc_txu (s : State) (src line : Nat) (bs : List Byte) : (s.cscAlloc src line bs).txu = s.txu := by
  have hroom : (s.cscRoom line).txu = s.txu := by
    unfold State.cscRoom
    dsimp only
    split <;> rfl
  unfold State.cscAlloc
  split
  · rfl
  · exact (foldl_same (·.txu) (fun (t : State) i => (t.writeWord src (cscWord line i).1 (cscWord line i).2 true).s)
      (fun t i => t.writeWord_full_txu _ _ _) _ _).trans hroom

theorem State.releaseLine_txu (s : State) (l : TxLine) (rest : List TxLine) :
    (s.releaseLine l rest).txu = { s.txu with lines := rest } := by
  unfold State.releaseLine
  dsimp only
  split
  · rfl
  · split
    · rw [State.cscAlloc_txu]
    · rfl

/-- A slot past its commit point that holds nothing any more is FREE (R360). -/
theorem State.txFinish_free {s : State} {i : SlotId} (hst : s.txu.slots[i].st = .committing) (hdur : s.txu.slots[i].dur = .none)
    (hlines : s.txu.linesOf i true = []) : (s.txFinish i).txu.slots[i].st = .free := by
  rw [State.txFinish, if_pos ⟨hst, hdur, by rw [hlines]; rfl⟩, State.updSlot]
  exact congrArg TxSlot.st (Vector.getElem_set_self _)

theorem execCommittingLineAck_of_data {s : State} {line : BitVec 41} {l : TxLine} {rest : List TxLine} (bs : List Byte)
    (hmem : s.memHalted = false) (htake : s.txu.takeCommitting line.toNat = some (l, rest)) :
    exec (.committingLineAck line (.data bs)) s = .next ((s.releaseLine l rest).txFinish l.slot) := by
  show execCommittingLineAck line (.data bs) s = _
  simp [execCommittingLineAck, hmem, htake]

theorem execCommittingLineAck_of_lateError {s : State} {line : BitVec 41} {i : SlotId} {gen : BitVec 6} (code : Byte)
    (hmem : s.memHalted = false) (htake : s.txu.takeCommitting line.toNat = none) (htag : s.txTag line.toNat = some (i, gen)) :
    exec (.committingLineAck line (.error code)) s =
      .next ((s.freeUser (.txLine i gen line.toNat)).txLineFails i gen line.toNat 6) := by
  show execCommittingLineAck line (.error code) s = _
  simp [execCommittingLineAck, hmem, htake, htag]

/-! ### The durable sequence (R362) -/

section Durable

variable {s : State} {i : SlotId} {sc : BitVec 3} {e : QEntry} (hmem : s.memHalted = false)
include hmem

theorem execDurableLinesAcked_of_acked {t : State} (hdur : s.txu.slots[i].dur = .lines sc) (htail : s.txu.slots[i].tail = some e)
    (hacked : s.unackedLines i sc.toNat = [])
    (hwrite : s.launchWrite s.txu.slots[i].core.val 13 (.txWord i) s.ownDev (cellsAt e.commitAddr (commitWord e)) = some t) :
    exec (.durableLinesAcked i) s = .next (t.updSlot i fun x => { x with dur := .word sc }) := by
  show execDurableLinesAcked i s = _
  simp [-Fin.getElem_fin, execDurableLinesAcked, hdur, htail, hacked, hmem, hwrite]

theorem execCommitWordAck_of_data (bs : List Byte) (hdur : s.txu.slots[i].dur = .word sc) :
    exec (.commitWordAck i (.data bs)) s =
      .next (((if sc = 4 then s.freeUser (.txWord i) else s).pm 3 0x08 1).durEnd i 1) := by
  show execCommitWordAck i (.data bs) s = _
  simp [-Fin.getElem_fin, execCommitWordAck, hdur, hmem]

theorem execCommitWordAck_of_error (code : Byte) (hdur : s.txu.slots[i].dur = .word sc) (htail : s.txu.slots[i].tail = some e) :
    exec (.commitWordAck i (.error code)) s =
      .next ((s.freeUser (.txWord i)).durFail i 6 (s.ownSys e.commitAddr)) := by
  show execCommitWordAck i (.error code) s = _
  simp [-Fin.getElem_fin, execCommitWordAck, hdur, htail, hmem]

theorem execDurTmoExpiry_of_word (hdur : s.txu.slots[i].dur = .word sc) (htail : s.txu.slots[i].tail = some e) :
    exec (.durTmoExpiry i) s = .next (s.durFail i 5 (s.ownSys e.commitAddr)) := by
  show execDurTmoExpiry i s = _
  simp [-Fin.getElem_fin, execDurTmoExpiry, hdur, htail, hmem]

theorem execDurTmoExpiry_of_line {l : Nat} {ls : List Nat} (hdur : s.txu.slots[i].dur = .lines sc)
    (hlines : s.unackedLines i sc.toNat = l :: ls) :
    exec (.durTmoExpiry i) s = .next (s.durFail i 5 (s.ownSys (128 * l))) := by
  show execDurTmoExpiry i s = _
  simp [-Fin.getElem_fin, execDurTmoExpiry, hdur, hlines, hmem]

end Durable

/-! ### The explicit copies (R230, R318, R365, R477) -/

@[simp] theorem length_tgets {α : Type} (d : α) (t : Tab α) (k n : Nat) : (tgets d t k n).length = n := by
  simp [tgets]

/-- A copy to an allowed destination that the cluster itself holds is marked as active once its bytes are written. -/
theorem State.copyStart_of_done {s t : State} {u : CopyUnit} {unit loc : Nat} {bs : List Byte} {mark : State → State}
    (hdst : s.copyDstOk loc bs.length = true) (hwrite : s.writeOut unit (.copy u) (s.ownSys loc) bs = .done t) :
    s.copyStart u unit loc bs mark = mark t := by
  simp [State.copyStart, hdst, hwrite]

/-- A copy to any other destination changes nothing (assumption 68). -/
theorem State.copyStart_of_refused {s : State} {u : CopyUnit} {unit loc : Nat} {bs : List Byte} {mark : State → State}
    (hdst : s.copyDstOk loc bs.length = false) : s.copyStart u unit loc bs mark = s := by
  simp [State.copyStart, hdst]

section Copies

variable {s t : State}

theorem execTxuLogCopy_of_done (hmem : s.memHalted = false) (hidle : s.txu.copying = false)
    (hdst : s.copyDstOk (s.rf 3 0x120 0 48) 65536 = true)
    (hwrite : s.writeOut 13 (.copy .txuLog) (s.ownSys (s.rf 3 0x120 0 48)) (tgets 0 s.txu.log 0 65536) = .done t) :
    exec .txuLogCopy s = .next { t with txu := { t.txu with copying := true } } := by
  show execTxuLogCopy s = _
  rw [execTxuLogCopy, hidle, hmem, State.copyStart_of_done (by rw [length_tgets, hdst]) hwrite]
  rfl

theorem execMirrorCopy_of_done (hmem : s.memHalted = false) (hidle : s.ccu.mirroring = false)
    (hdst : s.copyDstOk (s.rf 0 0x1D0 0 48) 65536 = true)
    (hwrite : s.writeOut 12 (.copy .mirror) (s.ownSys (s.rf 0 0x1D0 0 48)) (tgets 0 s.ccu.mirror 0 65536) = .done t) :
    exec .mirrorCopy s = .next (t.updCcu fun u => { u with mirroring := true }) := by
  show execMirrorCopy s = _
  rw [execMirrorCopy, hidle, hmem, State.copyStart_of_done (by rw [length_tgets, hdst]) hwrite]
  rfl

theorem execEcmLogCopy_of_done (hmem : s.memHalted = false) (hidle : s.ecm.copying = false)
    (hdst : s.copyDstOk (s.rf 6 0x168 0 48) 16384 = true)
    (hwrite : s.writeOut 12 (.copy .ecmLog) (s.ownSys (s.rf 6 0x168 0 48)) (tgets 0 s.ecm.errlog 0 16384) = .done t) :
    exec .ecmLogCopy s = .next { t with ecm := { t.ecm with copying := true } } := by
  show execEcmLogCopy s = _
  rw [execEcmLogCopy, hidle, hmem, State.copyStart_of_done (by rw [length_tgets, hdst]) hwrite]
  rfl

theorem execTxuLogCopy_of_refused (hdst : s.copyDstOk (s.rf 3 0x120 0 48) 65536 = false) : exec .txuLogCopy s = .next s := by
  show execTxuLogCopy s = _
  rw [execTxuLogCopy, State.copyStart_of_refused (by rw [length_tgets, hdst]), ite_self]

theorem execMirrorCopy_of_refused (hdst : s.copyDstOk (s.rf 0 0x1D0 0 48) 65536 = false) : exec .mirrorCopy s = .next s := by
  show execMirrorCopy s = _
  rw [execMirrorCopy, State.copyStart_of_refused (by rw [length_tgets, hdst]), ite_self]

theorem execEcmLogCopy_of_refused (hdst : s.copyDstOk (s.rf 6 0x168 0 48) 16384 = false) : exec .ecmLogCopy s = .next s := by
  show execEcmLogCopy s = _
  rw [execEcmLogCopy, State.copyStart_of_refused (by rw [length_tgets, hdst]), ite_self]

end Copies

/-- Settles O47: each command's own equation, once the record, the durable state or the destination it asks for is there. -/
theorem durableCommitsAndCopiesComplete : Obligations.DurableCommitsAndCopiesComplete := by
  unfold Obligations.DurableCommitsAndCopiesComplete
  intro s hmem
  refine ⟨?released, ?lateError, ?word, ?ends, ?lineTmo, ?free, ?log, ?mirror, ?ecm, ?noLog, ?noMirror, ?noEcm, ?done⟩
  case released =>
    intro line bs l rest htake
    exact ⟨execCommittingLineAck_of_data bs hmem htake, s.releaseLine_txu l rest⟩
  case lateError =>
    intro line code i gen htake htag
    exact execCommittingLineAck_of_lateError code hmem htake htag
  case word =>
    intro i sc e t hdur htail hacked hwrite
    exact execDurableLinesAcked_of_acked hmem hdur htail hacked hwrite
  case ends =>
    intro i sc e hdur htail fails
    exact ⟨fun bs => execCommitWordAck_of_data hmem bs hdur, fun code => execCommitWordAck_of_error hmem code hdur htail,
      execDurTmoExpiry_of_word hmem hdur htail⟩
  case lineTmo =>
    intro i sc l ls hdur hlines
    exact execDurTmoExpiry_of_line hmem hdur hlines
  case free =>
    intro i hst hdur hlines
    exact State.txFinish_free hst hdur hlines
  case log =>
    intro t hidle hdst hwrite
    exact execTxuLogCopy_of_done hmem hidle hdst hwrite
  case mirror =>
    intro t hidle hdst hwrite
    exact execMirrorCopy_of_done hmem hidle hdst hwrite
  case ecm =>
    intro t hidle hdst hwrite
    exact execEcmLogCopy_of_done hmem hidle hdst hwrite
  case noLog => exact execTxuLogCopy_of_refused
  case noMirror => exact execMirrorCopy_of_refused
  case noEcm => exact execEcmLogCopy_of_refused
  case done =>
    have hruns : ¬ s.memHalted = true := by simp [hmem]
    exact ⟨if_neg hruns, if_neg hruns, if_neg hruns⟩

end Sys2Proof.Machine

namespace Sys2Proof.Machine

/-! ### The pages of a core (R485) -/

theorem corePage_mod (c : CoreId) {b : Nat} (hb : b < 16) : corePage c b % 16 = b := by
  simp only [corePage]
  omega

theorem corePage_ge (c : CoreId) (b : Nat) : 0x40 ≤ corePage c b := by
  simp only [corePage]
  omega

theorem pageCore_corePage (c : CoreId) {b : Nat} (hb : b < 16) : pageCore (corePage c b) = c := by
  have hc := c.isLt
  refine Fin.ext ?_
  simp only [pageCore, corePage, Fin.ofNat]
  omega

theorem toNat_corePage (c : CoreId) {b : Nat} (hb : b < 16) : (BitVec.ofNat 8 (corePage c b)).toNat = corePage c b := by
  have hc := c.isLt
  rw [BitVec.toNat_ofNat]
  refine Nat.mod_eq_of_lt ?_
  simp only [corePage]
  omega

theorem blockOf_corePage (c : CoreId) (b : Fin 8) : ∃ k, blockOf (corePage c b.val) = some k := by
  have hsome : ∀ (c : CoreId) (b : Fin 8), (blockOf (corePage c b.val)).isSome = true := by decide
  exact Option.isSome_iff_exists.1 (hsome c b)

/-! ### A register write that is handed on at once (R486, R498) -/

/-- The state in which a block performs an access: the router's list of waiting accesses is the one thing that differs. -/
def State.handing (s : State) (pend : Tab (List RegAccess)) : State := s.updCcu fun k => { k with pend := pend }

@[simp] theorem State.core_handing (s : State) (pend : Tab (List RegAccess)) (d : CoreId) : (s.handing pend).core d = s.core d := rfl
@[simp] theorem State.present_handing (s : State) (pend : Tab (List RegAccess)) (d : CoreId) :
    (s.handing pend).present d = s.present d := rfl
@[simp] theorem State.fenced_handing (s : State) (pend : Tab (List RegAccess)) (d : CoreId) :
    (s.handing pend).fenced d = s.fenced d := rfl
@[simp] theorem State.watch_handing (s : State) (pend : Tab (List RegAccess)) : (s.handing pend).ccu.watch = s.ccu.watch := rfl
@[simp] theorem State.stopped_handing (s : State) (pend : Tab (List RegAccess)) : (s.handing pend).stopped = s.stopped := rfl

/-- The answer of a write that the CCU keeps (R498). -/
def State.wrote (s : State) (page off outcome : Nat) : State :=
  s.updCcu fun k =>
    { k with answer := { writeAnswer outcome false with page := BitVec.ofNat 8 page, off := BitVec.ofNat 12 off } }

@[simp] theorem State.core_wrote (s : State) (page off o : Nat) (d : CoreId) : (s.wrote page off o).core d = s.core d := rfl
@[simp] theorem State.regs_wrote (s : State) (page off o : Nat) : (s.wrote page off o).regs = s.regs := rfl
@[simp] theorem State.mem_wrote (s : State) (page off o : Nat) : (s.wrote page off o).mem = s.mem := rfl
@[simp] theorem State.paused_wrote (s : State) (page off o page' : Nat) : (s.wrote page off o).paused page' = s.paused page' := rfl
@[simp] theorem State.engPaused_wrote (s : State) (page off o page' : Nat) :
    (s.wrote page off o).engPaused page' = s.engPaused page' := rfl
@[simp] theorem State.outcome_wrote (s : State) (page off o : Nat) :
    (s.wrote page off o).ccu.answer.outcome = BitVec.ofNat 3 o := rfl

/-- What the router needs of a page: the CCU and the page's island run, nothing waits, a core's page is not isolated. -/
theorem State.regReady_iff {s : State} {page : Nat} : s.regReady page = true ↔
    s.ccuAlive = true ∧ vget false s.stopped (islandOf page) = false ∧ s.waitingAt page = [] ∧
      (0x40 ≤ page → s.present (pageCore page) = true ∧ (s.core (pageCore page)).seq.st ≠ .off ∧
        (s.fenced (pageCore page) = true → s.ccu.watch[pageCore page].test ≠ .running)) := by
  simp only [State.regReady, Bool.and_eq_true, Bool.or_eq_true, Bool.not_eq_true', List.isEmpty_iff, decide_eq_true_eq,
    bne_iff_ne, Bool.and_eq_false_imp, beq_eq_false_iff_ne, and_assoc, ← not_lt, ne_eq, or_iff_not_imp_left]

/-- A page that is not isolated leaves an access to its block. -/
theorem State.tryAccess_of_ready {s : State} {page : Nat} {b : Block} (a : RegAccess) (hb : blockOf page = some b)
    (hready : s.regReady page = true) (pend : Tab (List RegAccess)) :
    (s.handing pend).tryAccess page a = (s.handing pend).blockAccess page a := by
  obtain ⟨_, _, _, hcore⟩ := State.regReady_iff.1 hready
  unfold State.tryAccess
  rw [hb]
  dsimp only
  split
  · next hge =>
    obtain ⟨hpresent, hon, htest⟩ := hcore hge
    simp only [State.present_handing, State.core_handing, State.fenced_handing, State.watch_handing, hpresent, hon]
    exact if_neg fun h => htest (Bool.and_eq_true_iff.1 h).1 (beq_iff_eq.1 (Bool.and_eq_true_iff.1 h).2)
  · rfl

/-- A block whose island runs decides a write that it does not hold. -/
theorem State.blockAccess_of_write {s t : State} {page o : Nat} {a : RegAccess} (hisland : vget false s.stopped (islandOf page) = false)
    (ha : a.write = true) (hwrite : s.pageWrite page a.off.toNat a.value = (o, t)) (ho : o ≠ 4) :
    s.blockAccess page a = some (t.regReply page a (writeAnswer o false)) := by
  simp [State.blockAccess, hisland, ha, hwrite]

/-- A write to a page that is ready is decided at once by the page's block. -/
theorem State.hostWrite_of_ready {s : State} {page off : Nat} {b : Block} (v : Dword) (hb : blockOf page = some b)
    (hready : s.regReady page = true) (hoff : off < 4096) : ∃ pend, ∀ o t, (s.handing pend).pageWrite page off v = (o, t) → o ≠ 4 →
      s.hostWrite page off v = t.wrote page off o := by
  obtain ⟨halive, hisland, hwait, _⟩ := State.regReady_iff.1 hready
  let a : RegAccess := ⟨BitVec.ofNat 12 off, true, v, .command⟩
  have hoffset : a.off.toNat = off := by
    rw [BitVec.toNat_ofNat, Nat.mod_eq_of_lt hoff]
  have hfront : (s.setWaiting page [a]).waitingAt page = [a] := by
    rw [State.waitingAt]
    exact tget_tput_same [] s.ccu.pend page [a]
  let pend := ((s.setWaiting page [a]).setWaiting page []).ccu.pend
  refine ⟨pend, fun o t hwrite ho => ?_⟩
  have htry : ((s.setWaiting page [a]).setWaiting page []).tryAccess page a = some (t.wrote page off o) :=
    (State.tryAccess_of_ready a hb hready pend).trans
      (State.blockAccess_of_write (s := s.handing pend) hisland rfl (by rw [hoffset]; exact hwrite) ho)
  rw [State.hostWrite, State.access, if_neg (by simp [halive]), hwait, List.nil_append]
  dsimp only
  rw [hfront, List.length_singleton, State.serveWaiting, hfront]
  dsimp only
  rw [htry]
  rfl

/-! ### Writes of CTL (R489, R500, R501) -/

theorem State.softReset_decides (s : State) (page : Nat) : (s.softReset page).1 ≠ 4 := by
  unfold State.softReset
  dsimp only
  (repeat' split) <;> simp

theorem State.ctlWrite_decides (s : State) (page : Nat) (v : Dword) : (s.ctlWrite page v).1 ≠ 4 := by
  unfold State.ctlWrite
  dsimp only
  (repeat' split) <;> simp [State.readOnly, State.softReset_decides]

/-- A write of CTL to a page that is ready is decided at once. -/
theorem State.hostWrite_ctl {s : State} {page : Nat} {b : Block} (v : Dword) (hb : blockOf page = some b)
    (hready : s.regReady page = true) : ∃ pend, s.hostWrite page 0x10 v =
      ((s.handing pend).ctlWrite page v).2.wrote page 0x10 ((s.handing pend).ctlWrite page v).1 := by
  obtain ⟨pend, hwrite⟩ := State.hostWrite_of_ready v hb hready (show 0x10 < 4096 by decide)
  refine ⟨pend, hwrite _ _ ?_ (State.ctlWrite_decides _ _ _)⟩
  unfold State.pageWrite
  rw [hb]
  rfl

/-- CTL of a page of a core: PAUSE, and SRST when it is written. -/
theorem State.ctlWrite_corePage (s : State) (c : CoreId) {b : Nat} (hb : b < 16) (v : Dword) :
    s.ctlWrite (corePage c b) v =
      (let s1 := if b = 0 then s.pauseCore c (bitAt v 1) else s.pauseEngine c b (bitAt v 1)
       if bitAt v 3 then s1.softReset (corePage c b) else (0, s1)) := by
  rw [State.ctlWrite, if_pos (corePage_ge c b), pageCore_corePage c hb, corePage_mod c hb]

/-- The word that writes PAUSE alone. -/
theorem bitAt_pauseWord (v : Bool) :
    bitAt (BitVec.ofNat 64 (2 * bit v)) 1 = v ∧ bitAt (BitVec.ofNat 64 (2 * bit v)) 3 = false := by
  cases v <;> decide

/-- The word that writes SRST and leaves PAUSE as it is. -/
theorem bitAt_srstWord (v : Bool) :
    bitAt (BitVec.ofNat 64 (8 + 2 * bit v)) 1 = v ∧ bitAt (BitVec.ofNat 64 (8 + 2 * bit v)) 3 = true := by
  cases v <;> decide

theorem execSeqPause_of_ready {s : State} {c : CoreId} (v : Bool) (hready : s.regReady (pgSeq c) = true) : ∃ pend,
    exec (.seqPause c v) s = .next (((s.handing pend).pauseCore c v).wrote (pgSeq c) 0x10 0) := by
  obtain ⟨k, hk⟩ := blockOf_corePage c 0
  obtain ⟨pend, hwrite⟩ := State.hostWrite_ctl (BitVec.ofNat 64 (2 * bit v)) hk hready
  obtain ⟨hpause, hsrst⟩ := bitAt_pauseWord v
  refine ⟨pend, congrArg Host.Outcome.next (hwrite.trans ?_)⟩
  rw [Fin.val_zero, State.ctlWrite_corePage _ _ (by decide), hpause, hsrst]
  rfl

theorem execEnginePause_of_ready {s : State} {c : CoreId} {b : Fin 8} (hb : b ≠ 0) (v : Bool)
    (hready : s.regReady (corePage c b.val) = true) : ∃ pend,
    exec (.enginePause c b v) s = .next (((s.handing pend).pauseEngine c b.val v).wrote (corePage c b.val) 0x10 0) := by
  obtain ⟨k, hk⟩ := blockOf_corePage c b
  obtain ⟨pend, hwrite⟩ := State.hostWrite_ctl (BitVec.ofNat 64 (2 * bit v)) hk hready
  obtain ⟨hpause, hsrst⟩ := bitAt_pauseWord v
  refine ⟨pend, (if_neg hb).trans (congrArg Host.Outcome.next (hwrite.trans ?_))⟩
  rw [State.ctlWrite_corePage _ _ (by omega), hpause, hsrst, if_neg (Fin.val_ne_zero_iff.2 hb)]
  rfl

/-! ### PAUSE of a core (R225, R500) -/

theorem State.paused_setRf (s : State) (page : Nat) (v : Bool) : (s.setRf page 0x10 1 1 (bit v)).paused page = v := by
  rw [State.paused, State.rf_setRf_same _ _ _ _ (by decide)]
  cases v <;> rfl

/-- Ending PAUSED writes no register. -/
theorem State.paused_resume (s : State) (c : CoreId) (page : Nat) : (s.resume c).paused page = s.paused page := by
  unfold State.resume State.becomeIdle
  dsimp only
  (repeat' split) <;> rfl

theorem State.paused_pauseCore (s : State) (c : CoreId) (v : Bool) : (s.pauseCore c v).paused (pgSeq c) = v := by
  have hset := s.paused_setRf (pgSeq c) v
  unfold State.pauseCore
  dsimp only
  split
  · split
    · exact hset
    · exact hset
  · rw [State.paused_resume, hset]

/-- Pausing changes nothing of a core but, without a task, its STATE. -/
theorem State.pauseCore_true (s : State) (c : CoreId) : (s.pauseCore c true).core c =
    { s.core c with seq := { (s.core c).seq with
        st := if (s.core c).seq.st = .idle ∧ (s.core c).seq.task = none then .paused else (s.core c).seq.st } } := by
  rw [State.pauseCore, if_pos rfl]
  dsimp only
  rw [State.core_setRf]
  split <;> simp

theorem State.pauseCore_false (s : State) (c : CoreId) :
    s.pauseCore c false = (s.setRf (pgSeq c) 0x10 1 1 0).resume c := rfl

theorem State.resume_of_task {s : State} {c : CoreId} (hst : (s.core c).seq.st = .paused) (htask : (s.core c).seq.task ≠ none)
    (hdrain : (s.core c).seq.draining = none) (hab : (s.core c).seq.abortTask = false) :
    ((s.resume c).core c).seq.st = .run := by
  simp [State.resume, hst, Option.isSome_iff_ne_none.2 htask, hdrain, hab]

theorem State.resume_of_noTask {s : State} {c : CoreId} (hst : (s.core c).seq.st = .paused) (htask : (s.core c).seq.task = none)
    (hpause : s.paused (pgSeq c) = false) : ((s.resume c).core c).seq.st = .idle := by
  obtain ⟨d, hidle⟩ := s.becomeIdle_seq c
  unfold State.resume
  simp only [hst, htask]
  split
  · contradiction
  · split
    · contradiction
    · split
      · rw [hidle, hpause]
        rfl
      · simp

/-- Any other core than a PAUSED one keeps its state when CTL is written, an IDLE one without a task but for STATE. -/
theorem State.pauseCore_of_idle {s : State} {c : CoreId} (v : Bool) (hst : (s.core c).seq.st = .idle) :
    ∃ st, ((s.pauseCore c v).core c).seq = { (s.core c).seq with st := st } := by
  cases v with
  | true => exact ⟨_, by rw [State.pauseCore_true]⟩
  | false =>
    refine ⟨.idle, ?_⟩
    rw [State.pauseCore_false, State.resume, if_pos (by rw [State.core_setRf, hst]; decide), State.core_setRf, ← hst]

/-! ### Soft reset of a core's blocks (R489) -/

/-- The SEQ page's soft reset of a core that handles no task. -/
theorem State.softSeq_of_free {s : State} {c : CoreId} (hfree : (s.core c).seq.holds = false) :
    let q := ((s.softSeq c).core c).seq
    q.pc = 0 ∧ q.flags = 0 ∧ q.loops = [] ∧ q.rstk = [] := by
  unfold State.softSeq
  simp only [hfree, Bool.false_eq_true, if_false]
  split
  · obtain ⟨d, hidle⟩ := State.becomeIdle_seq _ c
    rw [hidle]
    simp
  · simp

theorem State.softReset_seq (s : State) (c : CoreId) : s.softReset (pgSeq c) = (0, s.softSeq c) := by
  obtain ⟨k, hk⟩ := blockOf_corePage c 0
  have hk' : blockOf (pgSeq c) = some k := hk
  have hge : 0x40 ≤ pgSeq c := corePage_ge c 0
  unfold State.softReset
  rw [hk']
  dsimp only
  rw [if_neg (by omega), if_pos hge, if_pos (corePage_mod c (by decide)), pageCore_corePage c (by decide)]

/-- An engine's page takes SRST while the core allows it, and else refuses it. -/
theorem State.softReset_engine (s : State) (c : CoreId) {b : Fin 8} (hb : b ≠ 0) : s.softReset (corePage c b.val) =
    if s.softCoreOk c then (0, s.softEngine c b.val) else (1, s.errBit (corePage c b.val) 2) := by
  obtain ⟨k, hk⟩ := blockOf_corePage c b
  have hge := corePage_ge c b.val
  have hmod : corePage c b.val % 16 = b.val := corePage_mod c (by omega)
  unfold State.softReset
  rw [hk]
  dsimp only
  rw [if_neg (by omega), if_pos hge, hmod, if_neg (Fin.val_ne_zero_iff.2 hb), pageCore_corePage c (by omega)]

/-- SRST of a page of a core writes CTL with PAUSE as it reads. -/
theorem execSrst_of_ready {s : State} {c : CoreId} {b : Fin 8} (hready : s.regReady (corePage c b.val) = true) :
    ∃ pend, exec (.srst (BitVec.ofNat 8 (corePage c b.val))) s = .next
      (let u := s.handing pend
       let v := s.paused (corePage c b.val)
       let r := (if b.val = 0 then u.pauseCore c v else u.pauseEngine c b.val v).softReset (corePage c b.val)
       r.2.wrote (corePage c b.val) 0x10 r.1) := by
  obtain ⟨k, hk⟩ := blockOf_corePage c b
  obtain ⟨pend, hwrite⟩ := State.hostWrite_ctl (BitVec.ofNat 64 (8 + 2 * bit (s.paused (corePage c b.val)))) hk hready
  obtain ⟨hpause, hsrst⟩ := bitAt_srstWord (s.paused (corePage c b.val))
  refine ⟨pend, ?_⟩
  show execSrst (BitVec.ofNat 8 (corePage c b.val)) s = _
  rw [execSrst, toNat_corePage c (by omega), hwrite, State.ctlWrite_corePage _ _ (by omega), hpause, hsrst]
  rfl

theorem execSrst_of_seq {s : State} {c : CoreId} (hready : s.regReady (pgSeq c) = true) : ∃ pend,
    exec (.srst (BitVec.ofNat 8 (pgSeq c))) s =
      .next ((((s.handing pend).pauseCore c (s.paused (pgSeq c))).softSeq c).wrote (pgSeq c) 0x10 0) := by
  obtain ⟨pend, hexec⟩ := execSrst_of_ready (b := 0) hready
  refine ⟨pend, hexec.trans ?_⟩
  simp only [Fin.val_zero, if_true, State.softReset_seq]

theorem execSrst_of_engine {s : State} {c : CoreId} {b : Fin 8} (hb : b ≠ 0) (hready : s.regReady (corePage c b.val) = true) :
    ∃ pend, exec (.srst (BitVec.ofNat 8 (corePage c b.val))) s = .next
      (let u := (s.handing pend).pauseEngine c b.val (s.paused (corePage c b.val))
       if s.softCoreOk c then (u.softEngine c b.val).wrote (corePage c b.val) 0x10 0
       else (u.errBit (corePage c b.val) 2).wrote (corePage c b.val) 0x10 1) := by
  obtain ⟨pend, hexec⟩ := execSrst_of_ready hready
  refine ⟨pend, hexec.trans ?_⟩
  have hok (v : Bool) : ((s.handing pend).pauseEngine c b.val v).softCoreOk c = s.softCoreOk c := rfl
  simp only [Fin.val_ne_zero_iff.2 hb, if_false, State.softReset_engine _ _ hb, hok]
  split <;> rfl

theorem State.core_softEngine_other (s : State) {c d : CoreId} (b : Nat) (h : d ≠ c) : (s.softEngine c b).core d = s.core d := by
  unfold State.softEngine
  dsimp only
  rw [(State.sweepTags_sendsOnly _ _).core]
  split
  iterate 6 exact State.core_updCore_other _ h _
  rfl

@[simp] theorem State.core_errBit (s : State) (page b : Nat) (d : CoreId) : (s.errBit page b).core d = s.core d := by
  unfold State.errBit
  split <;> rfl

/-! ### PAUSE of an engine (R501) -/

@[simp] theorem State.core_pauseEngine (s : State) (c : CoreId) (b : Nat) (v : Bool) (d : CoreId) :
    (s.pauseEngine c b v).core d = s.core d := rfl

theorem State.paused_pauseEngine (s : State) (c : CoreId) (b : Nat) (v : Bool) :
    (s.pauseEngine c b v).paused (corePage c b) = v := by
  rw [State.pauseEngine, State.paused, State.rf_setRf_other _ _ _ _ (regKey_ne (by decide))]
  exact s.paused_setRf (corePage c b) v

/-- A pause of an engine with nothing in progress is reached at once, and is over at once. -/
theorem State.engPaused_pauseEngine (s : State) (c : CoreId) (b : Nat) (v : Bool) :
    (s.pauseEngine c b v).engPaused (corePage c b) = (v && !s.busy c b) := by
  have hbusy : (s.setRf (corePage c b) 0x10 1 1 (bit v)).busy c b = s.busy c b := rfl
  rw [State.pauseEngine, State.engPaused, State.rf_setRf_same _ _ _ _ (by decide), hbusy]
  cases v <;> cases s.busy c b <;> rfl

/-! ### PAUSE_REACHED (R500, R501) -/

theorem execPauseReached_of_core {s : State} {c : CoreId} (halive : s.alive c = true) (hpause : s.paused (pgSeq c) = true)
    (hst : (s.core c).seq.st = .run ∨ ((s.core c).seq.st = .drain ∧ (s.core c).seq.abortTask = false))
    (hstep : (s.core c).seq.stepping = false) (hcauses : (s.core c).seq.causes = []) (hbusy : s.coreBusy c = false) :
    exec (.pauseReached c 0) s = .next (s.updSeq c fun q => { q with st := .paused }) := by
  show execPauseReached c 0 s = _
  rcases hst with hst | ⟨hst, hab⟩
  · simp [execPauseReached, halive, hpause, hst, hstep, hcauses, hbusy]
  · simp [execPauseReached, halive, hpause, hst, hab, hstep, hcauses, hbusy]

theorem execPauseReached_of_engine {s : State} {c : CoreId} {b : Fin 8} (hb : b ≠ 0) (halive : s.alive c = true)
    (hpause : s.paused (corePage c b.val) = true) (hbusy : s.busy c b.val = false) :
    exec (.pauseReached c b) s = .next (s.setRf (corePage c b.val) 0x18 0 1 1) := by
  have hval : b.val ≠ 0 := Fin.val_ne_zero_iff.2 hb
  show execPauseReached c b s = _
  simp [execPauseReached, halive, hval, hpause, hbusy]

/-- SRST of the CCU's page finds nothing that is writable (R489; assumption 84). -/
theorem execSrst_of_ccu {s : State} (hready : s.regReady 0 = true) :
    ∃ pend, exec (.srst 0) s = .next ((s.handing pend).wrote 0 0x10 3) := by
  obtain ⟨pend, hwrite⟩ := State.hostWrite_ctl (BitVec.ofNat 64 (8 + 2 * bit (s.paused 0))) (b := .ccu) rfl hready
  exact ⟨pend, congrArg Host.Outcome.next hwrite⟩

/-- Settles O12: a write of CTL that its page takes is `pauseCore` or `pauseEngine`, and `softReset` behind it. -/
theorem pausesAndSoftResets : Obligations.PausesAndSoftResets := by
  unfold Obligations.PausesAndSoftResets
  intro s c
  refine ⟨?core, ?engine, ?reached, ?ccu⟩
  case core =>
    intro hready
    refine ⟨fun hst htask => ?_, fun hst => ?_, fun hst htask hdrain hab => ?_, fun hst htask => ?_, fun hst hfree => ?_⟩
    · obtain ⟨pend, hexec⟩ := execSeqPause_of_ready true hready
      refine ⟨_, hexec, ?_, ?_⟩
      · rw [State.core_wrote, State.pauseCore_true]
        exact if_pos ⟨hst, htask⟩
      · rw [State.paused_wrote, State.paused_pauseCore]
    · obtain ⟨pend, hexec⟩ := execSeqPause_of_ready true hready
      refine ⟨_, hexec, ?_, ?_⟩
      · rw [State.core_wrote, State.pauseCore_true, State.core_handing, if_neg (by simp [hst])]
      · rw [State.paused_wrote, State.paused_pauseCore]
    · obtain ⟨pend, hexec⟩ := execSeqPause_of_ready false hready
      refine ⟨_, hexec, ?_, ?_⟩
      · exact State.resume_of_task (s := (s.handing pend).setRf (pgSeq c) 0x10 1 1 0) hst htask hdrain hab
      · rw [State.paused_wrote, State.paused_pauseCore]
    · obtain ⟨pend, hexec⟩ := execSeqPause_of_ready false hready
      exact ⟨_, hexec, State.resume_of_noTask (s := (s.handing pend).setRf (pgSeq c) 0x10 1 1 0) hst htask
        (State.paused_setRf _ _ false)⟩
    · obtain ⟨pend, hexec⟩ := execSrst_of_seq hready
      obtain ⟨st, hseq⟩ := State.pauseCore_of_idle (s := s.handing pend) (s.paused (pgSeq c)) hst
      obtain ⟨hpc, hflags, hloops, hrstk⟩ := State.softSeq_of_free (by rw [hseq]; exact hfree)
      exact ⟨_, hexec, hpc, hflags, hloops, hrstk, byteAt_of_mem (((State.softSeq_mem _ c).trans (State.pauseCore_mem _ c _)))⟩
  case engine =>
    intro b hb hready
    refine ⟨fun v => ?_, fun hok => ?_, fun hrefuse => ?_⟩
    · obtain ⟨pend, hexec⟩ := execEnginePause_of_ready hb v hready
      refine ⟨_, hexec, ?_, fun d => rfl, fun hbusy => ?_⟩
      · rw [State.paused_wrote, State.paused_pauseEngine]
      · have hbusy' : (s.handing pend).busy c b.val = false := hbusy
        rw [State.engPaused_wrote, State.engPaused_pauseEngine, hbusy', Bool.not_false, Bool.and_true]
    · obtain ⟨pend, hexec⟩ := execSrst_of_engine hb hready
      rw [if_pos hok] at hexec
      exact ⟨_, hexec, rfl, fun d hd => State.core_softEngine_other _ _ hd⟩
    · obtain ⟨pend, hexec⟩ := execSrst_of_engine hb hready
      rw [hrefuse, if_neg Bool.false_ne_true] at hexec
      exact ⟨_, hexec, rfl, fun d => State.core_errBit _ _ _ d⟩
  case reached =>
    intro halive
    refine ⟨fun hpause hst hstep hcauses hbusy => execPauseReached_of_core halive hpause hst hstep hcauses hbusy,
      fun b hb hpause hbusy => ⟨_, execPauseReached_of_engine hb halive hpause hbusy, ?_, fun d => rfl⟩⟩
    rw [State.engPaused, State.rf_setRf_same _ _ _ _ (by decide)]
    rfl
  case ccu =>
    intro hready
    obtain ⟨pend, hexec⟩ := execSrst_of_ccu hready
    exact ⟨_, hexec, rfl, fun d => rfl, rfl⟩

end Sys2Proof.Machine

namespace Sys2Proof.Machine

/-! ### Fetching a control word leaves the cores as they are (R226) -/

@[simp] theorem State.fetchCw_cores (s : State) (c : CoreId) (idx : CsIndex) : (s.fetchCw c idx).s.cores = s.cores := by
  simp [State.fetchCw, State.fetchQuarter]

@[simp] theorem State.tableWord_cores (s : State) (c : CoreId) (w : Cw) : (s.tableWord c w).s.cores = s.cores := by
  unfold State.tableWord
  split
  · exact s.fetchCw_cores c _
  · rfl

/-! ### TAKEs and signals change only flags, counters and held signals (R248, R252, R255) -/

/-- `r` differs from `q` at most in flags, counters, landing flags and held signals. -/
def Seq.SyncOnly (q r : Seq) : Prop := r = { q with flags := r.flags, cnt := r.cnt, lf := r.lf, held := r.held }

theorem Seq.SyncOnly.refl (q : Seq) : q.SyncOnly q := rfl

theorem Seq.SyncOnly.trans {q r t : Seq} (h : q.SyncOnly r) (g : r.SyncOnly t) : q.SyncOnly t := by
  unfold Seq.SyncOnly at *
  rw [g, h]

theorem State.applyTake_syncOnly (s : State) (c : CoreId) (d : Cond) :
    (s.core c).seq.SyncOnly ((s.applyTake c d).core c).seq := by
  unfold State.applyTake
  split
  · exact .refl _
  · split
    · rw [State.core_updSeq_same]; rfl
    · rw [State.core_updSeq_same]; rfl
    · rw [State.core_updSeq_same]; rfl
    · exact .refl _

theorem State.applyTakes_syncOnly (s : State) (c : CoreId) (w : Cw) :
    (s.core c).seq.SyncOnly ((s.applyTakes c w).core c).seq := by
  have hfirst : (s.core c).seq.SyncOnly ((if s.condHolds c w.cond0 then s.applyTake c w.cond0 else s).core c).seq := by
    split
    · exact s.applyTake_syncOnly c _
    · exact .refl _
  unfold State.applyTakes
  dsimp only
  split
  · exact hfirst.trans (State.applyTake_syncOnly _ c _)
  · exact hfirst

theorem State.sigCounter_syncOnly (s : State) (c : CoreId) (n op : Nat) :
    (s.core c).seq.SyncOnly ((s.sigCounter c n op).core c).seq := by
  have hput (x : BitVec 16) :
      (s.core c).seq.SyncOnly ((s.updSeq c fun q => { q with cnt := vset q.cnt n x }).core c).seq := by
    rw [State.core_updSeq_same]; rfl
  unfold State.sigCounter
  dsimp only
  split
  · exact hput _
  · exact hput _
  · split
    · exact .refl _
    · exact hput _
  · split
    · exact .refl _
    · exact hput _

theorem State.fire_syncOnly (s : State) (c : CoreId) (g : Sig) (n : Nat) :
    (s.core c).seq.SyncOnly ((s.fire c g n).core c).seq := by
  unfold State.fire
  dsimp only
  split
  · rw [State.core_updSeq_same]; rfl
  · exact s.sigCounter_syncOnly c _ _
  · rw [State.core_updSeq_same]; rfl
  · split
    · exact .refl _
    · rw [State.core_updSeq_same]; rfl

/-! ### What an issued word leaves (R204, R205, R206, R251) -/

/-- The entry of a slot of the word a control core issues (R206, R251). -/
def Seq.entry (q : Seq) (w : Cw) (bits : BitVec 40) (trig : Nat) : QEntry :=
  ⟨bits, q.a, q.pc, q.words, if w.sig.trig.toNat = trig then some w.sig else none⟩

/-- The control core once the word has issued, up to what TAKEs and the ISSUE signal change. -/
def Seq.issued (q : Seq) (w : Cw) (ag : Option AgLatch) (flow : Option FlowLatch) : Seq :=
  { q.place w with
    ag := ag
    flow := flow
    pc := if op24 w.flow = 0 then q.pc + 1 else q.pc
    words := q.words + 1
    waitCnt := 0
    takeGrant := false
    brkPassed := false
    stepping := false }

theorem Seq.SyncOnly.issued {q r : Seq} (h : q.SyncOnly r) (w : Cw) (ag : Option AgLatch) (flow : Option FlowLatch) :
    (q.issued w ag flow).SyncOnly (r.issued w ag flow) := by
  unfold Seq.SyncOnly at *
  rw [h]
  rfl

/-- What the word's AG operation latches (R205, R209, R211). -/
def State.agLatch (s : State) (c : CoreId) (w table : Cw) : Option AgLatch :=
  let q := (s.core c).seq
  if op24 w.ag = 0 then none else some ⟨w.ag, q.a, s.agValue c w.ag table, q.words, q.pc⟩

/-- What the word's FLOW operation latches (R205, R215, R216). -/
def Core.flowLatch (k : Core) (w : Cw) : Option FlowLatch :=
  if op24 w.flow = 0 then none else some ⟨w.flow, k.seq.pc, loopCount k.seq w.flow, flowTaken k.seq k.vxe w.flow⟩

theorem State.issueWord_seq (s : State) (c : CoreId) (w table : Cw) :
    ((s.core c).seq.issued w (s.agLatch c w table) ((s.core c).flowLatch w)).SyncOnly ((s.issueWord c w table).core c).seq := by
  have htakes := (s.applyTakes_syncOnly c w).issued w (s.agLatch c w table) ((s.core c).flowLatch w)
  refine htakes.trans ?_
  unfold State.issueWord
  dsimp only
  split
  · refine .trans ?_ (State.fire_syncOnly _ c _ _)
    rw [State.core_pm, State.core_updSeq_same]
    rfl
  · rw [State.core_pm, State.core_updSeq_same]
    rfl

/-- A queue that takes an entry unless the slot is a NOP. -/
theorem append_ite {α : Type} (p : Prop) [Decidable p] (l : List α) (x : α) :
    (if p then l else l ++ [x]) = l ++ (if p then [] else [x]) := by
  split
  · exact (List.append_nil l).symm
  · rfl

theorem Seq.stq_place (q : Seq) (w : Cw) (n : UnitId) : (q.place w).stq[n] = q.stq[n] ++
    (if op32 w.st ≠ 0 ∧ n = stUnit w.st then [q.entry w w.st 4] else []) := by
  by_cases hop : op32 w.st = 0
  · simp [Seq.place, hop]
  · have hplace : (q.place w).stq = vmod q.stq (stUnit w.st) (· ++ [q.entry w w.st 4]) := if_neg hop
    rw [hplace]
    by_cases hn : n = stUnit w.st
    · subst hn
      rw [if_pos ⟨hop, rfl⟩]
      exact getElem_vmod_same _ _ _
    · rw [if_neg (fun h => hn h.2), List.append_nil]
      exact getElem_vmod_other _ _ _ (fun h => hn (Fin.ext h.symm))

/-- A word of zeros is NOP in every slot (R203). -/
theorem Seq.place_zero (q : Seq) : q.place 0 = q := by
  have hmx : op40 (Cw.mx 0) = 0 := by decide
  have hvx : op40 (Cw.vx 0) = 0 := by decide
  have hst : op32 (Cw.st 0) = 0 := by decide
  have hls : op32 (Cw.ls 0) = 0 := by decide
  have hch : op24 (Cw.ch 0) = 0 := by decide
  simp only [Seq.place, hmx, hvx, hst, hls, hch, if_true]

theorem State.issueWord_zero (s : State) (c : CoreId) : s.issueWord c 0 0 = (s.updSeq c fun q => { q with
    ag := none, flow := none, pc := q.pc + 1, words := q.words + 1, waitCnt := 0, takeGrant := false, brkPassed := false,
    stepping := false }).pm (pgSeq c) 0x01 1 := by
  have hag : op24 (Cw.ag 0) = 0 := by decide
  have hflow : op24 (Cw.flow 0) = 0 := by decide
  have hsig : (Cw.sig 0).trig ≠ 1 := by decide
  have htake0 (t : State) : t.applyTake c (Cw.cond0 0) = t := if_pos (by decide)
  have htake1 (t : State) : t.applyTake c (Cw.cond1 0) = t := if_pos (by decide)
  have htakes : s.applyTakes c 0 = s := by
    unfold State.applyTakes
    simp only [htake0, htake1, ite_self]
  unfold State.issueWord
  simp only [htakes, hag, hflow, hsig, Seq.place_zero, if_true, if_false]

/-! ### HEAD_WORD_ISSUE and IMMEDIATE_TABLE_WORD (R203, R204) -/

/-- Checks 3 to 5 of R204 passed. -/
theorem State.tryIssue_of_go {s held : State} {c : CoreId} {w table : Cw} (hpend : (s.core c).seq.takePend = false)
    (hwait : (s.core c).seq.takeGrant = true ∨ (s.waitHolds c w = true ∧ s.takeNeeds c w = none))
    (hroom : roomFor (s.core c).seq w = true) (hag : s.agCheckIssue c w.ag = none)
    (hflow : flowCheckIssue (s.core c).seq (s.core c).vxe w.flow = none) :
    s.tryIssue held c w table = s.issueWord c w table := by
  unfold State.tryIssue
  rcases hwait with hgrant | ⟨hholds, hneeds⟩
  · simp [hpend, hgrant, hroom, hag, hflow]
  · simp [hpend, hholds, hneeds, hroom, hag, hflow]

theorem execHeadWordIssue_of_checked {s : State} {c : CoreId} {f t : Fetched} (hready : s.headReady c = true)
    (hbrk : s.brkArmed c = false) (hf : s.fetchCw c (s.core c).seq.pc = f) (ht : f.s.tableWord c f.word = t)
    (hfue : f.ue = false) (hfmt : f.word.fmt = 1) (htue : t.ue = false)
    (hcheck : cwCheck (s.core c).seq (s.rf (pgSeq c) 0x100 0 1 == 1) f.word t.word = none) :
    exec (.headWordIssue c) s = .next (t.s.tryIssue s c f.word t.word) := by
  show execHeadWordIssue c s = _
  simp [execHeadWordIssue, hready, hbrk, hf, ht, hfue, hfmt, htue, hcheck]

theorem execImmediateTableWord_of_head {s : State} {c : CoreId} {f : Fetched} (hready : s.headReady c = true)
    (hbrk : s.brkArmed c = false) (hf : s.fetchCw c (s.core c).seq.pc = f) (hfue : f.ue = false) (hfmt : f.word.fmt = 2)
    (hpc : (s.core c).seq.pc ≠ 4095) : exec (.immediateTableWord c) s = .next (f.s.issueWord c 0 0) := by
  have hlast : ¬ (s.core c).seq.pc = 4095#12 := hpc
  show execImmediateTableWord c s = _
  simp [execImmediateTableWord, hready, hbrk, hf, hfue, hfmt, hlast]

/-- Settles O23: a word that passes every check is `issueWord`, which leaves `Seq.issued` up to what TAKEs and signals change. -/
theorem headWordIssuesItsSlots : Obligations.HeadWordIssuesItsSlots := by
  unfold Obligations.HeadWordIssuesItsSlots
  intro s c hready hbrk q f hfue
  refine ⟨?word, ?table⟩
  case word =>
    intro hfmt t htue hcheck hpend hwait hroom hag hflow entry
    have hcores : t.s.cores = s.cores := (State.tableWord_cores _ c _).trans (s.fetchCw_cores c _)
    have hcore : t.s.core c = s.core c := by rw [State.core, hcores, State.core]
    have hissue : t.s.tryIssue s c f.word t.word = t.s.issueWord c f.word t.word :=
      State.tryIssue_of_go (by rw [hcore]; exact hpend) (by rw [hcore]; exact hwait) (by rw [hcore]; exact hroom) hag
        (by rw [hcore]; exact hflow)
    have hseq := t.s.issueWord_seq c f.word t.word
    rw [hcore] at hseq
    have hmem : (t.s.issueWord c f.word t.word).mem = s.mem := by
      rw [State.issueWord_mem, State.tableWord_mem, State.fetchCw_mem]
    refine ⟨_, (execHeadWordIssue_of_checked hready hbrk rfl rfl hfue hfmt htue hcheck).trans (congrArg _ hissue), ?_⟩
    dsimp only
    rw [hseq]
    refine ⟨rfl, rfl, rfl, fun hop => if_pos hop, fun hop => ⟨_, if_neg hop, rfl, ?regs, ?num, ?cw⟩, fun hop => ⟨if_pos hop, if_pos hop⟩,
      fun hop => ⟨if_neg hop, if_neg hop⟩, ?mx, ?vx, q.stq_place f.word, ?ls, ?ch, byteAt_of_mem hmem⟩
    case regs => exact congrArg (·.seq.a) hcore
    case num => exact congrArg (·.seq.words) hcore
    case cw => exact congrArg (·.seq.pc) hcore
    case mx => exact append_ite _ _ _
    case vx => exact append_ite _ _ _
    case ls => exact append_ite _ _ _
    case ch => exact append_ite _ _ _
  case table =>
    intro hfmt hpc
    rw [execImmediateTableWord_of_head hready hbrk rfl hfue hfmt hpc, State.issueWord_zero]

end Sys2Proof.Machine

namespace Sys2Proof.Machine

/-! ### One bit of a word -/

theorem getLsbD_setBit_other {n : Nat} (v : BitVec n) {i j : Nat} (b : Bool) (h : j ≠ i) :
    (setBit v i b).getLsbD j = v.getLsbD j :=
  getLsbD_setFld_other v _ (by omega)

/-- Writing to a bit what it holds changes nothing. -/
theorem setBit_of_getLsbD {n : Nat} {v : BitVec n} {i : Nat} {b : Bool} (h : v.getLsbD i = b) : setBit v i b = v := by
  refine BitVec.eq_of_getLsbD_eq fun j hj => ?_
  by_cases hji : j = i
  · subst hji
    rw [getLsbD_setBit_same _ _ _ hj, h]
  · rw [getLsbD_setBit_other _ _ hji]

theorem getLsbD_one_shiftLeft (n i j : Nat) : ((1 : BitVec n) <<< i).getLsbD j = (decide (i < n) && decide (i = j)) :=
  BitVec.getLsbD_twoPow i j

theorem setBit_true {n : Nat} (v : BitVec n) (i : Nat) : setBit v i true = v ||| (1 : BitVec n) <<< i := by
  refine BitVec.eq_of_getLsbD_eq fun j hj => ?_
  rw [BitVec.getLsbD_or, getLsbD_one_shiftLeft]
  by_cases hji : j = i
  · subst hji
    rw [getLsbD_setBit_same _ _ _ hj]
    simp [hj]
  · rw [getLsbD_setBit_other _ _ hji]
    simp [Ne.symm hji]

theorem setBit_false {n : Nat} (v : BitVec n) (i : Nat) : setBit v i false = v &&& ~~~((1 : BitVec n) <<< i) := by
  refine BitVec.eq_of_getLsbD_eq fun j hj => ?_
  rw [BitVec.getLsbD_and, BitVec.getLsbD_not, getLsbD_one_shiftLeft]
  by_cases hji : j = i
  · subst hji
    rw [getLsbD_setBit_same _ _ _ hj]
    simp [hj]
  · rw [getLsbD_setBit_other _ _ hji]
    simp [hj, Ne.symm hji]

/-! ### Giving a cluster flag a value (R245) -/

/-- A broadcast writes into the crossings towards the cores and nowhere else. -/
theorem State.broadcast_spec (s : State) (m : CoreMsg) : ∃ out, s.broadcast m = s.updCcu fun u => { u with toCore := out } := by
  have hfold : ∀ (l : List CoreId) (t : State), ∃ out,
      l.foldl (fun t c => if s.reachable c then t.answer c m else t) t = t.updCcu fun u => { u with toCore := out } := by
    intro l
    induction l with
    | nil => exact fun t => ⟨t.ccu.toCore, rfl⟩
    | cons c l ih =>
      intro t
      obtain ⟨out, hout⟩ := ih (if s.reachable c then t.answer c m else t)
      refine ⟨out, hout.trans ?_⟩
      split <;> rfl
  exact hfold _ s

/-- Giving a flag a value changes that flag and the crossings towards the cores. -/
theorem State.setCf_spec (s : State) (n : BitVec 5) (v : Bool) :
    ∃ out, s.setCf n v = s.updCcu fun u => { u with cf := setBit u.cf n.toNat v, toCore := out } := by
  unfold State.setCf
  split
  · next hsame => exact ⟨s.ccu.toCore, by rw [State.updCcu, setBit_of_getLsbD hsame]⟩
  · obtain ⟨out, hout⟩ := State.broadcast_spec (s.updCcu fun u => { u with cf := setBit u.cf n.toNat v }) (.flag n v)
    exact ⟨out, hout⟩

theorem State.cf_setCf (s : State) (n : BitVec 5) (v : Bool) : (s.setCf n v).ccu.cf = setBit s.ccu.cf n.toNat v := by
  obtain ⟨out, hout⟩ := s.setCf_spec n v
  rw [hout]
  rfl

@[simp] theorem State.toCcu_setCf (s : State) (n : BitVec 5) (v : Bool) : (s.setCf n v).ccu.toCcu = s.ccu.toCcu := by
  obtain ⟨out, hout⟩ := s.setCf_spec n v
  rw [hout]
  rfl

@[simp] theorem State.core_setCf (s : State) (n : BitVec 5) (v : Bool) (d : CoreId) : (s.setCf n v).core d = s.core d := by
  obtain ⟨out, hout⟩ := s.setCf_spec n v
  rw [hout]
  rfl

@[simp] theorem State.reg_setCf (s : State) (n : BitVec 5) (v : Bool) (page off : Nat) :
    (s.setCf n v).reg page off = s.reg page off := by
  obtain ⟨out, hout⟩ := s.setCf_spec n v
  rw [hout]
  rfl

@[simp] theorem State.rf_setCf (s : State) (n : BitVec 5) (v : Bool) (page off lo w : Nat) :
    (s.setCf n v).rf page off lo w = s.rf page off lo w :=
  congrArg (fld · lo w) (s.reg_setCf n v page off)

theorem State.getLsbD_cf_setCf_same (s : State) (n : BitVec 5) (v : Bool) : (s.setCf n v).ccu.cf.getLsbD n.toNat = v := by
  rw [State.cf_setCf, getLsbD_setBit_same _ _ _ n.isLt]

theorem State.getLsbD_cf_setCf_other (s : State) {n : BitVec 5} (v : Bool) {i : Nat} (h : i ≠ n.toNat) :
    (s.setCf n v).ccu.cf.getLsbD i = s.ccu.cf.getLsbD i := by
  rw [State.cf_setCf, getLsbD_setBit_other _ _ h]

/-! ### The fields of CF_BAR[n]: MASK, ARRIVED and ROUNDS (R257, R264) -/

theorem State.toNat_barMask (s : State) (n : BitVec 5) : (s.barMask n).toNat = s.rf 0 (cfBar n) 0 8 := by
  simp [State.barMask, State.rf, fld]

/-- A field of a register outside the one that is written. -/
theorem State.rf_setRf_apart (s : State) (page off : Nat) {lo w lo' w' : Nat} (x : Nat) (h : lo' + w' ≤ lo ∨ lo + w ≤ lo') :
    (s.setRf page off lo w x).rf page off lo' w' = s.rf page off lo' w' := by
  rw [State.rf, State.setRf, State.modReg, State.reg_setReg_same, fld_setFld_other _ _ h, State.rf]

theorem State.rf_setArrived_mask (s : State) (n : BitVec 5) (a : Byte) :
    (s.setArrived n a).rf 0 (cfBar n) 0 8 = s.rf 0 (cfBar n) 0 8 := s.rf_setRf_apart _ _ _ (by decide)

theorem State.rf_setArrived_rounds (s : State) (n : BitVec 5) (a : Byte) :
    (s.setArrived n a).rf 0 (cfBar n) 16 32 = s.rf 0 (cfBar n) 16 32 := s.rf_setRf_apart _ _ _ (by decide)

theorem State.rf_setArrived_arrived (s : State) (n : BitVec 5) (a : Byte) :
    (s.setArrived n a).rf 0 (cfBar n) 8 8 = a.toNat :=
  congrArg BitVec.toNat (s.arrived_setArrived_same n a)

/-- The required set does not depend on who has arrived. -/
theorem State.required_setArrived (s : State) (n : BitVec 5) (a : Byte) : (s.setArrived n a).required n = s.required n := by
  have hmask : (s.setArrived n a).barMask n = s.barMask n :=
    BitVec.eq_of_toNat_eq (by rw [State.toNat_barMask, State.rf_setArrived_mask, State.toNat_barMask])
  have hfence : (s.setArrived n a).reg 0 0x108 = s.reg 0 0x108 :=
    State.reg_setReg_other _ _ (regKey_ne (by simp only [cfBar]; omega))
  rw [State.required, hmask, hfence, State.required]
  rfl

/-! ### A barrier flag whose set is complete (R257) -/

/-- The record of a barrier whose set is complete: ARRIVED cleared, ROUNDS one higher. -/
def State.nextRound (s : State) (n : BitVec 5) : State :=
  s.modReg 0 (cfBar n) fun v => setFld (setFld v 8 8 0) 16 32 (fld v 16 32 + 1)

theorem State.rf_nextRound_mask (s : State) (n : BitVec 5) : (s.nextRound n).rf 0 (cfBar n) 0 8 = s.rf 0 (cfBar n) 0 8 := by
  rw [State.rf, State.nextRound, State.modReg, State.reg_setReg_same, fld_setFld_other _ _ (by decide),
    fld_setFld_other _ _ (by decide), State.rf]

theorem State.rf_nextRound_arrived (s : State) (n : BitVec 5) : (s.nextRound n).rf 0 (cfBar n) 8 8 = 0 := by
  rw [State.rf, State.nextRound, State.modReg, State.reg_setReg_same, fld_setFld_other _ _ (by decide),
    fld_setFld_same _ _ (by decide)]
  rfl

theorem State.rf_nextRound_rounds (s : State) (n : BitVec 5) :
    (s.nextRound n).rf 0 (cfBar n) 16 32 = (s.rf 0 (cfBar n) 16 32 + 1) % 2 ^ 32 := by
  rw [State.rf, State.nextRound, State.modReg, State.reg_setReg_same, fld_setFld_same _ _ (by decide), State.rf]

theorem State.barrierCheck_of_partial {s : State} {n : BitVec 5} (h : s.arrived n ≠ s.required n) : s.barrierCheck n = s :=
  if_neg fun hboth => h hboth.2

theorem State.barrierCheck_of_complete {s : State} {n : BitVec 5} (hset : s.required n ≠ 0) (h : s.arrived n = s.required n) :
    s.barrierCheck n = (s.nextRound n).setCf n (!s.ccu.cf.getLsbD n.toNat) :=
  if_pos ⟨hset, h⟩

/-- The check of a barrier leaves it as it is, or begins the next round and inverts the flag. -/
theorem State.barrierCheck_cases (s : State) (n : BitVec 5) :
    s.barrierCheck n = s ∨ s.barrierCheck n = (s.nextRound n).setCf n (!s.ccu.cf.getLsbD n.toNat) := by
  by_cases h : s.required n ≠ 0 ∧ s.arrived n = s.required n
  · exact .inr (State.barrierCheck_of_complete h.1 h.2)
  · exact .inl (if_neg h)

@[simp] theorem State.core_barrierCheck (s : State) (n : BitVec 5) (d : CoreId) : (s.barrierCheck n).core d = s.core d := by
  rcases s.barrierCheck_cases n with h | h <;> rw [h]
  exact State.core_setCf _ _ _ d

@[simp] theorem State.toCcu_barrierCheck (s : State) (n : BitVec 5) : (s.barrierCheck n).ccu.toCcu = s.ccu.toCcu := by
  rcases s.barrierCheck_cases n with h | h <;> rw [h]
  exact State.toCcu_setCf _ _ _

theorem State.rf_barrierCheck_mask (s : State) (n : BitVec 5) :
    (s.barrierCheck n).rf 0 (cfBar n) 0 8 = s.rf 0 (cfBar n) 0 8 := by
  rcases s.barrierCheck_cases n with h | h <;> rw [h]
  rw [State.rf_setCf, State.rf_nextRound_mask]

/-- Recomputing the required set removes arrivals; MASK stays as it is. -/
theorem State.rf_barrierRecompute_mask (s : State) (n : BitVec 5) :
    (s.barrierRecompute n).rf 0 (cfBar n) 0 8 = s.rf 0 (cfBar n) 0 8 :=
  (State.rf_barrierCheck_mask _ n).trans (s.rf_setArrived_mask n _)

/-! ### A signal at the CCU (R252, R256, R257) -/

/-- The front of a core's crossing towards the CCU is taken. -/
theorem State.toCcu_popCcu {s : State} {c : CoreId} {m : CcuMsg} {rest : List CcuMsg} (h : s.ccu.toCcu[c] = m :: rest) :
    (s.popCcu c).ccu.toCcu[c] = rest := by
  rw [State.popCcu, State.updCcu]
  simp [h]

@[simp] theorem State.core_popCcu (s : State) (c d : CoreId) : (s.popCcu c).core d = s.core d := rfl

theorem State.ccuSignal_set (s : State) (c : CoreId) (n : BitVec 5) : s.ccuSignal c n 0 = s.setCf n true := rfl

theorem State.ccuSignal_clear (s : State) (c : CoreId) (n : BitVec 5) : s.ccuSignal c n 1 = s.setCf n false := rfl

theorem State.ccuSignal_inc_plain {s : State} (c : CoreId) {n : BitVec 5} (hmask : s.barMask n = 0) :
    s.ccuSignal c n 2 = s.setCf n true := by
  simp [State.ccuSignal, hmask]

theorem State.ccuSignal_dec_plain {s : State} (c : CoreId) {n : BitVec 5} (hmask : s.barMask n = 0) :
    s.ccuSignal c n 3 = s.setCf n false := by
  simp [State.ccuSignal, hmask]

theorem State.ccuSignal_outside {s : State} {c : CoreId} {n : BitVec 5} {op : BitVec 2} (hop : op = 2 ∨ op = 3)
    (hmask : s.barMask n ≠ 0) (hreq : (s.required n).getLsbD c.val = false) : s.ccuSignal c n op = s := by
  have hmask' : ¬ s.barMask n = 0#8 := hmask
  rcases hop with rfl | rfl <;> simp [State.ccuSignal, hmask', hreq, -BitVec.getLsbD_eq_getElem]

theorem State.ccuSignal_inc_inside {s : State} {c : CoreId} {n : BitVec 5} (hmask : s.barMask n ≠ 0)
    (hreq : (s.required n).getLsbD c.val = true) :
    s.ccuSignal c n 2 = (s.setArrived n (s.arrived n ||| (1 : Byte) <<< c.val)).barrierCheck n := by
  have hmask' : ¬ s.barMask n = 0#8 := hmask
  rw [← setBit_true]
  simp [State.ccuSignal, hmask', hreq]

theorem State.ccuSignal_dec_inside {s : State} {c : CoreId} {n : BitVec 5} (hmask : s.barMask n ≠ 0)
    (hreq : (s.required n).getLsbD c.val = true) :
    s.ccuSignal c n 3 = s.setArrived n (s.arrived n &&& ~~~((1 : Byte) <<< c.val)) := by
  have hmask' : ¬ s.barMask n = 0#8 := hmask
  rw [← setBit_false]
  simp [State.ccuSignal, hmask', hreq]

@[simp] theorem State.core_ccuSignal (s : State) (c : CoreId) (n : BitVec 5) (op : BitVec 2) (d : CoreId) :
    (s.ccuSignal c n op).core d = s.core d := by
  unfold State.ccuSignal
  (repeat' split) <;> simp [State.setArrived]

@[simp] theorem State.toCcu_ccuSignal (s : State) (c : CoreId) (n : BitVec 5) (op : BitVec 2) :
    (s.ccuSignal c n op).ccu.toCcu = s.ccu.toCcu := by
  unfold State.ccuSignal
  (repeat' split) <;> simp [State.setArrived]

theorem execCfSignal_of_front {s : State} {c : CoreId} {n : BitVec 5} {op : BitVec 2} {rest : List CcuMsg}
    (hfront : s.ccu.toCcu[c] = .signal n op :: rest) (halive : s.ccuAlive = true) (hheld : s.ccuHeld = false) :
    exec (.cfSignal c) s = .next ((s.popCcu c).ccuSignal c n op) := by
  show execCfSignal c s = _
  simp [execCfSignal, hfront, halive, hheld]

/-- Settles O29: each clause is the equation of `ccuSignal` for its operation; an arrival that completes the set begins the
next round. -/
theorem clusterFlagSignalsFollowTheBarrierRules : Obligations.ClusterFlagSignalsFollowTheBarrierRules := by
  unfold Obligations.ClusterFlagSignalsFollowTheBarrierRules
  intro s c n op rest hfront halive hheld at_ mask arrived rounds required withC
  let u := s.popCcu c
  have hnonempty : required.getLsbD c.val = true → u.required n ≠ 0 := by
    intro hin hzero
    have hbit : (u.required n).getLsbD c.val = true := hin
    simp [hzero] at hbit
  refine ⟨_, execCfSignal_of_front hfront halive hheld, ?cross, ?cores, ?bytes, ?set, ?clear, ?incPlain, ?decPlain, ?outside,
    ?inc, ?dec⟩
  case cross => rw [State.toCcu_ccuSignal, State.toCcu_popCcu hfront]
  case cores => exact fun d => by rw [State.core_ccuSignal, State.core_popCcu]
  case bytes => exact byteAt_of_mem (by rw [State.ccuSignal_mem, State.popCcu_mem])
  case set =>
    rintro rfl
    rw [State.ccuSignal_set]
    exact ⟨u.getLsbD_cf_setCf_same n true, u.reg_setCf n true 0 at_⟩
  case clear =>
    rintro rfl
    rw [State.ccuSignal_clear]
    exact ⟨u.getLsbD_cf_setCf_same n false, u.reg_setCf n false 0 at_⟩
  case incPlain =>
    rintro rfl hmask
    rw [State.ccuSignal_inc_plain (s := u) c hmask]
    exact ⟨u.getLsbD_cf_setCf_same n true, u.reg_setCf n true 0 at_⟩
  case decPlain =>
    rintro rfl hmask
    rw [State.ccuSignal_dec_plain (s := u) c hmask]
    exact ⟨u.getLsbD_cf_setCf_same n false, u.reg_setCf n false 0 at_⟩
  case outside =>
    intro hop hmask hout
    rw [State.ccuSignal_outside (s := u) hop hmask hout]
    exact ⟨rfl, rfl⟩
  case inc =>
    rintro rfl hmask hin
    let a := u.setArrived n withC
    have harrived : a.arrived n = withC := u.arrived_setArrived_same n withC
    have hrequired : a.required n = required := u.required_setArrived n withC
    have hmaskKept : a.rf 0 (cfBar n) 0 8 = mask.toNat := (u.rf_setArrived_mask n withC).trans (s.toNat_barMask n).symm
    rw [show u.ccuSignal c n 2 = a.barrierCheck n from State.ccuSignal_inc_inside hmask hin]
    refine ⟨(a.rf_barrierCheck_mask n).trans hmaskKept, fun hpartial => ?_, fun hcomplete => ?_⟩
    · rw [State.barrierCheck_of_partial (by rw [harrived, hrequired]; exact hpartial)]
      exact ⟨rfl, u.rf_setArrived_arrived n withC, u.rf_setArrived_rounds n withC⟩
    · rw [State.barrierCheck_of_complete (by rw [hrequired]; exact hnonempty hin) (by rw [harrived, hrequired]; exact hcomplete)]
      refine ⟨State.getLsbD_cf_setCf_same _ n _, ?_, ?_⟩
      · exact (State.rf_setCf _ n _ 0 (cfBar n) 8 8).trans (a.rf_nextRound_arrived n)
      · refine (State.rf_setCf _ n _ 0 (cfBar n) 16 32).trans ((a.rf_nextRound_rounds n).trans ?_)
        rw [u.rf_setArrived_rounds n withC]
        rfl
  case dec =>
    rintro rfl hmask hin
    rw [State.ccuSignal_dec_inside (s := u) hmask hin]
    exact ⟨rfl, (u.rf_setArrived_mask n _).trans (s.toNat_barMask n).symm, u.rf_setArrived_arrived n _,
      u.rf_setArrived_rounds n _⟩

end Sys2Proof.Machine

namespace Sys2Proof.Machine

/-! ### Held signals and the crossing towards a core (R245, R250, R255) -/

theorem execSignalRelease_of_covered {s : State} {c : CoreId} {h : HeldSig} {rest : List HeldSig}
    (hheld : (s.core c).seq.held = h :: rest) (halive : s.alive c = true) (hcov : s.covered c h.cover = true) :
    exec (.signalRelease c) s = .next ((s.tell c (.signal h.cf h.op)).updSeq c fun q => { q with held := rest }) := by
  show execSignalRelease c s = _
  simp [execSignalRelease, hheld, halive, hcov]

/-- The front of the CCU's crossing towards a core is taken. -/
theorem State.toCore_popCore {s : State} {c : CoreId} {m : CoreMsg} {rest : List CoreMsg} (h : s.ccu.toCore[c] = m :: rest) :
    (s.popCore c).ccu.toCore[c] = rest := by
  rw [State.popCore, State.updCcu]
  simp [h]

@[simp] theorem State.core_popCore (s : State) (c d : CoreId) : (s.popCore c).core d = s.core d := rfl

/-- An answer stands last in the crossing. -/
theorem State.getLast?_toCore_answer (s : State) (c : CoreId) (m : CoreMsg) :
    (s.answer c m).ccu.toCore[c].getLast? = some m := by
  simp [State.answer, State.updCcu]

/-- A message other than a "none" answer is not seen by itself. -/
theorem State.seeNone_of_front {s : State} {c : CoreId} {m : CoreMsg} {rest : List CoreMsg} (h : s.ccu.toCore[c] = m :: rest)
    (hm : m ≠ .noTask) : s.seeNone c = s :=
  State.seeNone_of_head (by rw [h]; exact fun heq => hm (Option.some.inj heq))

theorem execTakeReply_of_front {s : State} {c : CoreId} {g : Bool} {rest : List CoreMsg}
    (hfront : s.ccu.toCore[c] = .takeReply g :: rest) (halive : s.alive c = true) :
    exec (.takeReply c) s = .next ((s.popCore c).updSeq c fun q =>
      if q.takeVoid ≠ 0 then { q with takeVoid := q.takeVoid - 1 } else { q with takePend := false, takeGrant := g }) := by
  show execTakeReply c s = _
  simp [execTakeReply, State.seeNone_of_front hfront, hfront, halive]

theorem execCfShadowUpdate_of_flag {s : State} {c : CoreId} {n : BitVec 5} {v : Bool} {rest : List CoreMsg}
    (hfront : s.ccu.toCore[c] = .flag n v :: rest) (hruns : s.coreRuns c) :
    exec (.cfShadowUpdate c) s =
      .next ((s.popCore c).updSeq c fun q => { q with shadow := setBit q.shadow n.toNat v }) := by
  show execCfShadowUpdate c s = _
  simp [execCfShadowUpdate, State.seeNone_of_front hfront, hfront, hruns]

theorem execCfShadowUpdate_of_flags {s : State} {c : CoreId} {v : Word32} {rest : List CoreMsg}
    (hfront : s.ccu.toCore[c] = .flags v :: rest) (hruns : s.coreRuns c) :
    exec (.cfShadowUpdate c) s = .next ((s.popCore c).updSeq c fun q => { q with shadow := v }) := by
  show execCfShadowUpdate c s = _
  simp [execCfShadowUpdate, State.seeNone_of_front hfront, hfront, hruns]

/-! ### Take requests (R250) -/

@[simp] theorem State.core_clearTaken (s : State) (n : Option (BitVec 5)) (d : CoreId) : (s.clearTaken n).core d = s.core d := by
  cases n with
  | none => rfl
  | some k => exact s.core_setCf k false d

@[simp] theorem State.toCcu_clearTaken (s : State) (n : Option (BitVec 5)) : (s.clearTaken n).ccu.toCcu = s.ccu.toCcu := by
  cases n with
  | none => rfl
  | some k => exact s.toCcu_setCf k false

/-- A flag that is 0 stays so while other flags are taken. -/
theorem State.cf_clearTaken_keeps {s : State} (n : Option (BitVec 5)) {m : BitVec 5} (h : s.ccu.cf.getLsbD m.toNat = false) :
    (s.clearTaken n).ccu.cf.getLsbD m.toNat = false := by
  cases n with
  | none => exact h
  | some k =>
    by_cases hmk : m = k
    · subst hmk
      exact s.getLsbD_cf_setCf_same m false
    · exact (s.getLsbD_cf_setCf_other false fun heq => hmk (BitVec.eq_of_toNat_eq heq)).trans h

/-- What the CCU does with a request of a core: the flags it names are cleared when it is granted. -/
def State.takeFlags (s : State) (n1 n2 : Option (BitVec 5)) (granted : Bool) : State :=
  if granted then (s.clearTaken n1).clearTaken n2 else s

@[simp] theorem State.core_takeFlags (s : State) (n1 n2 : Option (BitVec 5)) (g : Bool) (d : CoreId) :
    (s.takeFlags n1 n2 g).core d = s.core d := by
  cases g with
  | false => rfl
  | true => exact (State.core_clearTaken _ n2 d).trans (s.core_clearTaken n1 d)

@[simp] theorem State.toCcu_takeFlags (s : State) (n1 n2 : Option (BitVec 5)) (g : Bool) :
    (s.takeFlags n1 n2 g).ccu.toCcu = s.ccu.toCcu := by
  cases g with
  | false => rfl
  | true => exact (State.toCcu_clearTaken _ n2).trans (s.toCcu_clearTaken n1)

theorem State.cf_takeFlags_first (s : State) (n : BitVec 5) (n2 : Option (BitVec 5)) :
    (s.takeFlags (some n) n2 true).ccu.cf.getLsbD n.toNat = false :=
  State.cf_clearTaken_keeps n2 (s.getLsbD_cf_setCf_same n false)

theorem State.cf_takeFlags_second (s : State) (n1 : Option (BitVec 5)) (m : BitVec 5) :
    (s.takeFlags n1 (some m) true).ccu.cf.getLsbD m.toNat = false :=
  State.getLsbD_cf_setCf_same _ m false

/-- The CCU answers a core that can be reached. -/
def State.answerReachable (s : State) (c : CoreId) (m : CoreMsg) (reachable : Bool) : State :=
  if reachable then s.answer c m else s

@[simp] theorem State.cf_answerReachable (s : State) (c : CoreId) (m : CoreMsg) (reachable : Bool) :
    (s.answerReachable c m reachable).ccu.cf = s.ccu.cf := by
  cases reachable <;> rfl

@[simp] theorem State.toCcu_answerReachable (s : State) (c : CoreId) (m : CoreMsg) (reachable : Bool) :
    (s.answerReachable c m reachable).ccu.toCcu = s.ccu.toCcu := by
  cases reachable <;> rfl

@[simp] theorem State.core_answerReachable (s : State) (c : CoreId) (m : CoreMsg) (reachable : Bool) (d : CoreId) :
    (s.answerReachable c m reachable).core d = s.core d := by
  cases reachable <;> rfl

theorem execCfTakeRequest_of_front {s : State} {c : CoreId} {n1 n2 : Option (BitVec 5)} {any g : Bool} {rest : List CcuMsg}
    (hfront : s.ccu.toCcu[c] = .take n1 n2 any :: rest) (halive : s.ccuAlive = true) (hheld : s.ccuHeld = false)
    (hg : takeGranted s.ccu.cf n1 n2 any = g) : exec (.cfTakeRequest c) s =
      .next (((s.popCcu c).takeFlags n1 n2 g).answerReachable c (.takeReply g) (s.reachable c)) := by
  show execCfTakeRequest c s = _
  simp [execCfTakeRequest, hfront, halive, hheld, hg, State.takeFlags, State.answerReachable]

/-- Settles O30: each command is the equation for the message at the front of its crossing, and the reads of what it leaves. -/
theorem flagCrossingsDeliverInOrder : Obligations.FlagCrossingsDeliverInOrder := by
  unfold Obligations.FlagCrossingsDeliverInOrder
  intro s c
  refine ⟨fun h rest hheld halive hcov => execSignalRelease_of_covered hheld halive hcov, ?take, ?reply, ?flag, ?flags⟩
  case take =>
    intro n1 n2 any rest hfront halive hheld on granted
    have hgranted : takeGranted s.ccu.cf (some n1) n2 any = granted := by
      cases n2 <;> rfl
    refine ⟨_, execCfTakeRequest_of_front hfront halive hheld hgranted, ?_, fun hno => ?_, fun hyes => ?_, fun hreach => ?_,
      fun d => ?_⟩
    · rw [State.toCcu_answerReachable, State.toCcu_takeFlags, State.toCcu_popCcu hfront]
    · rw [State.cf_answerReachable, hno]
      rfl
    · rw [State.cf_answerReachable, hyes]
      refine ⟨State.cf_takeFlags_first _ n1 n2, ?_⟩
      rintro m rfl
      exact State.cf_takeFlags_second _ _ m
    · rw [hreach]
      exact State.getLast?_toCore_answer _ c _
    · rw [State.core_answerReachable, State.core_takeFlags, State.core_popCcu]
  case reply =>
    intro g rest hfront halive
    exact ⟨_, execTakeReply_of_front hfront halive, State.toCore_popCore hfront, by
      rw [State.core_updSeq_same, State.core_popCore]⟩
  case flag =>
    intro n v rest hfront hruns
    exact ⟨_, execCfShadowUpdate_of_flag hfront hruns, State.toCore_popCore hfront, by
      rw [State.core_updSeq_same, State.core_popCore]⟩
  case flags =>
    intro v rest hfront hruns
    exact ⟨_, execCfShadowUpdate_of_flags hfront hruns, State.toCore_popCore hfront, by
      rw [State.core_updSeq_same, State.core_popCore]⟩

end Sys2Proof.Machine

namespace Sys2Proof.Machine

/-! ### The arrays of a page (R487) -/

theorem arrayAt_entry {base stride n i : Nat} (hi : i < n) (hs : 0 < stride) :
    arrayAt base stride n (base + stride * i) = some i := by
  have hlt : stride * i < stride * n := Nat.mul_lt_mul_of_pos_left hi hs
  rw [arrayAt, if_pos ⟨by omega, by omega, by simp⟩, Nat.add_sub_cancel_left, Nat.mul_div_cancel_left _ hs]

theorem arrayAt_above {base stride n off : Nat} (h : base + stride * n ≤ off) : arrayAt base stride n off = none :=
  if_neg (by omega)

theorem arrayAt_below {base stride n off : Nat} (h : off < base) : arrayAt base stride n off = none :=
  if_neg (by omega)

/-! ### Writes of a block's own registers that are handed on at once (R486, R498) -/

/-- A write beyond the common layout of a page that is ready is what its block makes of it. -/
theorem State.hostWrite_block {s : State} {page off : Nat} {b : Block} (v : Dword) (hb : blockOf page = some b)
    (hready : s.regReady page = true) (hlo : 0x100 ≤ off) (hhi : off < 4096) (h8 : off % 8 = 0) : ∃ pend, ∀ t,
      (s.handing pend).blockWrite page off v b = (0, t) → s.hostWrite page off v = t.wrote page off 0 := by
  obtain ⟨pend, hwrite⟩ := State.hostWrite_of_ready v hb hready hhi
  refine ⟨pend, fun t ht => hwrite 0 t ?_ (by decide)⟩
  rw [State.pageWrite, hb, ← ht]
  dsimp only
  rw [if_neg (by omega), if_neg (by omega)]

theorem blockOf_pgSeq (c : CoreId) : blockOf (pgSeq c) = some .seq := by
  have hall : ∀ c : CoreId, blockOf (pgSeq c) = some .seq := by decide
  exact hall c

theorem State.hostWrite_seq {s : State} {c : CoreId} {off : Nat} (v : Dword) (hready : s.regReady (pgSeq c) = true)
    (hlo : 0x100 ≤ off) (hhi : off < 4096) (h8 : off % 8 = 0) : ∃ pend, ∀ t,
      (s.handing pend).seqWrite c off v = (0, t) → s.hostWrite (pgSeq c) off v = t.wrote (pgSeq c) off 0 := by
  obtain ⟨pend, hwrite⟩ := State.hostWrite_block v (blockOf_pgSeq c) hready hlo hhi h8
  refine ⟨pend, fun t ht => hwrite t ?_⟩
  rw [← ht, State.blockWrite, pageCore_corePage c (by decide)]

theorem State.hostWrite_ccu {s : State} {off : Nat} (v : Dword) (hready : s.regReady 0 = true)
    (hlo : 0x100 ≤ off) (hhi : off < 4096) (h8 : off % 8 = 0) : ∃ pend, ∀ t,
      (s.handing pend).ccuWrite off v = (0, t) → s.hostWrite 0 off v = t.wrote 0 off 0 :=
  State.hostWrite_block (b := .ccu) v rfl hready hlo hhi h8

/-! ### Writes of FLAGS, counters and thresholds (R262, R263) -/

/-- The state after a write to the SEQ page, applied at once, that changes a field of the SEQ. -/
def State.wroteSeq (s : State) (c : CoreId) (pend : Tab (List RegAccess)) (off : Nat) (f : Seq → Seq) : State :=
  ((s.handing pend).updSeq c f).wrote (pgSeq c) off 0

theorem State.seq_wroteSeq (s : State) (c : CoreId) (pend : Tab (List RegAccess)) (off : Nat) (f : Seq → Seq) :
    ((s.wroteSeq c pend off f).core c).seq = f (s.core c).seq := by
  rw [State.wroteSeq, State.core_wrote, State.core_updSeq_same, State.core_handing]

/-- Such a write answers outcome 0 and leaves the other cores and memory as they are. -/
theorem State.wroteSeq_frame (s : State) (c : CoreId) (pend : Tab (List RegAccess)) (off : Nat) (f : Seq → Seq) :
    (s.wroteSeq c pend off f).ccu.answer.outcome = 0 ∧ (s.wroteSeq c pend off f).ccu.answer.err = 0 ∧
      (∀ d, d ≠ c → (s.wroteSeq c pend off f).core d = s.core d) ∧
      ∀ a, (s.wroteSeq c pend off f).byteAt a = s.byteAt a :=
  ⟨rfl, rfl, fun _ hd => State.core_updSeq_other _ hd f, fun _ => rfl⟩

theorem execFlagSet_of_ready {s : State} {c : CoreId} (v : Dword) (hready : s.regReady (pgSeq c) = true) : ∃ pend,
    exec (.flagSet c v) s = .next (s.wroteSeq c pend 0x308 fun q => { q with flags := q.flags ||| v }) := by
  obtain ⟨pend, hwrite⟩ := State.hostWrite_seq v hready (off := 0x308) (by decide) (by decide) (by decide)
  exact ⟨pend, congrArg Host.Outcome.next (hwrite _ rfl)⟩

theorem execFlagClr_of_ready {s : State} {c : CoreId} (v : Dword) (hready : s.regReady (pgSeq c) = true) : ∃ pend,
    exec (.flagClr c v) s = .next (s.wroteSeq c pend 0x310 fun q => { q with flags := q.flags &&& ~~~v }) := by
  obtain ⟨pend, hwrite⟩ := State.hostWrite_seq v hready (off := 0x310) (by decide) (by decide) (by decide)
  exact ⟨pend, congrArg Host.Outcome.next (hwrite _ rfl)⟩

theorem vset_eq_set {α : Type} {n : Nat} (v : Vector α n) {i : Nat} (x : α) (h : i < n) : vset v i x = v.set i x h :=
  dif_pos h

theorem State.seqWrite_cnt (s : State) (c : CoreId) (n : Fin 16) (v : Dword) : s.seqWrite c (0x340 + 8 * n.val) v =
    (0, s.updSeq c fun q => { q with cnt := q.cnt.set n (v.setWidth 16) }) := by
  unfold State.seqWrite
  dsimp only
  iterate 6 rw [if_neg (by omega)]
  rw [arrayAt_above (by omega), arrayAt_below (by omega), arrayAt_above (by omega), arrayAt_entry n.isLt (by decide)]
  simp only [vset_eq_set _ _ n.isLt]
  rfl

theorem State.seqWrite_cth (s : State) (c : CoreId) (n : Fin 16) (v : Dword) :
    s.seqWrite c (0x3C0 + 8 * n.val) v = (0, s.setReg (pgSeq c) (0x3C0 + 8 * n.val) (v &&& 0xFFFF)) := by
  unfold State.seqWrite
  dsimp only
  iterate 6 rw [if_neg (by omega)]
  rw [arrayAt_above (by omega), arrayAt_entry n.isLt (by decide)]
  rfl

theorem execCntWrite_of_ready {s : State} {c : CoreId} (n : Fin 16) (v : Dword) (hready : s.regReady (pgSeq c) = true) : ∃ pend,
    exec (.cntWrite c n v) s =
      .next (s.wroteSeq c pend (0x340 + 8 * n.val) fun q => { q with cnt := q.cnt.set n (v.setWidth 16) }) := by
  obtain ⟨pend, hwrite⟩ := State.hostWrite_seq v hready (off := 0x340 + 8 * n.val) (by omega) (by omega) (by omega)
  exact ⟨pend, congrArg Host.Outcome.next (hwrite _ (State.seqWrite_cnt _ c n v))⟩

theorem execCthWrite_of_ready {s : State} {c : CoreId} (n : Fin 16) (v : Dword) (hready : s.regReady (pgSeq c) = true) : ∃ pend,
    exec (.cthWrite c n v) s = .next
      (((s.handing pend).setReg (pgSeq c) (0x3C0 + 8 * n.val) (v &&& 0xFFFF)).wrote (pgSeq c) (0x3C0 + 8 * n.val) 0) := by
  obtain ⟨pend, hwrite⟩ := State.hostWrite_seq v hready (off := 0x3C0 + 8 * n.val) (by omega) (by omega) (by omega)
  exact ⟨pend, congrArg Host.Outcome.next (hwrite _ (State.seqWrite_cth _ c n v))⟩

/-! ### Writes of cluster flags and barrier masks (R258, R262, R264) -/

theorem execCfSet_of_ready {s : State} (v : Dword) (hready : s.regReady 0 = true) : ∃ pend,
    exec (.cfSet v) s = .next (((s.handing pend).setCfs v true).wrote 0 0x408 0) := by
  obtain ⟨pend, hwrite⟩ := State.hostWrite_ccu v hready (off := 0x408) (by decide) (by decide) (by decide)
  exact ⟨pend, congrArg Host.Outcome.next (hwrite _ rfl)⟩

theorem execCfClr_of_ready {s : State} (v : Dword) (hready : s.regReady 0 = true) : ∃ pend,
    exec (.cfClr v) s = .next (((s.handing pend).setCfs v false).wrote 0 0x410 0) := by
  obtain ⟨pend, hwrite⟩ := State.hostWrite_ccu v hready (off := 0x410) (by decide) (by decide) (by decide)
  exact ⟨pend, congrArg Host.Outcome.next (hwrite _ rfl)⟩

theorem State.ccuWrite_cfBar (s : State) (n : Fin 32) (v : Dword) : s.ccuWrite (0x440 + 8 * n.val) v = (0, s.cfBarMask n v) := by
  unfold State.ccuWrite
  iterate 15 rw [if_neg (by omega)]
  rw [arrayAt_entry n.isLt (by decide)]

theorem execCfBarWrite_of_ready {s : State} (n : Fin 32) (v : Dword) (hready : s.regReady 0 = true) : ∃ pend,
    exec (.cfBarWrite n v) s = .next (((s.handing pend).cfBarMask n v).wrote 0 (0x440 + 8 * n.val) 0) := by
  obtain ⟨pend, hwrite⟩ := State.hostWrite_ccu v hready (off := 0x440 + 8 * n.val) (by omega) (by omega) (by omega)
  exact ⟨pend, congrArg Host.Outcome.next (hwrite _ (State.ccuWrite_cfBar _ n v))⟩

@[simp] theorem State.core_setCfs (s : State) (m : Dword) (v : Bool) (d : CoreId) : (s.setCfs m v).core d = s.core d := by
  refine foldl_same (·.core d) _ (fun t n => ?_) _ s
  split
  · exact t.core_setCf _ v d
  · rfl

/-- Each flag of the mask that a list names takes the value, and no other flag changes. -/
theorem State.getLsbD_cf_setEach (l : List Nat) (hl : ∀ n ∈ l, n < 32) (s : State) (m : Dword) (v : Bool) (i : Nat) :
    (l.foldl (fun (t : State) n => if bitAt m n then t.setCf (BitVec.ofNat 5 n) v else t) s).ccu.cf.getLsbD i =
      if i ∈ l ∧ bitAt m i = true then v else s.ccu.cf.getLsbD i := by
  induction l generalizing s with
  | nil => simp
  | cons n l ih =>
    obtain ⟨hn, hl⟩ := List.forall_mem_cons.1 hl
    have hval : (BitVec.ofNat 5 n).toNat = n := Nat.mod_eq_of_lt hn
    rw [List.foldl_cons, ih hl]
    by_cases hi : i = n
    · subst hi
      have hhere : (s.setCf (BitVec.ofNat 5 i) v).ccu.cf.getLsbD i = v := by
        have hsame := s.getLsbD_cf_setCf_same (BitVec.ofNat 5 i) v
        rwa [hval] at hsame
      by_cases hb : bitAt m i = true <;> simp [hb, hhere]
    · have hhere : (s.setCf (BitVec.ofNat 5 n) v).ccu.cf.getLsbD i = s.ccu.cf.getLsbD i :=
        s.getLsbD_cf_setCf_other v (by rw [hval]; exact hi)
      by_cases hb : bitAt m n = true <;> simp [hb, hi, hhere]

theorem State.getLsbD_cf_setCfs (s : State) (m : Dword) (v : Bool) {i : Nat} (hi : i < 32) :
    (s.setCfs m v).ccu.cf.getLsbD i = if bitAt m i then v else s.ccu.cf.getLsbD i := by
  rw [State.setCfs, State.getLsbD_cf_setEach _ (by simp)]
  simp [hi]

theorem State.cf_setCfs_true (s : State) (m : Dword) : (s.setCfs m true).ccu.cf = s.ccu.cf ||| m.setWidth 32 := by
  refine BitVec.eq_of_getLsbD_eq fun i hi => ?_
  rw [s.getLsbD_cf_setCfs m true hi, BitVec.getLsbD_or, BitVec.getLsbD_setWidth]
  cases hb : m.getLsbD i <;> simp [bitAt, hb, hi]

theorem State.cf_setCfs_false (s : State) (m : Dword) : (s.setCfs m false).ccu.cf = s.ccu.cf &&& ~~~(m.setWidth 32) := by
  refine BitVec.eq_of_getLsbD_eq fun i hi => ?_
  rw [s.getLsbD_cf_setCfs m false hi, BitVec.getLsbD_and, BitVec.getLsbD_not, BitVec.getLsbD_setWidth]
  cases hb : m.getLsbD i <;> simp [bitAt, hb, hi]

@[simp] theorem State.core_cfBarMask (s : State) (n : Nat) (v : Dword) (d : CoreId) : (s.cfBarMask n v).core d = s.core d :=
  State.core_barrierCheck _ _ d

theorem State.rf_cfBarMask_mask (s : State) (n : Fin 32) (v : Dword) :
    (s.cfBarMask n v).rf 0 (0x440 + 8 * n.val) 0 8 = fld v 0 8 := by
  have hoff : cfBar (BitVec.ofNat 5 n.val) = 0x440 + 8 * n.val := by
    rw [cfBar, BitVec.toNat_ofNat, Nat.mod_eq_of_lt n.isLt]
  rw [State.cfBarMask, ← hoff, State.rf_barrierRecompute_mask, State.rf_setRf_same _ _ _ _ (by decide)]
  exact Nat.mod_eq_of_lt (v.extractLsb' 0 8).isLt

/-- Settles O11: each write is handed to the block of its page at once, and changes the one register or SEQ field it names. -/
theorem flagsAndCountersAreWritten : Obligations.FlagsAndCountersAreWritten := by
  unfold Obligations.FlagsAndCountersAreWritten
  intro s
  refine ⟨fun c v n hready => ?_, fun hready v n => ?_⟩
  · obtain ⟨pset, hset⟩ := execFlagSet_of_ready v hready
    obtain ⟨pclr, hclr⟩ := execFlagClr_of_ready v hready
    obtain ⟨pcnt, hcnt⟩ := execCntWrite_of_ready n v hready
    obtain ⟨pcth, hcth⟩ := execCthWrite_of_ready n v hready
    refine ⟨⟨_, hset, s.wroteSeq_frame .., s.seq_wroteSeq ..⟩, ⟨_, hclr, s.wroteSeq_frame .., s.seq_wroteSeq ..⟩,
      ⟨_, hcnt, s.wroteSeq_frame .., s.seq_wroteSeq ..⟩, ⟨_, hcth, ?_, rfl, State.reg_setReg_same _ _ _ _⟩⟩
    exact ⟨rfl, rfl, fun _ _ => rfl, fun _ => rfl⟩
  · obtain ⟨pset, hset⟩ := execCfSet_of_ready v hready
    obtain ⟨pclr, hclr⟩ := execCfClr_of_ready v hready
    obtain ⟨pbar, hbar⟩ := execCfBarWrite_of_ready n v hready
    refine ⟨⟨_, hset, ?_, State.cf_setCfs_true _ v⟩, ⟨_, hclr, ?_, State.cf_setCfs_false _ v⟩,
      ⟨_, hbar, ?_, State.rf_cfBarMask_mask _ n v⟩⟩
    · exact ⟨rfl, rfl, State.core_setCfs _ v true, byteAt_of_mem (State.setCfs_mem _ v true)⟩
    · exact ⟨rfl, rfl, State.core_setCfs _ v false, byteAt_of_mem (State.setCfs_mem _ v false)⟩
    · exact ⟨rfl, rfl, State.core_cfBarMask _ n v, byteAt_of_mem (State.cfBarMask_mem _ n v)⟩

end Sys2Proof.Machine

namespace Sys2Proof.Machine

/-! ### AG programs (R271, R272, R273) -/

/-- A body that the straight walk finds nested within `d` open levels leaves the search for their ENDL at its end. -/
theorem agMatch_append_endl {endl stop : Dword} {body : List Dword} (tail : List Dword) (hendl : fld endl 60 4 = 3)
    (hstop : fld stop 60 4 = 0) (hbody : ∀ x ∈ body, fld x 60 4 ≠ 0) {d : Nat} (k : Nat)
    (hwalk : agWalk d (body ++ [stop]) = true) : agMatch d k (body ++ endl :: tail) = k + body.length := by
  induction body generalizing d k with
  | nil =>
    have hd : d = 0 := by simpa [agWalk, hstop] using hwalk
    simp [agMatch, hendl, hd]
  | cons x xs ih =>
    obtain ⟨hx, hxs⟩ := List.forall_mem_cons.1 hbody
    have hrest : ∀ {d' : Nat}, agWalk d' (xs ++ [stop]) = true →
        agMatch d' (k + 1) (xs ++ endl :: tail) = k + (xs.length + 1) := fun h => by
      rw [ih hxs (k + 1) h]
      omega
    rw [List.cons_append, agWalk] at hwalk
    rw [List.cons_append, agMatch, List.length_cons]
    split at hwalk
    case h_1 hop => exact absurd hop hx
    case h_2 hop => simp [hop, hrest hwalk]
    case h_3 hop =>
      simp only [Bool.and_eq_true] at hwalk
      simp [hop, hrest hwalk.2]
    case h_4 hop =>
      simp only [Bool.and_eq_true, bne_iff_ne] at hwalk
      simp [hop, hwalk.1, hrest hwalk.2]
    case h_5 hop | h_6 hop =>
      simp only [Bool.and_eq_true] at hwalk
      simp [hop, hrest hwalk.2]
    case h_7 => exact absurd hwalk Bool.false_ne_true

/-- The innermost level adds its iteration times its stride to the address the outer ones give. -/
theorem AgRun.cur_cons (r : AgRun) (k n : Nat) (st : Addr) (body : Nat) (outer : List (Nat × Nat × Addr × Nat)) :
    ({ r with levels := (k, n, st, body) :: outer } : AgRun).cur =
      ({ r with levels := outer } : AgRun).cur + BitVec.ofNat 48 k * st := by
  have hshift : ∀ (ls : List (Nat × Nat × Addr × Nat)) (b x : Addr),
      ls.foldl (fun a l => a + BitVec.ofNat 48 l.1 * l.2.2.1) (b + x) =
        ls.foldl (fun a l => a + BitVec.ofNat 48 l.1 * l.2.2.1) b + x := by
    intro ls
    induction ls with
    | nil => intro _ _; rfl
    | cons l ls ih =>
      intro b x
      rw [List.foldl_cons, add_right_comm, ih, List.foldl_cons]
  exact hshift outer r.base _

section AgStep

variable {r : AgRun} {i : Dword} (far : Addr) (hran : r.ran = false) (hi : r.prog.getD r.pc 0 = i)

include hran hi

theorem AgRun.step_end (hop : fld i 60 4 = 0) : r.step far = .stop { r with done := true } := by
  simp only [AgRun.step, hran, hi, hop, Bool.false_eq_true, if_false]

theorem AgRun.step_base (hop : fld i 60 4 = 1) :
    r.step far = .go { r with pc := r.pc + 1, base := far + i.setWidth 48 } := by
  simp only [AgRun.step, hran, hi, hop, Bool.false_eq_true, if_false]

theorem AgRun.step_loop (hop : fld i 60 4 = 2) (hn : fld i 32 24 ≠ 0) : r.step far = .go { r with
    pc := r.pc + 1, levels := (0, fld i 32 24, (i.setWidth 32).signExtend 48, r.pc + 1) :: r.levels } := by
  simp only [AgRun.step, hran, hi, hop, hn, Bool.false_eq_true, if_false]

/-- A LOOP with count 0 goes past the ENDL that the search finds. -/
theorem AgRun.step_loop_zero (hop : fld i 60 4 = 2) (hn : fld i 32 24 = 0) :
    r.step far = .go { r with pc := agMatch 0 (r.pc + 1) (r.prog.drop (r.pc + 1)) + 1 } := by
  simp only [AgRun.step, hran, hi, hop, hn, Bool.false_eq_true, if_false, if_true]

theorem AgRun.step_endl (hop : fld i 60 4 = 3) {k n : Nat} {st : Addr} {body : Nat} {outer : List (Nat × Nat × Addr × Nat)}
    (hlevels : r.levels = (k, n, st, body) :: outer) :
    r.step far = .go (if k + 1 < n then { r with pc := body, levels := (k + 1, n, st, body) :: outer }
      else { r with pc := r.pc + 1, levels := outer }) := by
  simp only [AgRun.step, hran, hi, hop, hlevels, Bool.false_eq_true, if_false]
  split <;> rfl

theorem AgRun.step_emit (hop : fld i 60 4 = 4) : r.step far = .emit { r with ran := true } (fld i 0 24) := by
  simp only [AgRun.step, hran, hi, hop, Bool.false_eq_true, if_false]

theorem AgRun.step_gather (hop : fld i 60 4 = 5) :
    r.step far = .gather { r with ran := true } (fld i 24 6) (fld i 0 24) := by
  simp only [AgRun.step, hran, hi, hop, Bool.false_eq_true, if_false]

end AgStep

/-- Settles O43: one equation per operation; past a LOOP with count 0 the search for its ENDL agrees with the walk of R273. -/
theorem addressGeneratorFollowsItsProgram : Obligations.AddressGeneratorFollowsItsProgram := by
  unfold Obligations.AddressGeneratorFollowsItsProgram
  intro r far hran i op
  refine ⟨r.step_end far hran rfl, r.step_base far hran rfl, r.step_loop far hran rfl,
    fun hop _ _ _ _ _ => r.step_endl far hran rfl hop, r.step_emit far hran rfl, r.step_gather far hran rfl,
    r.cur_cons, fun body tail hwalk hends hop hn hdrop => ?_⟩
  rw [AgRun.step_loop_zero far hran rfl hop hn, hdrop, agMatch_append_endl tail (by decide) (by decide) hends _ hwalk]

end Sys2Proof.Machine

namespace Sys2Proof.Machine

/-! ### Stream units -/

@[simp] theorem State.unit_updUnit_same (s : State) (c : CoreId) (u : UnitId) (f : StrUnit → StrUnit) :
    (s.updUnit c u f).unit c u = f (s.unit c u) := by
  simp [State.unit, State.updUnit]

@[simp] theorem State.unit_freeUser (s : State) (user : TagUser) (c : CoreId) (u : UnitId) :
    (s.freeUser user).unit c u = s.unit c u := rfl

/-- A change of a unit is told by what it makes of the unit as it stands. -/
theorem State.updUnit_congr {s : State} {c : CoreId} {u : UnitId} {f g : StrUnit → StrUnit}
    (h : f (s.unit c u) = g (s.unit c u)) : s.updUnit c u f = s.updUnit c u g := by
  have hunit : f (s.core c).str.units[u] = g (s.core c).str.units[u] := h
  exact congrArg (fun k : StrUnit => { s with cores := s.cores.set c { s.core c with
    str := { (s.core c).str with units := (s.core c).str.units.set u k } } }) hunit

/-! ### The ST queue: ST_SUB, LDPG and LDPG_DONE (R267, R274, R280, R296) -/

section StQueue

variable {s t : State} {c : CoreId} {u : UnitId} {e : QEntry} {o : Nat}

/-- The descriptor that ST_SUB makes of the bytes read for the slot `e`: FAR and NEAR stand replaced where the slot says so. -/
def QEntry.descOf (e : QEntry) (bytes : List Byte) : Desc :=
  let word := fun (k n : Nat) => leNat ((bytes.drop k).take n)
  let far : Dword := BitVec.ofNat 64 (word 8 8)
  let near : Dword := BitVec.ofNat 64 (word 16 8)
  { ctrl := BitVec.ofNat 64 (word 0 8)
    far := if bitAt e.bits 17 then setFld far 0 48 (e.a (fld e.bits 18 4)) else far
    near := if bitAt e.bits 12 then setFld near 0 48 (e.a (fld e.bits 13 4)) else near
    nbytes := word 24 4
    idx := BitVec.ofNat 64 (word 32 8)
    rsvOk := descRsvOk bytes
    e := e }

theorem execStSub_of_room (hhead : s.stHead c u 1 = some (e, t)) (hroom : (s.unit c u).dq.length < 16)
    (hown : s.ownCsp c e.descAddr = some o) (halign : e.descAddr % 64 = 0) (hgood : (t.cspLoad c .ownCore o 64).bad = []) :
    exec (.stSub c u) s = .next ((t.cspLoad c .ownCore o 64).s.updUnit c u fun k =>
      { k with dq := k.dq ++ [e.descOf (t.cspLoad c .ownCore o 64).bytes] }) := by
  show execStSub c u s = _
  simp [execStSub, hhead, Nat.not_le.2 hroom, hown, halign, hgood, QEntry.descOf]

theorem execLdpg_of_free (hhead : s.stHead c u 2 = some (e, t)) (hfree : (s.unit c u).ldpg = none)
    (hwaits : s.ldpgWaits c e = false) (hown : s.ownCsp c e.descAddr = some o) (halign : e.descAddr % 8 = 0)
    (hend : o + 128 ≤ cspSize) (hgood : (t.cspLoad c .ownCore o 128).bad = []) :
    exec (.ldpg c u) s = .next ((((List.range 16).foldl (fun (x : State) (i : Nat) =>
        x.setReg (pgStr c) (0x400 + 0x80 * ldpgIndex e + 8 * i)
          (BitVec.ofNat 64 (leNat (((t.cspLoad c .ownCore o 128).bytes.drop (8 * i)).take 8))))
        (t.cspLoad c .ownCore o 128).s).modReg (pgStr c) 0x140 fun v =>
      setBit v (ldpgIndex e) false).updUnit c u fun k => { k with ldpg := some e }) := by
  show execLdpg c u s = _
  simp only [execLdpg, hhead, hfree, hwaits, hown, halign, hgood, Nat.not_lt.2 hend, Option.isSome_none, Bool.or_self,
    Bool.false_eq_true, if_false, ne_eq, not_true_eq_false, or_self, List.isEmpty_nil, Bool.not_true]

theorem execLdpgDone_of_live (hload : (s.unit c u).ldpg = some e) (hlive : s.strLive c = true) :
    exec (.ldpgDone c u) s = .next ((s.updUnit c u fun k => { k with ldpg := none }).done c e) := by
  show execLdpgDone c u s = _
  simp [execLdpgDone, hload, hlive]

end StQueue

/-- Settles O41: each command is its own equation once nothing holds the slot at the head of the queue. -/
theorem streamOpsSubmitAndLoadPrograms : Obligations.StreamOpsSubmitAndLoadPrograms := by
  unfold Obligations.StreamOpsSubmitAndLoadPrograms
  intro s c u
  exact ⟨fun _ _ _ hhead hroom hown halign hgood => execStSub_of_room hhead hroom hown halign hgood,
    fun _ _ _ hhead hfree hwaits hown halign hend hgood => execLdpg_of_free hhead hfree hwaits hown halign hend hgood,
    fun _ hload hlive => execLdpgDone_of_live hload hlive⟩

end Sys2Proof.Machine

namespace Sys2Proof.Machine

/-! ### Searches of a list -/

/-- The first index at which a predicate holds. -/
theorem find?_finRange_of_first {n : Nat} {p : Fin n → Bool} {i : Fin n} (hi : p i = true) (hbefore : ∀ j < i, p j = false) :
    (List.finRange n).find? p = some i := by
  refine List.find?_eq_some_iff_getElem.2 ⟨hi, i.val, by simp, by simp, fun j hj => ?_⟩
  simpa using hbefore ⟨j, by omega⟩ hj

theorem takeFirst_append {α : Type} {p : α → Bool} {pre : List α} {a : α} (post : List α) (hpre : ∀ x ∈ pre, p x = false)
    (ha : p a = true) : takeFirst p (pre ++ a :: post) = some (a, pre ++ post) := by
  induction pre with
  | nil => simp [takeFirst, ha]
  | cons x xs ih =>
    obtain ⟨hx, hxs⟩ := List.forall_mem_cons.1 hpre
    simp [takeFirst, hx, ih hxs]

/-! ### Starting a descriptor and granting the transpose buffer (R268, R279, R281) -/

section Start

variable {s : State} {c : CoreId} {u : UnitId}

/-- Whether a descriptor that starts must wait for the transpose buffer. -/
def State.startWaits (s : State) (c : CoreId) (d : Desc) : Bool :=
  d.trans && ((s.core c).str.tbuf.isSome || (List.finRange 4).any fun v => (s.unit c v).waitsT)

/-- A descriptor as it becomes active at its near offset. -/
def State.activated (s : State) (c : CoreId) (d : Desc) (near : Nat) : ActDesc where
  d := d
  near := near
  ag := if d.pgen && d.nbytes != 0 then AgRun.start (s.pgm c d.pgm) d.farLoc
    else { AgRun.start [] d.farLoc with near := d.nbytes, done := true }
  emit := if d.pgen || d.nbytes == 0 then none else some ⟨d.farLoc.toNat, 0, d.nbytes⟩
  open_ := none
  outs := []
  tdata := []
  waitT := s.startWaits c d
  issued := d.nbytes == 0
  dead := false

theorem State.emit_activated {d : Desc} (near : Nat) (hpgen : d.pgen = false) (hn : d.nbytes ≠ 0) :
    (s.activated c d near).emit = some ⟨d.farLoc.toNat, 0, d.nbytes⟩ := by
  simp [State.activated, hpgen, hn]

theorem State.ag_activated {d : Desc} (near : Nat) (hpgen : d.pgen = true) (hn : d.nbytes ≠ 0) :
    (s.activated c d near).ag = AgRun.start (s.pgm c d.pgm) d.farLoc := by
  simp [State.activated, hpgen, hn]

theorem execDescriptorStart_of_passed {d : Desc} {rest : List Desc} {near : Nat} (hdq : (s.unit c u).dq = d :: rest)
    (hmay : s.mayStart c 4 = true) (hturn : (s.unit c u).turn d = true) (hpgm : s.pgmWaits c d = false)
    (hcheck : s.descCheck c d = .inr near) :
    exec (.descriptorStart c u) s = .next (
      (let s2 := (s.updUnit c u fun k => { k with dq := rest }).updUnit c u fun k =>
        { k with acts := k.acts ++ [s.activated c d near] }
       if d.trans && !s.startWaits c d then s2.updStr c fun k => { k with tbuf := some u } else s2).strPump c) := by
  show execDescriptorStart c u s = _
  simp only [execDescriptorStart, hdq, hmay, hturn, hpgm, hcheck, Bool.not_true, Bool.or_self, Bool.false_eq_true, if_false]
  rfl

theorem execTbufGrant_of_lowest (hlive : s.strLive c = true) (hfree : (s.core c).str.tbuf = none)
    (hwaits : (s.unit c u).waitsT = true) (hlow : ∀ v : UnitId, v < u → (s.unit c v).waitsT = false) :
    exec (.tbufGrant c) s = .next (((s.updStr c fun k => { k with tbuf := some u }).updUnit c u fun k =>
      { k with acts := k.acts.map fun a => { a with waitT := false } }).strPump c) := by
  have hfirst : (List.finRange 4).find? (fun v => (s.unit c v).waitsT) = some u := find?_finRange_of_first hwaits hlow
  show execTbufGrant c s = _
  simp [execTbufGrant, hlive, hfree, hfirst]

end Start

/-! ### Requests held open or back (R277, R284) -/

section Requests

variable {s t : State} {c : CoreId} {u : UnitId} {a : ActDesc} {r : FarReq} (hlast : (s.unit c u).last = some a)
  (hissuing : (s.unit c u).issuing = true) (hlive : s.strLive c = true) (hopen : a.open_ = some r)

include hlast hissuing hlive hopen

theorem execMergeTimeout_of_issue (hissue : s.strIssue c u a r false = some t) :
    exec (.mergeTimeout c u) s = .next (t.strPump c) := by
  show execMergeTimeout c u s = _
  simp [execMergeTimeout, hlast, hissuing, hlive, hopen, hissue]

theorem execNlStarve_of_issue (hnl : a.d.nl = true) (hissue : s.strIssue c u a r true = some t) :
    exec (.nlStarve c u) s = .next (t.strPump c) := by
  show execNlStarve c u s = _
  simp [execNlStarve, hlast, hissuing, hlive, hopen, hnl, hissue]

end Requests

/-! ### Replies (R281, R282, R290) -/

section Replies

variable {s : State} {c : CoreId} {u : UnitId}

/-- A reply to the one request its descriptor has outstanding, no earlier descriptor holding that number. -/
theorem execStreamReply_of_request {pre post : List ActDesc} {a : ActDesc} {q : FarReq} (r : Reply)
    (hacts : (s.unit c u).acts = pre ++ a :: post) (houts : a.outs = [q])
    (hpre : ∀ x ∈ pre, x.outs.all (·.id != q.id) = true) (hmem : s.memDead = false) (hlive : s.strLive c = true)
    (hdead : a.dead = false) :
    exec (.streamReply c u q.id r) s = .next (if q.write then s.writeDone c u a q r else s.readReply c u a q r) := by
  have hskip : pre.find? (fun x => x.outs.any (·.id == q.id)) = none :=
    List.find?_eq_none.2 fun x hx => by simpa using hpre x hx
  have hfind : (s.unit c u).acts.find? (fun x => x.outs.any (·.id == q.id)) = some a := by
    rw [hacts, List.find?_append, hskip]
    simp [houts]
  show execStreamReply c u q.id r s = _
  cases hw : q.write <;> simp [execStreamReply, hfind, houts, hmem, hdead, hlive, hw]

theorem find?_outs_of_idle (req : Nat) (hidle : ∀ x ∈ (s.unit c u).acts, x.outs = []) :
    (s.unit c u).acts.find? (fun a => a.outs.any (·.id == req)) = none :=
  List.find?_eq_none.2 fun x hx => by simp [hidle x hx]

variable {p : Posted} (hposted : (s.unit c u).posted = [p])

include hposted

theorem State.postedOf_of_only : s.postedOf c u p.id = some p := by
  simp [State.postedOf, hposted]

theorem State.postedEnds_of_only :
    s.postedEnds c u p.id = (s.updUnit c u fun k => { k with posted := [] }).freeUser (.str c u p.id) := by
  rw [State.postedEnds, State.updUnit_congr (g := fun k => { k with posted := [] }) (by simp [hposted])]

theorem State.posted_postedEnds_of_only : ((s.postedEnds c u p.id).unit c u).posted = [] := by
  rw [State.postedEnds_of_only hposted, State.unit_freeUser, State.unit_updUnit_same]

variable (hidle : ∀ x ∈ (s.unit c u).acts, x.outs = []) (hmem : s.memDead = false)

include hidle hmem

theorem execStreamReply_posted_data (bs : List Byte) : exec (.streamReply c u p.id (.data bs)) s =
    .next (((s.updUnit c u fun k => { k with posted := [] }).freeUser (.str c u p.id)).strPump c) := by
  show execStreamReply c u p.id (.data bs) s = _
  simp [execStreamReply, find?_outs_of_idle p.id hidle, State.postedOf_of_only hposted, hmem, State.postedEnds_of_only hposted]

theorem execStreamReply_posted_error (code : Byte) (hdead : p.dead = false) (hlive : s.strLive c = true) :
    exec (.streamReply c u p.id (.error code)) s =
      .next ((s.postedEnds c u p.id).strFault c u p.e .remote p.pc p.sys) := by
  show execStreamReply c u p.id (.error code) s = _
  simp [execStreamReply, find?_outs_of_idle p.id hidle, State.postedOf_of_only hposted, hmem, State.postedFault, hdead,
    State.strLive_postedEnds, hlive]

end Replies

/-! ### A stream fault leaves the stream block as it is -/

@[simp] theorem State.cause_core_str (s : State) (c d : CoreId) (code : Byte) (host : Bool) :
    ((s.cause c code host).core d).str = (s.core d).str := by
  simp only [State.cause]
  split
  · rw [State.core_satRf]
  · split
    · rfl
    · exact State.updSeq_core_str s c d _

@[simp] theorem State.unit_strFault (s : State) (c : CoreId) (u v : UnitId) (e : QEntry) (f : StrFault) (pc addr : Nat) :
    (s.strFault c u e f pc addr).unit c v = s.unit c v := by
  simp [State.strFault, State.unit]

/-- A stream fault of a task that is held and not aborting is the cause of its abort. -/
theorem State.causes_strFault {s : State} {c : CoreId} (u : UnitId) (e : QEntry) (f : StrFault) (pc addr : Nat)
    (hab : (s.core c).seq.abortTask = false) (hheld : (s.core c).seq.holds = true) :
    ((s.strFault c u e f pc addr).core c).seq.causes = (s.core c).seq.causes ++ [⟨BitVec.ofNat 8 f.cause, false⟩] := by
  rw [State.strFault, State.cause_of_held _ _ (by simp [hab]) (by simp [hheld])]
  simp

/-! ### Completing a descriptor (R279, R281) -/

theorem execDescriptorComplete_of_finished {s : State} {c : CoreId} {u : UnitId} {pre post : List ActDesc} {a : ActDesc}
    (hacts : (s.unit c u).acts = pre ++ a :: post) (hpre : ∀ x ∈ pre, x.dead = true) (hfin : a.finished = true)
    (hlive : s.strLive c = true) :
    let s1 := s.updUnit c u fun k => { k with acts := pre ++ post, done := k.done + 1 }
    exec (.descriptorComplete c u) s = .next
      ((((if a.d.trans then s1.updStr c fun k => { k with tbuf := none } else s1)).pm (pgStr c) 0x01 1).done c a.d.e) := by
  have halive : a.dead = false := by
    simp only [ActDesc.finished, Bool.and_eq_true, Bool.not_eq_true'] at hfin
    exact hfin.1.2
  have hfront : takeFirst (fun x : ActDesc => !x.dead) (s.unit c u).acts = some (a, pre ++ post) := by
    rw [hacts, takeFirst_append post (fun x hx => by simp [hpre x hx]) (by simp [halive])]
  show execDescriptorComplete c u s = _
  simp [execDescriptorComplete, hfront, hfin, hlive]

/-- Settles O42: each command is its own equation; a posted write's error is a stream fault of the state it has left. -/
theorem streamDescriptorsStartRequestAndComplete : Obligations.StreamDescriptorsStartRequestAndComplete := by
  unfold Obligations.StreamDescriptorsStartRequestAndComplete
  intro s c u
  refine ⟨fun d rest near hdq hmay hturn hpgm hcheck => ?_,
    fun hlive hfree hwaits hlow => execTbufGrant_of_lowest hlive hfree hwaits hlow,
    fun a r hlast hissuing hlive hopen => ⟨fun _ => execMergeTimeout_of_issue hlast hissuing hlive hopen,
      fun _ hnl => execNlStarve_of_issue hlast hissuing hlive hopen hnl⟩,
    fun pre post a q r hacts houts hpre hmem hlive hdead =>
      execStreamReply_of_request r hacts houts hpre hmem hlive hdead,
    fun p hposted hidle hmem => ⟨execStreamReply_posted_data hposted hidle hmem, fun code hdead hlive => ?_⟩,
    fun pre post a hacts hpre hfin hlive => execDescriptorComplete_of_finished hacts hpre hfin hlive⟩
  · exact ⟨s.activated c d near, ⟨rfl, rfl, rfl, rfl, rfl, rfl, State.emit_activated near, State.ag_activated near⟩,
      execDescriptorStart_of_passed hdq hmay hturn hpgm hcheck⟩
  · obtain ⟨-, hcauses, hab⟩ := State.strLive_iff.1 hlive
    refine ⟨_, execStreamReply_posted_error hposted hidle hmem code hdead hlive, ?_, ?_, fun hheld => ?_⟩
    · rw [State.unit_strFault, State.posted_postedEnds_of_only hposted]
    · rw [State.strFault_mem, State.postedEnds, State.freeUser_mem, State.updUnit_mem]
    · rw [State.causes_strFault u p.e .remote p.pc p.sys (by simp [hab]) (by simp [hheld]), State.postedEnds_core_seq, hcauses]
      rfl

end Sys2Proof.Machine

namespace Sys2Proof.Machine

/-! ### A cache op leaves the LS queue (R309) -/

section CacheOpStart

variable {s t : State} {c : CoreId} {e : QEntry}

theorem State.cacheHead_eq_some {op : Nat} (hhead : s.cacheHead c op = some (e, t)) :
    op32 e.bits = op ∧ ∃ rest, (s.core c).seq.lsq = e :: rest ∧ t = s.updSeq c fun q => { q with lsq := rest } := by
  unfold State.cacheHead at hhead
  split at hhead
  case h_1 => cases hhead
  case h_2 rest hq =>
    split at hhead
    case isFalse => cases hhead
    case isTrue hmay =>
      simp only [Bool.and_eq_true, decide_eq_true_eq] at hmay
      obtain ⟨⟨⟨⟨hop, -⟩, -⟩, -⟩, -⟩ := hmay
      cases hhead
      exact ⟨hop, rest, hq, rfl⟩

/-! ### Starting CFL, CIV and FENCE (R305, R306, R307) -/

theorem execCfl_of_narrow (hhead : s.cacheHead c 8 = some (e, t)) (hscope : lsScope e.bits ≤ 1) :
    exec (.cfl c) s = .next (t.updCch c fun k => { k with op := some ⟨e, []⟩ }) := by
  show execCfl c s = _
  simp [execCfl, hhead, hscope, State.sweep, State.cacheStart]

theorem execCfl_of_sweep {r : Swept} (hhead : s.cacheHead c 8 = some (e, t)) (hscope : 2 ≤ lsScope e.bits)
    (hsweep : t.sweep c (e.bits.getLsbD 16) false e.cw.toNat e.opScope (t.rangeLines c e) = some r) :
    exec (.cfl c) s = .next (r.s.updCch c fun k => { k with op := some ⟨e, r.wbs⟩ }) := by
  show execCfl c s = _
  simp only [execCfl, hhead, Nat.not_le.2 hscope, if_false, hsweep, State.cacheStart]

theorem execCiv_of_sweep {r : Swept} (hhead : s.cacheHead c 9 = some (e, t))
    (hsweep : t.sweep c true true e.cw.toNat e.opScope (t.rangeLines c e) = some r) :
    exec (.civ c) s = .next ((r.s.updCch c fun k => { k with op := some ⟨e, r.wbs⟩ }).noFills c e) := by
  show execCiv c s = _
  simp [execCiv, hhead, hsweep, State.cacheStart]

theorem execFence_of_head (hhead : s.cacheHead c 10 = some (e, t)) :
    exec (.fence c) s = .next (t.updCch c fun k => { k with
      op := some ⟨e, if lsScope e.bits ≤ 1 then [] else t.fenceReqs c (e.bits.getLsbD 16)⟩ }) := by
  show execFence c s = _
  simp [execFence, hhead]

end CacheOpStart

/-! ### Sweeping lines (R305, R306, R311) -/

section Sweep

variable (s : State) (c : CoreId) (inv counted : Bool) (cw op : Nat)

@[simp] theorem State.sweep_nil : s.sweep c inv counted cw op [] = some ⟨[], s⟩ := rfl

theorem State.sweep_cons_of_clean {l : CchLine} (ls : List CchLine) (hclean : l.dirty = 0) :
    s.sweep c inv counted cw op (l :: ls) = (if inv then s.cchDrop c l.line counted else s).sweep c inv counted cw op ls := by
  simp [State.sweep, hclean]

/-- A dirty line whose write-back ends at once leaves no line on its way. -/
theorem State.sweep_cons_of_settled {l : CchLine} (ls : List CchLine) (hdirty : l.dirty ≠ 0)
    (hbusy : (s.writeBack c l cw op).busy = false) (hue : (s.writeBack c l cw op).ue = false)
    (haway : (s.writeBack c l cw op).away = false) :
    let w := s.writeBack c l cw op
    s.sweep c inv counted cw op (l :: ls) =
      ((if inv then w.s.cchDrop c l.line counted else w.s.updCch c fun k => k.clean l.line).writeBackFails c w cw op l.line).sweep
        c inv counted cw op ls := by
  intro w
  rw [State.sweep, if_neg hdirty]
  simp [w, hbusy, hue, haway]

end Sweep

/-! ### CACHE_OP_DONE (R305, R306, R307, R311) -/

section CacheOpDone

variable {s : State} {c : CoreId} {o : CacheOp} (hop : (s.core c).cch.op = some o) (hlive : s.strLive c = true)
  (hmem : s.memDead = false)

include hop hlive hmem

theorem execCacheOpDone_data (bs : List Byte) (hfence : op32 o.e.bits = 10 → s.fenceDone c o = true) :
    let s1 := if op32 o.e.bits ≠ 10 ∧ lsScope o.e.bits = 4 then s.freeBacks c o o.wbs else s
    let s2 := if op32 o.e.bits = 9 ∧ 3 ≤ lsScope o.e.bits then s1.civShared o.e else s1
    exec (.cacheOpDone c (.data bs)) s = .next ((s2.updCch c fun k => { k with op := none }).done c o.e) := by
  have hready : (op32 o.e.bits == 10 && !s.fenceDone c o) = false := by
    by_cases h : op32 o.e.bits = 10 <;> simp [h, hfence]
  show execCacheOpDone c (.data bs) s = _
  simp [execCacheOpDone, hop, hlive, hmem, hready, replyErr]

theorem execCacheOpDone_error (code : Byte) {l : Nat} (hsweeps : op32 o.e.bits ≠ 10) (hback : s.failedBack c o = some l) :
    exec (.cacheOpDone c (.error code)) s =
      .next ((s.freeBacks c o [l]).lineFails c 9 3 0x13 o.e.cw.toNat o.e.opScope l) := by
  show execCacheOpDone c (.error code) s = _
  simp [execCacheOpDone, hop, hlive, hmem, hsweeps, hback, replyErr]

end CacheOpDone

/-- Settles O40: each command is its own equation, and a sweep goes line by line. The model's choices among them: INV drops clean
lines too, a CFL at ENGINE or CORE scope does nothing, the CSC drops its lines at completion (log entry 58), and an error names
the op's oldest write-back (log entry 120). -/
theorem cacheOpsStartAndComplete : Obligations.CacheOpsStartAndComplete := by
  unfold Obligations.CacheOpsStartAndComplete
  intro s c
  exact ⟨fun _ _ => ⟨execCfl_of_narrow, fun hhead hscope _ hsweep => execCfl_of_sweep hhead hscope hsweep,
      fun hhead _ hsweep => execCiv_of_sweep hhead hsweep, execFence_of_head, fun _ => State.cacheHead_eq_some⟩,
    s.sweep_nil c,
    fun inv counted cw op _ ls hclean => s.sweep_cons_of_clean c inv counted cw op ls hclean,
    fun inv counted cw op _ ls hdirty hbusy hue haway _ hrest =>
      (s.sweep_cons_of_settled c inv counted cw op ls hdirty hbusy hue haway).trans hrest,
    fun _ hop hlive hmem => ⟨execCacheOpDone_data hop hlive hmem,
      fun code _ hsweeps hback => execCacheOpDone_error hop hlive hmem code hsweeps hback⟩⟩

end Sys2Proof.Machine

namespace Sys2Proof.Machine

/-! ### The head of the CH queue -/

section ChHead

variable {s t : State} {c : CoreId} {e : QEntry} {rest : List QEntry} (hq : (s.core c).seq.chq = e :: rest)
  (hmay : s.mayStart c 7 = true) (hfree : s.chnHeld c = false)

include hq hmay hfree

theorem State.chHead_of_start {op : Nat} (f : State → QEntry → State) (hop : op24 e.bits = op) : s.chHead c op f = f s e := by
  simp [State.chHead, hq, hop, hmay, hfree]

/-! ### BIND and UNBIND (R332, R333) -/

theorem execBind_of_record {v : Dword} (hop : op24 e.bits = 2) (hacked : ((s.core c).chn.bind (chChan e.bits)).waiting = false)
    (hrec : s.chRecord c e (chChan e.bits) 0 = .ok v t) (hrsv : fld v 61 3 = 0) (hcr : fld v 53 8 ≤ 127) :
    exec (.bind c) s = .next (((t.chLeave c).updBind c (chChan e.bits) fun b =>
      { b with record := v, credits := fld v 53 8 + 1, wp := 0, bound := true, number := b.number + 1, unacked := [] }).done c e) := by
  show execBind c s = _
  rw [execBind, State.chHead_of_start hq hmay hfree _ hop]
  simp [hacked, hrec, hrsv, Nat.not_lt.2 hcr]

theorem execUnbind_of_acked (hop : op24 e.bits = 3) (hacked : ((s.core c).chn.bind (chChan e.bits)).waiting = false) :
    exec (.unbind c) s = .next (((s.chLeave c).updBind c (chChan e.bits) Binding.unbind).done c e) := by
  show execUnbind c s = _
  rw [execUnbind, State.chHead_of_start hq hmay hfree _ hop]
  simp [hacked]

/-! ### PORT, CREL and DISARM (R331, R338, R342, R343) -/

theorem execPort_of_valid {v : Dword} (hop : op24 e.bits = 4) (hrec : s.chRecord c e 0 (chPort e.bits) = .ok v t)
    (hvalid : portCase (chPort e.bits) v = 0) (hheld : ((t.core c).chn.port (chPort e.bits)).portHeld v = false) :
    exec (.port c) s = .next (((t.chLeave c).updPortOf c (chPort e.bits) fun q => q.arm v).done c e) := by
  show execPort c s = _
  rw [execPort, State.portOp, State.chHead_of_start hq hmay hfree _ hop]
  simp [hrec, hvalid, hheld]

theorem execCrel_of_enough (hop : op24 e.bits = 5) (hport : vxePort (chPort e.bits) = false)
    (hheld : (s.core c).crelHeld e = false)
    (hcount : chCount e.bits ≤ ((((s.core c).chn.port (chPort e.bits)).held).filter fun r => !r.pad).length) :
    exec (.crel c) s = .next (((s.chLeave c).releaseOldest c (chPort e.bits) (chCount e.bits)).done c e) := by
  show execCrel c s = _
  rw [execCrel, State.chHead_of_start hq hmay hfree _ hop]
  simp only [hport, hheld, Nat.not_lt.2 hcount, Bool.false_eq_true, if_false]

theorem execDisarm_of_head (hop : op24 e.bits = 6) :
    exec (.disarm c) s = .next (((s.chLeave c).updPortOf c (chPort e.bits) LandPort.disarm).done c e) := by
  show execDisarm c s = _
  rw [execDisarm, State.chHead_of_start hq hmay hfree _ hop]

/-! ### SEND (R340, R341, R343) -/

theorem execSend_of_ready {off : Nat} (hop : op24 e.bits = 1) (hbound : ((s.core c).chn.bind (chChan e.bits)).bound = true)
    (hfits : chLen e.bits ≤ ((s.core c).chn.bind (chChan e.bits)).cr) (hsrc : s.sendSource c e = some off)
    (hready : s.trySend c (chChan e.bits) (chLen e.bits) e.cw = .ready t)
    (hgood : ((t.chLeave c).cspLoad c .ownCore off (64 * chLen e.bits)).bad = []) :
    let r := (t.chLeave c).cspLoad c .ownCore off (64 * chLen e.bits)
    exec (.send c) s = .next (r.s.emit c (chChan e.bits) (chLen e.bits) false r.bytes e.cw (some e)) := by
  show execSend c s = _
  rw [execSend, State.chHead_of_start hq hmay hfree _ hop]
  simp [hbound, Nat.not_lt.2 hfits, hsrc, hready, hgood]

theorem execSend_of_unbound (hop : op24 e.bits = 1) (hbound : ((s.core c).chn.bind (chChan e.bits)).bound = false) :
    exec (.send c) s = .next (s.sendRefused c (chChan e.bits) (chLen e.bits) e.chWho false) := by
  show execSend c s = _
  rw [execSend, State.chHead_of_start hq hmay hfree _ hop]
  simp [hbound]

end ChHead

/-! ### EPOCH_SPACING_DONE (R342) -/

section EpochSpacing

variable {s : State} {c : CoreId} {p : LandId}

theorem execEpochSpacingDone_of_other
    (hother : ∀ (e : QEntry) (rest : List QEntry), (s.core c).seq.chq = e :: rest → chPort e.bits ≠ p.val) :
    exec (.epochSpacingDone c p) s = .next (s.updPortOf c p.val fun q => { q with spaced := true }) := by
  show execEpochSpacingDone c p s = _
  unfold execEpochSpacingDone
  split
  · rfl
  · next e rest hq => simp [hother e rest hq]

theorem execEpochSpacingDone_of_waiting {e : QEntry} {rest : List QEntry} (hq : (s.core c).seq.chq = e :: rest)
    (hport : chPort e.bits = p.val) :
    exec (.epochSpacingDone c p) s = exec (.port c) (s.updPortOf c p.val fun q => { q with spaced := true }) := by
  show execEpochSpacingDone c p s = execPort c _
  simp [execEpochSpacingDone, execPort, hq, hport]

end EpochSpacing

/-! ### What a valid port record is (R331) -/

theorem trfPort_iff {p : Nat} : trfPort p = true ↔ p = 2 ∨ p = 3 := by simp [trfPort]

theorem portCase_eq_zero_of_trf {p : Nat} {v : Dword} (h : trfPort p = true) : portCase p v = 0 ↔
    fld v 32 32 = 0 ∧ fld v 12 3 = 0 ∧ 9 ≤ fld v 15 4 ∧ fld v 15 4 ≤ 13 ∧ 16 * fld v 0 12 % 2 ^ fld v 15 4 = 0 ∧
      16 * fld v 0 12 / 32768 = (16 * fld v 0 12 + 2 ^ fld v 15 4 - 1) / 32768 := by
  simp only [portCase, h, if_true, true_and]
  split_ifs <;> grind

theorem portCase_eq_zero_of_csp {p : Nat} {v : Dword} (h : trfPort p = false) : portCase p v = 0 ↔
    fld v 32 32 = 0 ∧ 9 ≤ fld v 15 4 ∧ fld v 15 4 ≤ 13 ∧ 16 * fld v 0 15 % 2 ^ fld v 15 4 = 0 ∧
      16 * fld v 0 15 + 2 ^ fld v 15 4 ≤ 524288 := by
  simp only [portCase, h, if_false, cspSize, Bool.false_eq_true, false_and, or_false]
  split_ifs <;> grind

/-! ### Which cores a link reaches (R18) -/

/-- Presence, fence and power state decide whether a core's island answers. -/
theorem State.reachable_congr {s t : State} {d : CoreId} (hfuses : t.fuses = s.fuses) (hfence : t.reg 0 0x108 = s.reg 0 0x108)
    (hst : (t.core d).seq.st = (s.core d).seq.st) : t.reachable d = s.reachable d := by
  simp only [State.reachable, State.present, State.fenced, hfuses, hfence, hst]

@[simp] theorem State.pm_links (s : State) (page code n : Nat) : (s.pm page code n).links = s.links :=
  s.pm_same (·.links) (fun _ _ _ _ => rfl) page code n

@[simp] theorem State.reachable_updChn (s : State) (c d : CoreId) (f : Chn → Chn) : (s.updChn c f).reachable d = s.reachable d :=
  State.reachable_congr rfl rfl (by simp)

@[simp] theorem State.reachable_updTrf (s : State) (c d : CoreId) (f : Trf → Trf) : (s.updTrf c f).reachable d = s.reachable d :=
  State.reachable_congr rfl rfl (by simp)

/-- CORE_FENCE lies in the CCU page, below the pages of the cores. -/
theorem regKey_coreFence_ne (c : CoreId) (b off : Nat) : regKey 0 0x108 ≠ regKey (corePage c b) off := by
  have := regKey_corePage_ge c b off
  simp only [regKey] at *
  omega

@[simp] theorem State.reachable_bumpRf (s : State) (c d : CoreId) (b off lo w n : Nat) :
    (s.bumpRf (corePage c b) off lo w n).reachable d = s.reachable d :=
  State.reachable_congr rfl (s.reg_setReg_other _ (regKey_coreFence_ne c b off)) rfl

@[simp] theorem State.reachable_pm (s : State) (c d : CoreId) (b code n : Nat) :
    (s.pm (corePage c b) code n).reachable d = s.reachable d :=
  State.reachable_congr (s.pm_same (·.fuses) (fun _ _ _ _ => rfl) _ _ _)
    (s.reg_pm_other _ _ _ fun k _ => regKey_coreFence_ne c b _) (by simp)

theorem State.linkPut_of_reachable {s : State} {c d : CoreId} (m : LinkMsg) (h : s.reachable d = true) :
    s.linkPut c d m = { s with links := s.links ++ [(c, d, m)] } := by
  simp [State.linkPut, h]

/-! ### Bindings and landing ports of a changed state -/

@[simp] theorem State.bind_updBind_same (s : State) (c : CoreId) (n : Nat) (f : Binding → Binding) :
    ((s.updBind c n f).core c).chn.bind n = f ((s.core c).chn.bind n) := by
  simp [State.updBind, Chn.bind]

@[simp] theorem State.port_updPortOf_same (s : State) (c : CoreId) (p : LandId) (f : LandPort → LandPort) :
    ((s.updPortOf c p.val f).core c).chn.port p.val = f ((s.core c).chn.port p.val) := by
  simp [State.updPortOf, Chn.port, vget_vmod_same]

/-! ### A message within the cluster (R340) -/

/-- The binding after a message of `units` has left. -/
def Binding.emitted (b : Binding) (units : Nat) (cw : CsIndex) (e : Option QEntry) : Binding :=
  { b with
    credits := b.credits - units
    next := b.next + 1
    wp := (b.wp + units) % b.cr
    unacked := b.unacked ++ [⟨b.next, units, false, e, cw⟩] }

/-- The message of `units` that channel n sends next. -/
def Binding.message (b : Binding) (n units : Nat) (bs : List Byte) : Msg :=
  ⟨BitVec.ofNat 6 n, b.rch, b.port, b.epoch, b.next, b.srofs + b.wp, units, false, b.number, bs⟩

/-- A whole message to a core of the own cluster is counted and leaves by the link, with no CUT marker behind it. -/
theorem State.emit_of_own {s : State} {c : CoreId} {n units : Nat} {bs : List Byte} (cw : CsIndex) (e : Option QEntry)
    (hdev : ((s.core c).chn.bind n).dev s.ownDev = s.ownDev)
    (hplace : ((s.core c).chn.bind n).place = s.ownDie + 32 * s.ownCluster) (hlen : bs.length = 64 * units) :
    s.emit c n units false bs cw e =
      (((s.updBind c n fun b => b.emitted units cw e).bumpRf (pgChn c) (0x800 + 0x18 * n) 0 32 1).pm (pgChn c) 0x01 1).linkPut c
        ((s.core c).chn.bind n).core (.msg (((s.core c).chn.bind n).message n units bs)) := by
  have hwhole : msgCut (((s.core c).chn.bind n).message n units bs) = false := by simp [msgCut, Binding.message, hlen]
  simp only [State.emit, hdev, hplace, and_self, if_true, Bool.false_eq_true, if_false]
  exact if_neg (by simpa [Binding.message] using hwhole)

theorem State.emit_own_reads {s : State} {c : CoreId} {n units : Nat} {bs : List Byte} (cw : CsIndex) (e : Option QEntry)
    (hdev : ((s.core c).chn.bind n).dev s.ownDev = s.ownDev)
    (hplace : ((s.core c).chn.bind n).place = s.ownDie + 32 * s.ownCluster) (hlen : bs.length = 64 * units)
    (hreach : s.reachable ((s.core c).chn.bind n).core = true) :
    let b := (s.core c).chn.bind n
    ((s.emit c n units false bs cw e).core c).chn.bind n = b.emitted units cw e ∧
      (s.emit c n units false bs cw e).links = s.links ++ [(c, b.core, .msg (b.message n units bs))] := by
  intro b
  rw [State.emit_of_own cw e hdev hplace hlen, State.linkPut_of_reachable _ (by simpa [State.updBind] using hreach)]
  refine ⟨?_, by simp [State.updBind, b]⟩
  show ((State.pm _ _ _ _).core c).chn.bind n = _
  simp [b]

/-- Settles O44: each command is its own equation at the head of the CH queue; PORT's record is valid when no case of R331
applies. The message number of a channel runs on over its bindings (log entry 61). -/
theorem channelOpsBindPortSendAndRelease : Obligations.ChannelOpsBindPortSendAndRelease := by
  unfold Obligations.ChannelOpsBindPortSendAndRelease
  intro s c
  refine ⟨fun e rest hq hmay hfree => ⟨?bind, ?unbind, ?port, ?crel, ?disarm, ?send, ?unbound⟩,
    fun p => ⟨execEpochSpacingDone_of_other, fun _ _ hq hport => execEpochSpacingDone_of_waiting hq hport⟩,
    fun n units bs cw e hdev hplace hreach hlen => ?emit, fun p v => ?valid⟩
  case bind => exact fun _ _ hop hacked hrec hrsv hcr => execBind_of_record hq hmay hfree hop hacked hrec hrsv hcr
  case unbind => exact execUnbind_of_acked hq hmay hfree
  case port => exact fun _ _ hop hrec hvalid hheld => execPort_of_valid hq hmay hfree hop hrec hvalid hheld
  case crel => exact execCrel_of_enough hq hmay hfree
  case disarm => exact execDisarm_of_head hq hmay hfree
  case send =>
    exact fun _ _ hop hbound hfits hsrc hready hgood => execSend_of_ready hq hmay hfree hop hbound hfits hsrc hready hgood
  case unbound => exact execSend_of_unbound hq hmay hfree
  case emit =>
    obtain ⟨hbind, hlinks⟩ := State.emit_own_reads cw e hdev hplace hlen hreach
    exact ⟨congrArg Binding.unacked hbind, congrArg Binding.credits hbind, hlinks⟩
  case valid =>
    cases h : trfPort p with
    | true => simpa [trfPort_iff.1 h] using portCase_eq_zero_of_trf h
    | false =>
      have hcsp : ¬ (p = 2 ∨ p = 3) := by simp [← trfPort_iff, h]
      simpa only [hcsp, if_false, false_imp_iff, true_and] using portCase_eq_zero_of_csp h

end Sys2Proof.Machine

namespace Sys2Proof.Machine

/-! ### A message or PAD record reaches its landing port (R334 to R337, R342, R343) -/

section Arrive

variable {s : State} {c : CoreId} {x : Msg} {sender : Option CoreId} {src : BitVec 32} {tag : BitVec 11}

theorem State.arrive_of_unarmed (harmed : ((s.core c).chn.port x.port.toNat).armed = false) :
    s.arrive c sender src tag x = (s.bumpRf (pgChn c) (cnt0 x.rch + 0x10) 32 32 1).pm (pgChn c) 0x07 1 := by
  simp [State.arrive, harmed]

variable (harmed : ((s.core c).chn.port x.port.toNat).armed = true)

include harmed

theorem State.arrive_of_stale (hepoch : x.epoch ≠ ((s.core c).chn.port x.port.toNat).epoch) :
    s.arrive c sender src tag x = ((s.bumpRf (pgChn c) (cnt0 x.rch + 0x10) 0 32 1).pm (pgChn c) 0x06 1).ackBack c
      (logRecOf x sender src tag) true := by
  simp [State.arrive, harmed, hepoch]

variable (hepoch : x.epoch = ((s.core c).chn.port x.port.toNat).epoch)

include hepoch

theorem State.arrive_of_small (hring : ((s.core c).chn.port x.port.toNat).units < x.pos + x.units) :
    s.arrive c sender src tag x = s.satRf (pgChn c) (portSts x.port.toNat) 16 16 1 := by
  simp [State.arrive, harmed, hepoch, hring]

variable (hring : x.pos + x.units ≤ ((s.core c).chn.port x.port.toNat).units)

include hring

theorem State.arrive_of_message (hpad : x.pad = false) :
    s.arrive c sender src tag x = ((s.updPortOf c x.port.toNat fun y => { y with
      log := y.log ++ [logRecOf x sender src tag] }).landBytes c x.port.toNat x).vxPump c := by
  simp [State.arrive, harmed, hepoch, Nat.not_lt.2 hring, hpad]

theorem State.arrive_of_pad (hpad : x.pad = true) :
    s.arrive c sender src tag x = ((s.updPortOf c x.port.toNat fun y => { y with
      log := y.log ++ [logRecOf x sender src tag] }).ackBack c (logRecOf x sender src tag) false).releasePads c x.port.toNat := by
  simp [State.arrive, harmed, hepoch, Nat.not_lt.2 hring, hpad]

end Arrive

/-! ### The item at the head of a link (R14, R333, R336, R341) -/

section FromLink

variable {s t : State} {c d : CoreId}

theorem execMsgArrival_of_link {x : Msg} (htake : s.linkTake d c = some (.msg x, t)) (hup : s.chnUp c = true)
    (hfree : s.chnHeld c = false) (hland : s.landingHeld c x = false) :
    exec (.msgArrival c (.link d)) s = .next (t.arrive c (some d) (s.srcWord d) 0 x) := by
  show execMsgArrival c (.link d) s = _
  simp [execMsgArrival, htake, hup, hfree, hland]

theorem State.cutLanding_of_landing {p : Nat} {mine : LogRec → Bool} (h : ((s.core c).chn.port p).log.any mine = true) :
    s.cutLanding c p mine = (s.updPortOf c p fun q => { q with log := q.log.filter fun r => !mine r }).satRf (pgChn c)
      (portSts p) 32 16 1 := if_pos h

theorem execMsgCut_of_link {ch : BitVec 6} {port : BitVec 3} (htake : s.linkTake d c = some (.cut ch port, t)) :
    exec (.msgCut c d) s =
      .next (t.cutLanding c port.toNat fun r => r.sender == some d && r.ch == ch && !r.whole) := by
  show execMsgCut c d s = _
  simp only [execMsgCut, htake]

theorem execCack_of_link {ch : BitVec 6} {number : Byte} {stale : Bool} {bind : Nat}
    (htake : s.linkTake d c = some (.ack ch number stale bind, t)) (hup : s.chnUp c = true)
    (hbind : ((s.core c).chn.bind ch.toNat).number = bind) :
    exec (.cack c (.link d)) s = .next (t.acked c ch.toNat number stale) := by
  show execCack c (.link d) s = _
  simp [execCack, htake, hup, hbind]

theorem execCreditReturn_of_link {ch : BitVec 6} {bind units : Nat} (htake : s.linkTake d c = some (.credit ch bind units, t))
    (hup : s.chnUp c = true) : exec (.creditReturn c (.link d)) s = .next ((t.credited c ch.toNat bind units).vxPump c) := by
  show execCreditReturn c (.link d) s = _
  simp [execCreditReturn, htake, hup]

end FromLink

/-! ### Packets of the mesh (R426, R427) -/

section FromMesh

variable {s t : State} {c : CoreId}

theorem State.core_of_takePacket {f : Packet → Bool} {x : Option PortId × Packet} (h : s.takePacket f = some (x, t))
    (d : CoreId) : t.core d = s.core d := by
  obtain ⟨r, -, heq⟩ := Option.map_eq_some_iff.1 h
  cases heq
  rfl

theorem State.core_of_takeMesh {src : BitVec 32} {x : Msg} {tag : BitVec 11} (h : s.takeMesh c src x = some (tag, t))
    (d : CoreId) : t.core d = s.core d := by
  unfold State.takeMesh at h
  split at h
  case h_1 => cases h
  case h_2 u hu =>
    dsimp only at h
    split at h
    · cases h
      exact State.core_of_takePacket hu d
    · cases h

theorem execMsgArrival_of_mesh {src : BitVec 32} {x : Msg} {tag : BitVec 11} (htake : s.takeMesh c src x = some (tag, t))
    (hup : s.chnUp c = true) (hfree : s.chnHeld c = false) (hland : s.landingHeld c x = false)
    (hnext : (s.core c).chn.expected src x.ch x.number = true) (hwhole : msgCut x = false) :
    exec (.msgArrival c (.mesh src x)) s = .next ((t.updChn c fun k => { k with
      expect := (src, x.ch, x.number + 1) :: k.expect.filter fun y => !(y.1 == src && y.2.1 == x.ch) }).arrive c none src tag x) := by
  rw [← State.core_of_takeMesh htake c] at hnext
  show execMsgArrival c (.mesh src x) s = _
  simp [execMsgArrival, htake, hup, hfree, hland, hnext, hwhole]

theorem execCack_of_mesh {ch : BitVec 6} {number : Byte} {stale : Bool}
    (htake : s.takeCack c (ch.toNat + 2 ^ 8 * number.toNat + 2 ^ 16 * bit stale) = some t) (hup : s.chnUp c = true) :
    exec (.cack c (.mesh ch number stale)) s = .next (t.acked c ch.toNat number stale) := by
  show execCack c (.mesh ch number stale) s = _
  simp only [execCack, htake, hup, if_true]

/-- A credit return carries its binding modulo 2^16 (log entry 62), so one that differs there from the present
binding is for an earlier one, and its credits are discarded. -/
theorem execCreditReturn_of_mesh {ch : BitVec 6} {bind units : Nat} {k : Option PortId × Packet}
    (htake : (s.takePacket fun k => k.type == 6 && k.island == c.val && k.byte 24 == ch.setWidth 8 && k.byte 26 == 2
      && (k.byte 27).toNat == units && k.spec.toNat / 2 ^ 32 == bind) = some (k, t)) (hup : s.chnUp c = true) :
    let now := ((s.core c).chn.bind ch.toNat).number
    exec (.creditReturn c (.mesh ch bind units)) s =
      .next ((t.credited c ch.toNat (if now % 2 ^ 16 = bind then now else now + 1) units).vxPump c) := by
  intro now
  show execCreditReturn c (.mesh ch bind units) s = _
  simp only [execCreditReturn, htake, hup, if_true, State.core_of_takePacket htake, now]

end FromMesh

/-! ### LANDING_DONE (R336, R337) -/

section Landing

/-- The log of a port after the landing of record `r` has ended. -/
def landedLog (r : LogRec) (l : List LogRec) : List LogRec :=
  (l.map fun x => if x = r then { x with landing := false } else x).filter fun x => !x.rel || x.landing

theorem not_mem_landedLog {r : LogRec} (hland : r.landing = true) (l : List LogRec) : r ∉ landedLog r l := by
  intro hmem
  obtain ⟨x, -, hx⟩ := List.mem_map.1 (List.mem_of_mem_filter hmem)
  by_cases h : x = r
  · rw [if_pos h] at hx
    simp [← hx] at hland
  · exact h (by rwa [if_neg h] at hx)

/-- The landing ends: in the log, in the flag that the port's record names, in VALID of the tiles it encloses, in the counters. -/
def State.landed (s : State) (c : CoreId) (p : LandId) (r : LogRec) : State :=
  let q := (s.core c).chn.port p.val
  let ts := tilesWithin (s.core c).trf (q.span p.val r).1 (q.span p.val r).2
  let s1 := s.updPortOf c p.val fun q => { q with log := landedLog r q.log }
  let s2 := if q.record.getLsbD 23 then s1.updSeq c fun k => { k with lf := setBit k.lf (fld q.record 19 4) true } else s1
  let s3 := if trfPort p.val then
      s2.updTrf c fun k => ts.foldl (fun k t => { k.setValid t true with poison := vset k.poison t 0 }) k
    else s2
  ((s3.bumpRf (pgChn c) (cnt0 r.rch) 32 32 1).pm (pgChn c) 0x02 1).pm (pgChn c) 0x05 r.units

variable {s : State} {c : CoreId} {p : LandId} {r : LogRec}

theorem execLandingDone_of_first {pre post : List LogRec} (hlog : ((s.core c).chn.port p.val).log = pre ++ r :: post)
    (hpre : ∀ x ∈ pre, (x.landing && x.whole) = false) (hland : r.landing = true) (hwhole : r.whole = true)
    (hup : s.chnUp c = true) (hfree : s.chnHeld c = false) :
    exec (.landingDone c p) s = .next ((s.landed c p r).ackBack c r false) := by
  have hfirst : ((s.core c).chn.port p.val).log.find? (fun r => r.landing && r.whole) = some r := by
    rw [hlog, List.find?_append, List.find?_eq_none.2 fun x hx => by simp [hpre x hx],
      List.find?_cons_of_pos (by simp [hland, hwhole]), Option.none_or]
  show execLandingDone c p s = _
  simp only [execLandingDone, hfirst, hup, hfree, Bool.not_true, Bool.or_self, Bool.false_eq_true, if_false]
  rfl

theorem State.landed_mem : (s.landed c p r).mem = s.mem := by
  unfold State.landed
  dsimp only
  (repeat' split) <;> simp

theorem State.landed_links : (s.landed c p r).links = s.links := by
  unfold State.landed
  dsimp only
  (repeat' split) <;> simp [State.updPortOf]

/-- A change of a control core that keeps its power state. -/
theorem State.reachable_updSeq (s : State) (c d : CoreId) {f : Seq → Seq} (hst : ∀ q, (f q).st = q.st) :
    (s.updSeq c f).reachable d = s.reachable d := by
  refine State.reachable_congr rfl rfl ?_
  by_cases h : d = c
  · subst h; simp [hst]
  · rw [State.core_updSeq_other s h]

theorem State.reachable_landed (d : CoreId) : (s.landed c p r).reachable d = s.reachable d := by
  unfold State.landed
  dsimp only
  (repeat' split) <;> simp [State.updPortOf, State.reachable_updSeq]

theorem State.landed_log : (((s.landed c p r).core c).chn.port p.val).log = landedLog r ((s.core c).chn.port p.val).log := by
  unfold State.landed
  dsimp only
  (repeat' split) <;> simp

theorem State.landed_lf (hflag : ((s.core c).chn.port p.val).record.getLsbD 23 = true) :
    ((s.landed c p r).core c).seq.lf.getLsbD (fld ((s.core c).chn.port p.val).record 19 4) = true := by
  have hbit := fun v : BitVec 16 =>
    getLsbD_setBit_same v (fld ((s.core c).chn.port p.val).record 19 4) true (BitVec.isLt _)
  unfold State.landed
  dsimp only
  rw [if_pos hflag]
  split <;> simp [hbit]

/-! ### An acknowledgement leaves the cores alone (R336) -/

theorem State.core_linkPut (s : State) (c d e : CoreId) (m : LinkMsg) : (s.linkPut c d m).core e = s.core e := by
  unfold State.linkPut
  split <;> rfl

/-- An answer over the mesh is sent, or counted at a port. -/
theorem State.core_meshPut_answer (s : State) (c : CoreId) (ch : Nat) (k : Packet) (d : CoreId) :
    (s.meshPut c false ch k).core d = s.core d := by
  unfold State.meshPut
  split
  · next t ht => exact (State.sendMesh_sendsOnly ht).core d
  · rfl

theorem State.core_ackBack (s : State) (c : CoreId) (r : LogRec) (stale : Bool) (d : CoreId) :
    (s.ackBack c r stale).core d = s.core d := by
  unfold State.ackBack
  split
  · exact s.core_linkPut _ _ _ _
  · exact s.core_meshPut_answer _ _ _ _

theorem State.ackBack_of_reachable {e : CoreId} (stale : Bool) (hsender : r.sender = some e) (hreach : s.reachable e = true) :
    (s.ackBack c r stale).links = s.links ++ [(c, e, .ack r.ch r.number stale r.bind)] := by
  simp [State.ackBack, hsender, State.linkPut_of_reachable _ hreach]

end Landing

/-- Settles O45: an arrival is one of the five outcomes of `State.arrive`, a landing that is done is `State.landed` with its
acknowledgement, and the rest are each command's own equation. The codes of mesh acknowledgements and credits are the model's
choice (log entry 62). -/
theorem messagesLandAndAreAcknowledged : Obligations.MessagesLandAndAreAcknowledged := by
  unfold Obligations.MessagesLandAndAreAcknowledged
  refine ⟨fun s c x sender src tag => ⟨State.arrive_of_unarmed, State.arrive_of_stale, State.arrive_of_small,
      State.arrive_of_message, State.arrive_of_pad⟩,
    fun s c d m t htake hup => ⟨?msg, ?cut, ?ack, ?credit⟩,
    fun s c hup => ⟨fun _ _ _ _ htake hfree hland hnext hwhole => execMsgArrival_of_mesh htake hup hfree hland hnext hwhole,
      fun _ _ _ _ htake => execCack_of_mesh htake hup, fun _ _ _ _ _ htake => execCreditReturn_of_mesh htake hup, ?done⟩⟩
  case msg =>
    rintro x rfl hfree hland
    exact execMsgArrival_of_link htake hup hfree hland
  case cut =>
    rintro ch port rfl hany
    rw [execMsgCut_of_link htake, State.cutLanding_of_landing hany]
  case ack =>
    rintro ch number stale bind rfl hbind
    exact execCack_of_link htake hup hbind
  case credit =>
    rintro ch bind units rfl
    exact execCreditReturn_of_link htake hup
  case done =>
    intro p pre post r hlog hpre hland hwhole hfree
    refine ⟨_, execLandingDone_of_first hlog hpre hland hwhole hup hfree, ?_, ?_, ?_, ?_⟩
    · exact byteAt_of_mem ((State.ackBack_mem _ _ _ _).trans State.landed_mem)
    · rw [State.core_ackBack]
      exact State.landed_lf
    · rw [State.core_ackBack, State.landed_log]
      exact fun x hx hxr => not_mem_landedLog hland _ (hxr ▸ hx)
    · intro e hsender hreach
      rw [State.ackBack_of_reachable false hsender ((State.reachable_landed e).trans hreach), State.landed_links]

end Sys2Proof.Machine

namespace Sys2Proof.Machine

/-! ### A slot that is changed, and one that is DOOMED (R351, R356) -/

@[simp] theorem State.slot_updSlot (s : State) (i : SlotId) (f : TxSlot → TxSlot) :
    (s.updSlot i f).txu.slots[i] = f s.txu.slots[i] := Vector.getElem_set_self _

@[simp] theorem State.pm_txu (s : State) (page code n : Nat) : (s.pm page code n).txu = s.txu :=
  s.pm_same (·.txu) (fun _ _ _ _ => rfl) page code n

/-- The pending lines of a slot are gone once they are dropped. -/
theorem State.linesOf_dropLines (s : State) (i : SlotId) : (s.dropLines i).txu.linesOf i false = [] := by
  simp [State.dropLines, Txu.linesOf]

/-- The TXU of a transaction that is doomed: its pending lines dropped, its reason and the holder kept; the count of the event
is a register. -/
theorem State.txDoom_txu {s : State} {i : SlotId} (reason holder : Nat) (hopen : s.txu.slots[i].st = .open_) :
    (s.txDoom i reason holder).txu = ((s.dropLines i).updSlot i fun k =>
      { k with st := .doomed, reason := BitVec.ofNat 4 reason, holder := BitVec.ofNat 3 holder, lines := 0 }).txu := by
  rw [State.txDoom, if_pos hopen]
  dsimp only
  split
  · rfl
  · exact State.pm_txu _ _ _ _

/-! ### TXB opens a slot (R352) -/

section Txb

variable {s t : State} {c : CoreId} {e : QEntry}

theorem execTxb_of_free {i : SlotId} (hhead : s.txHead c 12 = some (e, t)) (hheld : t.txu.heldBy c = none)
    (hfree : t.txu.freeSlot = some i) :
    let s1 := t.updSlot i fun k => ⟨.open_, k.gen + 1, c, t.taskId c, 0, 0, 0, 0, .none, none, false⟩
    exec (.txb c) s = .next ((({ s1 with txu := { s1.txu with mode := s1.txu.mode.set c true } }).pm 3 0x01 1).done c e) := by
  show execTxb c s = _
  simp only [execTxb, hhead, hheld, hfree]

theorem execTxbSlotTmo_of_full (hhead : s.txHead c 12 = some (e, t)) (hheld : s.txu.heldBy c = none)
    (hfull : s.txu.freeSlot = none) :
    exec (.txbSlotTmo c) s = .next (((s.txErr 3 1 0 c 0).txErr 8 1 0 c 0).cause c 0x0F) := by
  show execTxbSlotTmo c s = _
  simp [execTxbSlotTmo, hhead, hheld, hfull]

end Txb

/-! ### TXC and TXA end a transaction (R358 to R362) -/

section Ends

variable {s t u : State} {c : CoreId} {e : QEntry} {o : Nat} {i : SlotId}

section Txc

variable (hhead : s.txHead c 13 = some (e, t)) (hoff : t.statusOff c e = some o)
include hhead hoff

theorem execTxc_of_none (hheld : t.txu.heldBy c = none) :
    exec (.txc c) s = .next ((t.txLeave c).txStatus c e 0 0 0 0 0) := by
  show execTxc c s = _
  simp only [execTxc, hhead, hoff, hheld]

theorem execTxc_of_doomed (hheld : t.txu.heldBy c = some i) (hst : t.txu.slots[i].st = .doomed) :
    exec (.txc c) s = .next (t.txEnd c i e t.txu.slots[i].reason.toNat (txScope e)) := by
  show execTxc c s = _
  simp only [execTxc, hhead, hoff, hheld, hst, if_true]

/-- An OPEN transaction whose commit word has its place, or that needs none, commits its lines, and goes on by its scope. -/
theorem execTxc_of_open (hheld : t.txu.heldBy c = some i) (hst : t.txu.slots[i].st = .open_)
    (haddr : txScope e = 2 ∨ t.commitAddrOk i e = true) (hlines : t.commitLines c i (t.txu.linesOf i false) = some u) :
    exec (.txc c) s =
      let v := (u.bumpRf 3 0x118 0 32 1).pm 3 0x02 1
      if txScope e = 2 then
        let w := ((v.txLeave c).txLog i 1 2).updSlot i fun k => { k with st := .committing }
        .next ((w.txStatus c e 1 (w.txu.handle i) (w.txu.slots[i]).lines 0 0).txFinish i)
      else .next (v.updSlot i fun k => { k with st := .committing, dur := .lines (BitVec.ofNat 3 (txScope e)), tail := some e }) := by
  show execTxc c s = _
  have hok : ¬ (decide (txScope e ≠ 2) && !t.commitAddrOk i e) = true := by
    rcases haddr with h | h <;> simp [h]
  simp only [execTxc, hhead, hoff, hheld, hst, reduceCtorEq, if_false, if_neg hok, hlines]

end Txc

theorem execTxa_of_open (hhead : s.txHead c 14 = some (e, t)) (hoff : t.statusOff c e = some o)
    (hheld : t.txu.heldBy c = some i) (hst : t.txu.slots[i].st = .open_) :
    exec (.txa c) s = .next (t.txEnd c i e 5 0) := by
  show execTxa c s = _
  simp only [execTxa, hhead, hoff, hheld, hst, reduceCtorEq, if_false]

end Ends

/-! ### TX_STORE merges a row (R353, R354, R356) -/

section Store

variable {s u v : State} {c : CoreId} {row : Byte} {k : Nat} {o : TluOp} {i : SlotId}
  (hrow : (s.core c).storeRow row.toNat = some (k, o)) (htx : o.tx.contains row.toNat = true)
  (hturn : s.rowTurn c k true = true)
  (hevict : s.txEvictCch c o.e.cw.toNat (linesOf (o.e.rowAddr row.toNat) (o.rowBytes row.toNat).length) = some u)
  (hheld : u.txu.heldBy c = some i)
include hrow htx hturn hevict hheld

theorem execTxStore_of_merged
    (hmerge : u.txMergeRow c i (cellsAt (o.e.rowAddr row.toNat) (o.rowBytes row.toNat))
      (linesOf (o.e.rowAddr row.toNat) (o.rowBytes row.toNat).length) = .ok v) :
    exec (.txStore c row) s = .next (v.rowAccepted c o row.toNat) := by
  show execTxStore c row s = _
  simp only [execTxStore, hrow, htx, hturn, Bool.not_true, Bool.or_self, Bool.false_eq_true, if_false, hevict, hheld, hmerge]

theorem execTxStore_of_limit {kind line : Nat}
    (hmerge : u.txMergeRow c i (cellsAt (o.e.rowAddr row.toNat) (o.rowBytes row.toNat))
      (linesOf (o.e.rowAddr row.toNat) (o.rowBytes row.toNat).length) = .limit kind line v) :
    exec (.txStore c row) s = .next ((((v.txErr 8 kind (v.txu.handle i) c (v.ownSys (128 * line))).txDiscard c).dropRow c o
      row.toNat).cause c 0x0F) := by
  show execTxStore c row s = _
  simp only [execTxStore, hrow, htx, hturn, Bool.not_true, Bool.or_self, Bool.false_eq_true, if_false, hevict, hheld, hmerge]

end Store

/-! ### What dooms an OPEN transaction (R356, R357, R376) -/

/-- A line that is pending for another transaction dooms the one that would write it. -/
theorem State.txMerge_of_other {s : State} {c : CoreId} {i : SlotId} {line : Nat} {l : TxLine} (cs : List (Nat × Byte))
    (hopen : s.txu.slots[i].st = .open_) (hpend : s.txPending line = some l) (hother : l.slot ≠ i) :
    s.txMerge c i line cs = .ok (s.txDoom i 2 s.txu.slots[l.slot].core.val) := by
  simp only [State.txMerge, hopen, ne_eq, not_true_eq_false, if_false, hpend, if_neg hother]

theorem execTxOverwrite_of_pending {s : State} {line : BitVec 41} {l : TxLine} (hpend : s.txPending line.toNat = some l) :
    exec (.txOverwrite line) s = .next (s.txDoom l.slot 3) := by
  show execTxOverwrite line s = _
  simp only [execTxOverwrite, State.txOverwritten, hpend]

theorem execTxAged_of_aged {s : State} {i : SlotId} (hmem : s.memHalted = false) (haged : s.txAged i = true) :
    exec (.txAged i) s = .next (s.txDoom i 4) := by
  show execTxAged i s = _
  simp [execTxAged, hmem, haged]

/-- The register write comes first; it leaves the slots as they are. -/
theorem execTxCmdAbort_of_match {s : State} {h : BitVec 12}
    (hgen : s.txu.slots[(Fin.ofNat 64 h.toNat : SlotId)].gen = h.extractLsb' 6 6) :
    exec (.txCmdAbort h) s = .next ((s.setReg 3 0x108 (h.setWidth 64)).txDoom (Fin.ofNat 64 h.toNat) 6) := if_pos hgen

/-- Settles O46: each command's own equation for the case that its clause names, and what `State.txDoom` makes of a slot. -/
theorem transactionsOpenStoreAndEnd : Obligations.TransactionsOpenStoreAndEnd := by
  unfold Obligations.TransactionsOpenStoreAndEnd
  refine ⟨fun s c e t => ⟨?open_, ?full, ?txc, ?txa, ?store⟩, ?conflict, ?doomed, ?overwrite, ?aged, ?abort⟩
  case open_ => exact fun i => execTxb_of_free
  case full => exact execTxbSlotTmo_of_full
  case txc =>
    intro o hhead hoff
    refine ⟨execTxc_of_none hhead hoff, fun i => execTxc_of_doomed hhead hoff, ?_, ?_⟩
    · intro i u hheld hst hscope hlines
      exact (execTxc_of_open hhead hoff hheld hst (.inl hscope) hlines).trans (if_pos hscope)
    · intro i u hheld hst hscope haddr hlines
      exact (execTxc_of_open hhead hoff hheld hst (.inr haddr) hlines).trans (if_neg hscope)
  case txa => exact fun o i => execTxa_of_open
  case store =>
    intro row k o i u hrow n bs loc htx hturn hevict hheld
    exact ⟨fun v => execTxStore_of_merged hrow htx hturn hevict hheld,
      fun kind line v => execTxStore_of_limit hrow htx hturn hevict hheld⟩
  case conflict => exact fun s c i line cs l hopen hpend hother => State.txMerge_of_other cs hopen hpend hother
  case doomed =>
    intro s i reason holder hopen
    rw [State.txDoom_txu reason holder hopen, State.slot_updSlot]
    exact ⟨rfl, rfl, rfl, s.linesOf_dropLines i⟩
  case overwrite => exact fun s line l => execTxOverwrite_of_pending
  case aged => exact fun s i => execTxAged_of_aged
  case abort => exact fun s h => execTxCmdAbort_of_match

end Sys2Proof.Machine

namespace Sys2Proof.Machine

/-! ### What leaves the evict engine as it is

An eviction's flush writes the caches back, and a command of the engine ends with a notification: both send packets and record
errors on other pages. None of that touches the engine's own state, `State.evx`. -/

@[simp] theorem State.drawChoice_evx (s : State) (n : Nat) : (s.drawChoice n).2.evx = s.evx := rfl

@[simp] theorem State.freeUser_evx (s : State) (user : TagUser) : (s.freeUser user).evx = s.evx := rfl

@[simp] theorem State.pm_evx (s : State) (page code n : Nat) : (s.pm page code n).evx = s.evx :=
  s.pm_same (·.evx) (fun _ _ _ _ => rfl) page code n

/-! #### Packets and notifications (R428 to R435, R491, R506) -/

@[simp] theorem State.pump_evx (s : State) (p : PortId) (n : Nat) : (s.pump p n).evx = s.evx := by
  have hone (t : State) : (t.sendOne p).evx = t.evx := by
    unfold State.sendOne
    split
    · rfl
    · split
      · rfl
      · simp
  induction n generalizing s with
  | zero => rfl
  | succ n ih => exact (ih _).trans (hone s)

theorem State.sendMesh_evx {s t : State} {k : Packet} (h : s.sendMesh k = some t) : t.evx = s.evx := by
  unfold State.sendMesh at h
  split at h
  · cases h
  · cases h
    split <;> rfl
  · cases h
    refine (State.pump_evx _ _ _).trans ?_
    dsimp only
    split <;> simp

theorem State.sendSys_evx {s t : State} {sys : Nat} {k : Packet} (h : s.sendSys sys k = some t) : t.evx = s.evx := by
  unfold State.sendSys at h
  split at h
  · cases h
  · exact State.sendMesh_evx h

theorem State.evtPacketOr_evx (s : State) (code : Nat) (detail : Dword) {d : State} (hd : d.evx = s.evx) :
    ((s.evtPacket code detail).getD d).evx = s.evx := by
  cases h : s.evtPacket code detail with
  | none => exact hd
  | some t =>
    obtain ⟨u, hu, rfl⟩ := Option.map_eq_some_iff.mp h
    exact (State.sendSys_evx hu :)

@[simp] theorem State.evtOnce_evx (s : State) (code : Nat) (detail : Dword) : (s.evtOnce code detail).evx = s.evx := by
  unfold State.evtOnce
  split
  · dsimp only
    split
    · exact State.evtPacketOr_evx _ _ _ rfl
    · rfl
  · rfl

@[simp] theorem State.evtLost_evx (s : State) : s.evtLost.evx = s.evx := by
  unfold State.evtLost
  dsimp only
  split
  · rfl
  · refine (State.evtOnce_evx _ _ _).trans ?_
    split <;> rfl

/-- Notifying host software leaves the evict engine as it is. -/
@[simp] theorem State.evt_evx (s : State) (code : Nat) (detail : Dword) : (s.evt code detail).evx = s.evx := by
  unfold State.evt
  split
  · split
    · exact State.evtPacketOr_evx _ _ _ (State.evtLost_evx _)
    · exact s.evtLost_evx
  · exact s.evtOnce_evx code detail

@[simp] theorem State.err_evx (s : State) (page b : Nat) (info0 info1 : Dword) : (s.err page b info0 info1).evx = s.evx := by
  unfold State.err
  dsimp only
  split
  · rfl
  · refine (State.evt_evx _ _ _).trans ?_
    split <;> rfl

@[simp] theorem State.sendRequest_evx (s : State) (sys : Nat) (k : Packet) : (s.sendRequest sys k).evx = s.evx := by
  unfold State.sendRequest
  split
  · next t ht => exact State.sendSys_evx ht
  · exact (State.err_evx _ _ _ _ _)

/-! #### Protected storage (R452 to R455) -/

@[simp] theorem State.readWord_evx (s : State) (src g i : Nat) : (s.readWord src g i).s.evx = s.evx := by
  have hce (fix : BitVec 80) : (s.reportCe g i src fix).evx = s.evx := by
    unfold State.reportCe
    split
    · rfl
    · exact State.err_evx _ _ _ _ _
  unfold State.readWord
  split
  · rfl
  · dsimp only
    split
    · rfl
    · exact hce _
    · rfl

@[simp] theorem State.encodeWord_evx (s : State) (g i : Nat) : (s.encodeWord g i).evx = s.evx := by
  have hset (m : BitVec 80) : (s.setUpset g i m).evx = s.evx := by
    unfold State.setUpset
    split <;> rfl
  unfold State.encodeWord
  split <;> exact hset _

@[simp] theorem State.writeWord_evx (s : State) (src g i : Nat) (full : Bool) : (s.writeWord src g i full).s.evx = s.evx := by
  have hclear : (s.clearPoison g i).evx = s.evx := by
    unfold State.clearPoison
    split <;> rfl
  unfold State.writeWord
  split
  · exact (State.encodeWord_evx _ _ _).trans hclear
  · dsimp only
    split
    · exact s.readWord_evx src g i
    · exact (State.encodeWord_evx _ _ _).trans (s.readWord_evx src g i)

@[simp] theorem State.storeWords_evx (s : State) (src : Nat) (ws : List (Nat × List (Nat × Byte))) :
    (s.storeWords src ws).s.evx = s.evx := by
  induction ws generalizing s with
  | nil => rfl
  | cons w ws ih =>
    unfold State.storeWords
    dsimp only
    split <;> exact (ih _).trans (State.writeWord_evx _ _ _ _ _)

@[simp] theorem State.lineWords_evx (s : State) (src : Nat) (place : Nat → Nat × Nat) (data : Tab Byte) (need : Nat → Bool) :
    (s.lineWords src place data need).s.evx = s.evx := by
  refine foldl_same (fun g : LineRead => g.s.evx) _ (fun g i => ?_) _ _
  split
  · exact State.readWord_evx _ _ _ _
  · rfl

/-! #### Request tags and writes to external memory (R283, R300, R356) -/

theorem State.allocTag_evx {s t : State} {r : Nat} {user : TagUser} {addr sent : Nat} {tag : BitVec 11}
    (h : s.allocTag r user addr sent = some (tag, t)) : t.evx = s.evx := by
  have hhwm (u : State) (page off lo n : Nat) : (u.hwm page off lo n).evx = u.evx := by
    unfold State.hwm
    split <;> rfl
  unfold State.allocTag at h
  dsimp only at h
  split at h
  · cases h
  · obtain ⟨-, rfl⟩ := Prod.mk.inj (Option.some.inj h)
    rw [State.pm_evx, hhwm, hhwm, State.drawChoice_evx]

theorem State.rqtPass_evx {s t : State} {r addr : Nat} (h : s.rqtPass r addr = some t) : t.evx = s.evx := by
  obtain ⟨⟨tag, u⟩, hu, rfl⟩ := Option.map_eq_some_iff.mp h
  exact (State.allocTag_evx hu :)

theorem State.launch_evx {s t : State} {r : Nat} {user : TagUser} {dev loc : Nat} {pkts : BitVec 11 → List (Nat × Packet)}
    (h : s.launch r user dev loc pkts = some t) : t.evx = s.evx := by
  unfold State.launch at h
  split at h
  · cases h
  · split at h
    · cases h
    · next tag u hu =>
      cases h
      exact (foldl_same State.evx _ (fun t p => t.sendRequest_evx _ _) _ _).trans (State.allocTag_evx hu)

@[simp] theorem State.txDoom_evx (s : State) (i : SlotId) (reason holder : Nat) : (s.txDoom i reason holder).evx = s.evx := by
  unfold State.txDoom
  split
  · dsimp only
    split
    · rfl
    · exact State.pm_evx _ _ _ _
  · rfl

@[simp] theorem State.cscWrite_evx (s : State) (src line : Nat) (cs : List (Nat × Byte)) : (s.cscWrite src line cs).evx = s.evx := by
  have hover : (s.txOverwritten line).evx = s.evx := by
    unfold State.txOverwritten
    split
    · exact State.txDoom_evx _ _ _ _
    · rfl
  have hwords (ws : List Nat) (full : Nat → Bool) (t : State) : (ws.foldl (fun (t : State) w =>
      (t.writeWord src (cscWord line w).1 (cscWord line w).2 (full w)).s) t).evx = t.evx :=
    foldl_same State.evx _ (fun t w => t.writeWord_evx _ _ _ _) _ _
  unfold State.cscWrite
  dsimp only
  (repeat' split) <;> simp [hwords, hover]

theorem State.launchWrite_evx {s t : State} {r unit : Nat} {user : TagUser} {dev : Nat} {cs : List (Nat × Byte)}
    (h : s.launchWrite r unit user dev cs = some t) : t.evx = s.evx := by
  unfold State.launchWrite at h
  dsimp only at h
  split at h
  · exact State.launch_evx h
  · obtain ⟨u, hu, rfl⟩ := Option.map_eq_some_iff.mp h
    exact (foldl_same State.evx _ (fun t l => t.cscWrite_evx _ _ _) _ _).trans (State.launch_evx hu)
  · exact State.launch_evx h
  all_goals cases h; rfl

/-! #### Writing the caches back (R305, R311, R367) -/

theorem State.writeBack_evx (s : State) (c : CoreId) (l : CchLine) (cw op : Nat) : (s.writeBack c l cw op).s.evx = s.evx := by
  have hload : (s.cchLoad c l fun _ => true).s.evx = s.evx := s.lineWords_evx _ _ _ _
  have hread : ((s.cchLoad c l fun _ => true).s.pm (pgCch c) 0x03 1).evx = s.evx := (State.pm_evx _ _ _ _).trans hload
  unfold State.writeBack
  dsimp only
  split
  · exact hload
  · split
    · rfl
    · split
      · split
        · rfl
        · next t ht =>
          have hpass : t.evx = s.evx := (State.rqtPass_evx ht).trans hread
          split
          · exact hpass
          · exact (State.storeWords_evx _ _ _).trans hpass
      · split
        · exact hread
        · split
          · next t ht => exact (State.launchWrite_evx ht).trans hread
          · rfl

/-- A write-back of a host command (`op` 0) that fails is recorded on the CCH page and aborts nothing. -/
theorem State.writeBackFails_host_evx (s : State) (c : CoreId) (w : WroteBack) (cw line : Nat) :
    (s.writeBackFails c w cw 0 line).evx = s.evx := by
  have hfail (b kind cause : Nat) : (s.lineFails c b kind cause cw 0 line).evx = s.evx := State.err_evx _ _ _ _ _
  unfold State.writeBackFails
  (repeat' split) <;> simp [hfail]

/-- A sweep by a host command leaves the evict engine as it is. -/
theorem State.sweep_host_evx {c : CoreId} {inv counted : Bool} {cw : Nat} (ls : List CchLine) {s : State} {r : Swept}
    (h : s.sweep c inv counted cw 0 ls = some r) : r.s.evx = s.evx := by
  have hdrop (t : State) (line : Nat) : (t.cchDrop c line counted).evx = t.evx := by
    unfold State.cchDrop
    dsimp only
    split
    · exact State.pm_evx _ _ _ _
    · rfl
  induction ls generalizing s r with
  | nil => cases h; rfl
  | cons l ls ih =>
    unfold State.sweep at h
    split at h
    · refine (ih h).trans ?_
      split
      · exact hdrop _ _
      · rfl
    · dsimp only at h
      split at h
      · cases h
      · obtain ⟨x, hx, rfl⟩ := Option.map_eq_some_iff.mp h
        refine (ih hx).trans ((State.writeBackFails_host_evx _ _ _ _ _).trans ?_)
        split
        · exact (hdrop _ _).trans (s.writeBack_evx c l cw 0)
        · exact s.writeBack_evx c l cw 0

theorem State.evSweep_evx (cs : List CoreId) {s : State} {x : List (CoreId × Nat) × State} (h : s.evSweep cs = some x) :
    x.2.evx = s.evx := by
  induction cs generalizing s x with
  | nil => cases h; rfl
  | cons c cs ih =>
    unfold State.evSweep at h
    split at h
    · split at h
      · cases h
      · next r hr =>
        obtain ⟨y, hy, rfl⟩ := Option.map_eq_some_iff.mp h
        exact (ih hy).trans (State.sweep_host_evx _ hr)
    · exact ih h

/-- The flush of an eviction records the write-backs it waits for and changes nothing else of the engine. -/
theorem State.evFlush_evx (s : State) : ∃ fl, s.evFlush.evx = { s.evx with flush := fl } := by
  unfold State.evFlush
  dsimp only
  split
  · exact ⟨s.evx.flush, rfl⟩
  · split
    · exact ⟨s.evx.flush, rfl⟩
    · next l t ht => exact ⟨some l, by rw [State.evSweep_evx _ ht]⟩

/-! ### A command of the engine ends (R367, R372, R378) -/

theorem State.evEnd_phase (s : State) (r : Nat) : (s.evEnd r).evx.phase = .idle := by
  unfold State.evEnd
  dsimp only
  split <;> rw [State.evt_evx] <;> rfl

theorem State.evEnd_result (s : State) (r : Nat) : (s.evEnd r).evx.result = BitVec.ofNat 4 r := by
  unfold State.evEnd
  dsimp only
  split <;> rw [State.evt_evx] <;> rfl

end Sys2Proof.Machine

namespace Sys2Proof.Machine

/-! ### Bits of a mask and messages to several cores -/

theorem getLsbD_maskOf {w : Nat} (f : Nat → Bool) {i : Nat} (hi : i < w) : (maskOf w f).getLsbD i = f i := by
  have hfold (n : Nat) : ((List.range n).foldl (fun (m : BitVec w) j => if f j then m ||| (BitVec.ofNat w 1 <<< j) else m)
      0).getLsbD i = (decide (i < n) && f i) := by
    induction n with
    | zero => simp
    | succ n ih =>
      have hbit : (BitVec.ofNat w 1 <<< n).getLsbD i = decide (i = n) := by
        rw [← BitVec.twoPow, BitVec.getLsbD_twoPow]
        grind
      rw [List.range_succ, List.foldl_append, List.foldl_cons, List.foldl_nil]
      split
      · rw [BitVec.getLsbD_or, ih, hbit]
        grind
      · rw [ih]
        grind
  rw [maskOf, hfold, decide_eq_true hi, Bool.true_and]

/-- Once a message is written to the cores of a list, it stands last in the crossing of each of them. -/
theorem State.getLast?_toCore_answers (m : CoreMsg) (l : List CoreId) {s : State} {c : CoreId}
    (h : c ∈ l ∨ s.ccu.toCore[c].getLast? = some m) :
    (l.foldl (fun (t : State) d => t.answer d m) s).ccu.toCore[c].getLast? = some m := by
  induction l generalizing s with
  | nil => exact h.resolve_left List.not_mem_nil
  | cons d l ih =>
    refine ih ?_
    by_cases hcd : c = d
    · exact .inr (hcd ▸ s.getLast?_toCore_answer d m)
    · refine h.imp (fun hmem => (List.mem_cons.1 hmem).resolve_left hcd) fun hlast => ?_
      have hother : (s.answer d m).ccu.toCore[c] = s.ccu.toCore[c] :=
        Vector.getElem_set_ne d.isLt c.isLt (Fin.val_ne_of_ne (Ne.symm hcd))
      rw [hother, hlast]

/-- Writing messages to cores changes nothing but the crossings. -/
theorem State.answers_same {γ : Type} (f : State → γ) (h : ∀ s c m, f (State.answer s c m) = f s) (m : CoreMsg) (l : List CoreId)
    (s : State) : f (l.foldl (fun (t : State) d => t.answer d m) s) = f s :=
  foldl_same f _ (fun t d => h t d m) l s

/-! ### EVICT begins (R367 steps 1 and 2) -/

/-- The evicted classes are cleared in CLASS_EN and EV_CMD holds EVICT. -/
def State.classesOff (s : State) : State :=
  (s.modReg 0 0x198 fun v => v &&& ~~~(BitVec.ofNat 64 s.evClasses)).setReg 4 0x100 1

/-- The engine's state as an eviction begins: STOPPING, and waiting for every core that holds an evicted task. -/
def State.evxStopping (s : State) : Evx :=
  { s.evx with
    phase := .stopping, acked := false, result := 0, aborted := 0, faulted := 0, wait := s.evicted, op := 1, flush := none, out := []
    seqAt := BitVec.ofNat 32 (s.rf 4 0x118 0 32), txd := 0, start := s.ccu.cyc }

/-- An eviction has begun; the cores do not know of it yet. -/
def State.evictBegun (s : State) : State :=
  (({ s.classesOff with evx := s.classesOff.evxStopping } : State).setReg 4 0x300 0).pm 4 0x01 1

@[simp] theorem State.evictBegun_evx (s : State) : s.evictBegun.evx = s.classesOff.evxStopping := State.pm_evx _ _ _ _

@[simp] theorem State.evictBegun_mem (s : State) : s.evictBegun.mem = s.mem := State.pm_mem _ _ _ _

theorem State.core_evictBegun (s : State) (c : CoreId) : s.evictBegun.core c = s.core c := State.core_pm _ _ _ _ _

theorem State.reg_classesOff_classEn (s : State) :
    s.classesOff.reg 0 0x198 = s.reg 0 0x198 &&& ~~~(BitVec.ofNat 64 s.evClasses) := by
  rw [State.classesOff, State.reg_setReg_other _ _ (by decide), State.modReg, State.reg_setReg_same]

theorem State.reg_evictBegun_classEn (s : State) :
    s.evictBegun.reg 0 0x198 = s.reg 0 0x198 &&& ~~~(BitVec.ofNat 64 s.evClasses) := by
  have hpage (off : Nat) (hoff : off < 4096) : regKey 0 0x198 ≠ regKey 4 off := by
    simp only [regKey]; omega
  rw [State.evictBegun, State.reg_pm_other _ _ _ _ fun k hk => hpage _ (by omega),
    State.reg_setReg_other _ _ (hpage 0x300 (by decide)), ← s.reg_classesOff_classEn]
  rfl

theorem execEvict_of_idle {s : State} (halive : s.ccuAlive = true) (hidle : s.evx.phase = .idle) :
    exec .evict s = .next (s.classesOff.evicted.foldl (fun (t : State) c => t.answer c (.cause 0x0B)) s.evictBegun) := by
  show execEvict s = _
  simp only [execEvict, halive, hidle, Bool.not_true, Bool.false_eq_true, ne_eq, not_true_eq_false, false_and, reduceCtorEq,
    if_false]
  rfl

theorem execEvict_of_busy {s : State} (halive : s.ccuAlive = true) (hidle : s.evx.phase ≠ .idle)
    (hrestore : s.evx.phase ≠ .restoring) : exec .evict s = .next (s.errBit 4 2) := by
  show execEvict s = _
  simp [execEvict, halive, hidle, hrestore]

/-! ### EVICT goes on (R367 steps 3 to 8, R370, R371) -/

/-- An eviction is acknowledged: the engine has noted it and told host software, and the flush may begin. -/
def State.evictAcked (s : State) : State :=
  let s1 : State := { s with evx := { s.evx with
    acked := true
    faulted := maskOf 8 fun i => s.evGone (Fin.ofNat 8 i)
    wait := []
    cursor := BitVec.ofNat 32 s.cursor
    skip := (s.reg 0 0x1A0).setWidth 32 } }
  let s2 := s1.setRf 4 0x138 0 32 (s1.ccu.cyc - s1.evx.start).toNat
  let s3 := s2.evt 2 s2.evSts
  { s3 with evx := { s3.evx with phase := .flushing } }

@[simp] theorem State.evictAcked_evx (s : State) : s.evictAcked.evx = { s.evx with
    phase := .flushing, acked := true, faulted := maskOf 8 fun i => s.evGone (Fin.ofNat 8 i), wait := []
    cursor := BitVec.ofNat 32 s.cursor, skip := (s.reg 0 0x1A0).setWidth 32 } := by
  unfold State.evictAcked
  dsimp only
  rw [State.evt_evx]
  rfl

theorem execEvictAck_of_gone {s : State} (halive : s.ccuAlive = true) (hphase : s.evx.phase = .stopping)
    (hgone : ∀ c ∈ s.evx.wait, (s.core c).seq.st = .fault) : exec .evictAck s = .next s.evictAcked.evFlush :=
  if_pos ⟨hphase, halive, List.all_eq_true.2 fun c hc => beq_iff_eq.2 (hgone c hc)⟩

/-- The checkpoint's header, data and records go out. -/
def State.ckptWriting (s : State) : State := { s with evx := { s.evx with phase := .writing } }

/-- All of them are acknowledged; the commit word goes out. -/
def State.ckptCommitting (s : State) : State :=
  { s.freeUser .evx with evx := { s.evx with phase := .committing, out := [] } }

theorem State.evTarget_ckptCommitting (s : State) : s.ckptCommitting.evTarget = (s.freeUser .evx).evTarget := rfl

section FlushDone

variable {s t u : State} {ext : List (Nat × Reply)} (hflush : s.evFlush = t) (hphase : t.evx.phase = .flushing)
  (halive : t.ccuAlive = true) (hmem : t.memDead = false) (hon : t.ccu.power = .on) (hflushed : t.evFlushed = true)
include hflush hphase halive hmem hon hflushed

theorem execEvictFlushDone_of_bad {kind n addr : Nat} (hbad : t.ckptBad = some (kind, n, addr)) :
    exec (.evictFlushDone ext) s = .next (t.evFail 10 kind n addr) := by
  show execEvictFlushDone ext s = _
  simp [execEvictFlushDone, hflush, hphase, halive, hmem, hon, hflushed, hbad]

/-- The header goes out and the records after it. -/
theorem execEvictFlushDone_of_written {v : State} (hbad : t.ckptBad = none)
    (hheader : t.ckptWriting.writeOut 12 .evx t.ckptWriting.evTarget t.ckptWriting.ckptHeader = .done u)
    (hrecords : (u.evCount 128).writeRecords ext 128 t.ckptWriting.regionsOn = some v) :
    exec (.evictFlushDone ext) s = .next v := by
  show execEvictFlushDone ext s = _
  unfold State.ckptWriting at hheader hrecords
  simp [execEvictFlushDone, hflush, hphase, halive, hmem, hon, hflushed, hbad, hheader, hrecords]

end FlushDone

theorem execCkptWritesAcked_of_done {s t : State} (bs : List Byte) (halive : s.ccuAlive = true) (hphase : s.evx.phase = .writing)
    (hmem : s.memDead = false)
    (hword : s.ckptCommitting.writeOut 12 .evx (120 + s.ckptCommitting.evTarget) (huskBytes [s.evx.seqAt.toNat]) = .done t) :
    exec (.ckptWritesAcked (.data bs)) s = .next t := by
  have hgo : ¬ (s.evx.phase ≠ .writing ∨ s.ccuAlive = false ∨ s.memDead = true) := by simp [hphase, halive, hmem]
  show execCkptWritesAcked (.data bs) s = _
  rw [State.evTarget_ckptCommitting, State.ckptCommitting] at hword
  simp only [execCkptWritesAcked, if_neg hgo, State.freeUser_evx, hword]

theorem execCkptCommitAck_of_data {s : State} (bs : List Byte) (halive : s.ccuAlive = true) (hphase : s.evx.phase = .committing)
    (hmem : s.memDead = false) :
    exec (.ckptCommitAck (.data bs)) s = .next (((s.freeUser .evx).bumpRf 4 0x118 0 32 1).evEnd 1) :=
  if_neg (by simp [hphase, halive, hmem])

/-- Whichever write it is, the command ends as FAILED. -/
theorem State.evWriteFails_ends (s : State) (b kind : Nat) :
    (s.evWriteFails b kind).evx.phase = .idle ∧ (s.evWriteFails b kind).evx.result = 2 := by
  unfold State.evWriteFails State.evFail
  dsimp only
  split <;> exact ⟨State.evEnd_phase _ _, State.evEnd_result _ _⟩

theorem execEvxTmoExpiry_of_writing {s : State} (halive : s.ccuAlive = true)
    (hphase : s.evx.phase = .writing ∨ s.evx.phase = .committing) : exec .evxTmoExpiry s = .next (s.evWriteFails 3 6) :=
  if_pos ⟨hphase, halive⟩

/-- Settles O48: each step's own equation; the fields of the engine after EVICT and after EVICT_ACK are those of
`State.evxStopping` and `State.evictAcked`, since neither the notifications nor the flush's write-backs touch them. -/
theorem evictionRunsToItsCheckpoint : Obligations.EvictionRunsToItsCheckpoint := by
  unfold Obligations.EvictionRunsToItsCheckpoint
  intro s halive
  refine ⟨?evict, ?busy, ?ack, ?flushed, ?records, ?written, ?committed, ?ends, ?expiry⟩
  case evict =>
    intro hidle s1
    have hsame {γ : Type} (f : State → γ) (h : ∀ s c m, f (State.answer s c m) = f s) :=
      State.answers_same f h (.cause 0x0B) s1.evicted s.evictBegun
    have hevx := (hsame State.evx fun _ _ _ => rfl).trans s.evictBegun_evx
    refine ⟨_, execEvict_of_idle halive hidle, ?_, ?_, ?_, ?_, ?_, ?_, ?_, ?_⟩
    · exact congrArg Evx.phase hevx
    · exact congrArg Evx.wait hevx
    · exact congrArg Evx.acked hevx
    · exact congrArg Evx.seqAt hevx
    · exact (hsame (State.reg · 0 0x198) fun _ _ _ => rfl).trans s.reg_evictBegun_classEn
    · exact fun c hc => State.getLast?_toCore_answers _ _ (.inl hc)
    · exact fun c => (hsame (State.core · c) fun _ _ _ => rfl).trans (s.core_evictBegun c)
    · exact byteAt_of_mem ((hsame State.mem fun _ _ _ => rfl).trans s.evictBegun_mem)
  case busy => exact execEvict_of_busy halive
  case ack =>
    intro hphase hgone
    obtain ⟨fl, hevx⟩ := s.evictAcked.evFlush_evx
    rw [State.evictAcked_evx] at hevx
    refine ⟨_, execEvictAck_of_gone halive hphase hgone, ?_, ?_, ?_, ?_, fun i => ?_⟩ <;> rw [hevx]
    rw [getLsbD_maskOf _ i.isLt, Fin.ofNat_val_eq_self]
    rfl
  case flushed =>
    intro ext t hphase halive hmem hon hflushed
    exact ⟨fun kind n addr => execEvictFlushDone_of_bad rfl hphase halive hmem hon hflushed,
      fun hbad u v => execEvictFlushDone_of_written rfl hphase halive hmem hon hflushed hbad⟩
  case records => exact fun ext u pos => rfl
  case written => exact fun bs t hphase hmem => execCkptWritesAcked_of_done bs halive hphase hmem
  case committed => exact fun bs hphase hmem => execCkptCommitAck_of_data bs halive hphase hmem
  case ends => exact fun u r hr => ⟨u.evEnd_phase r, u.evEnd_result r⟩
  case expiry => exact fun hphase => ⟨_, execEvxTmoExpiry_of_writing halive hphase, s.evWriteFails_ends 3 6⟩

end Sys2Proof.Machine

namespace Sys2Proof.Machine

/-! ### RESTORE begins (R372 step 1) -/

/-- The engine is RESTORING and has not yet asked whether TRAIN runs. -/
def State.restoreEntered (s : State) : State :=
  ({ s.setReg 4 0x100 2 with evx := { s.evx with
    phase := .restoring, result := 0, op := 3, start := s.ccu.cyc, out := [] } } : State).setReg 4 0x300 0

theorem State.classEn_restoreEntered (s : State) : s.restoreEntered.rf 0 0x198 1 1 = s.rf 0 0x198 1 1 := by
  have hreg : s.restoreEntered.reg 0 0x198 = s.reg 0 0x198 :=
    (State.reg_setReg_other _ _ (by decide : regKey 0 0x198 ≠ regKey 4 0x300)).trans
      (s.reg_setReg_other 2 (by decide : regKey 0 0x198 ≠ regKey 4 0x100))
  rw [State.rf, State.rf, hreg]

theorem State.restoreBegin_of_train {s : State} (h : s.trainRuns = true ∨ s.rf 0 0x198 1 1 = 1) :
    s.restoreBegin = s.restoreEntered.evEnd 6 := by
  have htrain : (s.trainRuns || s.rf 0 0x198 1 1 == 1) = true := by simpa using h
  rw [← s.classEn_restoreEntered] at htrain
  exact if_pos htrain

theorem State.restoreBegin_of_free {s : State} (hruns : s.trainRuns = false) (hclass : s.rf 0 0x198 1 1 = 0) :
    s.restoreBegin = s.restoreEntered.pm 4 0x02 1 := by
  have htrain : ¬ (s.trainRuns || s.rf 0 0x198 1 1 == 1) = true := by simp [hruns, hclass]
  rw [← s.classEn_restoreEntered] at htrain
  exact if_neg htrain

section Restore

variable {s : State} {image : Reply} (halive : s.ccuAlive = true) (hmem : s.memDead = false)
include halive hmem

/-- A RESTORE that is accepted begins, and reads the checkpoint unless it has ended as REFUSED. -/
theorem execRestore_of_idle (hidle : s.evx.phase = .idle) :
    exec (.restore image) s = if s.restoreBegin.evx.phase = .restoring then
      .next ((s.restoreBegin.restoreRun image).getD s.restoreBegin) else .next s.restoreBegin := by
  show execRestore image s = _
  simp [execRestore, halive, hmem, hidle]

theorem execRestore_of_train (hidle : s.evx.phase = .idle) (htrain : s.trainRuns = true ∨ s.rf 0 0x198 1 1 = 1) :
    exec (.restore image) s = .next (s.restoreEntered.evEnd 6) := by
  rw [execRestore_of_idle halive hmem hidle, State.restoreBegin_of_train htrain, State.evEnd_phase]
  rfl

theorem execRestore_of_free {t : State} (hidle : s.evx.phase = .idle) (hruns : s.trainRuns = false)
    (hclass : s.rf 0 0x198 1 1 = 0) (hrun : s.restoreBegin.restoreRun image = some t) :
    exec (.restore image) s = .next t := by
  have hphase : s.restoreBegin.evx.phase = .restoring := by
    rw [State.restoreBegin_of_free hruns hclass, State.pm_evx]
    rfl
  rw [execRestore_of_idle halive hmem hidle, if_pos hphase, hrun, Option.getD_some]

/-- A RESTORE that has begun and not yet read the checkpoint is carried on by the next command (log entry 70). -/
theorem execRestore_of_begun {t : State} (hphase : s.evx.phase = .restoring) (hop : s.evx.op = 3)
    (hrun : s.restoreRun image = some t) : exec (.restore image) s = .next t := by
  show execRestore image s = _
  simp [execRestore, halive, hmem, hphase, hop, hrun]

theorem execRestoreDone_of_data (bs : List Byte) (hphase : s.evx.phase = .restoring) (hop : s.evx.op ≠ 3) :
    exec (.restoreDone (.data bs)) s = .next ((s.freeUser .evx).evEnd 1) :=
  if_neg (by simpa [hphase, halive, hmem] using hop)

end Restore

/-! ### The checks of a checkpoint (R369, R372 steps 1 to 3) -/

/-- The header's words W0 to W14 are whole, with the magic number and version 3. -/
def headOk (ws : List Dword) : Bool :=
  (ws.take 15).all (fun w => (huskValue w).isSome) && huskAt ws 0 == 0x4B435141 && huskAt ws 1 / 256 % 256 == 3

/-- The commit word W15 is whole and holds the EV_SEQ of W4. -/
def commitOk (ws : List Dword) : Bool := (huskValue (ws.getD 15 0)).isSome && huskAt ws 15 == huskAt ws 4

/-- A RESTORE that reads the checkpoint. -/
def State.restoreReading (s : State) : State := { s with evx := { s.evx with op := 2 } }

/-- The checkpoint's header as a RESTORE reads it. -/
def State.headerRead (s : State) (image : Reply) : Got := s.restoreReading.readCkpt 0 128 image

/-- The words of a header that was read. -/
def Got.header (g : Got) : List Dword := dwordsOf g.bytes 16

/-- What follows the record check at `at_`: the records' data are copied, or the RESTORE ends (R372 steps 2 and 3, R378). -/
def State.afterRecords (image : Reply) (at_ : Nat) : Option (List CkptRecord) × Option MemErr × State → Option State
  | (none, some e, u) => some (u.restoreErr e 0 at_)
  | (none, none, u) => some ((u.evErr 13 9 0 at_).evEnd 5)
  | (some rs, _, u) => u.restoreData image rs

/-- A header that could be read decides: it ends the RESTORE, or the records are read. -/
theorem State.restoreRun_of_read {s : State} {image : Reply} (hread : (s.headerRead image).err = none) :
    s.restoreRun image =
      let g := s.headerRead image
      let at_ := s.restoreReading.evTarget
      if !headOk g.header then some ((g.s.evErr 13 9 0 at_).evEnd 5)
      else if !commitOk g.header then some ((g.s.evErr 12 8 0 (at_ + 120)).evEnd 3)
      else State.afterRecords image at_ (g.s.readRecords image 128 (huskAt g.header 5)) := by
  unfold State.headerRead State.restoreReading at *
  simp only [State.restoreRun, hread]
  rfl

section Run

variable {s : State} {image : Reply} (hread : (s.headerRead image).err = none)
include hread

theorem State.restoreRun_of_badHeader (hhead : headOk (s.headerRead image).header = false) :
    s.restoreRun image = some (((s.headerRead image).s.evErr 13 9 0 s.restoreReading.evTarget).evEnd 5) := by
  simp [State.restoreRun_of_read hread, hhead]

theorem State.restoreRun_of_noCommit (hhead : headOk (s.headerRead image).header = true)
    (hcommit : commitOk (s.headerRead image).header = false) :
    s.restoreRun image = some (((s.headerRead image).s.evErr 12 8 0 (s.restoreReading.evTarget + 120)).evEnd 3) := by
  simp [State.restoreRun_of_read hread, hhead, hcommit]

theorem State.restoreRun_of_commit (hhead : headOk (s.headerRead image).header = true)
    (hcommit : commitOk (s.headerRead image).header = true) :
    s.restoreRun image = State.afterRecords image s.restoreReading.evTarget
      ((s.headerRead image).s.readRecords image 128 (huskAt (s.headerRead image).header 5)) := by
  simp [State.restoreRun_of_read hread, hhead, hcommit]

end Run

/-- Settles O49: a RESTORE begins or is carried on, and the reading of its header decides how it ends. That a RESTORE which a
register write has begun is served by the next command is the model's choice (log entry 70). -/
theorem restoreReadsTheCheckpointBack : Obligations.RestoreReadsTheCheckpointBack := by
  unfold Obligations.RestoreReadsTheCheckpointBack
  intro s image halive hmem
  refine ⟨?refused, ?begins, ?carriedOn, ?checks, ?done⟩
  case refused =>
    intro hidle htrain
    exact ⟨_, execRestore_of_train halive hmem hidle htrain, State.evEnd_phase _ _, State.evEnd_result _ _,
      byteAt_of_mem (State.evEnd_mem _ _)⟩
  case begins => exact fun hidle hruns hclass t => execRestore_of_free halive hmem hidle hruns hclass
  case carriedOn => exact fun hphase hop t => execRestore_of_begun halive hmem hphase hop
  case checks =>
    intro _ s1 g ws head commit records hread
    refine ⟨fun hhead => ?_, fun hhead hcommit => ?_, fun hhead hcommit hnone herr => ?_, fun hhead hcommit rs hrs => ?_⟩
    · exact ⟨_, State.restoreRun_of_badHeader hread hhead, State.evEnd_phase _ _, State.evEnd_result _ _⟩
    · exact ⟨_, State.restoreRun_of_noCommit hread hhead hcommit, State.evEnd_phase _ _, State.evEnd_result _ _⟩
    · have hrecords : records = (none, none, records.2.2) :=
        Prod.ext (Option.isNone_iff_eq_none.1 hnone) (Prod.ext herr rfl)
      exact ⟨_, (State.restoreRun_of_commit hread hhead hcommit).trans (congrArg _ hrecords), State.evEnd_phase _ _,
        State.evEnd_result _ _⟩
    · have hrecords : records = (some rs, records.2.1, records.2.2) := Prod.ext hrs rfl
      exact (State.restoreRun_of_commit hread hhead hcommit).trans (congrArg _ hrecords)
  case done =>
    intro bs hphase hop
    exact ⟨_, execRestoreDone_of_data halive hmem bs hphase hop, State.evEnd_phase _ _, State.evEnd_result _ _⟩

end Sys2Proof.Machine

namespace Sys2Proof.Machine

/-! ### One command of the queue (chapter 95) -/

/-- Settles O1: `step` hands the front command the state with the queue's rest. -/
theorem frontCommandRunsWithTheRest : Obligations.FrontCommandRunsWithTheRest := by
  unfold Obligations.FrontCommandRunsWithTheRest
  intro s c rest
  rfl

end Sys2Proof.Machine

namespace Sys2Proof.Machine

/-! ### Words served by a spare (R463, R465, R468)

The remap entries decide which code word serves a word. Only `clearPoison` changes an entry in what follows, and it keeps
VALID and INDEX, so every word stays with the code word that serves it. -/

theorem remapValid_unpoisoned (v : Word32) : remapValid (setFld v 17 1 0) = remapValid v :=
  getLsbD_setFld_other v 0 (by decide)

theorem remapIndex_unpoisoned (v : Word32) : remapIndex (setFld v 17 1 0) = remapIndex v :=
  fld_setFld_other v 0 (by decide)

theorem remapPoison_unpoisoned (v : Word32) : remapPoison (setFld v 17 1 0) = false :=
  getLsbD_setBit_same v 17 false (by decide)

/-- Words are served alike where the remap entries agree. -/
theorem State.remapOf_congr {s t : State} (h : t.ecm.remap = s.ecm.remap) (g i : Nat) : t.remapOf g i = s.remapOf g i := by
  unfold State.remapOf
  rw [h]

theorem State.poisoned_congr {s t : State} (h : t.ecm.remap = s.ecm.remap) (g i : Nat) : t.poisoned g i = s.poisoned g i := by
  unfold State.poisoned
  rw [State.remapOf_congr h, h]

theorem State.poisoned_of_spare {s : State} {g i k : Nat} (h : s.remapOf g i = some k) :
    s.poisoned g i = remapPoison (tget 0 s.ecm.remap (8 * g + k)) := by
  simp only [State.poisoned, h]

theorem State.poisoned_of_array {s : State} {g i : Nat} (h : s.remapOf g i = none) : s.poisoned g i = false := by
  simp only [State.poisoned, h]

theorem State.clearPoison_of_spare {s : State} {g i k : Nat} (h : s.remapOf g i = some k) : s.clearPoison g i =
    { s with ecm := { s.ecm with remap := tmod 0 s.ecm.remap (8 * g + k) fun v => setFld v 17 1 0 } } := by
  simp only [State.clearPoison, h]

theorem State.clearPoison_of_array {s : State} {g i : Nat} (h : s.remapOf g i = none) : s.clearPoison g i =
    { s with ecm := { s.ecm with op := s.ecm.op.map fun o => o.written g i } } := by
  simp only [State.clearPoison, h]

/-- Clearing POISON leaves VALID and INDEX of every entry, so that every word is served as before. -/
@[simp] theorem State.remapOf_clearPoison (s : State) (g i h j : Nat) : (s.clearPoison g i).remapOf h j = s.remapOf h j := by
  cases hk : s.remapOf g i with
  | none => rw [State.clearPoison_of_array hk]; rfl
  | some k =>
    rw [State.clearPoison_of_spare hk]
    unfold State.remapOf
    congr 1
    funext n
    by_cases hn : 8 * h + n = 8 * g + k
    · simp only [hn, tget_tmod_same, remapValid_unpoisoned, remapIndex_unpoisoned]
    · simp only [tget_tmod_other (0 : Word32) _ _ hn]

theorem State.poisoned_clearPoison (s : State) (g i : Nat) : (s.clearPoison g i).poisoned g i = false := by
  cases hk : s.remapOf g i with
  | none => exact State.poisoned_of_array (by rw [State.remapOf_clearPoison, hk])
  | some k =>
    rw [State.poisoned_of_spare (k := k) (by rw [State.remapOf_clearPoison, hk]), State.clearPoison_of_spare hk]
    simp only [tget_tmod_same, remapPoison_unpoisoned]

@[simp] theorem State.clearPoison_regs (s : State) (g i : Nat) : (s.clearPoison g i).regs = s.regs := by
  cases hk : s.remapOf g i with
  | none => rw [State.clearPoison_of_array hk]
  | some k => rw [State.clearPoison_of_spare hk]

@[simp] theorem State.setUpset_remap (s : State) (g i : Nat) (m : BitVec 80) : (s.setUpset g i m).ecm.remap = s.ecm.remap := by
  unfold State.setUpset
  split <;> rfl

theorem State.upsetOf_setUpset (s : State) (g i : Nat) (m : BitVec 80) : (s.setUpset g i m).upsetOf g i = m := by
  unfold State.upsetOf
  rw [State.remapOf_congr (State.setUpset_remap s g i m)]
  unfold State.setUpset
  cases s.remapOf g i with
  | none => exact tget_tput_same _ _ _ _
  | some k => exact tget_tput_same _ _ _ _

@[simp] theorem State.encodeWord_remap (s : State) (g i : Nat) : (s.encodeWord g i).ecm.remap = s.ecm.remap := by
  unfold State.encodeWord
  split
  · exact State.setUpset_remap _ _ _ _
  · exact State.setUpset_remap _ _ _ _

theorem State.poisoned_encodeWord (s : State) (g i h j : Nat) : (s.encodeWord g i).poisoned h j = s.poisoned h j :=
  State.poisoned_congr (State.encodeWord_remap s g i) h j

theorem State.readWord_of_poisoned {s : State} {g i : Nat} (src : Nat) (h : s.poisoned g i = true) :
    s.readWord src g i = ⟨true, 0, s.reportUe g i src false⟩ := if_pos h

theorem State.writeWord_full (s : State) (src g i : Nat) :
    s.writeWord src g i true = ⟨false, 0, (s.clearPoison g i).encodeWord g i⟩ := rfl

theorem State.writeWord_partial_of_poisoned {s : State} {g i : Nat} (src : Nat) (h : s.poisoned g i = true) :
    s.writeWord src g i false = ⟨true, 0, s.reportUe g i src false⟩ := by
  simp only [State.writeWord, State.readWord_of_poisoned src h, Bool.false_eq_true, if_false, if_true]

/-- Settles O9: a full write goes by `clearPoison` and reads nothing; a read, and with it a partial write, is uncorrectable. -/
theorem poisonedSpareWord : Obligations.PoisonedSpareWord := by
  unfold Obligations.PoisonedSpareWord
  intro s src w cs g i hpoison
  refine ⟨by rw [State.readWord_of_poisoned src hpoison], fun hfull => ?_, fun hpart => ?_⟩
  · have hstore : s.storeWords src [(w, cs)] =
        ⟨false, { (s.clearPoison g i).encodeWord g i with mem := memPuts ((s.clearPoison g i).encodeWord g i).mem cs }⟩ := by
      simp only [State.storeWords, decide_eq_true hfull, State.writeWord_full, Bool.false_eq_true, if_false, if_true]
      rfl
    rw [hstore]
    refine ⟨rfl, ?_, ?_⟩
    · rw [State.encodeWord_mem, State.clearPoison_mem]
    · exact (State.poisoned_encodeWord _ g i g i).trans (State.poisoned_clearPoison s g i)
  · have hstore : s.storeWords src [(w, cs)] = ⟨true, s.reportUe g i src false⟩ := by
      have hpart' : decide (8 ≤ cs.length) = false := decide_eq_false (by omega)
      simp only [State.storeWords, hpart']
      rw [State.writeWord_partial_of_poisoned src hpoison]
      rfl
    rw [hstore]
    exact ⟨rfl, rfl, hpoison⟩

end Sys2Proof.Machine

namespace Sys2Proof.Machine

/-! ### Views of the state that sending leaves alone (R428, R488, R506)

A packet that leaves by a port and a notification to host software change the sending side of a port, counters, and a few
registers of the CCU. A view of the state that none of these touch reads the same after any of them, and after an error that
is recorded elsewhere. -/

/-- The registers that sending a packet or a notification writes, apart from ERR of the CCU: EVT_PEND, the counts of
notifications and the CCU's error captures, and the performance counters of the ports. -/
def sendWrites (page off : Nat) : Prop :=
  (page = 0 ∧ off ∈ [0x208, 0x228, 0x30, 0x38]) ∨ (8 ≤ page ∧ page < 12 ∧ ∃ k < 8, off = 0xC0 + 8 * k)

/-- A port after its sending side has moved on. -/
def Port.sends (q : Port) (txq : Vector (List Packet) 4) (credits : Vector Nat 4) (replay : List Packet) (nextSeq : BitVec 16)
    (turn : Fin 3) (used : Nat) : Port :=
  { q with txq := txq, credits := credits, replay := replay, nextSeq := nextSeq, turn := turn, used := used }

/-- A view of the state that sending does not touch. Of ERR of the CCU it may show every bit but EVTLOST. -/
structure SendFrame {γ : Type} (f : State → γ) : Prop where
  reg : ∀ s page off v, sendWrites page off → f (State.setReg s page off v) = f s
  lost : ∀ s, f (State.orReg s 0 0x20 (1 <<< 12)) = f s
  port : ∀ s p txq credits replay nextSeq turn used,
    f (State.updPort s p fun q => q.sends txq credits replay nextSeq turn used) = f s

/-- The view reads no register and no port. -/
theorem SendFrame.of_other {γ : Type} {f : State → γ} (hreg : ∀ s page off v, f (State.setReg s page off v) = f s)
    (hport : ∀ s p g, f (State.updPort s p g) = f s) : SendFrame f where
  reg _ _ _ _ _ := hreg _ _ _ _
  lost _ := hreg _ _ _ _
  port _ _ _ _ _ _ _ _ := hport _ _ _

/-- A register of another block than the CCU, beside the performance counters. -/
theorem SendFrame.of_reg {page off : Nat} (hpage : page ≠ 0) (hoff : off < 4096) (hpm : off < 0xC0 ∨ 0x100 ≤ off) :
    SendFrame fun s => s.reg page off where
  reg s page' off' v h := by
    refine s.reg_setReg_other v ?_
    simp only [regKey]
    rcases h with ⟨rfl, hmem⟩ | ⟨hlo, hhi, k, hk, rfl⟩
    · simp only [List.mem_cons, List.not_mem_nil, or_false] at hmem
      omega
    · omega
  lost s := s.reg_setReg_other _ (by simp only [regKey]; omega)
  port _ _ _ _ _ _ _ _ := rfl

/-- What a port holds besides its sending side. -/
theorem SendFrame.of_port {γ : Type} (p : PortId) (g : Port → γ)
    (hg : ∀ q txq credits replay nextSeq turn used, g (Port.sends q txq credits replay nextSeq turn used) = g q) :
    SendFrame fun s => g s.ports[p] where
  reg _ _ _ _ _ := rfl
  lost _ := rfl
  port s p' txq credits replay nextSeq turn used := by
    by_cases hp : p' = p
    · subst hp
      simp only [State.updPort, Fin.getElem_fin, Vector.getElem_set_self, hg]
    · simp only [State.updPort, Fin.getElem_fin, Vector.getElem_set_ne _ _ (Fin.val_ne_of_ne hp)]

section SendFrame

variable {γ : Type} {f : State → γ} (hf : SendFrame f)
include hf

theorem SendFrame.pm (s : State) (p : PortId) (code n : Nat) : f (s.pm (pgMp p) code n) = f s := by
  have hfold : ∀ (l : List Nat), (∀ k ∈ l, k < 8) → ∀ t : State, f (l.foldl (fun (t : State) k =>
      if t.rf (pgMp p) (0x80 + 8 * k) 0 8 = code then t.modReg (pgMp p) (0xC0 + 8 * k) (· + BitVec.ofNat 64 n) else t) t) = f t := by
    intro l
    induction l with
    | nil => intro _ t; rfl
    | cons k l ih =>
      intro hl t
      rw [List.foldl_cons, ih fun j hj => hl j (by simp [hj])]
      split
      · exact hf.reg _ _ _ _ (.inr ⟨by simp only [pgMp]; omega, by simp only [pgMp]; omega, k, hl k (by simp), rfl⟩)
      · rfl
  unfold State.pm
  split
  · rfl
  · exact hfold _ (by simp) s

theorem SendFrame.sendOne (s : State) (p : PortId) : f (s.sendOne p) = f s := by
  unfold State.sendOne
  split
  · rfl
  · split
    · rfl
    · dsimp only
      rw [hf.pm, hf.pm]
      exact hf.port s p _ _ _ _ _ _

theorem SendFrame.pump (s : State) (p : PortId) (n : Nat) : f (s.pump p n) = f s := by
  induction n generalizing s with
  | zero => rfl
  | succ n ih => rw [State.pump, ih, hf.sendOne]

theorem SendFrame.enqueue (s : State) (p : PortId) (k : Packet) : f (s.enqueue p k) = f s :=
  (hf.pump _ p _).trans (hf.port s p _ _ _ _ _ _)

/-- A packet that the cluster does not take in leaves by a port, or is nobody's. -/
theorem SendFrame.sendMesh {s t : State} {k : Packet} (hk : takesIn k.seal = false) (h : s.sendMesh k = some t) : f t = f s := by
  have hk' : takesIn k = false := hk
  unfold State.sendMesh at h
  split at h
  · cases h
  · rw [if_neg (by simp [hk'])] at h
    cases h
    rfl
  · cases h
    rw [hf.enqueue]
    split
    · exact hf.pm s _ _ _
    · rfl

theorem SendFrame.evtPacket {s t : State} {code : Nat} {detail : Dword} (h : s.evtPacket code detail = some t) : f t = f s := by
  obtain ⟨u, hu, rfl⟩ := Option.map_eq_some_iff.mp h
  rw [State.modReg, hf.reg _ _ _ _ (.inl ⟨rfl, by decide⟩)]
  unfold State.sendSys at hu
  split at hu
  · cases hu
  · exact hf.sendMesh rfl hu

theorem SendFrame.evtPacketOr (s : State) (code : Nat) (detail : Dword) {d : State} (hd : f d = f s) :
    f ((s.evtPacket code detail).getD d) = f s := by
  cases h : s.evtPacket code detail with
  | none => exact hd
  | some t => exact hf.evtPacket h

theorem SendFrame.evtOnce (s : State) (code : Nat) (detail : Dword) : f (s.evtOnce code detail) = f s := by
  have hpend : f (s.orReg 0 0x208 (1 <<< code)) = f s := hf.reg _ _ _ _ (.inl ⟨rfl, by decide⟩)
  unfold State.evtOnce
  split
  · dsimp only
    split
    · exact (hf.evtPacketOr _ _ _ rfl).trans hpend
    · exact hpend
  · rfl

theorem SendFrame.evtLost (s : State) : f s.evtLost = f s := by
  have hreg : ∀ (t : State) (off : Nat) v, off ∈ [0x208, 0x228, 0x30, 0x38] → f (t.setReg 0 off v) = f t :=
    fun t off v hoff => hf.reg t 0 off v (.inl ⟨rfl, hoff⟩)
  unfold State.evtLost
  dsimp only
  split
  · exact hreg _ _ _ (by decide)
  · rw [hf.evtOnce, hf.lost]
    split
    · rw [hreg _ _ _ (by decide), hreg _ _ _ (by decide)]
      exact hreg _ _ _ (by decide)
    · exact hreg _ _ _ (by decide)

theorem SendFrame.evt (s : State) (code : Nat) (detail : Dword) : f (s.evt code detail) = f s := by
  unfold State.evt
  split
  · split
    · exact (hf.evtPacketOr _ _ _ (hf.evtLost _)).trans (hf.reg _ _ _ _ (.inl ⟨rfl, by decide⟩))
    · exact hf.evtLost s
  · exact hf.evtOnce s code detail

/-- An error recorded on a page whose ERR and captures the view does not read. -/
theorem SendFrame.err {page : Nat} (hpage : ∀ s off v, off ∈ [0x20, 0x30, 0x38] → f (State.setReg s page off v) = f s)
    (s : State) (b : Nat) (info0 info1 : Dword) : f (s.err page b info0 info1) = f s := by
  cases hm : bitAt (s.reg page 0x28) b with
  | true => rw [State.err_masked _ _ hm]
  | false =>
    rw [State.err_eq _ _ hm, hf.evt, State.orReg, State.modReg, hpage _ _ _ (by decide)]
    split
    · rw [hpage _ _ _ (by decide), hpage _ _ _ (by decide)]
    · rfl

end SendFrame

/-- The bits of a number with one bit set, cast to a register. -/
theorem getLsbD_natCast_shiftLeft (i j : Nat) : (((1 <<< i : Nat) : Dword)).getLsbD j = (decide (j < 64) && decide (i = j)) := by
  rw [BitVec.natCast_eq_ofNat, BitVec.getLsbD_ofNat, Nat.one_shiftLeft, Nat.testBit_two_pow]

/-- ERR of any block, the CCU's but for EVTLOST, keeps the bits it has while the notification is sent. -/
theorem SendFrame.of_errBit {b : Nat} (hb : b ≠ 12) (page : Nat) : SendFrame fun s => bitAt (s.reg page 0x20) b where
  reg s page' off' v h := by
    refine congrArg (bitAt · b) (s.reg_setReg_other v ?_)
    simp only [regKey]
    rcases h with ⟨rfl, hmem⟩ | ⟨hlo, hhi, k, hk, rfl⟩
    · simp only [List.mem_cons, List.not_mem_nil, or_false] at hmem
      omega
    · omega
  lost s := by
    by_cases hp : page = 0
    · subst hp
      simp only [State.orReg, State.modReg, State.reg_setReg_same, bitAt, BitVec.getLsbD_or]
      rw [getLsbD_natCast_shiftLeft, decide_eq_false (Ne.symm hb), Bool.and_false, Bool.or_false]
    · exact congrArg (bitAt · b) (s.reg_setReg_other _ (by simp only [regKey]; omega))
  port _ _ _ _ _ _ _ _ := rfl

/-- An error that is not masked sets its ERR bit, on any page. -/
theorem State.bitAt_err {s : State} {page b : Nat} (info0 info1 : Dword) (hb : b < 64) (hlost : b ≠ 12)
    (h : bitAt (s.reg page 0x28) b = false) : bitAt ((s.err page b info0 info1).reg page 0x20) b = true := by
  rw [State.err_eq _ _ h]
  refine ((SendFrame.of_errBit hlost page).evt _ _ _).trans ?_
  rw [State.orReg, State.modReg, State.reg_setReg_same, bitAt, BitVec.getLsbD_or, getLsbD_natCast_shiftLeft]
  simp [hb]

end Sys2Proof.Machine

namespace Sys2Proof.Machine

/-! ### Scrubbers and flips (R458 to R460, R468) -/

/-- A scrubber's line holds a word. -/
theorem State.scrubWords_ne_nil (s : State) (who : Fin 9) : s.scrubWords who ≠ [] := by
  unfold State.scrubWords
  dsimp only
  (repeat' split) <;> simp

theorem State.rf_bumpRf_same (s : State) (page off : Nat) {lo w : Nat} (n : Nat) (h : lo + w ≤ 64) :
    (s.bumpRf page off lo w n).rf page off lo w = (s.rf page off lo w + n) % 2 ^ w :=
  s.rf_setRf_same page off _ h

/-- The state after a scrubber has checked the words of its line. -/
def State.scrubLine (s : State) (who : Fin 9) : State :=
  ((s.scrubWords who).foldl (fun (t : State) w => t.scrubWord w.1 w.2) s).pm 6 0x03 1

theorem State.execScrubRead_of_scrubs {s : State} {who : Fin 9} (hruns : s.scrubs who = true) : exec (.scrubRead who) s =
    if (s.scrubLine who).ecm.scrub[who] + 1 < scrubLines who then
      .next { s.scrubLine who with ecm := { (s.scrubLine who).ecm with
        scrub := (s.scrubLine who).ecm.scrub.set who ((s.scrubLine who).ecm.scrub[who] + 1) } }
    else
      .next ({ s.scrubLine who with ecm := { (s.scrubLine who).ecm with scrub := (s.scrubLine who).ecm.scrub.set who 0 } }.bumpRf
        6 0x110 (if who.val = 8 then 0 else 32) 32 1) :=
  if_neg (by rw [hruns, Bool.not_true]; decide)

/-- An ECM cause leaves the scrubbers and the memory repair's tables as they are. -/
theorem State.ecmErr_ecm (s : State) (b group kind source : Nat) (addr : Bool) (index : Nat) :
    (s.ecmErr b group kind source addr index).ecm = s.ecm :=
  (SendFrame.of_other (f := (·.ecm)) (fun _ _ _ _ => rfl) fun _ _ _ => rfl).err (fun _ _ _ _ => rfl) s b _ _

theorem State.logError_scrub (s : State) (group kind source flags w4 : Nat) :
    (s.logError group kind source flags w4).ecm.scrub = s.ecm.scrub := rfl

theorem State.reg_logError (s : State) (group kind source flags w4 : Nat) {off : Nat} (hoff : off ≠ 0x160) :
    (s.logError group kind source flags w4).reg 6 off = s.reg 6 off :=
  State.reg_setReg_other _ _ (by simp only [regKey]; omega)

theorem State.execScrubLate_of_scrubs {s : State} {who : Fin 9} (hruns : s.scrubs who = true) : ∃ g i,
    exec (.scrubLate who) s = .next ((s.logError g 9 14 0 i).ecmErr 10 g 9 14 false i) := by
  obtain ⟨w, rest, hwords⟩ := List.exists_cons_of_ne_nil (s.scrubWords_ne_nil who)
  refine ⟨w.1, w.2, ?_⟩
  change execScrubLate who s = _
  simp only [execScrubLate, hruns, hwords, Bool.not_true, Bool.false_eq_true, if_false]

/-- A write of FLIP_CTL without DONE gives ARMED the value written. -/
theorem State.rf_flipWrite_armed (s : State) {v : Dword} (hdone : bitAt v 2 = false) :
    (s.flipWrite v).rf 6 0x158 1 1 = fld v 0 1 := by
  simp only [State.flipWrite, State.modReg, State.rf, State.reg_setReg_same, hdone, Bool.false_eq_true, if_false]
  rw [fld_setFld_same _ _ (by decide)]
  exact Nat.mod_eq_of_lt (BitVec.isLt _)

/-- A write of FLIP_CTL is applied at once. -/
theorem State.hostWrite_flip {s : State} (v : Dword) (hready : s.regReady 6 = true) : ∃ pend,
    s.hostWrite 6 0x158 v = ((s.handing pend).flipWrite v).wrote 6 0x158 0 := by
  obtain ⟨pend, hwrite⟩ := State.hostWrite_block v (b := .ecm) rfl hready (by decide : 0x100 ≤ 0x158) (by decide) (by decide)
  exact ⟨pend, hwrite _ rfl⟩

/-- The code word of the armed word takes the mask; ARMED clears, DONE is set, and the word carries the TEST mark. -/
theorem State.encodeWord_of_flipHits {s : State} {g i : Nat} (h : s.flipHits g i = true) :
    (s.encodeWord g i).upsetOf g i = s.flipMask ∧ (s.encodeWord g i).rf 6 0x158 1 1 = 0 ∧
      (s.encodeWord g i).rf 6 0x158 2 1 = 1 ∧ wordKey g i ∈ (s.encodeWord g i).ecm.tested := by
  simp only [State.encodeWord, h, if_true]
  refine ⟨s.upsetOf_setUpset g i s.flipMask, ?_, ?_, List.mem_cons_self ..⟩
  · rw [State.modReg, State.rf, State.reg_setReg_same, fld_setFld_other _ _ (by decide), fld_setFld_same _ _ (by decide),
      Nat.zero_mod]
  · rw [State.modReg, State.rf, State.reg_setReg_same, fld_setFld_same _ _ (by decide),
      Nat.mod_eq_of_lt (by decide)]

theorem State.flipHits_clearPoison (s : State) (g i : Nat) : (s.clearPoison g i).flipHits g i = s.flipHits g i := by
  simp only [State.flipHits, State.rf, State.reg, State.clearPoison_regs]

theorem State.flipMask_clearPoison (s : State) (g i : Nat) : (s.clearPoison g i).flipMask = s.flipMask := by
  simp only [State.flipMask, State.reg, State.clearPoison_regs]

/-- An upset touches no register, no byte and no port, whatever it hits. -/
theorem execStorageUpset_frame (x : UpsetTarget) (s : State) :
    ∃ t, execStorageUpset x s = .next t ∧ t.regs = s.regs ∧ t.mem = s.mem ∧ t.ports = s.ports := by
  cases x with
  | word g i b =>
    dsimp only [execStorageUpset]
    split <;> exact ⟨_, rfl, rfl, rfl, rfl⟩
  | spare g k b =>
    dsimp only [execStorageUpset]
    split <;> exact ⟨_, rfl, rfl, rfl, rfl⟩
  | acc c bank i b => exact ⟨_, rfl, rfl, rfl, rfl⟩
  | ftq c slot i b => exact ⟨_, rfl, rfl, rfl, rfl⟩
  | scale c entry i b => exact ⟨_, rfl, rfl, rfl, rfl⟩
  | rss c row v b => exact ⟨_, rfl, rfl, rfl, rfl⟩

/-- Settles O8: the scrubber's and the flip registers' rules, and an upset is one entry of its table. -/
theorem scrubbersFlipsAndUpsets : Obligations.ScrubbersFlipsAndUpsets := by
  unfold Obligations.ScrubbersFlipsAndUpsets
  intro s
  refine ⟨fun who hruns => ⟨?next, ?last, ?late⟩, fun hready => ⟨?arm, ?disarm⟩, ?apply, ?word, fun x => execStorageUpset_frame x s⟩
  case next =>
    intro hlt
    exact (State.execScrubRead_of_scrubs hruns).trans (if_pos hlt)
  case last =>
    intro hge
    exact ⟨_, (State.execScrubRead_of_scrubs hruns).trans (if_neg (not_lt.2 hge)), Vector.getElem_set_self _,
      State.rf_bumpRf_same _ _ _ _ (by split <;> decide)⟩
  case late =>
    obtain ⟨g, i, hexec⟩ := State.execScrubLate_of_scrubs hruns
    refine ⟨_, hexec, fun hmask => ?_, ?_, byteAt_of_mem (by simp)⟩
    · exact State.bitAt_err _ _ (by decide) (by decide)
        ((congrArg (bitAt · 10) (s.reg_logError g 9 14 0 i (by decide))).trans hmask)
    · rw [State.ecmErr_ecm, State.logError_scrub]
  case arm =>
    obtain ⟨pend, hwrite⟩ := State.hostWrite_flip 1 hready
    exact ⟨_, congrArg Host.Outcome.next hwrite, State.rf_flipWrite_armed _ rfl, rfl⟩
  case disarm =>
    obtain ⟨pend, hwrite⟩ := State.hostWrite_flip 0 hready
    exact ⟨_, congrArg Host.Outcome.next hwrite, State.rf_flipWrite_armed _ rfl, rfl⟩
  case apply =>
    intro g i harmed hgroup hi hlive
    have hhits : (s.clearPoison g i).flipHits g i = true := by
      rw [State.flipHits_clearPoison]
      simp only [State.flipHits, harmed, g, i, beq_self_eq_true, Bool.and_self]
    obtain ⟨hupset, hclear, hdone, htest⟩ := State.encodeWord_of_flipHits hhits
    refine ⟨_, if_pos ⟨harmed, hgroup, hi, hlive⟩, hupset.trans (s.flipMask_clearPoison g i), hclear, hdone, ?_, htest,
      byteAt_of_mem (by rw [State.encodeWord_mem, State.clearPoison_mem])⟩
    exact (State.poisoned_encodeWord _ g i g i).trans (s.poisoned_clearPoison g i)
  case word =>
    intro g i b hgroup hi
    refine ⟨_, if_pos (by rw [hgroup, decide_eq_true hi]; rfl), ?same, fun n hn => ?other, fun _ => rfl, rfl, rfl⟩
    case same =>
      dsimp only
      exact tget_tmod_same _ _ _ _
    case other =>
      dsimp only
      exact tget_tmod_other _ _ _ hn

end Sys2Proof.Machine

namespace Sys2Proof.Machine

/-! ### Lanes of a byte string (R383, R389, R398) -/

theorem length_natLe (n v : Nat) : (natLe n v).length = n := by
  induction n generalizing v with
  | zero => rfl
  | succ n ih => rw [natLe, List.length_cons, ih]

theorem leNat_natLe (n v : Nat) : leNat (natLe n v) = v % 256 ^ n := by
  induction n generalizing v with
  | zero => rw [natLe, leNat, pow_zero, Nat.mod_one]
  | succ n ih => rw [natLe, leNat, ih, BitVec.toNat_ofNat, pow_succ' 256 n, Nat.mod_mul]

theorem leNat_lt (bs : List Byte) : leNat bs < 256 ^ bs.length := by
  induction bs with
  | nil => rw [leNat, List.length_nil, pow_zero]; decide
  | cons b bs ih =>
    have hb : b.toNat < 256 := b.isLt
    rw [leNat, List.length_cons, Nat.pow_succ']
    omega

theorem length_lanesOf (w n : Nat) (bs : List Byte) : (lanesOf w n bs).length = n := by
  induction n generalizing bs with
  | zero => rfl
  | succ n ih => rw [lanesOf, List.length_cons, ih]

/-- Lane `i` of a byte string: its `w` bytes as a number, least significant first. -/
def laneAt (w i : Nat) (bs : List Byte) : Nat := leNat ((bs.drop (w * i)).take w)

theorem getElem_lanesOf (w n : Nat) (bs : List Byte) (i : Nat) (h : i < (lanesOf w n bs).length) :
    (lanesOf w n bs)[i] = laneAt w i bs := by
  induction n generalizing bs i with
  | zero => exact absurd h (Nat.not_lt_zero i)
  | succ n ih =>
    simp only [lanesOf]
    cases i with
    | zero => rfl
    | succ i => rw [List.getElem_cons_succ, ih, laneAt, laneAt, List.drop_drop, Nat.mul_succ, Nat.add_comm]

theorem laneAt_lt (w i : Nat) (bs : List Byte) : laneAt w i bs < 256 ^ w :=
  (leNat_lt _).trans_le (Nat.pow_le_pow_right (by decide) (List.length_take_le _ _))

/-- The chunks that a list of equally long pieces was made of. -/
theorem take_drop_flatMap {α β : Type} {w : Nat} {f : α → List β} (hf : ∀ x, (f x).length = w) (l : List α) (i : Nat)
    (hi : i < l.length) : ((l.flatMap f).drop (w * i)).take w = f l[i] := by
  induction l generalizing i with
  | nil => exact absurd hi (Nat.not_lt_zero i)
  | cons x l ih =>
    rw [List.flatMap_cons]
    cases i with
    | zero => rw [Nat.mul_zero, List.drop_zero, List.take_append_of_le_length (hf x).ge, List.take_of_length_le (hf x).le]; rfl
    | succ i =>
      have hskip : w * (i + 1) = (f x).length + w * i := by rw [hf, Nat.mul_succ, Nat.add_comm]
      rw [hskip, List.drop_length_add_append, ih i (Nat.lt_of_succ_lt_succ hi), List.getElem_cons_succ]

theorem length_flatMap_of_length {α β : Type} {w : Nat} {f : α → List β} (hf : ∀ x, (f x).length = w) (l : List α) :
    (l.flatMap f).length = w * l.length := by
  simp only [List.length_flatMap, hf, List.map_const', List.sum_replicate, smul_eq_mul, Nat.mul_comm]

/-! ### Combining the lanes of two contributions (R398, R409) -/

theorem laneBytes_cases (post : Vector Dword 8) : laneBytes post = 4 ∨ (laneBytes post = 8 ∧ postPp post = false) := by
  unfold laneBytes
  cases postW64 post <;> cases postPp post <;> simp

theorem laneBytes_dvd (post : Vector Dword 8) : laneBytes post ∣ 256 * postLen post := by
  refine Dvd.dvd.mul_right ?_ _
  rcases laneBytes_cases post with h | ⟨h, _⟩ <;> rw [h] <;> decide

theorem laneBytes_of_prepass {post : Vector Dword 8} (h : postPp post = true) : laneBytes post = 4 := by
  rcases laneBytes_cases post with hw | ⟨_, hpp⟩
  · exact hw
  · rw [h] at hpp
    cases hpp

/-- Two lanes combined. -/
def combineLane (post : Vector Dword 8) (x y : Nat) : Nat :=
  if postPp post then (if sext (8 * laneBytes post) x < sext (8 * laneBytes post) y then y else x)
  else (x + y) % 2 ^ (8 * laneBytes post)

theorem length_combineLanes (post : Vector Dword 8) (xs ys : List Byte) :
    (combineLanes post xs ys).length = 256 * postLen post := by
  rw [combineLanes, length_flatMap_of_length fun _ => length_natLe _ _, List.length_zip, postLanes, postLanes, length_lanesOf,
    length_lanesOf, Nat.min_self, Nat.mul_div_cancel' (laneBytes_dvd post)]

theorem combineLane_lt (post : Vector Dword 8) {x y : Nat} (hx : x < 256 ^ laneBytes post) (hy : y < 256 ^ laneBytes post) :
    combineLane post x y < 256 ^ laneBytes post := by
  unfold combineLane
  split
  · split
    · exact hy
    · exact hx
  · rw [Nat.pow_mul]
    exact Nat.mod_lt _ (by positivity)

/-- Each lane of the combination is the combination of the two lanes. -/
theorem laneAt_combineLanes (post : Vector Dword 8) (xs ys : List Byte) {i : Nat} (hi : i < 256 * postLen post / laneBytes post) :
    laneAt (laneBytes post) i (combineLanes post xs ys) =
      combineLane post (laneAt (laneBytes post) i xs) (laneAt (laneBytes post) i ys) := by
  have hlen : i < ((postLanes post xs).zip (postLanes post ys)).length := by
    rw [List.length_zip, postLanes, postLanes, length_lanesOf, length_lanesOf, Nat.min_self]
    exact hi
  rw [laneAt, combineLanes, take_drop_flatMap (fun _ => length_natLe _ _) _ i hlen, leNat_natLe, List.getElem_zip]
  simp only [postLanes, getElem_lanesOf]
  exact Nat.mod_eq_of_lt (combineLane_lt post (laneAt_lt _ _ _) (laneAt_lt _ _ _))

theorem sext_combineLane_of_prepass {post : Vector Dword 8} (hpp : postPp post = true) (x y : Nat) :
    sext 32 (combineLane post x y) = max (sext 32 x) (sext 32 y) := by
  rw [combineLane, if_pos hpp, laneBytes_of_prepass hpp, max_def]
  split_ifs with hlt hle hle
  · rfl
  · exact absurd hlt.le hle
  · exact le_antisymm hle (not_lt.1 hlt)
  · rfl

/-- Settles O53: the lanes by `laneAt_combineLanes`; the command is its definition once the sum is accepted. -/
theorem contributionsAddLaneByLane : Obligations.ContributionsAddLaneByLane := by
  unfold Obligations.ContributionsAddLaneByLane
  refine ⟨fun post xs ys _ _ => ⟨length_combineLanes post xs ys, fun i hi => ⟨fun hsum => ?sum, fun hpp => ?max⟩⟩, ?command⟩
  case sum =>
    refine (laneAt_combineLanes post xs ys hi).trans ?_
    rw [combineLane, if_neg (by simp [hsum])]
    rfl
  case max =>
    refine (congrArg (sext 32) (laneAt_combineLanes post xs ys hi)).trans ?_
    exact sext_combineLane_of_prepass hpp _ _
  case command =>
    intro s g k lead tail q cut ts lanes hinst hst hready hlive hts
    have hexec : exec (.contributionComplete g lanes tail) s = execContributionComplete g lanes tail s := rfl
    rw [hexec]
    simp only [execContributionComplete, hinst, hst, hready, hlive, hts, Bool.not_true, Bool.or_self, Bool.false_eq_true, if_false]
    exact ⟨fun hbad => if_pos hbad, fun hlen => if_neg (not_not.2 hlen)⟩

end Sys2Proof.Machine

namespace Sys2Proof.Machine

/-! ### What the RDUs work on: groups, queued posts and held writes (R392, R395)

Memory accesses, packets, status records and the step log leave all three as they are. -/

/-- The groups, the posts queued at each port, and the writes of posts that are held. -/
def State.rduWork (s : State) : Tab Group × Vector (List (Vector Dword 8)) 4 × List (PortId × Vector Dword 8) :=
  (s.groups, s.posts, s.heldPosts)

theorem State.groups_of_rduWork {s t : State} (h : t.rduWork = s.rduWork) : t.groups = s.groups := congrArg (·.1) h
theorem State.posts_of_rduWork {s t : State} (h : t.rduWork = s.rduWork) : t.posts = s.posts := congrArg (·.2.1) h
theorem State.heldPosts_of_rduWork {s t : State} (h : t.rduWork = s.rduWork) : t.heldPosts = s.heldPosts := congrArg (·.2.2) h
theorem State.group_of_rduWork {s t : State} (h : t.rduWork = s.rduWork) (g : GroupId) : t.group g = s.group g :=
  congrArg (tget Group.off · g.val) (State.groups_of_rduWork h)

theorem sendFrame_rduWork : SendFrame State.rduWork := .of_other (fun _ _ _ _ => rfl) fun _ _ _ => rfl

@[simp] theorem State.rduWork_setReg (s : State) (page off : Nat) (v : Dword) : (s.setReg page off v).rduWork = s.rduWork := rfl
@[simp] theorem State.rduWork_bumpRf (s : State) (page off lo w n : Nat) : (s.bumpRf page off lo w n).rduWork = s.rduWork := rfl

@[simp] theorem State.rduWork_pm (s : State) (page code n : Nat) : (s.pm page code n).rduWork = s.rduWork :=
  s.pm_same State.rduWork (fun _ _ _ _ => rfl) page code n

@[simp] theorem State.rduWork_evt (s : State) (code : Nat) (detail : Dword) : (s.evt code detail).rduWork = s.rduWork :=
  sendFrame_rduWork.evt s code detail

@[simp] theorem State.rduWork_err (s : State) (page b : Nat) (info0 info1 : Dword) :
    (s.err page b info0 info1).rduWork = s.rduWork :=
  sendFrame_rduWork.err (fun _ _ _ _ => rfl) s b info0 info1

/-! #### Memory -/

@[simp] theorem State.rduWork_reportCe (s : State) (g i src : Nat) (fix : BitVec 80) :
    (s.reportCe g i src fix).rduWork = s.rduWork := by
  unfold State.reportCe
  split
  · rfl
  · exact State.rduWork_err _ _ _ _ _

@[simp] theorem State.rduWork_readWord (s : State) (src g i : Nat) : (s.readWord src g i).s.rduWork = s.rduWork := by
  unfold State.readWord
  dsimp only
  split
  · rfl
  · split
    · rfl
    · exact State.rduWork_reportCe _ _ _ _ _
    · rfl

@[simp] theorem State.rduWork_loadWords (s : State) (src off n : Nat) : (s.loadWords src off n).s.rduWork = s.rduWork := by
  induction n generalizing s off with
  | zero => rfl
  | succ n ih => exact (ih _ _).trans (State.rduWork_readWord _ _ _ _)

@[simp] theorem State.rduWork_load (s : State) (src off n : Nat) : (s.load src off n).s.rduWork = s.rduWork :=
  State.rduWork_loadWords _ _ _ _

theorem State.rduWork_setUpset (s : State) (g i : Nat) (m : BitVec 80) : (s.setUpset g i m).rduWork = s.rduWork := by
  unfold State.setUpset
  split <;> rfl

theorem State.rduWork_clearPoison (s : State) (g i : Nat) : (s.clearPoison g i).rduWork = s.rduWork := by
  unfold State.clearPoison
  split <;> rfl

theorem State.rduWork_encodeWord (s : State) (g i : Nat) : (s.encodeWord g i).rduWork = s.rduWork := by
  unfold State.encodeWord
  split
  · exact State.rduWork_setUpset s g i _
  · exact State.rduWork_setUpset s g i _

theorem State.rduWork_writeWord (s : State) (src g i : Nat) (full : Bool) : (s.writeWord src g i full).s.rduWork = s.rduWork := by
  unfold State.writeWord
  split
  · exact (State.rduWork_encodeWord _ _ _).trans (State.rduWork_clearPoison _ _ _)
  · dsimp only
    split
    · exact State.rduWork_readWord _ _ _ _
    · exact (State.rduWork_encodeWord _ _ _).trans (State.rduWork_readWord _ _ _ _)

theorem State.rduWork_storeWords (s : State) (src : Nat) (ws : List (Nat × List (Nat × Byte))) :
    (s.storeWords src ws).s.rduWork = s.rduWork := by
  induction ws generalizing s with
  | nil => rfl
  | cons w ws ih =>
    unfold State.storeWords
    dsimp only
    split
    · exact (ih _).trans (State.rduWork_writeWord _ _ _ _ _)
    · exact (ih _).trans (State.rduWork_writeWord _ _ _ _ _)

@[simp] theorem State.rduWork_store (s : State) (src off : Nat) (bs : List Byte) : (s.store src off bs).s.rduWork = s.rduWork :=
  State.rduWork_storeWords _ _ _

theorem State.rduWork_hwm (s : State) (page off lo n : Nat) : (s.hwm page off lo n).rduWork = s.rduWork := by
  unfold State.hwm
  split <;> rfl

theorem State.rduWork_allocTag {s : State} {r : Nat} {user : TagUser} {addr sent : Nat} {x : BitVec 11 × State}
    (h : s.allocTag r user addr sent = some x) : x.2.rduWork = s.rduWork := by
  unfold State.allocTag at h
  dsimp only at h
  split at h
  · cases h
  · rw [← Option.some.inj h, State.rduWork_pm, State.rduWork_hwm, State.rduWork_hwm]
    rfl

@[simp] theorem State.rduWork_rduPass (s : State) (p : PortId) (off : Nat) : (s.rduPass p off).rduWork = s.rduWork := by
  unfold State.rduPass State.rqtPass
  cases h : s.allocTag (8 + p.val) (.plain (8 + p.val)) off 0 with
  | none => rfl
  | some x => exact State.rduWork_allocTag h

@[simp] theorem State.rduWork_rduStore (s : State) (p : PortId) (off : Nat) (bs : List Byte) :
    (s.rduStore p off bs).rduWork = s.rduWork := by
  unfold State.rduStore
  split
  · rw [State.rduWork_store, State.rduWork_rduPass]
  · rfl

/-! #### Errors, the step log, lanes and packets -/

@[simp] theorem State.rduWork_rduErr (s : State) (p : PortId) (b kind : Nat) (g entry step addr : Nat) :
    (s.rduErr p b kind g entry step addr).rduWork = s.rduWork := by
  unfold State.rduErr
  dsimp only
  split <;> rfl

@[simp] theorem State.rduWork_stepLog (s : State) (g : GroupId) (type entry key0 step w3 w4 w5 : Nat) :
    (s.stepLog g type entry key0 step w3 w4 w5).rduWork = s.rduWork := by
  unfold State.stepLog
  dsimp only
  split
  · rw [State.rduWork_bumpRf, State.rduWork_rduStore]
  · rfl

@[simp] theorem State.rduWork_logPair (s : State) (g : GroupId) (k : Inst) (type partner : Nat) :
    (s.logPair g k type partner).rduWork = s.rduWork := State.rduWork_stepLog _ _ _ _ _ _ _ _ _

@[simp] theorem State.rduWork_readLanes (s : State) (p : PortId) (g : GroupId) (k : Inst) (off : Nat) :
    (s.readLanes p g k off).s.rduWork = s.rduWork := by
  unfold State.readLanes
  dsimp only
  split
  · split
    · rw [State.rduWork_load, State.rduWork_rduPass]
    · rw [State.rduWork_rduErr, State.rduWork_load, State.rduWork_rduPass]
  · exact State.rduWork_rduErr _ _ _ _ _ _ _ _

/-- A RED packet is never taken in by the cluster that sends it. -/
@[simp] theorem State.rduWork_sendRed (s : State) (g : GroupId) (i seg flags : Nat) (payload : List Byte) :
    (s.sendRed g i seg flags payload).rduWork = s.rduWork := by
  unfold State.sendRed
  dsimp only
  split
  · next h => exact sendFrame_rduWork.sendMesh rfl h
  · rfl

@[simp] theorem State.rduWork_sendLanes (s : State) (g : GroupId) (is : List Nat) (code : Nat) (tail : RedRecord)
    (bs : List Byte) : (s.sendLanes g is code tail bs).rduWork = s.rduWork := by
  have hsend : ∀ (flags seg : Nat) (payload : List Byte) (t : State),
      (is.foldl (fun (t : State) i => t.sendRed g i seg flags payload) t).rduWork = t.rduWork :=
    fun flags seg payload t => foldl_same State.rduWork _ (fun t i => t.rduWork_sendRed g i seg flags payload) is t
  unfold State.sendLanes
  dsimp only
  refine (foldl_same State.rduWork _ (fun t i => t.rduWork_pm _ _ _) is _).trans ((hsend 2 0 _ _).trans ?_)
  exact foldl_same State.rduWork _ (fun t k => hsend 0 k _ t) _ s

@[simp] theorem State.rduWork_holdResult (s : State) (g : GroupId) (n : Nat) (lead tail : RedRecord) (bs : List Byte) (e : Word32)
    (count reason : Nat) (post : Vector Dword 8) :
    (s.holdResult g n lead tail bs e count reason post).rduWork = s.rduWork := by
  have hlead : ∀ (is : List Nat) (t : State), (is.foldl (fun (t : State) i =>
      t.sendRed g i 0 1 (recBytes (t.forwardLead lead i))) t).rduWork = t.rduWork :=
    fun is t => foldl_same State.rduWork _ (fun t i => t.rduWork_sendRed g i 0 1 _) is t
  unfold State.holdResult
  dsimp only
  split
  · rw [State.rduWork_rduStore, State.rduWork_sendLanes, hlead]
  · rw [State.rduWork_sendLanes, hlead]

@[simp] theorem State.rduWork_setCf (s : State) (n : BitVec 5) (v : Bool) : (s.setCf n v).rduWork = s.rduWork := by
  obtain ⟨out, hout⟩ := s.setCf_spec n v
  rw [hout]
  rfl

@[simp] theorem State.rduWork_stepRepeat (s : State) (g : GroupId) (reason step : Nat) :
    (s.stepRepeat g reason step).rduWork = s.rduWork := by
  unfold State.stepRepeat
  rw [State.rduWork_evt, State.modReg, State.rduWork_setReg, State.rduWork_pm, State.rduWork_bumpRf]

@[simp] theorem State.rduWork_writeStatus (s : State) (g : GroupId) (post : Vector Dword 8) (lead tail : RedRecord)
    (reason : Nat) : (s.writeStatus g post lead tail reason).rduWork = s.rduWork := by
  unfold State.writeStatus
  dsimp only
  split <;> split <;> simp

/-- Reading the schedule leaves the groups as they are. -/
theorem State.rduWork_setupFault {s t : State} {g : GroupId} {kind : Option Nat} {es : List Word32}
    (h : s.setupFault g = (kind, es, t)) : t.rduWork = s.rduWork := by
  have hload := s.rduWork_load (8 + (s.home g).val) (s.schedOff g) 256
  have hstate : (s.setupFault g).2.2.rduWork = s.rduWork := by
    unfold State.setupFault
    dsimp only
    split
    · rfl
    · split
      · rfl
      · split
        · rfl
        · (repeat' split) <;> exact hload
  rw [h] at hstate
  exact hstate

end Sys2Proof.Machine

namespace Sys2Proof.Machine

/-! ### Posts at their home port (R392, R393) -/

theorem State.group_updGroup_same (s : State) (g : GroupId) (f : Group → Group) : (s.updGroup g f).group g = f (s.group g) :=
  tget_tmod_same _ _ _ _

theorem State.group_updGroup_other (s : State) {g h : GroupId} (f : Group → Group) (hne : h ≠ g) :
    (s.updGroup g f).group h = s.group h :=
  tget_tmod_other _ _ _ (Fin.val_ne_of_ne hne)

theorem State.rduPost_of_full {s : State} {p : PortId} (r : Vector Dword 8) (h : 16 ≤ (s.posts[p]).length) :
    s.rduPost p r = none := if_pos h

/-- An accepted post: queued, its key the group's newest, and the group's key where it had none. -/
theorem State.rduPost_of_accepted {s : State} {p : PortId} {r : Vector Dword 8} (hroom : (s.posts[p]).length < 16)
    (hfault : s.postFault p r = none) : ∃ t, s.rduPost p r = some t ∧ t.posts = s.posts.set p (s.posts[p] ++ [r]) ∧
      t.heldPosts = s.heldPosts ∧ (t.group (postG r)).postKey = some (postKeyOf r) ∧
      (∀ h, h ≠ postG r → t.group h = s.group h) ∧ t.cores = s.cores ∧ t.mem = s.mem := by
  refine ⟨_, (if_neg (not_le.2 hroom)).trans (by rw [hfault]), ?_⟩
  refine ⟨State.posts_of_rduWork (State.rduWork_pm _ _ _ _), (State.heldPosts_of_rduWork (State.rduWork_pm _ _ _ _)).trans rfl, ?_,
    fun h hne => ?_, by rw [State.pm_cores]; rfl, by rw [State.pm_mem]; rfl⟩
  · rw [State.group_of_rduWork (State.rduWork_pm _ _ _ _), State.group_updGroup_same]
  · rw [State.group_of_rduWork (State.rduWork_pm _ _ _ _), State.group_updGroup_other _ _ hne]
    rfl

/-- A refused post writes at most its status record. -/
theorem State.rduPost_of_refused {s : State} {p : PortId} {r : Vector Dword 8} (hroom : (s.posts[p]).length < 16)
    (hfault : s.postFault p r ≠ none) : ∃ t, s.rduPost p r = some t ∧ t.rduWork = s.rduWork ∧
      (postStatOk r = false → t.mem = s.mem) := by
  obtain ⟨kind, hkind⟩ := Option.ne_none_iff_exists'.1 hfault
  unfold State.rduPost
  simp only [if_neg (not_le.2 hroom), hkind]
  split
  · next hstat => exact ⟨_, rfl, by simp, fun h => by rw [h] at hstat; cases hstat⟩
  · exact ⟨_, rfl, by simp, fun _ => by simp⟩

/-- A post that nothing waits before reaches its RDU, or is held while the queue is full. -/
theorem State.execRedPost_of_ready {s : State} {p : PortId} (r : Vector Dword 8) (hready : s.rduReady p = true)
    (hheld : ∀ x ∈ s.heldPosts, x.1 ≠ p) :
    exec (.redPost p r) s = .next ((s.rduPost p r).getD { s with heldPosts := s.heldPosts ++ [(p, r)] }) := by
  have hnone : s.heldPosts.any (fun x => x.1 == p) = false := by
    simpa only [List.any_eq_false, beq_iff_eq] using hheld
  have hexec : exec (.redPost p r) s = .next (s.postOrHold p r) := if_neg (by rw [hready]; decide)
  rw [hexec, State.postOrHold, hnone]
  cases s.rduPost p r <;> rfl

/-! ### Held writes follow when a place is free (R392) -/

theorem takeFirst_eq_none {α : Type} {p : α → Bool} {l : List α} (h : ∀ x ∈ l, p x = false) : takeFirst p l = none := by
  induction l with
  | nil => rfl
  | cons x l ih =>
    obtain ⟨hx, hl⟩ := List.forall_mem_cons.1 h
    rw [takeFirst, hx, ih hl]
    rfl

theorem State.takeHeld_of_none {s : State} {p : PortId} (n : Nat) (h : ∀ x ∈ s.heldPosts, x.1 ≠ p) : s.takeHeld p n = s := by
  cases n with
  | zero => rfl
  | succ n => rw [State.takeHeld, takeFirst_eq_none fun x hx => beq_eq_false_iff_ne.2 (h x hx)]

theorem State.takeHeld_of_front {s t : State} {p : PortId} {r : Vector Dword 8} {rest : List (PortId × Vector Dword 8)}
    (h : s.heldPosts = (p, r) :: rest) (hpost : ({ s with heldPosts := rest } : State).rduPost p r = some t) (n : Nat) :
    s.takeHeld p (n + 1) = t.takeHeld p n := by
  rw [State.takeHeld, h, takeFirst, if_pos (beq_self_eq_true p)]
  simp only [hpost]

/-! ### A group that is off stays off (R413) -/

/-- The group is not enabled, and no post of it waits. -/
def State.groupGone (s : State) (g : GroupId) : Prop :=
  s.group g = Group.off ∧ ∀ q : PortId, ∀ r ∈ s.posts[q], postG r ≠ g

theorem State.groupGone_of_rduWork {s t : State} {g : GroupId} (h : t.rduWork = s.rduWork) (hs : s.groupGone g) :
    t.groupGone g := by
  obtain ⟨hoff, hposts⟩ := hs
  exact ⟨(State.group_of_rduWork h g).trans hoff, by rw [State.posts_of_rduWork h]; exact hposts⟩

/-- A post of a group that is not enabled is refused. -/
theorem State.postFault_of_disabled {s : State} {r : Vector Dword 8} (p : PortId) (h : (s.group (postG r)).en = false) :
    s.postFault p r = some 8 := by
  unfold State.postFault
  simp [h]

theorem State.rduPost_groupGone {s t : State} {g : GroupId} {p : PortId} {r : Vector Dword 8} (hs : s.groupGone g)
    (h : s.rduPost p r = some t) : t.groupGone g := by
  by_cases hroom : (s.posts[p]).length < 16
  · cases hfault : s.postFault p r with
    | some kind =>
      obtain ⟨u, hu, hwork, _⟩ := State.rduPost_of_refused hroom (by rw [hfault]; exact Option.some_ne_none kind)
      rw [hu] at h
      cases h
      exact State.groupGone_of_rduWork hwork hs
    | none =>
      obtain ⟨hoff, hposts⟩ := hs
      have hne : g ≠ postG r := by
        intro heq
        rw [State.postFault_of_disabled p (by rw [← heq, hoff]; rfl)] at hfault
        cases hfault
      obtain ⟨u, hu, huposts, _, _, hgroups, _⟩ := State.rduPost_of_accepted hroom hfault
      rw [hu] at h
      cases h
      refine ⟨(hgroups g hne).trans hoff, fun q x hx => ?_⟩
      rw [huposts] at hx
      by_cases hq : p = q
      · subst hq
        rw [Fin.getElem_fin, Vector.getElem_set_self, List.mem_append, List.mem_singleton] at hx
        rcases hx with hx | rfl
        · exact hposts p x hx
        · exact hne.symm
      · rw [Fin.getElem_fin, Vector.getElem_set_ne _ _ (Fin.val_ne_of_ne hq)] at hx
        exact hposts q x hx
  · rw [State.rduPost_of_full r (not_lt.1 hroom)] at h
    cases h

theorem State.takeHeld_groupGone {s : State} {g : GroupId} (p : PortId) (n : Nat) (hs : s.groupGone g) :
    (s.takeHeld p n).groupGone g := by
  induction n generalizing s with
  | zero => exact hs
  | succ n ih =>
    rw [State.takeHeld]
    split
    · exact hs
    · next x rest _ =>
      have hrest : ({ s with heldPosts := rest } : State).groupGone g := hs
      split
      · exact hs
      · next hpost => exact ih (State.rduPost_groupGone hrest hpost)

theorem State.foldl_takeHeld_groupGone {s : State} {g : GroupId} (n : Nat) (ps : List PortId) (hs : s.groupGone g) :
    (ps.foldl (fun (t : State) q => t.takeHeld q n) s).groupGone g := by
  induction ps generalizing s with
  | nil => exact hs
  | cons p ps ih => exact ih (State.takeHeld_groupGone p n hs)

/-- A state in which the group has been switched off. -/
def State.dropGroup (s : State) (g : GroupId) : State :=
  { s with posts := s.posts.map fun (q : List (Vector Dword 8)) => q.filter fun r => postG r != g }.updGroup g fun _ => Group.off

theorem State.dropGroup_groupGone (s : State) (g : GroupId) : (s.dropGroup g).groupGone g := by
  refine ⟨State.group_updGroup_same _ _ _, fun q r hr => ?_⟩
  rw [State.dropGroup, State.updGroup, Fin.getElem_fin, Vector.getElem_map, List.mem_filter] at hr
  exact bne_iff_ne.1 hr.2

/-! ### Opening, enabling and disabling -/

theorem execGroupDisable_of_husked {s : State} (p : PortId) {g : GroupId} {v : Dword} {w : Word32} (hw : huskValue v = some w)
    (hen : w.getLsbD 18 = false) (hmoves : ((s.group g).en && s.grpMoves g w) = false) : exec (.groupDisable p g v) s =
      .next ((List.finRange 4).foldl (fun (t : State) q => t.takeHeld q s.heldPosts.length)
        ((s.setReg 8 (0x600 + 0x28 * g.val) (BitVec.ofNat 64 (fld w 0 18))).dropGroup g)) := by
  change execGroupDisable p g v s = _
  simp only [execGroupDisable, hw, hen, hmoves, Bool.false_eq_true, if_false]
  rfl

/-- A group that passes its checks: enabled, with its schedule and nothing else. -/
theorem execGroupEnable_of_passed {s t : State} (p : PortId) {g : GroupId} {v : Dword} {w : Word32} {es : List Word32}
    (hw : huskValue v = some w) (hen : w.getLsbD 18 = true) (hoff : (s.group g).en = false)
    (hpass : (s.setReg 8 (0x600 + 0x28 * g.val) (BitVec.ofNat 64 (fld w 0 18))).setupFault g = (none, es, t)) :
    exec (.groupEnable p g v) s = .next (t.updGroup g fun _ => { Group.off with en := true, sched := es }) := by
  change execGroupEnable p g v s = _
  simp only [execGroupEnable, hw, hen, hoff, hpass, Bool.not_true, Bool.false_eq_true, if_false]

theorem execGroupEnable_of_failed {s t : State} (p : PortId) {g : GroupId} {v : Dword} {w : Word32} {kind : Nat}
    {es : List Word32} (hw : huskValue v = some w) (hen : w.getLsbD 18 = true) (hoff : (s.group g).en = false)
    (hfail : (s.setReg 8 (0x600 + 0x28 * g.val) (BitVec.ofNat 64 (fld w 0 18))).setupFault g = (some kind, es, t)) :
    exec (.groupEnable p g v) s = .next (t.rduErr (t.home g) 0 kind g.val 0 0 (t.schedOff g)) := by
  change execGroupEnable p g v s = _
  simp only [execGroupEnable, hw, hen, hoff, hfail, Bool.not_true, Bool.false_eq_true, if_false]

/-- Settles O52: the post queue's three cases, the opening by its definition, and `groupGone` for a group that is disabled. -/
theorem postsQueueAndInstancesOpen : Obligations.PostsQueueAndInstancesOpen := by
  unfold Obligations.PostsQueueAndInstancesOpen
  intro s
  refine ⟨fun p r hready hheld => ⟨?queued, ?held, ?refused⟩, fun g post rest hen hinst hready htake => ⟨?fresh, ?kept⟩,
    fun p g v w hw => ⟨fun hset hoff => ⟨?passed, ?failed⟩, ?disabled⟩, fun p n h => State.takeHeld_of_none n h,
    fun p r rest h t ht n => State.takeHeld_of_front h ht n⟩
  case queued =>
    intro hroom hfault
    obtain ⟨t, hpost, hposts, hkeep, hkey, _, hcores, hmem⟩ := State.rduPost_of_accepted hroom hfault
    refine ⟨t, ?_, ?_, hkeep, hkey, fun c => congrArg (·[c]) hcores, byteAt_of_mem hmem⟩
    · rw [State.execRedPost_of_ready r hready hheld, hpost]
      rfl
    · rw [hposts]
      exact Vector.getElem_set_self _
  case held =>
    intro hfull
    rw [State.execRedPost_of_ready r hready hheld, State.rduPost_of_full r hfull]
    rfl
  case refused =>
    intro hroom hfault hstat
    obtain ⟨t, hpost, hwork, hmem⟩ := State.rduPost_of_refused hroom hfault
    refine ⟨t, ?_, State.posts_of_rduWork hwork, State.groups_of_rduWork hwork, byteAt_of_mem (hmem hstat)⟩
    rw [State.execRedPost_of_ready r hready hheld, hpost]
    rfl
  case fresh =>
    intro hkept
    change execInstanceOpen g s = _
    simp only [execInstanceOpen, hen, hinst, hready, htake, hkept, Option.isSome_none, Bool.not_true, Bool.or_self,
      Bool.false_eq_true, if_false]
  case kept =>
    intro lead tail hkept
    change ∃ t, execInstanceOpen g s = .next t ∧ _
    simp only [execInstanceOpen, hen, hinst, hready, htake, hkept, Option.isSome_none, Bool.not_true, Bool.or_self,
      Bool.false_eq_true, if_false]
    refine ⟨_, rfl, ?_⟩
    rw [State.group_of_rduWork ((State.rduWork_holdResult ..).trans
      ((State.rduWork_readLanes ..).trans (State.rduWork_logPair ..))), State.group_updGroup_same]
    exact ⟨rfl, rfl, _, rfl, rfl, rfl, rfl⟩
  case passed =>
    intro es t hpass
    refine ⟨_, execGroupEnable_of_passed p hw hset hoff hpass, ?_⟩
    rw [State.group_updGroup_same]
    exact ⟨rfl, rfl, rfl⟩
  case failed =>
    intro kind es t hfail
    refine ⟨_, execGroupEnable_of_failed p hw hset hoff hfail, ?_⟩
    rw [State.group_of_rduWork (State.rduWork_rduErr _ _ _ _ _ _ _ _), State.group_of_rduWork (State.rduWork_setupFault hfail)]
    exact hoff
  case disabled =>
    intro hclear hmoves
    obtain ⟨hoff, hposts⟩ := State.foldl_takeHeld_groupGone s.heldPosts.length (List.finRange 4) (State.dropGroup_groupGone
      (s.setReg 8 (0x600 + 0x28 * g.val) (BitVec.ofNat 64 (fld w 0 18))) g)
    refine ⟨_, execGroupDisable_of_husked p hw hclear hmoves, by rw [hoff]; rfl, by rw [hoff]; rfl, by rw [hoff]; rfl, hposts,
      fun hnone => ?_⟩
    rw [hnone]
    exact fun _ => rfl

end Sys2Proof.Machine

namespace Sys2Proof.Machine

/-! ### Deadlines, results and the status record (R396, R397, R400, R403, R405, R407) -/

theorem keyLater_self (a : BitVec 48) : keyLater a a = false := by
  simp [keyLater]

/-- Closing leaves the group with nothing open. -/
theorem State.inst_closeInst (s : State) (g : GroupId) (k : Inst) : ((s.closeInst g k).group g).inst = none := by
  unfold State.closeInst
  rw [State.group_updGroup_same]

theorem State.inst_updInst {s : State} {g : GroupId} {k : Inst} (f : Inst → Inst) (h : (s.group g).inst = some k) :
    ((s.updInst g f).group g).inst = some (f k) := by
  rw [State.updInst, State.group_updGroup_same, h]
  rfl

/-- How an accepted contribution that fails goes on: the next entry, or in cut-through P with CKERR. -/
theorem State.failPair_eq (s : State) (p : PortId) (g : GroupId) (k : Inst) (cut : Bool) (partner : Nat) :
    s.failPair p g k cut partner =
      (let f := s.partialSum p g k
       let m := f.2.missed g k partner
       if cut then
         let r := m.readLanes (m.redPort g (k.entry + 1)) g k (m.placeAt g k k.pAt)
         r.s.sendBody g (k.entry + 1) { k.hdr with partial_ := true, ckerr := k.hdr.ckerr || !postPp k.post }
           (f.1 ++ r.bytes.drop f.1.length)
       else m.nextEntry g) := rfl

theorem execPairDeadline_of_waiting {s : State} {g : GroupId} {k : Inst} {v : Word32} (hinst : (s.group g).inst = some k)
    (hready : s.rduReady (s.home g) = true) (hst : k.st = .waitLead) (hv : (s.group g).sched[k.entry]? = some v) :
    exec (.pairDeadline g) s = .next (s.resolveMissing g k (entryPartner v)) := by
  change execPairDeadline g s = _
  simp only [execPairDeadline, hinst, hst, hv, hready, if_true]

theorem execXferTmoExpiry_of_adding {s : State} {g : GroupId} {k : Inst} {lead : RedRecord} {q : PortId} {cut : Bool}
    (hinst : (s.group g).inst = some k) (hready : s.rduReady (s.home g) = true) (hst : k.st = .adding lead q cut) :
    exec (.xferTmoExpiry g) s = .next ((s.rduErr (s.home g) 3 9 g.val k.entry (postStep k.post) (leadFrom (valuesOf lead))).failPair
      q g k cut (leadFrom (valuesOf lead))) := by
  change execXferTmoExpiry g s = _
  simp only [execXferTmoExpiry, hinst, hst, hready, Bool.not_true, Bool.false_eq_true, if_false]

theorem execResultTmo_of_waiting {s : State} {g : GroupId} {k : Inst} (hinst : (s.group g).inst = some k)
    (hready : s.rduReady (s.home g) = true) (hst : k.st = .waitReq ∨ k.st = .waitResult) :
    ∃ u k', exec (.resultTmo g) s = .next (State.closeInst u g k') := by
  change ∃ u k', execResultTmo g s = _
  simp only [execResultTmo, hinst, hready, hst, and_self, if_true]
  exact ⟨_, _, rfl⟩

theorem execDeliveryDone_of_deliver {s : State} {g : GroupId} {k : Inst} (hinst : (s.group g).inst = some k)
    (hready : s.rduReady (s.home g) = true) (hst : k.st = .deliver) : exec (.deliveryDone g) s =
      .next ((if k.reason = 0 then s.pm (pgMp (s.home g)) 0x49 1 else s).closeInst g k) := by
  change execDeliveryDone g s = _
  simp only [execDeliveryDone, hinst, hready, hst, and_self, if_true]

section Arrival

variable {s : State} {g : GroupId} {p : PortId} {lead tail : RedRecord} {vs ts : List Word32}
  (hready : s.rduReady p = true) (hpower : s.ccu.power = .on) (hvs : recValues lead = some vs) (hts : recValues tail = some ts)
  (hslot : s.slotOf (recVal vs 0 % 2 ^ 16) = some g) (hsender : (s.group g).sender = some (leadFrom vs))
include hready hpower hvs hts hslot hsender

/-- A later key's result is kept while nothing of the group is open. -/
theorem execResultArrival_of_later {lanes : List Byte} (hinst : (s.group g).inst = none)
    (hlater : ∀ b, (s.group g).key = some b → keyLater (leadKey vs) b = true) (hlen : lanes.length ≤ s.areaSize g) :
    exec (.resultArrival p lead lanes tail) s = .next ((s.rduStore p (s.rbufOff g + s.areaSize g) lanes).updGroup g fun y =>
      { y with kept := some (lead, tail) }) := by
  have hslot' : s.slotOf (recVal vs 0 % 65536) = some g := hslot
  change execResultArrival p lead lanes tail s = _
  cases hkey : (s.group g).key with
  | none => simp [execResultArrival, hready, hpower, hvs, hts, hslot', hsender, hinst, hkey, hlen]
  | some b => simp [execResultArrival, hready, hpower, hvs, hts, hslot', hsender, hinst, hkey, hlater b hkey, hlen]

/-- A later key's result is not served while an earlier one is open. -/
theorem execResultArrival_of_busy {k : Inst} (lanes : List Byte) (hinst : (s.group g).inst = some k)
    (hlater : ∀ b, (s.group g).key = some b → keyLater (leadKey vs) b = true) :
    exec (.resultArrival p lead lanes tail) s = .next s := by
  have hslot' : s.slotOf (recVal vs 0 % 65536) = some g := hslot
  change execResultArrival p lead lanes tail s = _
  cases hkey : (s.group g).key with
  | none => simp [execResultArrival, hready, hpower, hvs, hts, hslot', hsender, hinst, hkey]
  | some b => simp [execResultArrival, hready, hpower, hvs, hts, hslot', hsender, hinst, hkey, hlater b hkey]

/-- The current key's result is stored, held and delivered. -/
theorem execResultArrival_of_current {k : Inst} {lanes : List Byte} (hinst : (s.group g).inst = some k)
    (hkey : (s.group g).key = some (leadKey vs)) (hst : k.st ≠ .deliver) (hlen : lanes.length = 256 * postLen k.post)
    (hkind : leadKind vs = if postPp k.post then 4 else 1) : exec (.resultArrival p lead lanes tail) s =
      .next (((s.rduStore p (s.placeAt g k k.pAt.other) lanes).updInst g fun y => { y with
        st := .deliver, e := vs.getD 2 0, reason := BitVec.ofNat 4 (recVal ts 0 / 2 ^ 28), miss := recVal ts 3 % 2 ^ 24,
        resAt := k.pAt.other, resLead := lead, resTail := tail }).holdResult g k.entry lead tail lanes (vs.getD 2 0)
          (recVal ts 0 % 2 ^ 24) (recVal ts 0 / 2 ^ 28) k.post) := by
  have hslot' : s.slotOf (recVal vs 0 % 65536) = some g := hslot
  change execResultArrival p lead lanes tail s = _
  simp [execResultArrival, hready, hpower, hvs, hts, hslot', hsender, hinst, hkey, hst, hlen, hkind, keyLater_self]

end Arrival

/-- Settles O55: each command by its case, and the group's record by what storing and sending leave alone. -/
theorem reductionEndsInAStatusRecord : Obligations.ReductionEndsInAStatusRecord := by
  unfold Obligations.ReductionEndsInAStatusRecord
  intro s g k
  refine ⟨fun hinst hready => ⟨fun v hst hv => execPairDeadline_of_waiting hinst hready hst hv, ?xfer, fun hst => ?timeout,
    fun hst => ⟨_, execDeliveryDone_of_deliver hinst hready hst, State.inst_closeInst _ _ _, rfl⟩⟩,
    fun p lead tail vs ts lanes hready hpower hvs hts hslot hsender => ⟨?later, ?current,
      fun hinst hlater => execResultArrival_of_busy hready hpower hvs hts hslot hsender lanes hinst hlater⟩⟩
  case xfer =>
    intro lead q cut hst
    have hexec := execXferTmoExpiry_of_adding hinst hready hst
    rw [State.failPair_eq] at hexec
    exact ⟨fun hcut => by rw [hexec, hcut]; rfl, fun hcut => by rw [hexec, hcut]; rfl⟩
  case timeout =>
    obtain ⟨u, k', hexec⟩ := execResultTmo_of_waiting hinst hready hst
    exact ⟨_, hexec, State.inst_closeInst u g k'⟩
  case later =>
    intro hinst hlater hlen
    refine ⟨_, execResultArrival_of_later hready hpower hvs hts hslot hsender hinst hlater hlen, ?_⟩
    rw [State.group_updGroup_same]
  case current =>
    intro hinst hkey hst hlen hkind
    have hstored : ((s.rduStore p (s.placeAt g k k.pAt.other) lanes).group g).inst = some k :=
      (congrArg (·.inst) (State.group_of_rduWork (State.rduWork_rduStore ..) g)).trans hinst
    refine ⟨_, execResultArrival_of_current hready hpower hvs hts hslot hsender hinst hkey hst hlen hkind, _,
      (congrArg (·.inst) (State.group_of_rduWork (State.rduWork_holdResult ..) g)).trans (State.inst_updInst _ hstored),
      rfl, rfl, rfl, rfl⟩

end Sys2Proof.Machine

namespace Sys2Proof.Machine

/-! ### A packet that a port receives (R427, R428, R433, R440, R442) -/

theorem State.port_updPort_same (s : State) (p : PortId) (f : Port → Port) : (s.updPort p f).ports[p] = f s.ports[p] :=
  Vector.getElem_set_self _

theorem State.port_updPort_other (s : State) {p q : PortId} (f : Port → Port) (h : q ≠ p) :
    (s.updPort p f).ports[q] = s.ports[q] :=
  Vector.getElem_set_ne p.isLt q.isLt (Fin.val_ne_of_ne (Ne.symm h))

@[simp] theorem State.pm_inbox (s : State) (page code n : Nat) : (s.pm page code n).inbox = s.inbox :=
  s.pm_same (·.inbox) (fun _ _ _ _ => rfl) page code n

/-- An error of a port's page leaves alone what sending leaves alone. -/
theorem SendFrame.portErr {γ : Type} {f : State → γ} (hf : SendFrame f)
    (hreg : ∀ s page off v, f (State.setReg s page off v) = f s) (s : State) (p : PortId) (b kind code : Nat) (k : Packet) :
    f (s.portErr p b kind code k) = f s :=
  hf.err (fun s off v _ => hreg s _ off v) s b _ _

/-- A packet that fails a check leaves a NAK due, and nothing of it. -/
theorem State.nak_linkBad (s : State) (p : PortId) (kind : Nat) (k : Packet) : (s.linkBad p kind k).ports[p].nak = true := by
  rw [State.linkBad, State.port_updPort_same]

theorem State.rxSeq_linkBad (s : State) (p : PortId) (kind : Nat) (k : Packet) :
    (s.linkBad p kind k).ports[p].rxSeq = s.ports[p].rxSeq := by
  rw [State.linkBad, State.port_updPort_same]
  refine ((SendFrame.of_port p Port.rxSeq fun _ _ _ _ _ _ _ => rfl).portErr (fun _ _ _ _ => rfl) _ _ _ _ _ _).trans ?_
  rw [State.pm_ports]
  rfl

theorem State.inbox_linkBad (s : State) (p : PortId) (kind : Nat) (k : Packet) : (s.linkBad p kind k).inbox = s.inbox := by
  rw [State.linkBad]
  refine ((SendFrame.of_other (f := (·.inbox)) (fun _ _ _ _ => rfl) fun _ _ _ => rfl).portErr (fun _ _ _ _ => rfl)
    _ _ _ _ _ _).trans ?_
  rw [State.pm_inbox]
  rfl

/-- A link control flit leaves everything but the port that sends it, and the performance counters. -/
theorem State.lcfOut_same {γ : Type} {f : State → γ} (hreg : ∀ s page off v, f (State.setReg s page off v) = f s)
    (hport : ∀ s p g, f (State.updPort s p g) = f s) (s : State) (p : PortId) : f (s.lcfOut p) = f s :=
  (State.pm_same f hreg _ _ _ _).trans (hport _ _ _)

theorem State.linkTakes_same {γ : Type} {f : State → γ} (hreg : ∀ s page off v, f (State.setReg s page off v) = f s)
    (hport : ∀ s p g, f (State.updPort s p g) = f s) (s : State) (p : PortId) (k : Packet) : f (s.linkTakes p k) = f s := by
  unfold State.linkTakes
  dsimp only
  split
  · exact (State.lcfOut_same hreg hport _ p).trans (hport _ _ _)
  · exact hport _ _ _

theorem State.rxSeq_lcfOut (s : State) (p : PortId) : (s.lcfOut p).ports[p].rxSeq = s.ports[p].rxSeq := by
  unfold State.lcfOut
  rw [State.pm_ports, State.port_updPort_same]

/-- An accepted packet advances SEQ. -/
theorem State.rxSeq_linkTakes (s : State) (p : PortId) (k : Packet) : (s.linkTakes p k).ports[p].rxSeq = k.seq := by
  unfold State.linkTakes
  dsimp only
  split
  · rw [State.rxSeq_lcfOut, State.port_updPort_same]
  · rw [State.port_updPort_same]

section Receiving

variable {s : State} {p : PortId} {k : Packet} (hlive : s.portLive p = true) (hreceives : s.linkReceives p k = true)
  (hhello : k.type ≠ 0xB) (hlcf : k.type ≠ 0xF)
include hlive hreceives hhello hlcf

/-- What PACKET_ROUTE does once the link takes the packet. -/
theorem execPacketRoute_of_received : exec (.packetRoute p k) s =
    (if k.hchk ≠ k.headCheck then .next ((s.pm (pgMp p) 0x02 k.flits).linkBad p 2 k)
    else if k.crc ≠ k.bodyCheck then .next ((s.pm (pgMp p) 0x02 k.flits).linkBad p 1 k)
    else if k.seq ≠ s.ports[p].rxSeq + 1 then
      .next (if (k.seq - s.ports[p].rxSeq).toNat ≤ 32768 ∧ k.seq ≠ s.ports[p].rxSeq then
        (s.pm (pgMp p) 0x02 k.flits).updPort p fun q => { q with nak := true } else s.pm (pgMp p) 0x02 k.flits)
    else if (s.entersBy k && s.portFull p k) || (s.transits k && s.memHalted) then .next s
    else .next (((s.pm (pgMp p) 0x02 k.flits).linkTakes p k).packetIn p k)) :=
  if_neg (by rw [hlive, hreceives, beq_false_of_ne hhello, beq_false_of_ne hlcf]; decide)

/-- A packet in its turn, with its checks right, that nothing holds up. -/
theorem execPacketRoute_of_accepted (hhead : k.hchk = k.headCheck) (hbody : k.crc = k.bodyCheck)
    (hseq : k.seq = s.ports[p].rxSeq + 1) (hroom : (s.entersBy k && s.portFull p k) = false)
    (htransit : (s.transits k && s.memHalted) = false) :
    exec (.packetRoute p k) s = .next (((s.pm (pgMp p) 0x02 k.flits).linkTakes p k).packetIn p k) := by
  rw [execPacketRoute_of_received hlive hreceives hhello hlcf, if_neg (not_not.2 hhead), if_neg (not_not.2 hbody),
    if_neg (not_not.2 hseq), hroom, htransit]
  rfl

end Receiving

/-- A packet without a fault is routed by its DST once the cluster is ready. -/
theorem State.packetIn_of_routed {s : State} (p : PortId) {k : Packet} (htype : typeReserved k = false)
    (hlen : k.payload.length ≤ 2048) (hflits : k.tc = 0 → k.flits ≤ 2) (hsr : k.sr = false) (hready : s.ccu.readyS = true) :
    s.packetIn p k = s.routed p k := by
  unfold State.packetIn
  rw [if_neg (by simp [htype, hlen]), if_neg (fun h => absurd (hflits h.1) (not_le.2 h.2)), if_neg (by simp [hsr]),
    if_neg (by simp [hready])]

theorem State.routed_of_deliver {s : State} (p : PortId) {k : Packet} (h : s.route k.dst k.mem k.yx = .deliver)
    (hk : takesIn k = true) : s.routed p k = s.deliver (some p) k := by
  simp only [State.routed, h, hk, if_true]

theorem State.routed_of_spent {s : State} (p : PortId) {k : Packet} (h : s.route k.dst k.mem k.yx ≠ .deliver)
    (hk : k.hops = 0) : s.routed p k = s.hopDrops p k := by
  unfold State.routed
  split
  · contradiction
  · exact if_pos hk
  · exact if_pos hk

theorem State.routed_of_out {s : State} (p : PortId) {k : Packet} {o : PortId} {yx : Bool}
    (h : s.route k.dst k.mem k.yx = .out o yx) (hk : k.hops ≠ 0) : s.routed p k =
      ((if s.detoured k then s.pm (pgMp p) 0x0B 1 else s).pm (pgMp p) 0x0C 1).enqueue o { k with yx := yx, hops := k.hops - 1 } := by
  simp only [State.routed, h, hk, if_false]

theorem State.routed_of_noroute {s : State} (p : PortId) {k : Packet} (h : s.route k.dst k.mem k.yx = .noroute)
    (hk : k.hops ≠ 0) (hreq : isRequest k = true) : s.routed p k =
      (s.noRoute p k).sendAnswer (errPacket k (s.srcWord (8 + p.val)) errNoRoute) := by
  simp only [State.routed, h, hk, hreq, if_false, if_true]

/-- Settles O56: the checks in PACKET_ROUTE's order, and `routed` by the packet's route. -/
theorem packetsAreCheckedAndDelivered : Obligations.PacketsAreCheckedAndDelivered := by
  unfold Obligations.PacketsAreCheckedAndDelivered
  intro s p k hlive hreceives hhello hlcf
  have hexec := execPacketRoute_of_received hlive hreceives hhello hlcf
  refine ⟨fun hhead => ?head, fun hhead hbody => ?body, fun hhead hbody hseq => ?order, fun hhead hbody hseq henters hfull => ?full,
    fun hhead hbody hseq htype hroom htransit hlen hflits hsr hready => ?accepted⟩
  case head =>
    refine ⟨_, hexec.trans (if_pos hhead), State.nak_linkBad _ _ _ _, ?_, ?_, rfl⟩
    · rw [State.rxSeq_linkBad, State.pm_ports]
    · rw [State.inbox_linkBad, State.pm_inbox]
  case body =>
    rw [if_neg (not_not.2 hhead)] at hexec
    refine ⟨_, hexec.trans (if_pos hbody), State.nak_linkBad _ _ _ _, ?_, ?_, rfl⟩
    · rw [State.rxSeq_linkBad, State.pm_ports]
    · rw [State.inbox_linkBad, State.pm_inbox]
  case order =>
    rw [if_neg (not_not.2 hhead), if_neg (not_not.2 hbody), if_pos hseq] at hexec
    refine ⟨fun hahead hnew => ?_, fun hold => ?_⟩
    · rw [hexec, if_pos ⟨hahead, hnew⟩]
    · rw [hexec, if_neg fun h => hold.elim (fun hfar => absurd h.1 (not_le.2 hfar)) h.2]
  case full =>
    rw [if_neg (not_not.2 hhead), if_neg (not_not.2 hbody), if_neg (not_not.2 hseq), henters, hfull] at hexec
    exact hexec
  case accepted =>
    have hready' : ((s.pm (pgMp p) 0x02 k.flits).linkTakes p k).ccu.readyS = true := by
      rw [State.linkTakes_same (f := (·.ccu)) (fun _ _ _ _ => rfl) (fun _ _ _ => rfl), State.pm_ccu]
      exact hready
    have hrouted : exec (.packetRoute p k) s = .next (((s.pm (pgMp p) 0x02 k.flits).linkTakes p k).routed p k) := by
      rw [execPacketRoute_of_accepted hlive hreceives hhello hlcf hhead hbody hseq hroom htransit,
        State.packetIn_of_routed p htype hlen hflits hsr hready']
    refine ⟨fun hroute hk => ?deliver, fun hroute hk => ?spent, fun o yx hroute hk => ?out, fun hroute hk hreq => ?noroute⟩
    case deliver =>
      refine ⟨_, hrouted.trans (congrArg Host.Outcome.next (State.routed_of_deliver p hroute hk)), ?_, ?_, fun c => ?_,
        byteAt_of_mem ?_⟩
      · rw [State.deliver, State.linkTakes_same (f := (·.inbox)) (fun _ _ _ _ => rfl) (fun _ _ _ => rfl), State.pm_inbox]
      · exact State.rxSeq_linkTakes _ p k
      · refine congrArg (·[c]) ((State.linkTakes_same (f := (·.cores)) (fun _ _ _ _ => rfl) (fun _ _ _ => rfl) _ p k).trans ?_)
        exact State.pm_cores _ _ _ _
      · refine (State.linkTakes_same (f := (·.mem)) (fun _ _ _ _ => rfl) (fun _ _ _ => rfl) _ p k).trans ?_
        exact State.pm_mem _ _ _ _
    case spent => exact hrouted.trans (congrArg Host.Outcome.next (State.routed_of_spent p hroute hk))
    case out => exact hrouted.trans (congrArg Host.Outcome.next (State.routed_of_out p hroute hk))
    case noroute => exact hrouted.trans (congrArg Host.Outcome.next (State.routed_of_noroute p hroute hk hreq))

end Sys2Proof.Machine

namespace Sys2Proof.Machine

/-! ### Links, HELLOs and the coordinates (R443, R444, R448, R527) -/

theorem blockOf_pgMp (p : PortId) : blockOf (pgMp p) = some .mp := by
  revert p
  decide

theorem portOf_pgMp (p : PortId) : (Fin.ofNat 4 (pgMp p - 8) : PortId) = p := by
  revert p
  decide

theorem State.coordValid_wrote (s : State) (page off o : Nat) : (s.wrote page off o).coordValid = s.coordValid := rfl
theorem State.step_wrote (s : State) (page off o : Nat) : (s.wrote page off o).ccu.step = s.ccu.step := rfl

/-- The end of start-up's step 5 touches the CCU alone. -/
theorem State.endStep5_same {γ : Type} {f : State → γ} (h : ∀ s g, f (State.updCcu s g) = f s) (s : State) :
    f s.endStep5 = f s := by
  unfold State.endStep5
  dsimp only
  split
  · exact h _ _
  · rfl

theorem State.link_endStep5 (s : State) (p : PortId) : s.endStep5.ports[p].link = s.ports[p].link :=
  State.endStep5_same (f := fun s : State => s.ports[p].link) (fun _ _ => rfl) s

theorem State.step_endStep5 (s : State) : s.ccu.step ≤ s.endStep5.ccu.step := by
  unfold State.endStep5
  dsimp only
  split
  · next h =>
    obtain ⟨hstep, _⟩ := h
    show s.ccu.step ≤ 6
    omega
  · exact le_rfl

/-- The link's state, which sending does not touch. -/
theorem sendFrame_link (p : PortId) : SendFrame fun s => s.ports[p].link := .of_port p Port.link fun _ _ _ _ _ _ _ => rfl

theorem State.link_startHello {s : State} (p : PortId) (h : s.coordValid = true) : (s.startHello p).ports[p].link = .hello := by
  rw [State.startHello, State.port_updPort_same, h]
  rfl

/-- Starting the exchange everywhere touches the ports alone. -/
theorem State.helloAll_same {γ : Type} {f : State → γ} (h : ∀ s p g, f (State.updPort s p g) = f s) (s : State) :
    f s.helloAll = f s := by
  refine foldl_same f _ (fun t p => ?_) _ s
  split
  · rfl
  · unfold State.startHello
    exact h _ _ _

theorem State.coordValid_of_reg {s t : State} (h : t.reg 8 0x150 = s.reg 8 0x150) : t.coordValid = s.coordValid := by
  unfold State.coordValid State.rf
  rw [h]

/-! #### HELLO_SEND and HELLO -/

/-- The check of a sealed packet covers everything but itself. -/
theorem Packet.crc_seal (k : Packet) : k.seal.crc = k.seal.bodyCheck := rfl

/-- The HELLO that a port sends. -/
def State.helloPacket (s : State) (p : PortId) : Packet :=
  { Packet.blank 0xB 0 0 with
    src := s.srcWord (8 + p.val), payload := (s.helloWords p).flatMap fun w => natLe 8 (husked w).toNat }

theorem execHelloSend_of_waiting {s : State} {p : PortId} (hlive : s.portLive p = true) (hcoord : s.coordValid = true)
    (hup : s.ports[p].link ≠ .up) (hdis : s.ports[p].link ≠ .disabled) : exec (.helloSend p) s =
      .next (((s.updPort p fun q => { q with hello := some (s.helloPacket p).seal }).pm (pgMp p) 0x01
        (s.helloPacket p).flits).pm (pgMp p) 0x03 1) :=
  if_neg (by rw [hlive, hcoord, beq_false_of_ne hup, beq_false_of_ne hdis]; decide)

/-- A HELLO that passes its checks. -/
theorem execHello_of_ok {s : State} {p : PortId} {ws : Vector Dword 4} {w : List Word32} (hlive : s.portLive p = true)
    (hcoord : s.coordValid = true) (hdis : s.ports[p].link ≠ .disabled) (hw : ws.toList.mapM huskValue = some w)
    (hok : s.helloOk p w = true) : exec (.hello p ws) s = .next (((((s.pm (pgMp p) 0x02 2).setReg (pgMp p) 0x110
      (BitVec.ofNat 64 ((w.getD 0 0).toNat % 2 ^ 25 + 2 ^ 25 * ((w.getD 1 0).toNat % 4) + 2 ^ 27 * ((w.getD 1 0).toNat / 4 % 2)
        + 2 ^ 28))).updPort p fun q =>
        { (if q.link = .failed then q.renumber else q) with link := .up, fell := false, news := q.fell }).endStep5).pumpAll p) := by
  change execHello p ws s = _
  simp only [execHello, hlive, hcoord, beq_false_of_ne hdis, hw, hok, Bool.not_true, Bool.or_self, Bool.false_eq_true, if_false,
    if_true, Option.getD_some]

theorem execHello_of_bad {s : State} {p : PortId} {ws : Vector Dword 4} (hlive : s.portLive p = true)
    (hcoord : s.coordValid = true) (hdis : s.ports[p].link ≠ .disabled)
    (hbad : ws.toList.mapM huskValue = none ∨ ∃ w, ws.toList.mapM huskValue = some w ∧ s.helloOk p w = false) :
    exec (.hello p ws) s = .next (((s.pm (pgMp p) 0x02 2).updPort p fun q => { q with link := .miswire }).portErr p 10 8 0
      (Packet.blank 0xB 0 0)) := by
  change execHello p ws s = _
  rcases hbad with hnone | ⟨w, hw, hok⟩
  · simp only [execHello, hlive, hcoord, beq_false_of_ne hdis, hnone, Bool.not_true, Bool.or_self, Bool.false_eq_true, if_false]
  · simp only [execHello, hlive, hcoord, beq_false_of_ne hdis, hw, hok, Bool.not_true, Bool.or_self, Bool.false_eq_true, if_false]

/-- The neighbour's coordinates and VALID, as NBR holds them. -/
theorem nbr_fields (c v : Nat) : fld (BitVec.ofNat 64 (c % 2 ^ 25 + 2 ^ 25 * (v % 4) + 2 ^ 27 * (v / 4 % 2) + 2 ^ 28)) 0 25 = c % 2 ^ 25 ∧
    bitAt (BitVec.ofNat 64 (c % 2 ^ 25 + 2 ^ 25 * (v % 4) + 2 ^ 27 * (v / 4 % 2) + 2 ^ 28)) 28 = true := by
  constructor
  · rw [fld_ofNat 64 _ 0 25 (by omega)]
    omega
  · rw [bitAt, BitVec.getLsbD_ofNat, Nat.testBit_eq_decide_div_mod_eq, Bool.and_eq_true]
    exact ⟨rfl, decide_eq_true (by omega)⟩

/-! #### Route replacement (R439) -/

/-- Register of the ROUTE entry towards cluster `d`. -/
abbrev routeReg (d : Nat) : Nat := 0x180 + 8 * d

/-- Write `v` into the ROUTE entries, of the first `n`, that a test picks by their present value. -/
def State.setRoutes (s : State) (pick : Nat → Dword → Bool) (v : Dword) (n : Nat) : State :=
  (List.range n).foldl (fun (t : State) d => if pick d (t.reg 8 (routeReg d)) then t.setReg 8 (routeReg d) v else t) s

/-- Every entry is looked at once. -/
theorem State.reg_setRoutes (s : State) (pick : Nat → Dword → Bool) (v : Dword) (n d : Nat) :
    (s.setRoutes pick v n).reg 8 (routeReg d) =
      if d < n ∧ pick d (s.reg 8 (routeReg d)) = true then v else s.reg 8 (routeReg d) := by
  induction n with
  | zero => rw [if_neg fun h => Nat.not_lt_zero d h.1]; rfl
  | succ n ih =>
    have hstep : s.setRoutes pick v (n + 1) =
        if pick n ((s.setRoutes pick v n).reg 8 (routeReg n)) then (s.setRoutes pick v n).setReg 8 (routeReg n) v
        else s.setRoutes pick v n := by
      rw [State.setRoutes, List.range_succ, List.foldl_append]
      rfl
    have hmiss : ¬(n < n ∧ pick n (s.reg 8 (routeReg n)) = true) := fun h => Nat.lt_irrefl n h.1
    rw [hstep]
    by_cases hd : d = n
    · subst hd
      rw [if_neg hmiss] at ih
      rw [ih]
      by_cases hpick : pick d (s.reg 8 (routeReg d)) = true
      · rw [if_pos hpick, State.reg_setReg_same, if_pos ⟨Nat.lt_succ_self d, hpick⟩]
      · rw [if_neg hpick, ih, if_neg fun h => hpick h.2]
    · have hkeep : ∀ x, ((s.setRoutes pick v n).setReg 8 (routeReg n) x).reg 8 (routeReg d) =
          (s.setRoutes pick v n).reg 8 (routeReg d) :=
        fun x => State.reg_setReg_other _ x (by simp only [regKey, routeReg]; omega)
      have hlt : d < n + 1 ↔ d < n := by omega
      simp only [hlt]
      split
      · rw [hkeep, ih]
      · exact ih

theorem State.replaceRoutes_eq (s : State) (p : PortId) : s.replaceRoutes p = s.setRoutes (fun d r =>
    decide (d ≠ s.ownCluster ∧ (fld r 0 5 % 4 = 0 ∨ 16 ≤ fld r 0 5) ∧ sideTowards s.ownCluster d false = p))
      (BitVec.ofNat 64 (s.detour p)) 16 := by
  simp only [State.setRoutes, decide_eq_true_eq]
  rfl

theorem State.restoreRoutes_eq (s : State) : s.restoreRoutes = s.setRoutes (fun _ r => decide (fld r 4 1 = 1)) 0 16 := by
  simp only [State.setRoutes, decide_eq_true_eq]
  rfl

theorem fld_mod_four (r : Dword) : fld r 0 5 % 4 = fld r 0 2 := by
  simp only [fld, BitVec.extractLsb'_toNat]
  omega

/-- The detour looks at the links alone. -/
theorem State.detour_updPort {s : State} {p : PortId} {g : Port → Port} (hg : ∀ q, (g q).link = q.link) (q : PortId) :
    (s.updPort p g).detour q = s.detour q := by
  have hup : ∀ o, (s.updPort p g).portUp o = s.portUp o := by
    intro o
    unfold State.portUp
    by_cases ho : o = p
    · rw [ho, State.port_updPort_same, hg]
    · rw [State.port_updPort_other _ _ ho]
  unfold State.detour
  simp only [hup]
  rfl

/-! #### LINK_CTL and COORD -/

/-- An ERR bit without a notification writes ERR of its page alone. -/
theorem State.reg_errBit_other (s : State) {page b page' off : Nat} (h : regKey page' off ≠ regKey page 0x20) :
    (s.errBit page b).reg page' off = s.reg page' off := by
  unfold State.errBit
  split
  · rfl
  · exact s.reg_setReg_other _ h

/-- A write of LINK_CTL is applied at once. -/
theorem State.hostWrite_linkCtl {s : State} {p : PortId} (v : Dword) (hready : s.regReady (pgMp p) = true) : ∃ pend,
    s.hostWrite (pgMp p) 0x100 v = ((s.handing pend).linkCtlWrite p v).wrote (pgMp p) 0x100 0 := by
  obtain ⟨pend, hwrite⟩ := State.hostWrite_block v (blockOf_pgMp p) hready (le_refl 0x100) (by decide) (by decide)
  refine ⟨pend, hwrite _ ?_⟩
  rw [State.blockWrite, portOf_pgMp]
  rfl

/-- A write of LINK_CTL does not touch COORD. -/
theorem State.coordValid_setLinkCtl (s : State) (p : PortId) (v : Dword) :
    (s.setReg (pgMp p) 0x100 v).coordValid = s.coordValid :=
  State.coordValid_of_reg (s.reg_setReg_other v (by simp only [regKey, pgMp]; omega))

theorem State.linkCtlWrite_disable (s : State) (p : PortId) {v : Dword} (h : bitAt v 0 = true) :
    (s.linkCtlWrite p v).ports[p].link = .disabled := by
  unfold State.linkCtlWrite
  simp only [h, if_true]
  split
  · assumption
  · rw [State.link_endStep5, State.port_updPort_same]

/-- Clearing DISABLE, and RETRAIN, enter the HELLO exchange. -/
theorem State.linkCtlWrite_hello {s : State} {p : PortId} {v : Dword} (hdisable : bitAt v 0 = false)
    (hcoord : s.coordValid = true) (h : s.ports[p].link = .disabled ∨ bitAt v 1 = true) :
    (s.linkCtlWrite p v).ports[p].link = .hello := by
  have hstart : s.linkCtlWrite p v = (s.setReg (pgMp p) 0x100 ((v.extractLsb' 0 13).setWidth 64 &&& 0x1FFD)).startHello p := by
    unfold State.linkCtlWrite
    dsimp only
    rw [if_neg (by simp [hdisable])]
    by_cases hlink : s.ports[p].link = .disabled
    · rw [if_pos hlink]
    · rw [if_neg hlink, if_pos (h.resolve_left hlink)]
  rw [hstart]
  exact State.link_startHello p ((s.coordValid_setLinkCtl p _).trans hcoord)

/-- A write of COORD by page 8 whose value is husked. -/
theorem State.hostWrite_coord {s : State} {v : Dword} {w : Word32} (hw : huskValue v = some w) (hready : s.regReady 8 = true) :
    ∃ pend, ∀ o t, (s.handing pend).coordWrite 8 w = (o, t) → o ≠ 4 → s.hostWrite 8 0x150 v = t.wrote 8 0x150 o := by
  obtain ⟨pend, hwrite⟩ := State.hostWrite_of_ready v (b := .mp) rfl hready (by decide : 0x150 < 4096)
  refine ⟨pend, fun o t h ho => hwrite o t ?_ ho⟩
  have hpage : (s.handing pend).pageWrite 8 0x150 v = (s.handing pend).husk 8 v fun w => (s.handing pend).coordWrite 8 w := rfl
  rw [hpage, State.husk, hw]
  exact h

theorem State.coordWrite_of_refused {s : State} {p : PortId} (w : Word32) (hready : s.ccu.readyS = true)
    (hlink : s.ports[p].link ≠ .disabled) : s.coordWrite 8 w = (1, s.errBit 8 2) := by
  have hall : (s.ports.toList.all fun q => q.link == .disabled) = false := by
    refine List.all_eq_false.2 ⟨s.ports[p], ?_, by simpa using hlink⟩
    exact Vector.mem_toList_iff.2 (Vector.getElem_mem p.isLt)
  exact if_pos ⟨hready, hall⟩

/-- A VALID value of COORD. -/
theorem State.coordValid_setCoord (s : State) {w : Word32} (h : bitAt w 25 = true) :
    (s.setReg 8 0x150 ((w.extractLsb' 0 26).setWidth 64)).coordValid = true := by
  have hbit : ((w.extractLsb' 0 26).setWidth 64 : Dword).extractLsb' 25 1 = 1 := by
    refine BitVec.eq_of_getLsbD_eq fun i hi => ?_
    obtain rfl : i = 0 := by omega
    rw [BitVec.getLsbD_extractLsb', BitVec.getLsbD_setWidth, BitVec.getLsbD_extractLsb']
    exact h
  rw [State.coordValid, State.rf, State.reg_setReg_same, fld, hbit]
  rfl

theorem State.coordStep_of_step4 {s : State} (same : Bool) (hstep : s.ccu.step = 4) (hcoord : s.coordValid = true) :
    s.coordStep same = (s.updCcu fun u => { u with step := 5 }).helloAll.endStep5 := by
  unfold State.coordStep
  rw [if_pos hstep, if_pos hcoord]

/-- In step 4 a VALID value starts the exchange. -/
theorem State.coordWrite_of_step4 {s : State} {w : Word32} (hready : s.ccu.readyS = false) (hfault : s.ccu.st ≠ .fault)
    (hstep : s.ccu.step = 4) (hvalid : bitAt w 25 = true) : s.coordWrite 8 w =
      (0, ((s.setReg 8 0x150 ((w.extractLsb' 0 26).setWidth 64)).updCcu fun u => { u with step := 5 }).helloAll.endStep5) := by
  have hcoord := s.coordValid_setCoord hvalid
  unfold State.coordWrite
  dsimp only
  rw [if_neg (by simp [hready]), if_neg (by simp [hready, hfault]), 
    State.coordStep_of_step4 (s := s.setReg 8 0x150 _) _ hstep hcoord]

theorem bitAt_or_two (v : Dword) : bitAt (v ||| 2) 0 = bitAt v 0 ∧ bitAt (v ||| 2) 1 = true := by
  simp [bitAt]

/-- Settles O60: the link's state through what sending leaves alone, the routes entry by entry, COORD by its cases. -/
theorem linksComeUpAndRoutesAreReplaced : Obligations.LinksComeUpAndRoutesAreReplaced := by
  unfold Obligations.LinksComeUpAndRoutesAreReplaced
  intro s p
  refine ⟨fun hlive hcoord => ⟨fun hup hdis => ?send, fun ws w hdis hw hok => ?up, fun ws hdis hbad => ?miswire⟩,
    fun hlive hlink => ?down, fun hstop hnews => ⟨fun hlink => ⟨?failed, ?rewritten⟩, fun hlink => ⟨?again, ?restored⟩⟩,
    fun hready => ⟨?disable, fun hlink hcoord => ?enable, fun hcoord hdis => ?retrain⟩,
    fun hready v w hw => ⟨fun hccu hlink => ?refused, fun hccu hfault hstep hvalid => ?started⟩⟩
  case send =>
    refine ⟨_, execHelloSend_of_waiting hlive hcoord hup hdis, ?_⟩
    rw [State.pm_ports, State.pm_ports, State.port_updPort_same]
    refine ⟨rfl, (s.helloPacket p).seal, ?_, ?_, ?_, ?_⟩
    · rfl
    · rfl
    · exact Packet.crc_seal _
    · rfl
  case up =>
    obtain ⟨hcoords, hvalid⟩ := nbr_fields (w.getD 0 0).toNat (w.getD 1 0).toNat
    refine ⟨_, execHello_of_ok hlive hcoord hdis hw hok, ?_⟩
    rw [State.pumpAll, (sendFrame_link p).pump,
      (SendFrame.of_reg (page := pgMp p) (off := 0x110) (by simp [pgMp]) (by decide) (by decide)).pump, State.link_endStep5,
      State.endStep5_same (f := fun s : State => s.reg (pgMp p) 0x110) fun _ _ => rfl, State.port_updPort_same,
      State.reg_updPort, State.reg_setReg_same]
    exact ⟨rfl, hcoords, hvalid⟩
  case miswire =>
    refine ⟨_, execHello_of_bad hlive hcoord hdis hbad, ?_⟩
    rw [(sendFrame_link p).portErr fun _ _ _ _ => rfl, State.port_updPort_same]
  case down =>
    refine ⟨_, if_pos (by rw [hlive, hlink]; rfl), ?_⟩
    rw [State.link_endStep5, State.port_updPort_same]
  case failed =>
    change execRouteReplace p s = _
    simp only [execRouteReplace, hstop, hnews, hlink, Bool.not_true, Bool.or_self, Bool.false_eq_true, if_false]
  case rewritten =>
    intro d hd hown hmode hside
    rw [State.replaceRoutes_eq]
    refine (State.reg_setRoutes _ _ _ _ _).trans ((if_pos ⟨hd, decide_eq_true ⟨hown, .inl ?_, hside⟩⟩).trans ?_)
    · exact congrArg (BitVec.ofNat 64) (State.detour_updPort (g := fun q => { q with news := false }) (fun _ => rfl) p)
    · exact (fld_mod_four _).trans hmode
  case again =>
    change execRouteReplace p s = _
    simp only [execRouteReplace, hstop, hnews, hlink, Bool.not_true, Bool.or_self, Bool.false_eq_true, if_false]
  case restored =>
    intro d hd hauto
    rw [State.restoreRoutes_eq]
    exact (State.reg_setRoutes _ _ _ _ _).trans (if_pos ⟨hd, decide_eq_true hauto⟩)
  case disable =>
    obtain ⟨pend, hwrite⟩ := State.hostWrite_linkCtl (setBit (s.reg (pgMp p) 0x100) 0 true) hready
    exact ⟨_, congrArg Host.Outcome.next hwrite, State.linkCtlWrite_disable _ p (getLsbD_setBit_same _ _ _ (by decide))⟩
  case enable =>
    obtain ⟨pend, hwrite⟩ := State.hostWrite_linkCtl (setBit (s.reg (pgMp p) 0x100) 0 false) hready
    exact ⟨_, congrArg Host.Outcome.next hwrite,
      State.linkCtlWrite_hello (s := s.handing pend) (getLsbD_setBit_same _ _ _ (by decide)) hcoord (.inl hlink)⟩
  case retrain =>
    obtain ⟨pend, hwrite⟩ := State.hostWrite_linkCtl (s.reg (pgMp p) 0x100 ||| 2) hready
    obtain ⟨hzero, hone⟩ := bitAt_or_two (s.reg (pgMp p) 0x100)
    exact ⟨_, congrArg Host.Outcome.next hwrite,
      State.linkCtlWrite_hello (s := s.handing pend) (hzero.trans hdis) hcoord (.inr hone)⟩
  case refused =>
    obtain ⟨pend, hwrite⟩ := State.hostWrite_coord hw hready
    exact ⟨_, congrArg Host.Outcome.next (hwrite _ _ (State.coordWrite_of_refused w hccu hlink) (by decide)), rfl,
      State.reg_errBit_other (s.handing pend) (by decide)⟩
  case started =>
    obtain ⟨pend, hwrite⟩ := State.hostWrite_coord hw hready
    refine ⟨_, congrArg Host.Outcome.next (hwrite _ _ (State.coordWrite_of_step4 hccu hfault hstep hvalid) (by decide)), rfl,
      ?_, ?_⟩
    · rw [State.coordValid_wrote, State.endStep5_same (f := State.coordValid) fun _ _ => rfl,
        State.helloAll_same (f := State.coordValid) fun _ _ _ => rfl]
      exact State.coordValid_setCoord _ hvalid
    · rw [State.step_wrote]
      refine le_trans ?_ (State.step_endStep5 _)
      rw [State.helloAll_same (f := (·.ccu.step)) fun _ _ _ => rfl]
      exact le_rfl

end Sys2Proof.Machine

namespace Sys2Proof.Machine

/-! ### STEP, SNAP, PMFREEZE and the clearing of a counter (R487, R512, R513) -/

/-- What STEP makes of a core it names (R512). -/
def Core.stepped (k : Core) : Core :=
  if k.seq.st = .paused ∧ k.seq.task.isSome = true then
    { k with seq := { k.seq with st := if k.seq.draining.isSome then .drain else .run, stepping := true } }
  else k

theorem State.core_stepCore_same (s : State) (c : CoreId) : (s.stepCore c).core c = (s.core c).stepped := by
  unfold State.stepCore Core.stepped
  dsimp only
  split
  · rw [State.core_updSeq_same]
  · rfl

theorem State.core_stepCore_other (s : State) {c d : CoreId} (h : d ≠ c) : (s.stepCore c).core d = s.core d := by
  unfold State.stepCore
  dsimp only
  split
  · exact State.core_updSeq_other s h _
  · rfl

theorem State.stopped_stepCore (s : State) (c : CoreId) : (s.stepCore c).stopped = s.stopped := by
  unfold State.stepCore
  dsimp only
  split <;> rfl

/-- One core of a write of STEP. -/
def State.stepNamed (v : Dword) (s : State) (c : CoreId) : State :=
  if bitAt v c.val && !(vget false s.stopped c.val) then s.stepCore c else s

theorem State.stepNamed_fold_other (v : Dword) (s : State) {c : CoreId} {l : List CoreId} (h : c ∉ l) :
    (l.foldl (State.stepNamed v) s).core c = s.core c := by
  induction l generalizing s with
  | nil => rfl
  | cons d l ih =>
    obtain ⟨hd, hl⟩ := List.ne_and_not_mem_of_not_mem_cons h
    rw [List.foldl_cons, ih _ hl, State.stepNamed]
    split
    · exact State.core_stepCore_other s hd
    · rfl

theorem State.stopped_stepNamed (v : Dword) (s : State) (l : List CoreId) :
    (l.foldl (State.stepNamed v) s).stopped = s.stopped := by
  refine foldl_same (·.stopped) _ (fun t c => ?_) l s
  unfold State.stepNamed
  split
  · exact State.stopped_stepCore t c
  · rfl

/-- STEP looks at every core once. -/
theorem State.core_stepCores (s : State) (v : Dword) (c : CoreId) : (s.stepCores v).core c =
    if bitAt v c.val && !(vget false s.stopped c.val) then (s.core c).stepped else s.core c := by
  obtain ⟨l, r, hsplit⟩ := List.append_of_mem (List.mem_finRange c)
  have hnodup : (c :: (l ++ r)).Nodup := List.nodup_middle.1 (hsplit ▸ List.nodup_finRange 8)
  obtain ⟨hl, hr⟩ := not_or.1 (List.mem_append.not.1 (List.nodup_cons.1 hnodup).1)
  have hfold : s.stepCores v = r.foldl (State.stepNamed v) ((l.foldl (State.stepNamed v) s).stepNamed v c) := by
    rw [← List.foldl_cons, ← List.foldl_append, ← hsplit]
    rfl
  rw [hfold, State.stepNamed_fold_other v _ hr, State.stepNamed, State.stopped_stepNamed]
  split
  · rw [State.core_stepCore_same, State.stepNamed_fold_other v s hl]
  · exact State.stepNamed_fold_other v s hl

/-- A write of the DBG page beyond its common registers is applied at once. -/
theorem State.hostWrite_dbg {s : State} {off : Nat} (v : Dword) (hready : s.regReady 15 = true) (hlo : 0x100 ≤ off)
    (hhi : off < 4096) (h8 : off % 8 = 0) : ∃ pend, ∀ t, (s.handing pend).dbgWrite off v = (0, t) →
      s.hostWrite 15 off v = t.wrote 15 off 0 :=
  State.hostWrite_block v (b := .dbg) rfl hready hlo hhi h8

/-! #### SNAP and PMFREEZE -/

/-- A write of SNAP latches what every island answers. -/
theorem State.snap_takeSnap (s : State) (i : Fin 14) : (s.takeSnap).snap[i] = s.snapCyc i.val :=
  Vector.getElem_ofFn ..

theorem State.busy_takeSnap (s : State) : s.takeSnap.rf 15 0x100 3 1 = 1 ↔ ∃ i : Fin 14, s.snapCyc i.val = none := by
  unfold State.takeSnap
  dsimp only
  rw [State.rf_setRf_same _ _ _ _ (by decide)]
  have hany : ((Vector.ofFn fun i : Fin 14 => s.snapCyc i.val).toList.any (·.isNone)) = true ↔
      ∃ i : Fin 14, s.snapCyc i.val = none := by
    simp only [List.any_eq_true, Vector.mem_toList_iff, Vector.mem_ofFn, Option.isNone_iff_eq_none]
    constructor
    · rintro ⟨x, ⟨i, rfl⟩, hnone⟩
      exact ⟨i, hnone⟩
    · rintro ⟨i, hnone⟩
      exact ⟨_, ⟨i, rfl⟩, hnone⟩
  rw [← hany]
  cases ((Vector.ofFn fun i : Fin 14 => s.snapCyc i.val).toList.any (·.isNone)) <;> decide

/-- The two low bits of a register written with the low bits of another value. -/
theorem bitAt_setFld_two (r v : Dword) {i : Nat} (hi : i < 2) : bitAt (setFld r 0 2 (fld v 0 2)) i = bitAt v i := by
  have hfld : (setFld r 0 2 (fld v 0 2)).extractLsb' 0 2 = v.extractLsb' 0 2 :=
    BitVec.eq_of_toNat_eq ((fld_setFld_same r _ (by decide)).trans (Nat.mod_eq_of_lt (BitVec.isLt _)))
  have hbit := congrArg (BitVec.getLsbD · i) hfld
  simpa only [bitAt, BitVec.getLsbD_extractLsb', hi, decide_true, Bool.true_and, Nat.zero_add] using hbit

theorem bitAt_snapWord (r : Dword) : bitAt (r &&& 3 ||| 4) 2 = true := by
  simp [bitAt]

/-- The word that writes PMFREEZE and leaves the other bits that SNAP's register keeps. -/
theorem bitAt_freezeWord (r : Dword) (v : Bool) : bitAt (setBit (r &&& 3) 0 v) 0 = v ∧
    bitAt (setBit (r &&& 3) 0 v) 1 = bitAt r 1 ∧ bitAt (setBit (r &&& 3) 0 v) 2 = false := by
  refine ⟨getLsbD_setBit_same _ _ _ (by decide), ?_, ?_⟩
  · rw [bitAt, getLsbD_setBit_other _ _ (by decide)]
    simp [bitAt]
  · rw [bitAt, getLsbD_setBit_other _ _ (by decide)]
    simp

/-! #### PMSEL -/

/-- The word that keeps a PMSEL's event code and sets CLR. -/
theorem clearWord_bits (r : Dword) : bitAt (r &&& 0xFF ||| 0x100) 8 = true ∧
    fld ((r &&& 0xFF ||| 0x100) &&& 0xFF) 0 8 = fld r 0 8 := by
  refine ⟨by simp [bitAt], congrArg BitVec.toNat (BitVec.eq_of_getLsbD_eq fun i hi => ?_)⟩
  interval_cases i <;> simp

/-- A write of PMSEL[n] with CLR clears PMCNT[n]. -/
theorem State.commonWrite_pmsel {s : State} (page : Nat) {n : Nat} {v : Dword} (hn : n < 8) (hclr : bitAt v 8 = true) :
    s.commonWrite page (0x80 + 8 * n) v =
      (0, (s.setReg page (0x80 + 8 * n) (v &&& 0xFF)).setReg page (0xC0 + 8 * n) 0) := by
  unfold State.commonWrite
  rw [if_neg (by omega), if_neg (by omega), if_neg (by omega), if_neg (by omega), arrayAt_entry hn (by decide)]
  dsimp only
  rw [if_pos hclr]

theorem State.hostWrite_pmsel {s : State} {page n : Nat} {v : Dword} (hready : s.regReady page = true) (hpage : blockOf page ≠ none)
    (hn : n < 8) (hclr : bitAt v 8 = true) : ∃ pend, s.hostWrite page (0x80 + 8 * n) v =
      (((s.handing pend).setReg page (0x80 + 8 * n) (v &&& 0xFF)).setReg page (0xC0 + 8 * n) 0).wrote page (0x80 + 8 * n) 0 := by
  obtain ⟨b, hb⟩ := Option.ne_none_iff_exists'.1 hpage
  obtain ⟨pend, hwrite⟩ := State.hostWrite_of_ready v hb hready (off := 0x80 + 8 * n) (by omega)
  refine ⟨pend, hwrite 0 _ ?_ (by decide)⟩
  rw [State.pageWrite, hb]
  dsimp only
  rw [if_neg (by omega), if_pos (by omega), State.commonWrite_pmsel page hn hclr]

/-- Settles O14: each write as the page applies it, and the timeout by what an error leaves alone. -/
theorem debugStepsSnapsAndFreezes : Obligations.DebugStepsSnapsAndFreezes := by
  unfold Obligations.DebugStepsSnapsAndFreezes
  intro s
  refine ⟨fun hready => ⟨fun c v hv hruns hst htask => ?step, fun c v hv hidle => ?stay, ?snap, fun v => ?freeze⟩,
    fun halive hbusy => ?timeout, fun page n hready hpage => ?clear⟩
  case step =>
    obtain ⟨pend, hwrite⟩ := State.hostWrite_dbg (off := 0x1C0) v hready (by decide) (by decide) (by decide)
    have hcore : ((s.handing pend).stepCores v).core c = (s.core c).stepped := by
      rw [State.core_stepCores, if_pos (by rw [hv, State.stopped_handing, hruns]; rfl), State.core_handing]
    have hstepped : (s.core c).stepped = { s.core c with seq := { (s.core c).seq with
        st := if (s.core c).seq.draining.isSome then .drain else .run, stepping := true } } :=
      if_pos ⟨hst, Option.isSome_iff_ne_none.2 htask⟩
    refine ⟨_, congrArg Host.Outcome.next (hwrite _ rfl), ?_, ?_⟩
    · rw [State.core_wrote, hcore, hstepped]
    · rw [State.core_wrote, hcore, hstepped]
  case stay =>
    obtain ⟨pend, hwrite⟩ := State.hostWrite_dbg (off := 0x1C0) v hready (by decide) (by decide) (by decide)
    have hstepped : (s.core c).stepped = s.core c :=
      if_neg fun h => hidle.elim (fun hst => hst h.1) fun htask => by rw [htask] at h; cases h.2
    refine ⟨_, congrArg Host.Outcome.next (hwrite _ rfl), ?_⟩
    rw [State.core_wrote, State.core_stepCores, State.core_handing, hstepped, ite_self]
  case snap =>
    obtain ⟨pend, hwrite⟩ := State.hostWrite_dbg (off := 0x100) (s.reg 15 0x100 &&& 3 ||| 4) hready (by decide) (by decide) (by decide)
    have hsnap : (s.handing pend).dbgWrite 0x100 (s.reg 15 0x100 &&& 3 ||| 4) =
        (0, ((s.handing pend).setRf 15 0x100 0 2 (fld (s.reg 15 0x100 &&& 3 ||| 4) 0 2)).takeSnap) :=
      congrArg (Prod.mk 0) (if_pos (bitAt_snapWord _))
    exact ⟨_, congrArg Host.Outcome.next (hwrite _ hsnap), State.snap_takeSnap _, fun _ => rfl, State.busy_takeSnap _⟩
  case freeze =>
    obtain ⟨hzero, hone, htwo⟩ := bitAt_freezeWord (s.reg 15 0x100) v
    obtain ⟨pend, hwrite⟩ := State.hostWrite_dbg (off := 0x100) (setBit (s.reg 15 0x100 &&& 3) 0 v) hready (by decide) (by decide)
      (by decide)
    have hfreeze : (s.handing pend).dbgWrite 0x100 (setBit (s.reg 15 0x100 &&& 3) 0 v) =
        (0, (s.handing pend).setRf 15 0x100 0 2 (fld (setBit (s.reg 15 0x100 &&& 3) 0 v) 0 2)) :=
      congrArg (Prod.mk 0) (if_neg (by rw [htwo]; decide))
    have hreg : ∀ i < 2, bitAt (((s.handing pend).setRf 15 0x100 0 2 (fld (setBit (s.reg 15 0x100 &&& 3) 0 v) 0 2)).reg 15 0x100) i =
        bitAt (setBit (s.reg 15 0x100 &&& 3) 0 v) i := by
      intro i hi
      rw [State.setRf, State.modReg, State.reg_setReg_same, bitAt_setFld_two _ _ hi]
    exact ⟨_, congrArg Host.Outcome.next (hwrite _ hfreeze), (hreg 0 (by decide)).trans hzero, (hreg 1 (by decide)).trans hone,
      fun _ => rfl⟩
  case timeout =>
    refine ⟨_, if_pos ⟨hbusy, halive⟩, ?_, ?_, fun hmask => ?_⟩
    · refine (congrArg (fld · 3 1) ((SendFrame.of_reg (page := 15) (off := 0x100) (by decide) (by decide) (by decide)).err
        (page := 15) (fun t off v hoff => ?_) _ _ _ _)).trans ?_
      · refine t.reg_setReg_other v (regKey_ne ?_)
        rintro rfl
        exact absurd hoff (by decide)
      · exact State.rf_setRf_same _ _ _ _ (by decide)
    · exact (SendFrame.of_other (f := (·.snap)) (fun _ _ _ _ => rfl) fun _ _ _ => rfl).err (fun _ _ _ _ => rfl) _ _ _ _
    · refine State.bitAt_err _ _ (by decide) (by decide) ?_
      exact (congrArg (bitAt · 3) (s.reg_setReg_other _ (by decide))).trans hmask
  case clear =>
    obtain ⟨hclr, hcode⟩ := clearWord_bits (s.reg page.toNat (0x80 + 8 * n.val))
    obtain ⟨pend, hwrite⟩ := State.hostWrite_pmsel hready hpage n.isLt hclr
    refine ⟨_, congrArg Host.Outcome.next hwrite, State.reg_setReg_same _ _ _ _, ?_, fun _ => rfl⟩
    refine (congrArg (fld · 0 8) ?_).trans hcode
    exact (State.reg_setReg_other _ _ (regKey_ne (by omega))).trans (State.reg_setReg_same _ _ _ _)

end Sys2Proof.Machine

namespace Sys2Proof.Machine

/-! ### How the router answers an access (R486, R498, R499, R504, R533) -/

/-- The state in which the first access of an idle page is decided. -/
def State.accessing (s : State) (page : Nat) (a : RegAccess) : State := (s.setWaiting page [a]).setWaiting page []

theorem State.waitingAt_setWaiting (s : State) (page : Nat) (l : List RegAccess) : (s.setWaiting page l).waitingAt page = l :=
  tget_tput_same [] s.ccu.pend page l

/-- An access that nothing waits before is decided at once. -/
theorem State.access_of_decided {s t : State} {page : Nat} {a : RegAccess} (halive : s.ccuAlive = true)
    (hwait : s.waitingAt page = []) (htry : (s.accessing page a).tryAccess page a = some t) : s.access page a = t := by
  rw [State.access, if_neg (by simp [halive]), hwait, List.nil_append]
  dsimp only
  rw [State.waitingAt_setWaiting, List.length_singleton, State.serveWaiting, State.waitingAt_setWaiting]
  dsimp only
  rw [show ((s.setWaiting page [a]).setWaiting page []).tryAccess page a = some t from htry]
  rfl

/-- A REGISTER_WRITE that nothing waits before. -/
theorem execRegisterWrite_of_decided {s t : State} {page : Byte} {off : BitVec 12} {v : Dword} (halive : s.ccuAlive = true)
    (hwait : s.waitingAt page.toNat = [])
    (htry : (s.accessing page.toNat ⟨off, true, v, .command⟩).tryAccess page.toNat ⟨off, true, v, .command⟩ = some t) :
    exec (.registerWrite page off v) s = .next t := by
  have hoff : BitVec.ofNat 12 off.toNat = off := BitVec.ofNat_toNat ..
  refine congrArg Host.Outcome.next (Eq.trans ?_ (State.access_of_decided halive hwait htry))
  rw [State.hostWrite, hoff]

/-- A page without a block refuses. -/
theorem State.tryAccess_of_absent (s : State) {page : Nat} (a : RegAccess) (h : blockOf page = none) :
    s.tryAccess page a = some (s.regReply page a (errAnswer 3)) := by
  unfold State.tryAccess
  rw [h]

/-- A write to a page of a core that is fused off is discarded, counted and answered ISOLATED. -/
theorem State.tryAccess_of_fusedOff {s : State} {page : Nat} {a : RegAccess} (h : blockOf page ≠ none) (hcore : 0x40 ≤ page)
    (hoff : s.present (pageCore page) = false) (ha : a.write = true) :
    s.tryAccess page a = some ((s.bumpRf 0 0x170 0 32 1).regReply page a (errAnswer 5)) := by
  obtain ⟨b, hb⟩ := Option.ne_none_iff_exists'.1 h
  unfold State.tryAccess
  rw [hb]
  dsimp only
  rw [if_pos hcore, if_pos (by rw [hoff]; rfl), if_pos ha, State.shellAccess, if_pos ha]

/-- The answer to a command is kept in the CCU. -/
theorem State.regReply_command (s : State) (page : Nat) {a : RegAccess} (r : RegAnswer) (h : a.who = .command) :
    s.regReply page a r = s.updCcu fun u => { u with answer := { r with page := BitVec.ofNat 8 page, off := a.off } } := by
  unfold State.regReply
  rw [h]

/-- The shell answers the first read that waits. -/
theorem execShellReadTmo_of_waiting {s : State} {page : Byte} {a : RegAccess} {rest : List RegAccess}
    (halive : s.ccuAlive = true)
    (h : takeFirst (fun (x : RegAccess) => !x.write) (s.waitingAt page.toNat) = some (a, rest)) :
    exec (.shellReadTmo page) s = .next ((s.setWaiting page.toNat rest).regReply page.toNat a
      (readAnswer ((s.setWaiting page.toNat rest).shellView page.toNat a.off.toNat) true)) := by
  change execShellReadTmo page s = _
  simp only [execShellReadTmo, h, halive, Bool.not_true, Bool.false_eq_true, if_false]

/-- A write that is past its time is answered ISOLATED; it has left the shell, or is marked as one that entered the block. -/
theorem execRegisterWriteTmo_of_waiting {s : State} {page : Byte} {a : RegAccess} {rest : List RegAccess}
    (halive : s.ccuAlive = true)
    (h : takeFirst (fun (x : RegAccess) => x.write && x.who != .entered) (s.waitingAt page.toNat) = some (a, rest)) :
    ∃ l, (l = rest ∨ l = modFirst (fun (x : RegAccess) => x.write && x.who != .entered) (fun x => { x with who := .entered })
        (s.waitingAt page.toNat)) ∧
      exec (.registerWriteTmo page) s = .next ((((s.drawChoice 2).2.setWaiting page.toNat l).ccuErr 3 1 (errIsland page.toNat)
        page.toNat a.off.toNat a.value).regReply page.toNat a (errAnswer 5)) := by
  change ∃ l, _ ∧ execRegisterWriteTmo page s = _
  simp only [execRegisterWriteTmo, h, halive, Bool.not_true, Bool.false_eq_true, if_false]
  by_cases hn : (s.drawChoice 2).1 = 0
  · exact ⟨rest, .inl rfl, by rw [if_pos hn]⟩
  · exact ⟨_, .inr rfl, by rw [if_neg hn]; rfl⟩

/-! #### Sideband frames -/

theorem execSideband_of_badCrc {s : State} {body : List Byte} {c : Byte} (halive : s.ccuAlive = true) (hbody : body ≠ [])
    (hcrc : c ≠ crc8 body) : exec (.sidebandRequest (body ++ [c])) s =
      .next (s.updCcu fun u => { u with sideband := sidebandFrame 0x40 [] }) := by
  change execSidebandRequest (body ++ [c]) s = _
  unfold execSidebandRequest
  rw [if_neg (by simp [halive, hbody])]
  dsimp only
  rw [List.dropLast_concat, List.getLast?_concat, if_pos (by simpa using hcrc)]

theorem execSideband_of_reserved {s : State} {body : List Byte} (halive : s.ccuAlive = true) (hbody : body ≠ [])
    (hread : body.headD 0 ≠ 1) (hwrite : body.headD 0 ≠ 2) : exec (.sidebandRequest (body ++ [crc8 body])) s =
      .next (s.updCcu fun u => { u with sideband := sidebandFrame 0x80 [] }) := by
  have hone : ((body.headD 0).toNat == 1) = false := beq_false_of_ne fun h => hread (BitVec.eq_of_toNat_eq h)
  have htwo : ((body.headD 0).toNat == 2) = false := beq_false_of_ne fun h => hwrite (BitVec.eq_of_toNat_eq h)
  change execSidebandRequest (body ++ [crc8 body]) s = _
  unfold execSidebandRequest
  rw [if_neg (by simp [halive, hbody])]
  dsimp only
  rw [List.dropLast_concat, List.getLast?_concat, if_neg (not_not.2 rfl), hone, htwo]
  rfl

/-- Settles O58: the router's decision page by page, and the two timeouts by their first waiting access. -/
theorem registerAccessesAreAnswered : Obligations.RegisterAccessesAreAnswered := by
  unfold Obligations.RegisterAccessesAreAnswered
  intro s page off v halive
  have hpage : BitVec.ofNat 8 page.toNat = page := BitVec.ofNat_toNat ..
  refine ⟨fun hready hblock => ?ready, fun hwait habsent => ?absent, fun hwait hcore hblock hoff => ?fused,
    fun a rest hwho => ⟨fun hfirst => ?shell, fun hfirst => ?timeout⟩,
    fun body c hbody => ⟨execSideband_of_badCrc halive hbody, fun hcrc hread hwrite => ?reserved⟩⟩
  case ready =>
    intro a s0 o u hwrite ho
    obtain ⟨b, hb⟩ := Option.ne_none_iff_exists'.1 hblock
    obtain ⟨_, hisland, hwait, _⟩ := State.regReady_iff.1 hready
    have htry : s0.tryAccess page.toNat a = some (u.regReply page.toNat a (writeAnswer o false)) :=
      (State.tryAccess_of_ready a hb hready s0.ccu.pend).trans
        (State.blockAccess_of_write (s := s0) hisland rfl hwrite ho)
    rw [execRegisterWrite_of_decided halive hwait htry, State.regReply_command _ _ _ rfl, hpage]
    rfl
  case absent =>
    refine ⟨_, execRegisterWrite_of_decided halive hwait (State.tryAccess_of_absent _ _ habsent), ?_⟩
    rw [State.regReply_command _ _ _ rfl]
    exact ⟨rfl, fun _ => rfl, rfl⟩
  case fused =>
    refine ⟨_, execRegisterWrite_of_decided halive hwait (State.tryAccess_of_fusedOff hblock hcore hoff rfl), ?_⟩
    rw [State.regReply_command _ _ _ rfl]
    exact ⟨rfl, fun _ => rfl, State.rf_bumpRf_same _ _ _ _ (by decide)⟩
  case shell =>
    refine ⟨_, execShellReadTmo_of_waiting halive hfirst, ?_⟩
    rw [State.regReply_command _ _ _ hwho]
    exact ⟨rfl, rfl, rfl, State.waitingAt_setWaiting _ _ _⟩
  case timeout =>
    obtain ⟨l, hl, hexec⟩ := execRegisterWriteTmo_of_waiting halive hfirst
    refine ⟨_, hexec, ?_⟩
    rw [State.regReply_command _ _ _ hwho]
    refine ⟨rfl, fun hmask => ?_, ?_⟩
    · exact State.bitAt_err _ _ (by decide) (by decide) hmask
    · have hpend : ((((s.drawChoice 2).2.setWaiting page.toNat l).ccuErr 3 1 (errIsland page.toNat) page.toNat a.off.toNat
          a.value).waitingAt page.toNat) = l := by
        rw [State.waitingAt, State.ccuErr, State.err_ccu]
        exact State.waitingAt_setWaiting _ _ _
      rcases hl with rfl | rfl
      · exact .inl hpend
      · exact .inr hpend
  case reserved =>
    subst hcrc
    exact execSideband_of_reserved halive hbody hread hwrite

end Sys2Proof.Machine

namespace Sys2Proof.Machine

/-! ### The state right after reset (R510, R514, R526, R527) -/

/-- No register is listed after reset, so that each has its reset value. -/
theorem State.reg_reset (page off : Nat) : State.reset.reg page off = regReset page off := rfl

theorem regReset_tmo {page : Nat} {b : Block} (hb : blockOf page = some b) :
    regReset page 0x40 = BitVec.ofNat 64 (tmoReset b) := by
  rw [regReset, hb]
  rfl

/-- The least value of TMO.EXP does not raise a reset value. -/
theorem tmoReset_fits (b : Block) : 10 ≤ tmoReset b ∧ tmoReset b < 32 := by
  cases b <;> decide

theorem State.view_tmo (s : State) {page : Nat} {b : Block} (hb : blockOf page = some b) :
    s.view page 0x40 = BitVec.ofNat 64 (s.atLeast page 0x40 0 5 10) := by
  rw [State.view, hb]
  rfl

theorem State.view_reset_tmo {page : Nat} {b : Block} (hb : blockOf page = some b) :
    State.reset.view page 0x40 = BitVec.ofNat 64 (tmoReset b) := by
  obtain ⟨hlo, hhi⟩ := tmoReset_fits b
  rw [State.view_tmo _ hb]
  unfold State.atLeast State.rf
  rw [State.reg_reset, regReset_tmo hb, fld_ofNat 64 _ 0 5 (by omega)]
  have hmod : tmoReset b / 2 ^ 0 % 2 ^ 5 = tmoReset b := by omega
  rw [hmod, Nat.max_eq_right hlo]

/-- Settles O19: the lists of the reset state are empty, and a register that no list holds has its reset value. -/
theorem resetIsCanonicalAndAsTheSpecSays : Obligations.ResetIsCanonicalAndAsTheSpecSays := by
  unfold Obligations.ResetIsCanonicalAndAsTheSpecSays
  refine ⟨rfl, fun a => rfl, rfl, rfl, rfl, rfl, fun c => ?cores, fun page b hb => State.view_reset_tmo hb, rfl, rfl, rfl⟩
  case cores =>
    have hcore : State.reset.core c = Core.reset := Vector.getElem_replicate ..
    rw [hcore]
    exact ⟨rfl, rfl, rfl, rfl, rfl, rfl⟩

end Sys2Proof.Machine

namespace Sys2Proof.Machine

/-! ### Power states of a core (R515 to R519) -/

theorem State.mayPowerDown_updCore {s : State} {c : CoreId} {f : Core → Core} (h : (f (s.core c)).seq = (s.core c).seq) :
    (s.updCore c f).mayPowerDown c = s.mayPowerDown c := by
  unfold State.mayPowerDown
  rw [State.core_updCore_same, h]
  rfl

theorem State.core_pwrAnswer (s : State) (c : CoreId) (granted : Bool) :
    (s.pwrAnswer c granted).core c = { s.core c with pwrAck := granted, pwrDeny := !granted } := State.core_updCore_same _ _ _

/-- The state in which a request for RETAIN, OFF or ON is served. -/
def State.pwrAsked (s : State) (c : CoreId) (code : BitVec 2) : State :=
  s.updCore c fun k => { k with pwrReq := code, pwrAck := false, pwrDeny := false }

/-- A request that is answered without any other change of the core. -/
theorem State.core_pwrAsked_answered (s : State) (c : CoreId) (code : BitVec 2) (granted : Bool) :
    ((s.pwrAsked c code).pwrAnswer c granted).core c =
      { s.core c with pwrReq := code, pwrAck := granted, pwrDeny := !granted } := by
  rw [State.core_pwrAnswer, State.pwrAsked, State.core_updCore_same]

theorem State.pwrRequest_of_alive {s : State} (c : CoreId) (code : BitVec 2) (ret : Bool) (halive : s.ccuAlive = true) :
    s.pwrRequest c code ret = if !(s.pwrAsked c code).mayPowerDown c then (s.pwrAsked c code).pwrAnswer c false
      else ((s.pwrAsked c code).powerDown c ret).getD (s.pwrAsked c code) :=
  if_neg (by rw [halive]; decide)

theorem State.pwrRequest_of_denied {s : State} {c : CoreId} (code : BitVec 2) (ret : Bool) (halive : s.ccuAlive = true)
    (h : s.mayPowerDown c = false) : s.pwrRequest c code ret = (s.pwrAsked c code).pwrAnswer c false := by
  have hasked : (s.pwrAsked c code).mayPowerDown c = false := (State.mayPowerDown_updCore rfl).trans h
  rw [State.pwrRequest_of_alive c code ret halive, hasked]
  rfl

/-- The end of the entry into RETAIN or OFF: the island is isolated, the cache empty. -/
def Core.poweredDown (k : Core) (ret : Bool) : Core :=
  { k with iso := true, cch := { Cch.reset with gen := k.cch.gen }, seq := { k.seq with st := .off, ret := ret, dispatch := .none } }

/-- With nothing to write back the core turns OFF at once; RETAIN keeps its registers. -/
theorem State.powerDown_of_clean {s : State} {c : CoreId} (ret : Bool) (h : (s.core c).cch.lines = []) : ∃ t : State,
    s.powerDown c ret = some ((t.updCore c fun k => k.poweredDown ret).pwrAnswer c true) ∧ t.mem = s.mem := by
  have hkept : ∀ l : List Nat, ∀ u : State, (l.foldl (fun (t : State) b => t.resetRegs (corePage c b) (· != 0x10)) u).mem = u.mem :=
    fun l u => foldl_mem _ _ _ fun _ _ => rfl
  have hlines : ((s.updCcu fun u => { u with toCcu := u.toCcu.set c (u.toCcu[c].filter keptMsg) }).core c).cch.lines = [] := h
  unfold State.powerDown
  dsimp only
  rw [hlines, State.sweep_nil]
  refine ⟨_, rfl, ?_⟩
  split
  · rfl
  · exact hkept _ _

theorem State.pwrRequest_of_granted {s : State} {c : CoreId} (code : BitVec 2) (ret : Bool) (halive : s.ccuAlive = true)
    (h : s.mayPowerDown c = true) (hclean : (s.core c).cch.lines = []) : ∃ t : State,
    s.pwrRequest c code ret = (t.updCore c fun k => k.poweredDown ret).pwrAnswer c true ∧ t.mem = s.mem := by
  have hasked : (s.pwrAsked c code).mayPowerDown c = true := (State.mayPowerDown_updCore rfl).trans h
  have hlines : ((s.pwrAsked c code).core c).cch.lines = [] := by
    rw [State.pwrAsked, State.core_updCore_same]
    exact hclean
  obtain ⟨t, hdown, hmem⟩ := State.powerDown_of_clean ret hlines
  refine ⟨t, ?_, hmem⟩
  rw [State.pwrRequest_of_alive c code ret halive, hasked, hdown]
  rfl

theorem State.pwrAsk_of_answered {s : State} {c : CoreId} (code : BitVec 2) (h : (s.core c).pwrPending = false) :
    s.pwrAsk c code = s.pwrServe c code := if_neg (by rw [h]; decide)

theorem State.pwrOn_of_powered {s : State} {c : CoreId} (halive : s.ccuAlive = true) (hpresent : s.present c = true)
    (hon : (s.core c).seq.st ≠ .off) : s.pwrOn c = (s.pwrAsked c 0).pwrAnswer c true := by
  unfold State.pwrOn
  rw [if_neg (by simp [halive])]
  refine (if_neg (by rw [hpresent]; decide)).trans ?_
  exact if_pos hon

theorem State.pwrOn_of_off {s : State} {c : CoreId} (halive : s.ccuAlive = true) (hpresent : s.present c = true)
    (hoff : (s.core c).seq.st = .off) (hpower : s.ccu.power = .on) : s.pwrOn c = (s.pwrAsked c 0).wake c := by
  unfold State.pwrOn
  rw [if_neg (by simp [halive])]
  refine (if_neg (by rw [hpresent]; decide)).trans ?_
  rw [if_neg (not_not.2 hoff)]
  exact if_pos hpower

/-! #### Waking -/

theorem State.iso_becomeIdle (s : State) (c : CoreId) : ((s.becomeIdle c).core c).iso = (s.core c).iso := by
  unfold State.becomeIdle
  split
  · rw [State.core_updSeq_same]
  · dsimp only
    split
    · simp [State.claimNow]
    · rw [State.core_updSeq_same]

/-- Writing PAUSE of other pages of a core leaves the SEQ's. -/
theorem State.rf_pauseOthers (s : State) (c : CoreId) (l : List (Nat × Nat)) (h : ∀ p ∈ l, p.1 ≠ 0) :
    (l.foldl (fun (t : State) p => t.setRf (corePage c p.1) 0x10 1 1 p.2) s).rf (corePage c 0) 0x10 1 1 =
      s.rf (corePage c 0) 0x10 1 1 := by
  induction l generalizing s with
  | nil => rfl
  | cons p l ih =>
    obtain ⟨hp, hl⟩ := List.forall_mem_cons.1 h
    rw [List.foldl_cons, ih _ hl]
    exact congrArg (fld · 1 1) (s.reg_setReg_other _ (by simp only [regKey, corePage]; omega))

/-- PAUSE of the eight pages of a core, as its shells keep it. -/
def State.pauses (s : State) (c : CoreId) : List (Nat × Nat) := (List.range 8).map fun b => (b, s.rf (corePage c b) 0x10 1 1)

theorem State.rf_applyPauses (s u : State) (c : CoreId) :
    ((s.pauses c).foldl (fun (t : State) p => t.setRf (corePage c p.1) 0x10 1 1 p.2) u).rf (corePage c 0) 0x10 1 1 =
      s.rf (corePage c 0) 0x10 1 1 := by
  have hsplit : s.pauses c = (0, s.rf (corePage c 0) 0x10 1 1) ::
      (List.range' 1 7).map fun b => (b, s.rf (corePage c b) 0x10 1 1) := rfl
  have hother : ∀ p ∈ (List.range' 1 7).map fun b => (b, s.rf (corePage c b) 0x10 1 1), p.1 ≠ 0 := by
    intro p hp
    obtain ⟨b, hb, rfl⟩ := List.mem_map.1 hp
    obtain ⟨hpos, _⟩ := List.mem_range'_1.1 hb
    exact Nat.ne_of_gt hpos
  rw [hsplit, List.foldl_cons, State.rf_pauseOthers _ _ _ hother, State.rf_setRf_same _ _ _ _ (by decide)]
  exact Nat.mod_eq_of_lt (BitVec.isLt _)

/-- A core that has been reset, before it becomes IDLE: its shells' PAUSE applied, its crossing with the flags alone. -/
def State.awakening (s : State) (c : CoreId) (u : State) : State :=
  ((((s.pauses c).foldl (fun (t : State) p => t.setRf (corePage c p.1) 0x10 1 1 p.2) u).updCcu fun x => { x with
    toCore := x.toCore.set c [], hbCount := x.hbCount.set (Fin.ofNat 13 c.val) 0 }).updCore c fun k =>
      { k with iso := false }).answer c (.flags s.ccu.cf)

theorem State.wake_of_unfenced {s : State} {c : CoreId} (h : s.fenced c = false) :
    ∃ u, s.wake c = ((s.awakening c u).becomeIdle c).pwrAnswer c true := by
  refine ⟨if (s.core c).seq.ret then s.coreReset c false
    else ((List.range 8).foldl (fun (t : State) b => t.resetRegs (corePage c b) fun _ => true) (s.coreReset c false)).zeroCore c, ?_⟩
  unfold State.wake
  dsimp only
  rw [if_neg (by rw [h]; decide)]
  rfl

theorem State.paused_awakening (s : State) (c : CoreId) (u : State) : (s.awakening c u).paused (pgSeq c) = s.paused (pgSeq c) := by
  unfold State.paused State.awakening
  rw [State.rf_answer, State.rf_updCore, State.rf_updCcu, s.rf_applyPauses u c]

theorem State.iso_awakening (s : State) (c : CoreId) (u : State) : ((s.awakening c u).core c).iso = false := by
  rw [State.awakening, State.core_answer, State.core_updCore_same]

/-- A core that no fence holds and nothing pauses is IDLE once it is awake. -/
theorem State.wake_idle {s : State} {c : CoreId} (hfenced : s.fenced c = false) (hpaused : s.paused (pgSeq c) = false) :
    ((s.wake c).core c).pwrAck = true ∧ ((s.wake c).core c).iso = false ∧ ((s.wake c).core c).seq.st = .idle := by
  obtain ⟨u, hwake⟩ := State.wake_of_unfenced hfenced
  obtain ⟨d, hidle⟩ := (s.awakening c u).becomeIdle_seq c
  rw [hwake, State.core_pwrAnswer, hidle, State.iso_becomeIdle, State.iso_awakening, State.paused_awakening, hpaused]
  exact ⟨rfl, rfl, rfl⟩

/-! ### Power states of the cluster (R521 to R523) -/

/-- The conditions of R522 do not look at the CCU. -/
theorem State.maySleep_updCcu (s : State) (f : Ccu → Ccu) : (s.updCcu f).maySleep = s.maySleep := by
  have hpage (t : State) : t.view 3 0x100 = t.txuView 0x100 := rfl
  have htxu : (s.updCcu f).txuView 0x100 = s.txuView 0x100 := by
    unfold State.txuView
    rfl
  unfold State.maySleep
  rw [hpage, hpage, htxu]
  rfl

theorem State.fuses_wreck (s : State) : s.wreck.fuses = s.fuses := by
  unfold State.wreck
  dsimp only
  exact foldl_same State.fuses (fun (t : State) (e : Nat × Dword) => t.setReg (e.1 / 4096) (e.1 % 4096) e.2) (fun _ _ => rfl) _ _

/-- The state in which a cluster request is served. -/
def State.clAsked (s : State) (code : BitVec 2) : State := s.updCcu fun u => { u with clReq := code, clAck := false, clDeny := false }

theorem execClReqSleep_of_alive {s : State} (halive : s.ccuAlive = true) : exec .clReqSleep s =
    if s.maySleep then
      .next (({ s.clAsked 1 with csc := [], cscOp := none }.updCcu fun u => { u with power := .sleep }).clAnswer true)
    else .next ((s.clAsked 1).clAnswer false) := by
  rw [← s.maySleep_updCcu fun u => { u with clReq := 1, clAck := false, clDeny := false }]
  exact if_neg (by rw [halive]; decide)

theorem execClReqOff_of_alive {s : State} (halive : s.ccuAlive = true) : exec .clReqOff s =
    if s.maySleep then
      .next ((s.clAsked 2).wreck.updCcu fun u => { u with power := .off, clReq := 2, clAck := true, clDeny := false })
    else .next ((s.clAsked 2).clAnswer false) := by
  rw [← s.maySleep_updCcu fun u => { u with clReq := 2, clAck := false, clDeny := false }]
  exact if_neg (by rw [halive]; decide)

theorem execClReqOn_of_sleep {s : State} (halive : s.ccuAlive = true) (h : s.ccu.power = .sleep) : exec .clReqOn s =
    .next (({ s.clAsked 0 with csc := [] }.updCcu fun u => { u with power := .on }).clAnswer true) :=
  (if_neg (by rw [halive]; decide)).trans (if_pos h)

/-- Settles O16: a core's request by its answer, the cluster's by the conditions of R522. -/
theorem powerStatesFollowTheRequests : Obligations.PowerStatesFollowTheRequests := by
  unfold Obligations.PowerStatesFollowTheRequests
  intro s
  refine ⟨fun c code => ?freq, fun c halive hpending => ⟨fun hdeny => ⟨?retainDenied, ?offDenied⟩, fun hgrant hclean => ⟨?retain, ?off⟩,
    fun hpresent hon => ?on, fun hpresent hoff hpower hfenced hpaused => ?wake⟩, fun c hpending x hx => ?later,
    fun halive => ⟨fun hsleep => ?sleep, fun hawake => ⟨?sleepDenied, ?clusterOffDenied⟩, fun hsleep => ?clusterOff, fun hpower => ?clusterOn⟩⟩
  case freq =>
    refine ⟨_, rfl, ?_, fun d hd => State.core_updCore_other _ hd _, fun _ => rfl⟩
    rw [State.core_updCore_same]
    show (if 12 < code.toNat then (12 : BitVec 4) else code).toNat = min 12 code.toNat
    split
    · next h => exact (Nat.min_eq_left (Nat.le_of_lt h)).symm
    · next h => exact (Nat.min_eq_right (not_lt.1 h)).symm
  case retainDenied =>
    refine ⟨_, congrArg Host.Outcome.next ((State.pwrAsk_of_answered 1 hpending).trans (State.pwrRequest_of_denied 1 true halive hdeny)),
      ?_⟩
    rw [State.core_pwrAsked_answered]
    exact ⟨rfl, rfl, rfl⟩
  case offDenied =>
    refine ⟨_, congrArg Host.Outcome.next ((State.pwrAsk_of_answered 2 hpending).trans (State.pwrRequest_of_denied 2 false halive hdeny)),
      ?_⟩
    rw [State.core_pwrAsked_answered]
    exact ⟨rfl, rfl, rfl⟩
  case retain =>
    obtain ⟨t, hdown, hmem⟩ := State.pwrRequest_of_granted 1 true halive hgrant hclean
    refine ⟨_, congrArg Host.Outcome.next ((State.pwrAsk_of_answered 1 hpending).trans hdown), ?_⟩
    rw [State.core_pwrAnswer, State.core_updCore_same]
    exact ⟨rfl, rfl, rfl, rfl, byteAt_of_mem hmem⟩
  case off =>
    obtain ⟨t, hdown, _⟩ := State.pwrRequest_of_granted 2 false halive hgrant hclean
    refine ⟨_, congrArg Host.Outcome.next ((State.pwrAsk_of_answered 2 hpending).trans hdown), ?_⟩
    rw [State.core_pwrAnswer, State.core_updCore_same]
    exact ⟨rfl, rfl, rfl, rfl⟩
  case on =>
    refine ⟨_, congrArg Host.Outcome.next ((State.pwrAsk_of_answered 0 hpending).trans (State.pwrOn_of_powered halive hpresent hon)), ?_⟩
    rw [State.core_pwrAsked_answered]
    exact ⟨rfl, rfl⟩
  case wake =>
    exact ⟨_, congrArg Host.Outcome.next ((State.pwrAsk_of_answered 0 hpending).trans
      (State.pwrOn_of_off halive hpresent hoff hpower)), State.wake_idle (s := s.pwrAsked c 0) hfenced hpaused⟩
  case later =>
    simp only [List.mem_cons, List.not_mem_nil, or_false] at hx
    rcases hx with rfl | rfl | rfl
    · exact congrArg Host.Outcome.next (if_pos hpending)
    · exact congrArg Host.Outcome.next (if_pos hpending)
    · exact congrArg Host.Outcome.next (if_pos hpending)
  case sleep => exact ⟨_, (execClReqSleep_of_alive halive).trans (if_pos hsleep), rfl, rfl, rfl, fun _ => rfl⟩
  case sleepDenied =>
    exact ⟨_, (execClReqSleep_of_alive halive).trans (if_neg (by rw [hawake]; decide)), rfl, rfl, rfl⟩
  case clusterOffDenied =>
    exact ⟨_, (execClReqOff_of_alive halive).trans (if_neg (by rw [hawake]; decide)), rfl, rfl, fun _ => rfl⟩
  case clusterOff =>
    exact ⟨_, (execClReqOff_of_alive halive).trans (if_pos hsleep), rfl, rfl, State.fuses_wreck (s.clAsked 2)⟩
  case clusterOn => exact ⟨_, execClReqOn_of_sleep halive hpower, rfl, rfl, rfl⟩

end Sys2Proof.Machine

namespace Sys2Proof.Machine

/-! ### One CCU-island cycle of an idle cluster (R514, R515)

What the counters of a cycle rest on is kept by the cores' and the ports' part of it as long as no stream unit holds a descriptor
and no port a packet, which is so after reset. -/

/-- The part of a state that the CCU's and the memory island's cycle look at. -/
structure CycleView where
  ccu     : Ccu
  stopped : Vector Bool 14
  memCyc  : Dword
  evx     : Evx
  cscOp   : Option Nat
  ports   : Vector Port 4
  core    : CoreId → Str × Bool × Option (BitVec 2)

/-- What the view shows of a core. -/
def Core.cycleView (k : Core) : Str × Bool × Option (BitVec 2) := (k.str, k.pwrPending, k.pwrNext)

/-- The view of a state. -/
def State.cycleView (s : State) : CycleView :=
  ⟨s.ccu, s.stopped, s.memCyc, s.evx, s.cscOp, s.ports, fun c => (s.core c).cycleView⟩

@[simp] theorem State.cycleView_pm (s : State) (page code n : Nat) : (s.pm page code n).cycleView = s.cycleView :=
  s.pm_same State.cycleView (fun _ _ _ _ => rfl) page code n

@[simp] theorem State.cycleView_pmIf (s : State) (b : Bool) (page code n : Nat) :
    (s.pmIf b page code n).cycleView = s.cycleView := by
  unfold State.pmIf
  split
  · exact State.cycleView_pm _ _ _ _
  · rfl

theorem State.cycleView_countStall (s : State) (c : CoreId) (n : Nat) : (s.countStall c n).cycleView = s.cycleView := by
  have hbump : ∀ chs : List Nat, (chs.foldl (fun (t : State) ch => t.bumpRf (pgChn c) (0x808 + 0x18 * ch) 0 64 n) s).cycleView =
      s.cycleView := fun chs => foldl_same State.cycleView
    (fun (t : State) ch => t.bumpRf (pgChn c) (0x808 + 0x18 * ch) 0 64 n) (fun _ _ => rfl) chs s
  unfold State.countStall
  dsimp only
  split <;> split <;> simp only [State.cycleView_pm, hbump]

theorem State.cycleView_countHolds (s : State) (c : CoreId) (n : Nat) : (s.countHolds c n).cycleView = s.cycleView := by
  have hheld : ∀ (t : State) (page : Nat) (x : Option Nat),
      (match x with | some code => t.pm page code n | none => t).cycleView = t.cycleView := by
    intro t page x
    cases x with
    | none => rfl
    | some code => exact t.cycleView_pm page code n
  unfold State.countHolds
  simp only [State.cycleView_pmIf]
  exact (hheld _ _ _).trans ((hheld _ _ _).trans (hheld _ _ _))

theorem State.cycleView_updCore (s : State) (c : CoreId) {f : Core → Core} (h : ∀ k, (f k).cycleView = k.cycleView) :
    (s.updCore c f).cycleView = s.cycleView := by
  have hcore : (fun d => ((s.updCore c f).core d).cycleView) = fun d => (s.core d).cycleView := by
    funext d
    by_cases hd : d = c
    · rw [hd, State.core_updCore_same, h]
    · rw [State.core_updCore_other s hd]
  exact congrArg (CycleView.mk s.ccu s.stopped s.memCyc s.evx s.cscOp s.ports) hcore

/-- A unit without an active descriptor has nothing to do. -/
theorem State.strRun_of_idle {s : State} {c : CoreId} {u : UnitId} (h : (s.unit c u).acts = []) (n : Nat) :
    s.strRun c u n = s := by
  have hstep : s.strStep c u = none := by
    unfold State.strStep StrUnit.last
    rw [h]
    rfl
  cases n with
  | zero => rfl
  | succ n => rw [State.strRun, hstep]

theorem State.strPump_of_idle {s : State} {c : CoreId} (h : ∀ u, (s.unit c u).acts = []) : s.strPump c = s := by
  have hrun : ∀ nl : Bool, (List.finRange 4).foldl
      (fun (t : State) (u : UnitId) => if (t.unit c u).nl = nl then t.strRun c u strFuel else t) s = s := by
    refine fun nl => List.foldl_fixed' (fun u => ?_) _
    rw [State.strRun_of_idle (h u), ite_self]
  unfold State.strPump
  dsimp only
  rw [hrun, hrun]

/-- No unit holds a descriptor and no port a packet. -/
def CycleView.idle (v : CycleView) : Prop :=
  (∀ c (u : UnitId), ((v.core c).1.units[u]).acts = []) ∧ ∀ p : PortId, (v.ports[p]).waiting = 0

/-- A core's counters after `n` of its cycles. -/
def Core.counted (k : Core) (n phase : Nat) (waits : Bool) : Core :=
  let running := k.seq.st == .run || k.seq.st == .drain
  { k with
    cyc := k.cyc + BitVec.ofNat 64 n
    phase := phase
    seq := { k.seq with
      wdogCnt := if running then k.seq.wdogCnt + BitVec.ofNat 64 n else k.seq.wdogCnt
      waitCnt := if waits then k.seq.waitCnt + n else k.seq.waitCnt } }

/-- A core's part of a cycle before its stream units go on. -/
def State.coreCounted (s : State) (c : CoreId) : State :=
  ((s.countStall c (s.core c).cycles.1).countHolds c (s.core c).cycles.1).updCore c fun k =>
    k.counted (s.core c).cycles.1 (s.core c).cycles.2 (s.waitsOn c).isSome

theorem State.coreTick_of_clock {s : State} {c : CoreId} (h : s.coreClock c = true) : s.coreTick c =
    if (s.coreCounted c).strLive c then (s.coreCounted c).strPump c else s.coreCounted c :=
  if_neg (by rw [h]; decide)

theorem State.cycleView_coreCounted (s : State) (c : CoreId) : (s.coreCounted c).cycleView = s.cycleView := by
  rw [State.coreCounted, State.cycleView_updCore _ _ fun k => ?_, State.cycleView_countHolds, State.cycleView_countStall]
  rfl

theorem State.cycleView_coreTick {s : State} (h : s.cycleView.idle) (c : CoreId) : (s.coreTick c).cycleView = s.cycleView := by
  cases hclock : s.coreClock c with
  | false => exact congrArg State.cycleView (if_pos (by rw [hclock]; rfl))
  | true =>
    have hview := s.cycleView_coreCounted c
    have hunits : ∀ u, ((s.coreCounted c).unit c u).acts = [] := by
      obtain ⟨hacts, _⟩ := h
      rw [← hview] at hacts
      exact hacts c
    rw [State.coreTick_of_clock hclock, State.strPump_of_idle hunits, ite_self, hview]

theorem State.cycleView_portTick {s : State} (h : s.cycleView.idle) (p : PortId) : (s.portTick p).cycleView = s.cycleView := by
  obtain ⟨_, hwaiting⟩ := h
  have hpump : ({ s with portCyc := s.portCyc.set p (s.portCyc[p] + 2) } : State).pumpAll p =
      { s with portCyc := s.portCyc.set p (s.portCyc[p] + 2) } := by
    have hnone : ({ s with portCyc := s.portCyc.set p (s.portCyc[p] + 2) } : State).ports[p].waiting = 0 := hwaiting p
    rw [State.pumpAll, hnone]
    rfl
  unfold State.portTick
  split
  · rfl
  · dsimp only
    rw [hpump, State.cycleView_pmIf, State.cycleView_pmIf]
    rfl

/-- A part of the cycle that keeps the view of an idle cluster keeps it over all its units. -/
theorem cycleView_foldl {α : Type} {g : State → α → State} (h : ∀ s x, s.cycleView.idle → (g s x).cycleView = s.cycleView)
    {s : State} (hs : s.cycleView.idle) (l : List α) : (l.foldl g s).cycleView = s.cycleView := by
  induction l generalizing s with
  | nil => rfl
  | cons x l ih =>
    have hx := h s x hs
    exact (ih (by rw [hx]; exact hs)).trans hx

/-! #### The memory island and the CCU -/

/-- The memory island's cycle changes its CYC alone of the view. -/
theorem State.cycleView_memTick {s : State} (hlive : s.memHalted = false) (hsweep : s.cscOp = none) :
    s.memTick.cycleView = { s.cycleView with memCyc := s.memCyc + 2 } := by
  have hcsc : s.cscTick = s := by
    unfold State.cscTick
    rw [hsweep]
  unfold State.memTick
  rw [if_neg (by rw [hlive]; decide), hcsc]
  dsimp only
  have hview : ((s.pmIf (decide (2048 ≤ s.rqt.tags.length)) 5 0x02 2).pmIf s.txbWaits 3 0x06 2).cycleView = s.cycleView := by
    rw [State.cycleView_pmIf, State.cycleView_pmIf]
  exact congrArg (fun v : CycleView => { v with memCyc := s.memCyc + 2 }) hview

theorem State.cycleView_snapPoll (s : State) : s.snapPoll.cycleView = s.cycleView := by
  unfold State.snapPoll
  split <;> rfl

theorem State.evFlush_of_idle {s : State} (h : s.evx.phase ≠ .flushing) : s.evFlush = s := by
  unfold State.evFlush
  exact if_pos (.inl h)

/-- Without a request there is nothing to serve. -/
theorem State.pwrPoll_of_none {s : State} {c : CoreId} (hpending : (s.core c).pwrPending = false)
    (hnext : (s.core c).pwrNext = none) : s.pwrPoll c = s := by
  unfold State.pwrPoll
  simp only [hpending, hnext, Bool.false_eq_true, if_false]

/-- The CCU's counters after one of its cycles. -/
def State.ccuCounted (s : State) : State :=
  (s.updCcu fun u => { u with
    cyc := u.cyc + 1
    hbCount := vmap (fun i n => if s.hbExpected (Fin.ofNat 13 i) then n + 1 else n) u.hbCount }).snapPoll

theorem State.cycleView_ccuCounted (s : State) : s.ccuCounted.cycleView = { s.cycleView with ccu := { s.ccu with
    cyc := s.ccu.cyc + 1
    hbCount := vmap (fun i n => if s.hbExpected (Fin.ofNat 13 i) then n + 1 else n) s.ccu.hbCount } } :=
  State.cycleView_snapPoll _

/-- The waiting accesses of every page, served as far as their blocks decide them. -/
def State.pagesServed (s : State) : State :=
  s.ccu.pend.foldl (fun (t : State) e => t.serveWaiting e.1 (t.waitingAt e.1).length) s

/-- A cycle of an eviction's writes or reads, counted. -/
def State.evxCounted (s : State) : State := s.pmIf (s.evx.phase == .writing || s.evx.phase == .restoring) 4 0x06 1

theorem State.ccuTick_of_alive {s : State} (halive : s.ccuAlive = true) :
    s.ccuTick = (List.finRange 8).foldl State.pwrPoll s.ccuCounted.pagesServed.evxCounted.evFlush :=
  if_neg (by rw [halive]; decide)

theorem State.pagesServed_of_none {s : State} (h : s.ccu.pend = []) : s.pagesServed = s := by
  rw [State.pagesServed, h]
  rfl

/-- A cycle of the CCU's island while no access, no flush and no power request waits. -/
theorem State.ccuTick_of_idle {s : State} (halive : s.ccuAlive = true) (hpend : s.ccu.pend = []) (hphase : s.evx.phase = .idle)
    (hpower : ∀ c, (s.core c).pwrPending = false ∧ (s.core c).pwrNext = none) : s.ccuTick = s.ccuCounted.evxCounted := by
  have hview := s.cycleView_ccuCounted
  have hcounted : s.ccuCounted.evxCounted.cycleView = s.ccuCounted.cycleView := State.cycleView_pmIf _ _ _ _ _
  have hnone : s.ccuCounted.ccu.pend = [] := (congrArg (·.ccu.pend) hview).trans hpend
  have hevx : s.ccuCounted.evxCounted.evx = s.evx := congrArg (·.evx) (hcounted.trans hview)
  have hflush : s.ccuCounted.evxCounted.evx.phase ≠ .flushing := by
    rw [hevx, hphase]
    decide
  rw [State.ccuTick_of_alive halive, State.pagesServed_of_none hnone, State.evFlush_of_idle hflush]
  refine List.foldl_fixed' (fun c => ?_) _
  have hcore : (s.ccuCounted.evxCounted.core c).cycleView = (s.core c).cycleView :=
    congrArg (fun v : CycleView => v.core c) (hcounted.trans hview)
  obtain ⟨hpending, hnext⟩ := hpower c
  exact State.pwrPoll_of_none ((congrArg (·.2.1) hcore).trans hpending) ((congrArg (·.2.2) hcore).trans hnext)

/-! #### The cycle after reset -/

theorem idle_reset : State.reset.cycleView.idle := by
  have hcore : ∀ c, State.reset.core c = Core.reset := fun c => Vector.getElem_replicate ..
  have hport : ∀ p : PortId, State.reset.ports[p] = Port.reset := fun p => Vector.getElem_replicate ..
  refine ⟨fun c u => ?_, fun p => ?_⟩
  · show (((State.reset.core c).str.units[u]).acts) = []
    rw [hcore]
    exact congrArg StrUnit.acts (Vector.getElem_replicate (n := 4) (a := StrUnit.reset) u.isLt)
  · show (State.reset.ports[p]).waiting = 0
    rw [hport]
    rfl

theorem power_reset (c : CoreId) : (State.reset.core c).cycleView = (Str.reset, false, none) := by
  have hcore : State.reset.core c = Core.reset := Vector.getElem_replicate ..
  rw [hcore]
  rfl

/-- One cycle from a state that looks as reset does. -/
theorem State.tick_of_reset {s : State} (h : s.cycleView = State.reset.cycleView) : s.tick.ccu.cyc = 1 ∧ s.tick.memCyc = 2 := by
  have hidle : s.cycleView.idle := by
    rw [h]
    exact idle_reset
  have hcores := cycleView_foldl (g := State.coreTick) (fun s c hs => State.cycleView_coreTick hs c) hidle (List.finRange 8)
  have hports := cycleView_foldl (g := State.portTick) (fun s p hs => State.cycleView_portTick hs p)
    (s := (List.finRange 8).foldl State.coreTick s) (by rw [hcores]; exact hidle) (List.finRange 4)
  have hbefore := hports.trans (hcores.trans h)
  unfold State.tick
  generalize (List.finRange 4).foldl State.portTick ((List.finRange 8).foldl State.coreTick s) = t at hbefore ⊢
  have hmem : t.memTick.cycleView = { State.reset.cycleView with memCyc := 2 } := by
    have hstopped : t.memHalted = false := congrArg (fun v : CycleView => vget false v.stopped 8) hbefore
    have hsweep : t.cscOp = none := congrArg (·.cscOp) hbefore
    have hcyc : t.memCyc = 0 := congrArg (·.memCyc) hbefore
    rw [State.cycleView_memTick hstopped hsweep, hbefore, hcyc]
    rfl
  generalize t.memTick = m at hmem ⊢
  have halive : m.ccuAlive = true := congrArg (fun v : CycleView => !(vget false v.stopped 9)) hmem
  have hpend : m.ccu.pend = [] := congrArg (·.ccu.pend) hmem
  have hphase : m.evx.phase = .idle := congrArg (·.evx.phase) hmem
  have hpower : ∀ c, (m.core c).pwrPending = false ∧ (m.core c).pwrNext = none := by
    intro c
    have hcore : (m.core c).cycleView = (Str.reset, false, none) :=
      (congrArg (fun v : CycleView => v.core c) hmem).trans (power_reset c)
    exact ⟨congrArg (·.2.1) hcore, congrArg (·.2.2) hcore⟩
  have hafter : m.ccuCounted.evxCounted.cycleView = m.ccuCounted.cycleView := State.cycleView_pmIf _ _ _ _ _
  have hcount := hafter.trans m.cycleView_ccuCounted
  have hcyc : m.ccu.cyc = 0 := congrArg (·.ccu.cyc) hmem
  have hmemCyc : m.memCyc = 2 := congrArg (·.memCyc) hmem
  rw [State.ccuTick_of_idle halive hpend hphase hpower]
  constructor
  · refine (congrArg (·.ccu.cyc) hcount).trans ?_
    show m.ccu.cyc + 1 = 1
    rw [hcyc]
    rfl
  · exact (congrArg (·.memCyc) hcount).trans hmemCyc

/-- Settles O2: `step` is the tick on an empty queue; after reset no unit and no port has anything to do. -/
theorem emptyQueueLetsACyclePass : Obligations.EmptyQueueLetsACyclePass := by
  unfold Obligations.EmptyQueueLetsACyclePass
  refine ⟨fun s hpending => ?_, fun f => State.tick_of_reset rfl⟩
  unfold step
  rw [hpending]

end Sys2Proof.Machine
